-- ==== Sys2Proof/Word.lean ====
section
/-! DEFINITION. The words of the module and the one sparse table type every indexed piece of state uses. -/
namespace Sys2Proof

/-- A byte of any memory (01_organisation R37). -/
abbrev Byte := BitVec 8
/-- A 16-bit field. -/
abbrev W16 := BitVec 16
/-- A 32-bit register, plate element or scalar (R15, R120). -/
abbrev W32 := BitVec 32
/-- A 64-bit register (R15). -/
abbrev W64 := BitVec 64

/-- A sparse table: the entries that differ from the table's default, keys strictly rising.
Every bank of like things (tiles, queues, pages, bytes) is held in one. -/
abbrev Table (α : Type) := List (Nat × α)

end Sys2Proof
end

