-- ==== Sys2Proof/Config.lean ====
section
/-! DEFINITION. What one implementation fixes, and the free values the manual leaves open.
Every opaque constant here has no body: no proof can see its value. -/
namespace Sys2Proof

/-- The four ordering codes Brynzamor supplies (00_scope R3). -/
inductive Code where
  | c4C12H2X   -- BZS9-4C12H-2X-L, flagship
  | c4C8H2X    -- BZS9-4C8H-2X-L, reduced memory
  | c4C12H1X   -- BZS9-4C12H-1X-L, memory-heavy, network-light
  | c2C6H1X    -- BZS9-2C6H-1X-A, air-cooled
  deriving DecidableEq, Repr, Inhabited

/-- Compute dies fitted (R2 field a). -/
def Code.dies : Code → Nat
  | .c2C6H1X => 2
  | _ => 4

/-- HBM4 stacks fitted (R2 field b). -/
def Code.hbmStacks : Code → Nat
  | .c4C12H2X => 12
  | .c4C8H2X => 8
  | .c4C12H1X => 12
  | .c2C6H1X => 6

/-- Hub dies fitted (R2 field c). -/
def Code.hubs : Code → Nat
  | .c4C12H2X => 2
  | .c4C8H2X => 2
  | .c4C12H1X => 1
  | .c2C6H1X => 1

/-- HUB_MODULE_CODE.COOLING: 1 = air (R6). -/
def Code.air : Code → Bool
  | .c2C6H1X => true
  | _ => false

/-- Tiles fitted (R4). -/
def Code.tiles (c : Code) : Nat := c.dies * 128

/-- Fitted positions on each compute die (R22). -/
def Code.positions : Code → Nat
  | .c4C8H2X => 2
  | _ => 3

/-- Module power in W, the factory PLIMIT (R397). -/
def Code.power : Code → Nat
  | .c4C12H2X => 2000
  | .c4C8H2X => 1800
  | .c4C12H1X => 1900
  | .c2C6H1X => 1000

/-- Uncore allowance in W (R397). -/
def Code.uncore : Code → Nat
  | .c4C12H2X => 560
  | .c4C8H2X => 440
  | .c4C12H1X => 460
  | .c2C6H1X => 260

/-- What was fitted at assembly beside the code: third-party chiplets (R381) and previous-generation
hub dies (R380), one flag per hub die. -/
structure Assembly where
  code : Code
  chiplet0 : Bool
  chiplet1 : Bool
  oldHub0 : Bool
  oldHub1 : Bool
  deriving DecidableEq, Repr, Inhabited

namespace Config

/-- Beat rate in M beats/s of compute die `d` at 600 + 10 i mV and 105 °C: the factory speed table (R284). -/
opaque speedTable (d i : Nat) : Nat
/-- Core power in W of compute die `d` at 600 + 10 i mV: the factory power table (R398). -/
opaque powerTable (d i : Nat) : Nat
/-- The 96-byte identity public key the security block derives from the PUF (R418). -/
opaque identityKey : List Byte
/-- The identity public key hash recorded in the factory slot (R419). -/
opaque recordedIdHash : List Byte
/-- Whether the factory slot verifies (R410). -/
opaque factoryValid : Bool
/-- SHA-384 of the factory slot content (R423 block 4). -/
opaque factoryDigest : List Byte
/-- The mask-ROM hash of Brynzamor's firmware public key (R413). -/
opaque vendorHash : List Byte
/-- The certificate chain of slot 0 held in the factory slot (R422). -/
opaque certChain : List Byte
/-- IDCODE bits 31 to 28, the hub die revision (R447). -/
opaque hubRevision : BitVec 4
/-- IDCODE bits 11 to 1, Brynzamor's JEP106 manufacturer code (R447). -/
opaque manufacturer : BitVec 11
/-- The k-th nonce of the security block's random source (R427, SEC_DBGNONCE reset Random). -/
opaque nonce (k : Nat) : BitVec 128
/-- The k-th signature the identity key makes over a message: FIPS 186-5 draws a random value for each. -/
opaque identitySign (k : Nat) (message : List Byte) : List Byte
/-- The responder's k-th random nonce in an SPDM answer (R422). -/
opaque spdmNonce (k : Nat) : List Byte
/-- The answer to an MCTP control message, laid out by DSP0236 and not by the manual (R428). -/
opaque mctpControlBody (message : List Byte) : List Byte
/-- The 32-bit pattern a pass-0 integer node holds once it has left the INT32 range: the manual says only that the
node saturates and the block is replayed (R85, R86). -/
opaque intOverflowBits (exact : Int) : W32
/-- The random value of an SR rounding of a lifted output under a conversion word: the output has no INDEX (R69, R84). -/
opaque liftedRandom (cvt : Nat) (v : W32) : W32
/-- The F32 bits of a lifted output rounded into an MX format: the block it belongs to is not stated (R67, R84). -/
opaque liftedMX (cvt : Nat) (v : W32) : W32
/-- The line of a page, 0 to 32,767, at which a scrub or the self-test met its first mismatch (R307, R317). -/
opaque badLine (k : Nat) : Nat
/-- Whether a write of the retirement list fails: a program or erase error, or a read-back mismatch (R292, R308). -/
opaque listWriteFails (k : Nat) : Bool
/-- How the k-th write or erase of the library that no operand tells ends: done, failed, or cut short (R291, R292). -/
opaque nvEnds (k : Nat) : Nat
/-- How long a link was out that its reset input brings back, in µs (R322, R373). -/
opaque outTime (k : Nat) : Nat
/-- Whether a deletion that fails or is cut short has erased the commit record (R291, R292). -/
opaque removeErased (k : Nat) : Bool
/-- The factory slot's settings image: default records signed by the maker, whose content the manual does not give (R286,
R287). -/
opaque factorySettings : List Byte
/-- What an uncorrectable word or line reads as where the manual says the data is used as read (R305). -/
opaque poisonedByte (k addr : Nat) : Byte
/-- The VA at which a function keeps its home state of one (kind, LAYER, LSHARD), for the regions whose place the
image layout does not give (R183, R274). -/
opaque homePlace (digest : List Byte) (kind layer lshard : Nat) : Nat
/-- The VA at which a function keeps the optimiser state of one kind of a parked expert, in companion pages (R183, R215). -/
opaque parkedPlace (digest : List Byte) (kind layer expert : Nat) : Nat
/-- B of the k-th HOLD_CAP record: its cause, for which the manual gives no code (R439). -/
opaque holdCapCause (k : Nat) : BitVec 64
/-- Boundary-scan cells captured by EXTEST and SAMPLE/PRELOAD: the manual gives the register no length or
content (R448). -/
opaque boundaryScan (k : Nat) : Nat
/-- DATA of DBG_ACC after an access that was not made, or after a write: the manual gives DATA only for a read that is done,
and 0 for a poisoned word (R449). -/
opaque debugData (k : Nat) : W64
/-- The control core and its program counter of a firmware fault (R439): the manual describes neither. -/
opaque faultCore (k : Nat) : Nat
opaque faultPc (k : Nat) : W64
end Config

end Sys2Proof
end

