-- ==== Sys2Proof/Syntax.lean ====
section
/-! DEFINITION. The commands of the block: one constructor of `Instr` for each row of spec/opcode_table.json, with the
row's operands. What a command needs to be told from outside the module (data a host read returns, a frame that arrives,
a measured voltage, an upset the hardware met) is an operand; everything else it uses is in `State`. -/
namespace Sys2Proof

/-- Where a tile instruction issues: the tile and the partition entry n of R32 whose function runs it. -/
structure At where
  tile : Nat
  entry : Nat
  deriving DecidableEq, Repr, Inhabited

/-- An upset the hardware meets inside a step (95_what_each_step_holds). -/
inductive Upset where
  | none
  | residue (persistent : Bool)   -- mod-3 mismatch, once (R115) or again on the re-execution (R116)
  | sramCE (dpa : Nat)            -- R441
  | sramUE (dpa : Nat)            -- R443
  | hbmCE (dpa : Nat)             -- R303
  | hbmUE (dpa : Nat)             -- R305
  | companionUE (dpa : Nat)       -- R236, R310
  | plateCE                       -- R441, in a plate the step reads
  | plateUE (word : Nat)          -- R443: plate × 1024 + 64-bit word, a plate number of the tile
  | ertUE (entry : Nat)           -- R443, in the ERT
  deriving DecidableEq, Repr, Inhabited

/-- How a write or an erase of NV storage ends (R290 to R292): done, failed, or cut short by a loss of power or a reset. -/
inductive NvEnd where
  | done
  | fails
  | cut
  deriving DecidableEq, Repr, Inhabited

/-- What a read of host memory returned (R310, R335). -/
inductive HostData where
  | ok (bytes : List Byte)
  | poison
  | error
  deriving DecidableEq, Repr, Inhabited

/-- What became of a host-bound write (R334, R335). -/
inductive HostAck where
  | acked
  | error
  deriving DecidableEq, Repr, Inhabited

/-- The fields of MMA (R99). Addresses in 32-byte units, AS_STRIDE and BS_STRIDE in bytes. -/
structure MmaOp where
  bank : BitVec 2
  layA : Bool
  layB : Bool
  sfmtA : BitVec 4
  sfmtB : BitVec 4
  sdescA : BitVec 8
  sdescB : BitVec 8
  rowsM1 : BitVec 6
  colsM1 : BitVec 7
  cvtA : BitVec 16
  cvtB : BitVec 16
  klen : BitVec 15
  aAddr : BitVec 16
  aStride : BitVec 16
  bAddr : BitVec 16
  bStride : BitVec 16
  asAddr : BitVec 16
  asStride : BitVec 16
  bsAddr : BitVec 16
  bsStride : BitVec 16
  deriving DecidableEq, Repr, Inhabited

/-- The fields of MTREE (R103). -/
structure MtreeOp where
  bank : BitVec 2
  int : Bool
  tree : W32
  level : BitVec 5
  pos : BitVec 27
  wcode : BitVec 3
  nspanM1 : BitVec 27
  stackAddr : BitVec 16
  deriving DecidableEq, Repr, Inhabited

/-- The fields every vector opcode encodes (R125), with the words W2 to W7 whose use R126 gives by group. -/
structure VOp where
  ty : BitVec 2
  subop : BitVec 4
  bsel : BitVec 2
  csel : BitVec 2
  sb : BitVec 4
  sc : BitVec 4
  sd : BitVec 4
  chain : BitVec 2
  count : BitVec 15
  w1hi : BitVec 16      -- CVT; the upper half of TREE in VROPEN (R126)
  w1b15 : Bool          -- reserved, 0, except in VROPEN
  w2 : W32
  w3 : W32
  w4 : W32
  w5 : W32
  w6 : W32
  w7 : W32
  deriving DecidableEq, Repr, Inhabited

/-- Who makes a register access (R42), and the hub die whose link, bus port or control core carries it (R439 notes). -/
inductive Requester where
  | view (v : Nat) (hub : Nat)   -- v = 0 to 15 a function view, 16 the administrative view (R324)
  | bmc
  | debug
  | firmware (hub : Nat)
  deriving DecidableEq, Repr, Inhabited

/-- An Ethernet frame as it arrives (R349): addresses, an optional 802.1Q VID, the Ethertype, the bytes from the herd
header on, and whether its FCS was good. -/
structure Frame where
  fcsOk : Bool
  dst : BitVec 48
  src : BitVec 48
  vid : Option (BitVec 12)
  etype : W16
  body : List Byte
  deriving DecidableEq, Repr, Inhabited

/-- What the far end of a training Ethernet port shows (R263, R346, R360). -/
structure Peer where
  s9Herd : Bool          -- the far end is a herd port of an S9
  rate : BitVec 2
  etype : W16
  herdId : W64
  member : Nat
  digest : List Byte     -- bytes 0-15 of its image digest (R270)
  mac : BitVec 48
  mpd : Nat              -- measured path delay in ns
  deriving DecidableEq, Repr, Inhabited

/-- The outcome of lane tests at one Larwa rate (R320): whether both ends support the rate, which of the 16 data lanes
pass, whether the control lane passes. -/
structure LaneTest where
  supported : Bool
  lanes : BitVec 16
  control : Bool
  deriving DecidableEq, Repr, Inhabited

/-- Telemetry of one compute die in a control period (R394). -/
structure DieTelemetry where
  vmeas : Nat            -- mV
  idd : Nat              -- 0.1 A
  temps : List Nat       -- the 64 thermal points in °C
  rate : Nat             -- slowest of the 8 beat-rate monitors, M beats/s
  arrived : Bool         -- whether the die's telemetry arrived
  deriving DecidableEq, Repr, Inhabited

/-- Telemetry the power manager samples in a control period (R394). -/
structure Telemetry where
  vin : Nat              -- 10 mV units
  iin : Nat              -- 10 mA units
  pavg : Nat             -- W over 100 µs
  dies : List DieTelemetry
  stackTemps : List Nat  -- °C, by stack number
  droops : Nat           -- droops met since the last period (R403)
  deriving DecidableEq, Repr, Inhabited

/-- What the power-up self-tests found (R376, R309, R410). -/
structure SelfTest where
  links : List (Nat × Nat × Nat)  -- (die-to-die link, UCIe modules in use, generation)
  badTiles : List Nat
  badPages : List (Nat × Nat)     -- (stack, page)
  badStacks : List Nat
  deriving DecidableEq, Repr, Inhabited

/-- The kinds of hold cause of R257. -/
inductive HoldKind where
  | data
  | fault
  | environment
  deriving DecidableEq, Repr, Inhabited

/-- Which gather a shard belongs to (R151, R155). -/
inductive Pass where
  | forward
  | backward
  | recompute
  deriving DecidableEq, Repr, Inhabited

/-- A third-party chiplet request (R383): a well-formed Memory Read or Write TLP, or another TLP. -/
structure ChipletReq where
  wellFormedTlp : Bool   -- is a Memory Read or Memory Write TLP
  write : Bool
  addr : BitVec 48
  len : Nat
  data : List Byte
  deriving DecidableEq, Repr, Inhabited

/-- The engine a STEP_BEAT names (R451, DBG_CMD.ENGINE). -/
inductive Engine where
  | matrix
  | vector
  deriving DecidableEq, Repr, Inhabited

/-- A step of another member of the herd as recovery sees it (R203): its latest decision words and its SCHED. -/
structure MemberRecovery where
  words : List (List Byte)   -- 32-byte decision words it holds
  sched : W32
  deriving DecidableEq, Repr, Inhabited

/-- The kept rows of one expert in a dispatch unit, as the tiles have laid them out: their count, the assignments before the
capacity rule, and where they lie (R221, R222). -/
structure RowRun where
  expert : Nat
  kept : Nat
  routed : Nat
  src : Nat
  deriving DecidableEq, Repr, Inhabited

/-- The records of one dispatch unit that the mules of a list form for one member (R222): to the experts' owner, or `back` from
it, with rows of `rowBytes` bytes. -/
structure DispatchSend where
  layer : Nat
  unit : Nat
  back : Bool
  dst : Nat
  rowBytes : Nat
  recs : List RowRun
  deriving DecidableEq, Repr, Inhabited

/-- What another member's norm record gives of one logical shard of a layer (R164): its gradient squared norm, lifted or not, and
its MB_SUMSQ. -/
structure ShardNorm where
  layer : Nat
  lshard : Nat
  sq : W32
  lifted : Bool
  mb : W32
  deriving DecidableEq, Repr, Inhabited

/-- What a MULE item's mules do beside its list: the expert layer and micro-batch that they prefetch for (R232), and the dispatch
units that they send (R222). -/
structure MuleBeside where
  prefetch : Option (Nat × Nat) := none
  sends : List DispatchSend := []
  deriving DecidableEq, Repr, Inhabited

/-- The commands: one constructor per row of spec/opcode_table.json, in the table's order. -/
inductive Instr where
  -- matrix engine (04_matrix_engine)
  | mma (at_ : At) (op : MmaOp) (upset : Upset)
  | mtree (at_ : At) (op : MtreeOp)
  | mdrain (at_ : At) (bank : BitVec 2) (fold : Bool) (upset : Upset)
  | msave (at_ : At) (bank : BitVec 2) (dst : BitVec 16)
  | mclr (at_ : At) (bank : BitVec 2)
  -- vector engine (05_vector_engine)
  | vadd (at_ : At) (op : VOp)
  | vsub (at_ : At) (op : VOp)
  | vmul (at_ : At) (op : VOp)
  | vfma (at_ : At) (op : VOp)
  | vmax (at_ : At) (op : VOp)
  | vmin (at_ : At) (op : VOp)
  | vabs (at_ : At) (op : VOp)
  | vneg (at_ : At) (op : VOp)
  | vdiv (at_ : At) (op : VOp)
  | vsqrt (at_ : At) (op : VOp)
  | vrsqrt (at_ : At) (op : VOp)
  | vrcp (at_ : At) (op : VOp)
  | vexp (at_ : At) (op : VOp)
  | vlog (at_ : At) (op : VOp)
  | vcmp (at_ : At) (op : VOp)
  | vsel (at_ : At) (op : VOp)
  | vand (at_ : At) (op : VOp)
  | vor (at_ : At) (op : VOp)
  | vxor (at_ : At) (op : VOp)
  | vshl (at_ : At) (op : VOp)
  | vshr (at_ : At) (op : VOp)
  | vcvt (at_ : At) (op : VOp)
  | viota (at_ : At) (op : VOp)
  | vmov (at_ : At) (op : VOp)
  | vsets (at_ : At) (op : VOp)
  | vld (at_ : At) (op : VOp) (upset : Upset)
  | vst (at_ : At) (op : VOp) (upset : Upset)
  | vrdacc (at_ : At) (op : VOp)
  | vropen (at_ : At) (op : VOp)
  | vred (at_ : At) (op : VOp)
  | vrfold (at_ : At) (op : VOp)
  | vrclr (at_ : At) (op : VOp)
  | vevt (at_ : At) (op : VOp)
  | vscan (at_ : At) (op : VOp)
  | vsort (at_ : At) (op : VOp)
  | vgath (at_ : At) (op : VOp)
  | vscat (at_ : At) (op : VOp)
  | vcomb (at_ : At) (op : VOp) (upset : Upset)
  -- schedule items (09_herd_schedule); idx is the entry's index in the step program in force
  | tile (fn idx : Nat) (sweep : List Nat)
  | tileSectionEnd (fn idx : Nat)
  | mule (fn idx : Nat) (beside : MuleBeside) (upset : Upset)
  | muleListComplete (fn idx : Nat)
  | ucmd (fn idx : Nat)
  | vote (fn idx : Nat)
  | demand (fn idx : Nat)
  | stepend (fn : Nat)
  | herdSlotBoundary (causes : List (Nat × HoldKind))
  | ctrlFrameReceive (port : Nat) (frame : Frame)
  | controlMiss (port : Nat)
  | holdTimeout (fn idx : Nat)
  -- the training step (06_training_step, 07_parameter_update, 08_sparse_experts)
  | voteForm (fn : Nat) (xNorms yNorms zNorms : List ShardNorm)
  | voteDecision (fn : Nat)
  | shardReceive (fn : Nat) (pass : Pass) (header payload : List Byte) (dst : Nat)
  | bucketReceive (fn : Nat) (bytes : List Byte)
  | dispatchRecordReceive (fn : Nat) (toOwner : Bool) (sender : Nat) (bytes : List Byte) (rowBytes dst : Nat)
  | dispatchHeadersArrive (fn layer : Nat)
  | expertFetchComplete (fn entry : Nat) (overBudget : Bool) (upset : Upset)
  | chunkStateCheck (fn chunk : Nat)
  | commitRecordWrite (fn : Nat)
  | commitCopy (fn chunk : Nat)
  | slotRelease (fn : Nat)
  | journalRecovery (fn : Nat) (members : List MemberRecovery)
  | snapshotComplete (fn : Nat) (failed : Bool)
  -- queues (12_larwa_link_and_queues)
  | doorbellWrite (q : Nat) (half : Option Bool) (value : W64)
  | entryFetch (q : Nat) (data : HostData) (upset : Upset)
  | entryReread (q : Nat) (data : HostData)
  -- admin commands (10, 12): the entry in progress on queue q supplies the arguments
  | check (q : Nat) (image : HostData)
  | load (q : Nat) (image : HostData)
  | imageAccept
  | store (q : Nat) (image : HostData) (nv : NvEnd)
  | remove (q : Nat)
  | unload (q : Nat)
  | enable (q : Nat) (pages : HostData)
  | enablingDone (fn : Nat)
  | disable (q : Nat)
  | drainComplete (fn : Nat)
  | scrubComplete (fn : Nat) (badPages : List (Nat × Nat))
  | qcreate (q : Nat)
  | qdestroy (q : Nat)
  | qresume (q : Nat)
  -- function commands
  | start (q : Nat)
  | stop (q : Nat)
  | resume (q : Nat)
  | snapshot (q : Nat)
  | restore (q : Nat) (peer : HostData)
  | copyIn (q : Nat) (data : HostData)
  | copyOut (q : Nat) (ack : HostAck)
  | arm
  | disarm
  | ledgerRdWrite (fn : Nat) (rd : W32)
  -- errors, registers with a row of their own
  | errctlArm
  | errptrRdWrite (rd : W32)
  | errorRecordWrite (ack : HostAck)
  | meCtlClr (tile : Nat) (mask : BitVec 4)
  | veCtlClr (tile : Nat) (mask : BitVec 4)
  | fwwinWrite (hub w : Nat) (value : W64)
  | plimitWrite (value : W32)
  | tlimitWrite (value : W32)
  | vcfgWrite (value : W32)
  | portcfgWrite (port : Nat) (value : W32)
  | registerWrite (by_ : Requester) (addr : Nat) (bytes : Nat) (value : W64)
  -- power, boot, live insertion (15, 16)
  | remreq
  | removalPrepared
  | remcancel
  | mgctlReset
  | pwrEnRise (tooEarly : Bool)
  | firmwareStart
  | selftestComplete (found : SelfTest)
  | pwrEnFall
  | modRstN (cool : Bool)
  | watchdogExpiry
  | controlRestart
  | pldmFirmwareUpdate (image : List Byte) (nv : NvEnd)
  | prsntNLow
  | inputApplied (vin : Nat)
  | inputHighTrip
  | inputLowTrip
  | pmgControlPeriod (t : Telemetry)
  | telemetryLoss (die : Nat)
  | speedShortfall (die rate : Nat)
  | compensationRaise (die rate : Nat)
  | thermtrip (die point temp stack : Nat)
  | supplyFault (die vmeas : Nat)
  -- Larwa link and bus port
  | lwlTrain (hub : Nat) (t64 t32 t16 : LaneTest) (hostEpoch : Nat)
  | lwlRetrain (hub : Nat)
  | lwlRetrainComplete (hub : Nat) (t64 t32 t16 : LaneTest) (hostEpoch : Nat) (outUs : Nat)
  | lwlOut (hub : Nat)
  | linkOutHostReset (hub : Nat)
  | hostReset (cause : Nat)
  | lwlRstN (hub : Nat)
  | busPortReset (hub : Nat)
  -- memory (11)
  | hostBiasFlip (fn vpn : Nat) (write : Bool)
  | deviceBiasGrant (fn vpn : Nat)
  | ceWriteback (dpa : Nat)
  | patrolRead (dpa : Nat) (upset : Upset) (lastOfPass : Bool)
  | patrolSlow (die : Nat)
  | stackFailed (stack : Nat)
  | tileStall (tile : Nat)
  -- Ethernet and time (09, 13)
  | ptpSyncInterval
  | ptpMessageReceive (port : Nat) (mpd : Nat) (offset : Int)
  | portTrain (port : Nat) (up : Bool) (peer : Peer)
  | dataFrameReceive (port : Nat) (frame : Frame)
  | retransmitTimeout (port : Nat)
  | retxEpisodeTimeout (port : Nat)
  | laneShed (port lane : Nat)
  | streamFrameReceive (port : Nat) (frame : Frame) (fill : Nat)
  | streamAckReceive (port : Nat) (frame : Frame)
  | streamTimeout (port stream : Nat)
  | pfcReceive (port : Nat) (classes : BitVec 8) (pause : BitVec 8)
  -- package (14)
  | d2dRetrain (link : Nat)
  | d2dRetrainComplete (link mods : Nat) (holdUs : Nat)
  | d2dFailed (link : Nat)
  | chipletRequest (hub : Nat) (req : ChipletReq) (upset : Upset)
  | chipletReset (hub : Nat)
  | cdcReset (die crossing : Nat)
  | cdcAliveTimeout (die crossing : Nat)
  -- attestation and management (16)
  | getVersion (message : List Byte)
  | getCapabilities (message : List Byte)
  | negotiateAlgorithms (message : List Byte)
  | getDigests (message : List Byte)
  | getCertificate (offset length : Nat)
  | challenge (message : List Byte)
  | getMeasurements (index : Nat)
  | spdmUnsupportedRequest (code : Nat)
  | mctpControl (message : List Byte)
  | mctpRegisterRead (addr : Nat)
  | mctpRegisterWrite (addr : Nat) (value : W32)
  -- debug port (17)
  | tapReset
  | extest
  | samplePreload
  | idcode
  | bypass
  | dbgAuth (token : List Byte)
  | dbgNonce
  | dbgStat
  | dbgRead32 (addr : Nat)
  | dbgWrite32 (addr : Nat) (value : W32)
  | dbgRead64 (addr : Nat)
  | dbgWrite64 (addr : Nat) (value : W64)
  | dbgTwdataAccess (write : Bool) (value : W32)
  | dbgHalt
  | haltComplete
  | dbgResume
  | stepInstr
  | stepBeat (engine : Engine)
  | busPortTrain (hub gen width : Nat)
  | chipletSiteTrain (hub : Nat) (ok : Bool) (rate : Nat)
  | cdcClockReturn (die crossing : Nat)
  | tokenBucketFill (hub w : Nat)
  | pcieConfigurationRequest (hub : Nat)
  deriving DecidableEq, Repr

end Sys2Proof
end

