-- ==== Sys2Proof/Decode.lean ====
section
/-! DEFINITION. The command a table word spells. The block's command table gives no row any bits, so no word spells a
command. -/
namespace Sys2Proof

/-- The command whose bits are `w`, numbered as spec/opcode_table.json numbers them: no row of the table has bits. -/
def decodeTableWord (_nbits _w : Nat) : Option Instr := none

end Sys2Proof
end

