-- ==== Sys2Proof/Machine/Maps.lean ====
section
/-! DEFINITION. Reading and writing a sparse table. A table lists, by strictly rising key, the entries that differ
from its default. -/
namespace Sys2Proof.Machine

/-- The value at key `k`; `d` where the key is not listed. -/
def tget {α : Type} (d : α) : Table α → Nat → α
  | [], _ => d
  | (j, v) :: t, k => if j = k then v else tget d t k

/-- Remove key `k`. -/
def tdel {α : Type} : Table α → Nat → Table α
  | [], _ => []
  | (j, v) :: t, k => if j = k then tdel t k else (j, v) :: tdel t k

/-- List `v` at key `k`, in key order. -/
def tput {α : Type} : Table α → Nat → α → Table α
  | [], k, v => [(k, v)]
  | (j, w) :: t, k, v =>
    if k < j then (k, v) :: (j, w) :: t
    else if k = j then (k, v) :: t
    else (j, w) :: tput t k v

/-- Write `v` at key `k`; writing the default removes the entry. -/
def tset {α : Type} [DecidableEq α] (d : α) (t : Table α) (k : Nat) (v : α) : Table α :=
  if v = d then tdel t k else tput t k v

/-- Remove every key from `lo` up to, not including, `hi`. -/
def tclear {α : Type} (t : Table α) (lo hi : Nat) : Table α :=
  t.filter fun e => decide (e.1 < lo ∨ hi ≤ e.1)

/-- Write consecutive values from key `k` on. -/
def tsetList {α : Type} [DecidableEq α] (d : α) : Table α → Nat → List α → Table α
  | t, _, [] => t
  | t, k, v :: vs => tsetList d (tset d t k v) (k + 1) vs

/-- The values at `n` consecutive keys from `k` on. -/
def tgetList {α : Type} (d : α) (t : Table α) (k n : Nat) : List α :=
  (List.range n).map fun i => tget d t (k + i)

/-- The canonical form: keys strictly rising from `lo` on, and no entry equal to the default. -/
def twfFrom {α : Type} [DecidableEq α] (d : α) : Nat → Table α → Bool
  | _, [] => true
  | lo, (k, v) :: t => decide (lo ≤ k) && decide (v ≠ d) && twfFrom d (k + 1) t

/-- The canonical form of a table. -/
def twf {α : Type} [DecidableEq α] (d : α) (t : Table α) : Bool := twfFrom d 0 t

/-- The keys of a table. -/
def tkeys {α : Type} (t : Table α) : List Nat := t.map fun e => e.1

end Sys2Proof.Machine
end

