-- ==== Sys2Proof/Machine/Bytes.lean ====
section
/-! DEFINITION. Byte order, bit fields and the checks over bytes. -/
namespace Sys2Proof.Machine

/-- The number little-endian bytes spell (R13). -/
def leNat : List Byte → Nat
  | [] => 0
  | b :: bs => b.toNat + 256 * leNat bs

/-- `n` little-endian bytes of a number (R13). -/
def leBytes : Nat → Nat → List Byte
  | 0, _ => []
  | n + 1, v => BitVec.ofNat 8 v :: leBytes n (v / 256)

/-- The number network-order bytes spell: most significant first (R13). -/
def beNat (bs : List Byte) : Nat := leNat bs.reverse

/-- `n` network-order bytes of a number (R13). -/
def beBytes (n v : Nat) : List Byte := (leBytes n v).reverse

/-- Bits [hi:lo] of a number. -/
def bits (v hi lo : Nat) : Nat := v / 2 ^ lo % 2 ^ (hi + 1 - lo)

/-- Bit `i` of a number. -/
def bitOf (v i : Nat) : Bool := v / 2 ^ i % 2 == 1

/-- 1 for true, 0 for false. -/
def b2n (b : Bool) : Nat := if b then 1 else 0

/-- A field placed at bit `lo`. -/
def fieldAt (lo v : Nat) : Nat := v * 2 ^ lo

/-- Whether [a, a + n) and [b, b + m) share a byte. -/
def overlap (a n b m : Nat) : Bool := decide (a < b + m ∧ b < a + n ∧ 0 < n ∧ 0 < m)

/-- `n` zero bytes. -/
def zeros (n : Nat) : List Byte := List.replicate n 0

/-- Bytes `off` to `off + n - 1` of a list; bytes past its end read 0. -/
def slice (bs : List Byte) (off n : Nat) : List Byte :=
  let r := (bs.drop off).take n
  r ++ zeros (n - r.length)

/-- The little-endian number at byte `off`, `n` bytes wide. -/
def leAt (bs : List Byte) (off n : Nat) : Nat := leNat (slice bs off n)

/-- The network-order number at byte `off`, `n` bytes wide. -/
def beAt (bs : List Byte) (off n : Nat) : Nat := beNat (slice bs off n)

/-- One byte into the CRC-16 of 12_larwa (polynomial 0x1021, no reflection). -/
def crc16Step (c : BitVec 16) : Nat → BitVec 16
  | 0 => c
  | n + 1 => crc16Step (if c.msb then (c <<< 1) ^^^ 0x1021#16 else c <<< 1) n

/-- The CRC-16 of 12_larwa_link_and_queues: initial value 0xFFFF, no final XOR. -/
def crc16 (bs : List Byte) : BitVec 16 :=
  bs.foldl (fun c b => crc16Step (c ^^^ BitVec.ofNat 16 (b.toNat * 256)) 8) 0xFFFF#16

/-- One byte into the CRC-32C (reflected polynomial 0x82F63B78). -/
def crc32cStep (c : BitVec 32) : Nat → BitVec 32
  | 0 => c
  | n + 1 => crc32cStep (if c.getLsbD 0 then (c >>> 1) ^^^ 0x82F63B78#32 else c >>> 1) n

/-- CRC-32C, the Castagnoli code: initial value and final XOR all ones, reflected. -/
def crc32c (bs : List Byte) : BitVec 32 :=
  (bs.foldl (fun c b => crc32cStep (c ^^^ b.zeroExtend 32) 8) 0xFFFFFFFF#32) ^^^ 0xFFFFFFFF#32

/-- The largest value of an `n`-bit counter, at which it stays (saturating counts). -/
def satAdd (n v k : Nat) : Nat := min (v + k) (2 ^ n - 1)

/-- `a` comes before `b` in serial-number order (R245). -/
def serialBefore (a b : W32) : Bool :=
  let d := (b - a).toNat
  decide (1 ≤ d ∧ d ≤ 2 ^ 31 - 1)

/-- `a` is at most `b` in serial-number order (R245). -/
def serialLe (a b : W32) : Bool := decide ((b - a).toNat < 2 ^ 31)

/-- The later of two in serial-number order (R245). -/
def serialMax (a b : W32) : W32 := if serialBefore a b then b else a

/-- Round `v` up to a multiple of `m`. -/
def roundUp (v m : Nat) : Nat := (v + m - 1) / m * m

/-- ⌈a / b⌉. -/
def ceilDiv (a b : Nat) : Nat := (a + b - 1) / b

/-- Cut a list into pieces of `n`, the last one possibly short; `fuel` bounds the number of pieces. -/
def chunksOf {α : Type} (n : Nat) : Nat → List α → List (List α)
  | 0, _ => []
  | _, [] => []
  | f + 1, l => l.take n :: chunksOf n f (l.drop n)

end Sys2Proof.Machine
end

