-- ==== Sys2Proof/Machine/Crypto.lean ====
section
/-! DEFINITION. SHA-384 (FIPS 180-4) and the verification of ECDSA signatures on curve P-384 (FIPS 186-5), which the manual
names for images, firmware and debug tokens (R272, R413, R427). -/
namespace Sys2Proof.Machine

/-! ### SHA-384 -/

def shaK0 : List W64 :=
  [0x428A2F98D728AE22, 0x7137449123EF65CD, 0xB5C0FBCFEC4D3B2F, 0xE9B5DBA58189DBBC,
   0x3956C25BF348B538, 0x59F111F1B605D019, 0x923F82A4AF194F9B, 0xAB1C5ED5DA6D8118,
   0xD807AA98A3030242, 0x12835B0145706FBE, 0x243185BE4EE4B28C, 0x550C7DC3D5FFB4E2,
   0x72BE5D74F27B896F, 0x80DEB1FE3B1696B1, 0x9BDC06A725C71235, 0xC19BF174CF692694,
   0xE49B69C19EF14AD2, 0xEFBE4786384F25E3, 0x0FC19DC68B8CD5B5, 0x240CA1CC77AC9C65]
def shaK1 : List W64 :=
  [0x2DE92C6F592B0275, 0x4A7484AA6EA6E483, 0x5CB0A9DCBD41FBD4, 0x76F988DA831153B5,
   0x983E5152EE66DFAB, 0xA831C66D2DB43210, 0xB00327C898FB213F, 0xBF597FC7BEEF0EE4,
   0xC6E00BF33DA88FC2, 0xD5A79147930AA725, 0x06CA6351E003826F, 0x142929670A0E6E70,
   0x27B70A8546D22FFC, 0x2E1B21385C26C926, 0x4D2C6DFC5AC42AED, 0x53380D139D95B3DF,
   0x650A73548BAF63DE, 0x766A0ABB3C77B2A8, 0x81C2C92E47EDAEE6, 0x92722C851482353B]
def shaK2 : List W64 :=
  [0xA2BFE8A14CF10364, 0xA81A664BBC423001, 0xC24B8B70D0F89791, 0xC76C51A30654BE30,
   0xD192E819D6EF5218, 0xD69906245565A910, 0xF40E35855771202A, 0x106AA07032BBD1B8,
   0x19A4C116B8D2D0C8, 0x1E376C085141AB53, 0x2748774CDF8EEB99, 0x34B0BCB5E19B48A8,
   0x391C0CB3C5C95A63, 0x4ED8AA4AE3418ACB, 0x5B9CCA4F7763E373, 0x682E6FF3D6B2B8A3,
   0x748F82EE5DEFB2FC, 0x78A5636F43172F60, 0x84C87814A1F0AB72, 0x8CC702081A6439EC]
def shaK3 : List W64 :=
  [0x90BEFFFA23631E28, 0xA4506CEBDE82BDE9, 0xBEF9A3F7B2C67915, 0xC67178F2E372532B,
   0xCA273ECEEA26619C, 0xD186B8C721C0C207, 0xEADA7DD6CDE0EB1E, 0xF57D4F7FEE6ED178,
   0x06F067AA72176FBA, 0x0A637DC5A2C898A6, 0x113F9804BEF90DAE, 0x1B710B35131C471B,
   0x28DB77F523047D84, 0x32CAAB7B40C72493, 0x3C9EBE0A15C9BEBC, 0x431D67C49C100D4C,
   0x4CC5D4BECB3E42B6, 0x597F299CFC657E2A, 0x5FCB6FAB3AD6FAEC, 0x6C44198C4A475817]

/-- The round constants. -/
def shaK : List W64 := shaK0 ++ shaK1 ++ shaK2 ++ shaK3

/-- The initial value of SHA-384. -/
def shaInit : List W64 :=
  [0xCBBB9D5DC1059ED8, 0x629A292A367CD507, 0x9159015A3070DD17, 0x152FECD8F70E5939,
   0x67332667FFC00B31, 0x8EB44A8768581511, 0xDB0C2E0D64F98FA7, 0x47B5481DBEFA4FA4]

/-- The message schedule: from the sixteen latest words, newest first, `n` further words. -/
def shaExpand : Nat → List W64 → List W64
  | 0, ws => ws
  | n + 1, ws =>
    let a := ws.getD 14 0
    let b := ws.getD 1 0
    let s0 := a.rotateRight 1 ^^^ a.rotateRight 8 ^^^ (a >>> 7)
    let s1 := b.rotateRight 19 ^^^ b.rotateRight 61 ^^^ (b >>> 6)
    shaExpand n ((ws.getD 15 0 + s0 + ws.getD 6 0 + s1) :: ws)

/-- One round on the working variables. -/
def shaRound (v : List W64) (k w : W64) : List W64 :=
  match v with
  | [a, b, c, d, e, f, g, h] =>
    let t1 := h + (e.rotateRight 14 ^^^ e.rotateRight 18 ^^^ e.rotateRight 41) + ((e &&& f) ^^^ (~~~e &&& g)) + k + w
    let t2 := (a.rotateRight 28 ^^^ a.rotateRight 34 ^^^ a.rotateRight 39) + ((a &&& b) ^^^ (a &&& c) ^^^ (b &&& c))
    [t1 + t2, a, b, c, d + t1, e, f, g]
  | v => v

/-- One 128-byte block into the hash value. -/
def shaBlock (h : List W64) (block : List Byte) : List W64 :=
  let ws := (List.range 16).map fun i => BitVec.ofNat 64 (beAt block (8 * i) 8)
  let all := (shaExpand 64 ws.reverse).reverse
  let v := (shaK.zip all).foldl (fun (v : List W64) x => shaRound v x.1 x.2) h
  List.zipWith (fun x y => x + y) h v

/-- Padding of a message of `n` bytes. -/
def shaPad (n : Nat) : List Byte := 0x80 :: zeros ((239 - n % 128) % 128) ++ beBytes 16 (8 * n)

/-- SHA-384: 48 bytes. -/
def sha384 (m : List Byte) : List Byte :=
  let p := m ++ shaPad m.length
  (((chunksOf 128 p.length p).foldl shaBlock shaInit).take 6).flatMap fun w => beBytes 8 w.toNat

/-! ### ECDSA P-384 -/

def ecP : Nat := 2 ^ 384 - 2 ^ 128 - 2 ^ 96 + 2 ^ 32 - 1
def ecN : Nat := 0xFFFFFFFFFFFFFFFFFFFFFFFFFFFFFFFFFFFFFFFFFFFFFFFFC7634D81F4372DDF581A0DB248B0A77AECEC196ACCC52973
def ecB : Nat := 0xB3312FA7E23EE7E4988E056BE3F82D19181D9C6EFE8141120314088F5013875AC656398D8A2ED19D2A85C8EDD3EC2AEF
def ecGx : Nat := 0xAA87CA22BE8B05378EB1C71EF320AD746E1D3B628BA79B9859F741E082542A385502F25DBF55296C3A545E3872760AB7
def ecGy : Nat := 0x3617DE4A96262C6F5D9E98BF9292DC29F8F41DBD289A147CE9DA3113B5F0B8C00A60B1CE1D7E819D7A431D7C90EA0E5F

/-- x ^ e mod m over the `n` low bits of e. -/
def powMod (m e : Nat) : Nat → Nat → Nat → Nat
  | 0, _, acc => acc
  | n + 1, x, acc => powMod m (e / 2) n (x * x % m) (if e % 2 = 1 then acc * x % m else acc)

/-- The inverse modulo a prime. -/
def invMod (m x : Nat) : Nat := powMod m (m - 2) 384 (x % m) 1

/-- a - b mod p. -/
def subP (a b : Nat) : Nat := (a + ecP - b % ecP) % ecP

/-- A point in projective form (X, Y, Z) with x = X / Z², y = Y / Z³; Z = 0 is the point at infinity. -/
abbrev EcPoint := Nat × Nat × Nat

def ecDouble (p : EcPoint) : EcPoint :=
  let (x, y, z) := p
  if z = 0 ∨ y = 0 then (1, 1, 0)
  else
    let yy := y * y % ecP
    let s := 4 * x * yy % ecP
    let zz := z * z % ecP
    let m := 3 * subP x zz * (x + zz) % ecP
    let x3 := subP (m * m) (2 * s)
    (x3, subP (m * subP s x3) (8 * yy * yy), 2 * y * z % ecP)

def ecAdd (p q : EcPoint) : EcPoint :=
  let (x1, y1, z1) := p
  let (x2, y2, z2) := q
  if z1 = 0 then q
  else if z2 = 0 then p
  else
    let z1z := z1 * z1 % ecP
    let z2z := z2 * z2 % ecP
    let u1 := x1 * z2z % ecP
    let u2 := x2 * z1z % ecP
    let s1 := y1 * z2 * z2z % ecP
    let s2 := y2 * z1 * z1z % ecP
    if u1 = u2 then if s1 = s2 then ecDouble p else (1, 1, 0)
    else
      let h := subP u2 u1
      let r := subP s2 s1
      let hh := h * h % ecP
      let hhh := h * hh % ecP
      let v := u1 * hh % ecP
      let x3 := subP (subP (r * r) hhh) (2 * v)
      (x3, subP (r * subP v x3) (s1 * hhh), h * z1 * z2 % ecP)

/-- k × P over the `n` bits of k, most significant first. -/
def ecMul (k : Nat) (p : EcPoint) : Nat → EcPoint → EcPoint
  | 0, acc => acc
  | n + 1, acc =>
    let d := ecDouble acc
    ecMul k p n (if bitOf k n then ecAdd d p else d)

/-- Whether (x, y) is a point of the curve y² = x³ - 3x + b. -/
def ecOn (x y : Nat) : Bool :=
  decide (x < ecP ∧ y < ecP) && decide (y * y % ecP = subP (x * x * x + ecB) (3 * x))

/-- Verify a signature (r, s) over a SHA-384 digest, by the public key X || Y of 96 bytes (FIPS 186-5). -/
def ecVerify (key digest sigR sigS : List Byte) : Bool :=
  let r := beNat sigR
  let s := beNat sigS
  let x := beNat (slice key 0 48)
  let y := beNat (slice key 48 48)
  if r = 0 ∨ ecN ≤ r ∨ s = 0 ∨ ecN ≤ s ∨ ecOn x y = false then false
  else
    let w := invMod ecN s
    let u1 := beNat digest * w % ecN
    let u2 := r * w % ecN
    let (px, _, pz) := ecAdd (ecMul u1 (ecGx, ecGy, 1) 384 (1, 1, 0)) (ecMul u2 (x, y, 1) 384 (1, 1, 0))
    if pz = 0 then false
    else
      let zi := invMod ecP pz
      decide (px * zi * zi % ecP % ecN = r)

end Sys2Proof.Machine
end

