-- ==== Sys2Proof/Machine/Types.lean ====
section
/-! DEFINITION. The parts State is made of: one structure for each thing the manual gives state to. Every default
written here is the reset value; a value the manual does not state is marked in the field's comment. -/
namespace Sys2Proof.Machine

/-! ### Tiles (01, 04, 05, 17) -/

/-- One partition register TILE_PARTn (R32). -/
structure Part where
  valid : Bool := false
  func : BitVec 4 := 0
  accMask : BitVec 4 := 0
  plateBase : BitVec 4 := 0
  plateCount : BitVec 5 := 0
  sramBase : BitVec 5 := 0
  sramCount : BitVec 6 := 0
  deriving DecidableEq, Repr, Inhabited

/-- A tree descriptor: bytes 0-11 of the partial record (R91), as MTREE and VROPEN give it. -/
structure TreeDesc where
  tree : W32 := 0
  level : BitVec 5 := 0
  pos : BitVec 27 := 0
  wcode : BitVec 3 := 0
  nspanM1 : BitVec 27 := 0
  deriving DecidableEq, Repr, Inhabited

/-- The states of a bank (R104) and of a reduction chain (R135). -/
inductive Phase where
  | idle
  | opened
  | done
  deriving DecidableEq, Repr, Inhabited

/-- A span value or tree node (v, x) of R82; `x` set means x = 16, a lifted node. -/
structure Node where
  v : W32 := 0
  x : Bool := false
  deriving DecidableEq, Repr, Inhabited

/-- An accumulator bank (R103 to R113). `pad` is the span count with the last short push padded to its node, so
that its set bits are the open levels; `vals` and `xbits` are keyed by row × 128 + column. -/
structure Bank where
  phase : Phase := .idle
  int : Bool := false
  desc : TreeDesc := {}
  stackAddr : BitVec 16 := 0
  count : Nat := 0
  pad : Nat := 0
  rows : Nat := 0
  cols : Nat := 0
  vals : Table W32 := []
  xbits : Table Bool := []
  satSeen : Bool := false
  sat : Bool := false
  shift : Nat := 0
  again : Table Bool := []    -- outputs that have overflowed a second time (R83), keyed as `vals`
  nonfin : Nat := 0
  ovf : Nat := 0
  mmas : List MmaOp := []
  deriving DecidableEq, Repr, Inhabited

/-- A reduction chain (R135): its open entries and the folded result. -/
structure Chain where
  phase : Phase := .idle
  desc : TreeDesc := {}
  count : Nat := 0
  stack : List (Nat × Node) := []      -- lowest level first
  lifted : Bool := false               -- some node pushed or merged was lifted (R84)
  again : Bool := false                -- some node overflowed a second time (R83)
  result : Node := {}
  deriving DecidableEq, Repr, Inhabited

/-- Event counts of a partition entry (VE_EVTn) or of a function's mule casts (HERD_MEVTn), 16 bits saturating. -/
structure Events where
  nonfin : Nat := 0
  ovf : Nat := 0
  inval : Nat := 0
  deriving DecidableEq, Repr, Inhabited

/-- ME_FAULT and VE_FAULT (R119, R145); `unit` is BANK or CHAIN. -/
structure FaultReg where
  iaddr : W32 := 0
  valid : Bool := false
  func : BitVec 4 := 0
  unit : BitVec 2 := 0
  code : BitVec 8 := 0
  deriving DecidableEq, Repr, Inhabited

/-- The sequencer of one partition entry: the section it runs (TILEPROG, R274), the share-relative offset of its
next instruction, the instructions left, and whether a fault stopped it (R35, R111). -/
structure Sequencer where
  active : Bool := false
  iaddr : W32 := 0
  left : Nat := 0
  stopped : Bool := false
  halted : Bool := false      -- debug halt (R451)
  reason : BitVec 3 := 0      -- DBG_HSTAT.REASON
  passBp : Bool := false      -- the held instruction issues without triggering its breakpoint again (R451)
  beats : Nat := 0            -- beats of the next instruction that STEP_BEAT has run (R451)
  deriving DecidableEq, Repr, Inhabited

/-- One tile (R24, R32, R70, R119, R122, R145, R457). Tile SRAM lies in `State.mem`; plates, scalars and bank cells
have no stated power-up value: 0 by assumption 3. -/
structure Tile where
  part : Table Part := []
  seed : Table W32 := []
  step : Table (BitVec 20) := []
  plates : Table W32 := []           -- key plate × 2048 + element
  banks : Table Bank := []
  scalars : Table W32 := []          -- key entry × 16 + scalar
  chains : Table Chain := []         -- key entry × 4 + chain
  events : Table Events := []
  seqs : Table Sequencer := []
  meFault : FaultReg := {}
  residueTransient : Nat := 0
  veFault : FaultReg := {}
  treeFault : TreeDesc := {}         -- VE_TREEFAULT: TREE, LEVEL and POS used
  seqFaults : List (Nat × W32) := []  -- function and address of the sequence faults since power-up (R111)
  eccSuspect : Bool := false
  eccUE : Nat := 0
  eccCE : Nat := 0
  platePoison : List Nat := []       -- poisoned 64-bit plate words: (plate × 2048 + element) / 2 (R443)
  stalled : Bool := false            -- R28
  outOfService : Bool := false       -- R116
  deriving DecidableEq, Repr, Inhabited

/-! ### Aedvas images (10_configuration_image) -/

structure MemberRec where
  member : Nat
  code : Nat
  ident : List Byte
  deriving DecidableEq, Repr, Inhabited

structure SpeedRec where
  die : Nat
  vmv : Nat
  rate : Nat
  deriving DecidableEq, Repr, Inhabited

structure GroupRec where
  group : Nat
  gkind : Nat
  first : Nat
  count : Nat
  mask : Nat
  deriving DecidableEq, Repr, Inhabited

structure GateEntry where
  interval : Nat
  gates : Nat
  window : Nat
  deriving DecidableEq, Repr, Inhabited

structure GateList where
  port : Nat
  entries : List GateEntry
  deriving DecidableEq, Repr, Inhabited

structure PageGrant where
  func : Nat
  write : Bool
  page : Nat
  deriving DecidableEq, Repr, Inhabited

/-- A base image as it stands in force, read for this member (R274). -/
structure BaseImage where
  digest : List Byte := []
  herdId : W64 := 0
  x : Nat := 1
  y : Nat := 1
  z : Nat := 1
  root : Nat := 0
  member : Nat := 0
  members : List MemberRec := []
  speed : List SpeedRec := []
  groups : List GroupRec := []
  grantG : Nat := 1
  grantRows : List (List Nat) := []
  gates : List GateList := []
  pages : List PageGrant := []
  rates : List (Nat × Nat) := []     -- port rates at which the gates were checked (R357)
  deriving DecidableEq, Repr, Inhabited

structure TileShare where
  tile : Nat
  accMask : Nat
  plateBase : Nat
  plateCount : Nat
  sramBase : Nat
  sramCount : Nat
  deriving DecidableEq, Repr, Inhabited

structure MapRange where
  vpn : Nat
  npage : Nat
  tier : Nat
  stack : Nat
  bias : Nat
  deriving DecidableEq, Repr, Inhabited

/-- The JOB record (R275). -/
structure Job where
  shards : Nat := 8
  t : Nat := 1
  p : Nat := 1
  q : Nat := 1
  mode : Nat := 0
  path : Nat := 0
  nvar : Nat := 1
  var0 : Nat := 0
  bucketLog2 : Nat := 24
  log2Nslot : Nat := 6
  ledgerLog2 : Nat := 6
  ceilSq : W32 := 0
  skipLimit : Nat := 0
  updPlate : Nat := 0
  prefMax : Nat := 0
  holdCap : Nat := 0
  holdTimeout : Nat := 1000
  snapEvery : Nat := 0
  ema0 : W32 := 0
  beta1 : W32 := 0
  beta2 : W32 := 0
  cvtM : Nat := 0
  demandMax : Nat := 0
  slotPages : Nat := 0
  poolSlots : Nat := 0
  lwlGts : Nat := 64
  lwlWidth : Nat := 16
  journalVpn : Nat := 0
  ledgerVpn : Nat := 0
  gbuf0Vpn : Nat := 0
  gbuf1Vpn : Nat := 0
  stateVpn : Nat := 0
  poolVpn : Nat := 0
  cmdOff : Nat := 0
  fillOf : Nat := 255
  v : Nat := 1
  seed : W32 := 0
  variants : List (Nat × Nat) := []   -- (c, T)
  deriving DecidableEq, Repr, Inhabited

structure Layer where
  layer : Nat
  expert : Bool
  treat : Nat
  rows : Nat
  cols : Nat
  wtag : Nat
  mtag : Nat
  stage : Nat
  corr : Bool
  firstChunk : Nat
  nchunk : Nat
  deriving DecidableEq, Repr, Inhabited

structure ExpertRec where
  lshard : Nat
  parked : Bool
  homeVpn : Nat
  npage : Nat
  deriving DecidableEq, Repr, Inhabited

structure ExpertLayer where
  layer : Nat
  k : Nat
  d : Nat
  cap : Nat
  ertBase : Nat
  experts : List ExpertRec
  deriving DecidableEq, Repr, Inhabited

structure PreGroup where
  layer : Nat
  lshard : Nat
  brow : Nat
  bcol : Nat
  a : Nat
  b : Nat
  sides : Nat
  pL : Nat
  pR : Nat
  kmax : Nat
  n : Nat
  offset : Nat
  betaP : W32
  lambda0 : W32
  tol : W32
  chunk0 : Nat
  deriving DecidableEq, Repr, Inhabited

structure ProgSection where
  tfirst : Nat
  tcount : Nat
  offset : Nat
  instrs : List (List W32)
  deriving DecidableEq, Repr, Inhabited

/-- The cast extension of a transfer (R458). -/
structure CastExt where
  nelem : Nat
  rlen : Nat
  ibase : Nat
  rstride : Nat
  tag : Nat
  deriving DecidableEq, Repr, Inhabited

/-- One mule transfer (XFER, R274). -/
structure Xfer where
  srcSp : Nat
  dstSp : Nat
  port : Nat
  tc : Nat
  cvt : Nat
  mule : Nat
  src : Nat
  dst : Nat
  bytes : Nat
  sfmt : Nat
  ssdesc : Nat
  cast : Option CastExt
  deriving DecidableEq, Repr, Inhabited

structure XferList where
  index : Nat
  xfers : List Xfer
  deriving DecidableEq, Repr, Inhabited

/-- A step program entry (R248). -/
structure StepEntry where
  start : Nat
  due : Nat
  op : Nat
  group : Nat
  arg : Nat
  deriving DecidableEq, Repr, Inhabited

structure StepProg where
  var : Nat
  entries : List StepEntry
  deriving DecidableEq, Repr, Inhabited

structure InputRec where
  pmember : Nat
  var : Nat
  item : Nat
  producer : Nat
  deriving DecidableEq, Repr, Inhabited

structure TreeRec where
  tree : Nat
  k : Nat
  wcode : Nat
  int : Bool
  layer : Nat
  role : Nat
  parts : List (Nat × Nat)     -- (LEVEL, POS)
  deriving DecidableEq, Repr, Inhabited

/-- The definition of one function as a function image gives it for this member (R274). -/
structure FuncImage where
  digest : List Byte := []
  qfirst : Nat := 0
  qcount : Nat := 0
  ertBase : Nat := 0
  ertCount : Nat := 0
  staging : List (Nat × Nat) := []   -- per die (base, count) in 1 MiB units
  tiles : List TileShare := []
  map : List MapRange := []
  job : Job := {}
  layers : List Layer := []
  experts : List ExpertLayer := []
  lrate : List (Nat × W32) := []
  precond : List PreGroup := []
  updprog : List (List W32) := []
  progs : List ProgSection := []
  xfers : List XferList := []
  steps : List StepProg := []
  inputs : List InputRec := []
  trees : List TreeRec := []
  links : List (Nat × Nat) := []     -- die-to-die links its MULE items cross, at the GB/s the check counted (R378)
  deriving DecidableEq, Repr, Inhabited

/-! ### Queues (12_larwa_link_and_queues) -/

inductive QState where
  | idle
  | active
  | haltedError
  | haltedLink
  | haltedHost
  deriving DecidableEq, Repr, Inhabited

/-- An accepted entry (R330): queue, entry index, opcode, tag and the 64 bytes. -/
structure Cmd where
  q : Nat
  entry : W32
  opcode : Nat
  tag : W32
  bytes : List Byte
  deriving DecidableEq, Repr, Inhabited

/-- A completion record waiting for room in its ring (R333, R334). -/
structure Completion where
  tag : W32
  entry : W32
  status : Nat
  result : List Byte     -- RESULT bytes 0-15 of R336
  deriving DecidableEq, Repr, Inhabited

/-- A queue: its 64-byte descriptor (R329), the stale re-reads made of entry HEAD (R332), the command in progress
that holds the queue, and records that wait for room. -/
structure Queue where
  ring : W64 := 0
  cpl : W64 := 0
  log2Ent : Nat := 0
  log2Cpl : Nat := 0
  state : QState := .idle
  view : Nat := 0
  ivec : Nat := 0
  ipath : Nat := 0
  err : Nat := 0
  head : W32 := 0
  tail : W32 := 0
  chead : W32 := 0
  cdone : W32 := 0
  epoch : W32 := 0
  ignored : Nat := 0
  stale : Bool := false          -- the last read of entry HEAD was stale
  rereads : Nat := 0
  running : Option Cmd := none
  waiting : List Completion := []
  destroying : Option Cmd := none    -- the QDESTROY that waits for the running command (R338)
  disarming : Bool := false          -- LWL_AQ_CTL.DISARM pending
  deriving DecidableEq, Repr, Inhabited

/-! ### Functions and herd jobs -/

inductive FState where
  | off
  | enabling
  | on
  | draining
  | scrubbing
  deriving DecidableEq, Repr, Inhabited

/-- A translation entry (R298). -/
structure Pte where
  bias : Bool := false
  valid : Bool := false
  pfn : BitVec 27 := 0
  deriving DecidableEq, Repr, Inhabited

/-- An issued schedule item (R249): when it is late from (HOLD_TIMEOUT, R259) is not kept, HOLD_TIMEOUT being a command. -/
inductive ItemSt where
  | waiting
  | issued
  | started
  | complete
  deriving DecidableEq, Repr, Inhabited

/-- A pending STOP (R264). -/
structure StopReq where
  cmd : Option Cmd       -- none for a stop by the module's own limits
  immediate : Bool
  sched : W32
  deriving DecidableEq, Repr, Inhabited

/-- One forward-pass shard header kept until the layer's backward pass ends (R155). -/
structure ShardSeen where
  layer : Nat
  lshard : Nat
  gen : W32
  firstBlock : Nat
  nblock : Nat
  crc : W32
  deriving DecidableEq, Repr, Inhabited

/-- A repeated failure is judged against the step before (R153, R94): what failed and in which global step. -/
structure FailSeen where
  kind : Nat             -- 0 shard (GEN or CRC), 2 bucket, 3 tree, 4 expert
  a : Nat
  b : Nat
  step : W32
  deriving DecidableEq, Repr, Inhabited

/-- A received or formed partial of one gradient tree (R159): its node, its shape and its values. -/
structure TreePart where
  tree : W32
  level : Nat
  pos : Nat
  wcode : Nat
  nspanM1 : Nat
  rows : Nat
  cols : Nat
  nodes : List Node
  deriving DecidableEq, Repr, Inhabited

/-- Per-block statistics gathered in a step, keyed by (layer, block): squared norms as nodes (R163). -/
structure BlockStat where
  layer : Nat
  lshard : Nat
  block : Nat
  gSq : Node
  gMax : W32
  gNf : Nat
  wSq : Node
  wMax : W32
  uSq : Node
  uMax : W32
  uNf : Nat
  root : Bool := false      -- the block's gradient is in: its root is stored, or its tree mismatched (R94, R159)
  deriving DecidableEq, Repr, Inhabited

/-- A step program under way whose step has ended, for its late items (R248, R250): the first SCHED, step and variant. -/
structure StepRun where
  first : W32
  step : W32
  var : Nat
  deriving DecidableEq, Repr, Inhabited

/-- What the manifest of a generation gives (R180): GEN, the counts and the steering state as its step was decided. -/
structure SnapMeta where
  gen : W32
  applied : W32
  step : W32
  mbvar : Nat
  ema : W32
  deriving DecidableEq, Repr, Inhabited

/-- The squared norm of one block of a (logical shard, micro-batch) contribution (R157). -/
structure MicroNorm where
  layer : Nat
  lshard : Nat
  batch : Nat
  block : Nat × Nat         -- logical shard and place of the block's owner's list
  sq : Node
  deriving DecidableEq, Repr, Inhabited

/-- A bucket that the member fills (R160): stage, receiver, on the fall-back path the layer, records sent in closed ones, and the
records so far with their layers. -/
structure OutBucket where
  stage : Nat
  dst : Nat
  layer : Option Nat
  sent : Nat
  recs : List (Nat × List Byte)
  deriving DecidableEq, Repr, Inhabited

/-- A dispatch header seen in the step (R222). -/
structure DispatchSeen where
  layer : Nat
  expert : Nat
  unit : Nat
  kept : Nat
  routed : Nat
  deriving DecidableEq, Repr, Inhabited

/-- A prefetch in the mules' own list (R232, R233). -/
structure Prefetch where
  entry : Nat
  slot : Nat
  lastgen : W32
  complete : Bool
  deriving DecidableEq, Repr, Inhabited

/-- A demand or promoted fetch in flight (R229, R234). -/
structure Fetch where
  entry : Nat
  slot : Nat
  lastgen : W32
  demand : Bool
  deriving DecidableEq, Repr, Inhabited

/-- A journal slot in use (R195, R199): its count in the ring, its chunk and how far it has come. -/
structure JSlot where
  count : W32
  chunk : Nat
  step : W32
  committed : Bool
  copied : Bool
  deriving DecidableEq, Repr, Inhabited

/-- A preconditioner group's 16-byte state (R207): fall-back flags and last retry counts. -/
structure GroupState where
  fallL : Bool := false
  fallR : Bool := false
  retryL : Nat := 0
  retryR : Nat := 0
  deriving DecidableEq, Repr, Inhabited

/-- A snapshot or restore stream (R368) or peer transfer (R328) in progress. -/
structure Shipment where
  cmd : Option Cmd
  gen : W32
  overEthernet : Bool
  port : Nat
  dmac : BitVec 48
  stream : Nat
  tc : Nat
  restore : Bool
  frames : List (List Byte)    -- snapshot: STREAM payloads; restore: payloads received, in order
  sent : Nat
  acked : Nat
  timeouts : Nat
  deriving DecidableEq, Repr, Inhabited

/-- A receiving transfer (R350): the sending list's INDEX bits and transfer number with the port they arrive on, the bytes
that have arrived, and those a cast still holds. -/
structure RxState where
  port : Nat
  list : Nat
  xid : Nat
  count : Nat
  held : List Byte
  step : W32 := 0           -- of a cast: STEP as it started (R71)
  done : Nat := 0           -- of a cast: elements converted
  deriving DecidableEq, Repr, Inhabited

/-- A function: its state machine (R339), its translation table, its herd registers (R173, R213, R238, R268) and what
its job holds between commands. -/
structure Func where
  state : FState := .off
  epoch : W32 := 0                         -- LWL_FSTATn.EPOCH
  pending : Option (List Nat) := none      -- ENABLE_PENDING with its host page list
  pendingCmds : List Cmd := []             -- ENABLEs that wait for it
  enablingCmds : List Cmd := []            -- ENABLEs in progress
  hostPages : List Nat := []
  table : Table Pte := []
  debugWritten : Bool := false             -- a DEBUG_WRITE record was given since the enable (R450)
  -- HERD_STEPn, HERD_OUTCOMEn, HERD_LEDGERn (R173)
  step : W32 := 0
  gen : W32 := 0
  skiprun : Nat := 0
  mbvar : Nat := 0
  voteOut : BitVec 5 := 0
  outcome : Nat := 7
  ledWr : W32 := 0
  ledRd : W32 := 0
  ledLost : Nat := 0
  -- HERD_JCFGn to HERD_JSTATn (R213)
  jbase : Nat := 0
  jlog2 : Nat := 0
  jtail : W32 := 0
  jhead : W32 := 0
  applied : W32 := 0
  recovered : Nat := 0
  jstate : Nat := 0
  -- HERD_ERTCFGn to HERD_XDROPn (R238)
  poolSlots : Nat := 0
  slotPages : Nat := 0
  poolVpn : Nat := 0
  ertBase : Nat := 0
  ertCount : Nat := 0
  xErr : Nat := 0
  xPromoted : Nat := 0
  xIssued : Nat := 0
  xOver : Nat := 0
  xDemand : Nat := 0
  xStale : Nat := 0
  xDropped : Nat := 0
  -- HERD_FJOBn, HERD_FHOLDn, HERD_MEVTn (R268)
  s0 : W32 := 0
  run : Bool := false
  armed : Bool := false                    -- a START was accepted and S0 is still ahead (R264)
  stepSlots : Nat := 0
  totalSlots : Nat := 0
  mevt : Events := {}
  -- the job between commands
  stop : Option StopReq := none
  stopMore : List StopReq := []            -- further STOPs waiting for the same stop
  resumeCmd : Option Cmd := none
  halted : Bool := false                   -- halted at a step boundary (R194)
  interrupted : Bool := false              -- an interruption of R202 awaits recovery
  stopAtBoundary : Nat := 0                -- 0 none, 1 hold cap, 2 SKIP_LIMIT, 3 module-loss at boundary (R307)
  stepFirst : W32 := 0
  progStep : W32 := 0                      -- the step that the step program under way runs
  progVar : Nat := 0                       -- the variant of that program (R248)
  older : List StepRun := []               -- step programs before it with late items, newest first (R250)
  items : Table ItemSt := []
  jstep0 : W32 := 0                        -- HEAD at the step's first slot
  jslots : List JSlot := []
  commitDue : List Nat := []               -- chunks of the committed step whose commit record is due (R199)
  gradKept : List W32 := []                -- steps whose gradient is kept (R200)
  checked : List Nat := []                 -- chunks whose state word was checked in the step (R194)
  voteBits : BitVec 8 := 0                 -- bits raised and not yet counted in a decided vote
  voteCast : Bool := false
  voteOr : BitVec 8 := 0
  voteOpen : Bool := false                 -- the vote exchange runs (VOTE item)
  voteLeft : Nat := 0                      -- slots of the exchange still to run (R170)
  voteKept : Option (W32 × W32 × BitVec 8) := none   -- STEP, GEN and OR of the step's decided vote, still sent to neighbours
  gnorm : Node := {}
  mbnorm : W32 := 0
  mbSums : List (Nat × Nat × W32) := []    -- MB_SUMSQ by layer and owned logical shard (R157)
  ema : W32 := 0
  startStep : W32 := 0                     -- first step of the job since START
  committedSince : Nat := 0                -- committed steps, for SNAP_EVERY
  snapWanted : List SnapMeta := []         -- generations that SNAP_EVERY asks for, not yet read, oldest first (R178, R181)
  stats : List BlockStat := []
  shards : List ShardSeen := []
  fails : List FailSeen := []
  parts : List TreePart := []
  micros : List MicroNorm := []            -- squared norms of the step's own contributions in mode B (R157)
  buckets : List OutBucket := []           -- buckets being filled (R160)
  bucketsSent : Table Nat := []            -- buckets sent, by stage
  dispatch : List DispatchSeen := []
  routedPrev : Table Nat := []             -- ROUTED of the previous micro-batch, by ERT entry
  routedStep : Table Nat := []             -- ROUTED_s, by ERT entry
  prefetches : List Prefetch := []
  fetches : List Fetch := []
  demandOpen : Option Nat := none
  stepVar : Nat := 0                       -- MBVAR of the last decided step, for its recovery (R203)
  pendingRoots : List Nat := []            -- root chunks of the decided step that get only their state word (R199)
  copyWrite : List Nat := []               -- ERT entries whose pool copy the commit copy under way also writes (R228)
  groupsDue : Table GroupState := []       -- group states of the committed step, not yet home (R207)
  ledgerWait : List (List (List Byte)) := []   -- record groups that wait for a link that retrains (R321)
  groups : Table GroupState := []          -- group states of the step's refreshes, by group (R207)
  slotsGone : List Nat := []               -- copy pool slots withdrawn (R226)
  snap : Option Shipment := none
  snapTo : Option (Bool × Nat × List Byte) := none   -- path, port and TARGET of the last SNAPSHOT command
  flipped : List Nat := []                 -- VPNs of device-bias pages now shared (R313)
  biasAsked : List Nat := []               -- VPNs whose device bias firmware has requested again
  hostWr : Nat := 0
  flips : Nat := 0
  muleNext : Table Nat := []               -- next transfer of each MULE item under way (R250)
  rx : List RxState := []                  -- receiving transfers under way (R350)
  deriving DecidableEq, Repr, Inhabited

/-! ### Herd (09_herd_schedule) -/

inductive HerdState where
  | idle
  | linking
  | syncing
  | formed
  | faulted
  deriving DecidableEq, Repr, Inhabited

/-- What a member keeps of one neighbour, by port. -/
structure Neighbour where
  verified : Bool := false
  member : Nat := 0
  sched : W32 := 0
  funcrun : BitVec 16 := 0
  lastSlot : Nat := 0          -- herd slot of its last good control record
  heard : Bool := false        -- a control record of the present slot has arrived
  misses : Nat := 0            -- consecutive control misses
  counted : Bool := false      -- a control miss of the present slot is counted
  votes : BitVec 16 := 0       -- functions whose vote record arrived in the present slot (R170)
  torn : BitVec 16 := 0        -- functions whose vote record of the present slot came with a bad CRC (R170)
  mismatch : BitVec 16 := 0    -- functions whose FUNCRUN differed in its last record
  agreed : BitVec 16 := 0      -- functions whose job has run here and there at once
  failed : Bool := false
  deriving DecidableEq, Repr, Inhabited

/-- An ERT entry (R217). -/
structure ErtEntry where
  layer : Nat := 0
  expert : Nat := 0
  valid : Bool := false
  parked : Bool := false
  copy : Nat := 0              -- 0 NONE, 1 FILLING, 2 VALID
  func : Nat := 0
  lshard : Nat := 0
  gen : W32 := 0
  homeVpn : Nat := 0
  npage : Nat := 0
  slot : Nat := 0
  copyGen : W32 := 0
  heat : Nat := 0
  lastUse : W32 := 0
  deriving DecidableEq, Repr, Inhabited

/-- The herd block's module-wide state (R268). -/
structure Herd where
  h : Nat := 0
  held : Bool := false
  late : Bool := false
  lock : Bool := false
  state : HerdState := .idle
  member : Nat := 0
  x : Nat := 1
  y : Nat := 1
  z : Nat := 1
  time : W64 := 0
  slot : Nat := 0
  sched : W32 := 0
  misses : Nat := 0
  faultSlots : Nat := 0
  holds : Nat := 0
  orVec : BitVec 16 := 0       -- bit i: this member's OR for wave slot - i (R254)
  missed : Bool := false       -- a control record of the slot was missed (R253)
  goodSyncs : Nat := 0         -- consecutive Sync messages within 20 ns
  offTime : Bool := false      -- a time fault is not yet cleared (R246)
  nbrs : Table Neighbour := []
  causes : List (List (Nat × HoldKind)) := []   -- causes of the member's own samples, newest first, one per wave
  ertIdx : Nat := 0
  ertLatch : ErtEntry := {}    -- the copy that HERD_ERTIDX latched (R238)
  deriving DecidableEq, Repr, Inhabited

/-! ### Memory (11_memory) -/

inductive PageHealth where
  | good
  | suspect
  | retired
  deriving DecidableEq, Repr, Inhabited

/-- What an HBM page is assigned to (R297, R299, R329). -/
inductive PageUse where
  | free
  | firmware
  | mapped (fn : Nat)
  | descriptor (fn : Nat)
  deriving DecidableEq, Repr, Inhabited

structure Page where
  health : PageHealth := .good
  use : PageUse := .free
  withdrawn : Bool := false
  ues : Nat := 0
  deriving DecidableEq, Repr, Inhabited

/-- HBM stack status (CD_HBMSTATp and R306). -/
structure Stack where
  failed : Bool := false
  ue : Nat := 0
  ce : Nat := 0
  deriving DecidableEq, Repr, Inhabited

/-- Compute-die registers (CD_ECCLOG, CD_PATROL, CD_SRAMSTAT). -/
structure Die where
  eccValid : Bool := false
  eccPatrol : Bool := false
  eccMapped : Bool := false
  eccFunc : Nat := 0
  eccLine : Nat := 0
  patrolSlow : Bool := false
  patrolPasses : Nat := 0
  sramUE : Nat := 0
  sramCE : Nat := 0
  alive : BitVec 6 := 0          -- CD_CDCSTAT ALIVE bits [5:0]
  brrst : Nat := 0
  deriving DecidableEq, Repr, Inhabited

/-! ### Links -/

inductive LwlState where
  | down
  | training
  | up
  | retrain
  | out
  deriving DecidableEq, Repr, Inhabited

/-- LWL_LINK (R343). -/
structure LwlLink where
  retrains : Nat := 0
  ctlsub : Bool := false
  width : Nat := 0
  rate : Nat := 0
  lanes : Nat := 0
  state : LwlState := .down
  deriving DecidableEq, Repr, Inhabited

/-- HUB_BUSSTAT (R343). -/
structure BusPort where
  p2perr : Nat := 0
  width : Nat := 0
  gen : Nat := 0
  deriving DecidableEq, Repr, Inhabited

/-- The module-wide part of the LWL_ block (R343). -/
structure Larwa where
  epoch : W32 := 1
  hostEpoch : Option Nat := none     -- the host epoch last seen (R341)
  aqRingBase : BitVec 35 := 0
  aqRingLog2 : BitVec 5 := 0
  aqCplBase : BitVec 35 := 0
  aqCplLog2 : BitVec 5 := 0
  aqIvec : BitVec 16 := 0
  aqIpath : BitVec 2 := 0
  aqArmErr : Bool := false
  qsel : BitVec 20 := 0
  deriving DecidableEq, Repr, Inhabited

inductive PortState where
  | down
  | training
  | up
  | shedding
  | failed
  deriving DecidableEq, Repr, Inhabited

/-- A DATA frame in a port's replay buffer (R361). -/
structure SentFrame where
  seq : W32
  tc : Nat
  bytes : List Byte
  deriving DecidableEq, Repr, Inhabited

structure VlanEntry where
  strip : Bool := true
  insert : Bool := false
  vid : BitVec 12 := 0
  deriving DecidableEq, Repr, Inhabited

/-- An Ethernet port (R369, R361). -/
structure Port where
  enable : Bool := true
  rate : BitVec 2 := 0
  sheds : Nat := 0
  cfgerr : Bool := false
  failedLanes : BitVec 4 := 0
  width : Nat := 0
  state : PortState := .down
  resent : Nat := 0
  episodes : Nat := 0
  noMatchCnt : Nat := 0
  errfrm : Nat := 0
  mpd : Nat := 0
  offset : W16 := 0
  mac : Option (BitVec 48) := none       -- none: the derived factory default
  macInUse : Option (BitVec 48) := none
  vlan : Table VlanEntry := []
  peerMac : BitVec 48 := 0
  txSeq : W32 := 0
  rxSeq : W32 := 0
  replay : List SentFrame := []
  unsent : List SentFrame := []          -- frames that wait for room in the replay buffer
  nak : Bool := false
  episode : Option (W32 × W32) := none   -- frames resent in it; first SEQ sent after it began
  paused : BitVec 8 := 0                 -- classes paused by received PFC (R366)
  pfcSent : BitVec 8 := 0                -- classes this port has paused at its partner
  deriving DecidableEq, Repr, Inhabited

inductive D2dState where
  | absent
  | down
  | training
  | up
  | retrain
  | failed
  deriving DecidableEq, Repr, Inhabited

/-- A die-to-die link (R392). -/
structure D2d where
  retrains : Nat := 0
  crcerr : Nat := 0
  mods : Nat := 0
  gen : Nat := 0
  state : D2dState := .absent
  deriving DecidableEq, Repr, Inhabited

inductive ChipState where
  | absent
  | down
  | training
  | up
  | faulted
  deriving DecidableEq, Repr, Inhabited

/-- A firewall window with its token bucket (R385, R386); `tokens` in bytes. -/
structure Window where
  valid : Bool := false
  wr : Bool := false
  rd : Bool := false
  func : BitVec 4 := 0
  vpn : BitVec 27 := 0
  npage : BitVec 20 := 0
  burst : BitVec 16 := 0
  rate : BitVec 16 := 0
  tokens : Nat := 0
  waiting : Option ChipletReq := none
  deriving DecidableEq, Repr, Inhabited

/-- A hub die: its crossings, its chiplet site and firewall, its Larwa link and its bus port. -/
structure Hub where
  alive : BitVec 7 := 0
  brrst : Nat := 0
  viol : Nat := 0
  cfgerr : Bool := false
  chipRate : Nat := 0
  chip : ChipState := .absent
  chipFails : Nat := 0
  fwValid : Bool := false
  fwKind : Nat := 0
  fwWin : Nat := 0
  fwAddr : BitVec 48 := 0
  windows : Table Window := []
  link : LwlLink := {}
  bus : BusPort := {}
  etype : W16 := 0x88B5
  etypeNext : W16 := 0x88B5
  deriving DecidableEq, Repr, Inhabited

/-! ### Power (15_power_and_thermal) -/

/-- PMG_DIEd, PMG_BEATd and the power manager's own state of one die. -/
structure DiePower where
  tmax : Nat := 0
  tpoint : Nat := 0
  vmeas : Nat := 0
  idd : Nat := 0
  vset : Nat := 0
  rate : Nat := 0
  comp : Nat := 0              -- comp(d), R400
  lost : Bool := false         -- telemetry lost, R395
  short : Bool := false
  outside : Bool := false
  tOver : Bool := false        -- the last period began above TLIMIT
  deriving DecidableEq, Repr, Inhabited

structure Power where
  cfgerr : Bool := false
  limit : BitVec 12 := 2000    -- Image (code power of the flagship)
  tlimit : BitVec 8 := 100     -- Image (100)
  vfloorDef : BitVec 10 := 700 -- Image (700)
  vtarget : BitVec 10 := 800   -- Image (800)
  vin : Nat := 0
  iin : Nat := 0
  pavg : Nat := 0
  pmax : Nat := 0
  pthrot : Nat := 0
  tthrot : Nat := 0
  shortfall : Nat := 0
  droop : Nat := 0
  plim : Bool := false
  inhi : Bool := false
  inlo : Bool := false
  hbmStack : Nat := 0
  hbmTmax : Nat := 0
  hbmTemps : List Nat := []
  dies : Table DiePower := []
  deriving DecidableEq, Repr, Inhabited

/-! ### Boot, security, NV (10, 16) -/

inductive Supply where
  | unpowered
  | standby
  | running
  deriving DecidableEq, Repr, Inhabited

inductive Stage where
  | standby
  | bootrom
  | firmware
  | selftest
  | ready
  | prepared
  | recovery
  | failed
  deriving DecidableEq, Repr, Inhabited

structure TripLog where
  valid : Bool := false
  die : Nat := 0
  point : Nat := 0
  temp : Nat := 0
  stack : Nat := 0
  deriving DecidableEq, Repr, Inhabited

/-- Supply state, resets, the sideband pins the module drives and sees (R371, R408, R434). -/
structure Boot where
  supply : Supply := .unpowered
  stage : Stage := .standby
  err : Nat := 0
  fwCopyB : Bool := false
  remreq : Bool := false
  trip : TripLog := {}
  ccRestarts : Nat := 0
  cause : Nat := 0
  present : Bool := false
  pwrEn : Bool := false
  pgood : Bool := false
  attn : Bool := false
  restart : Option Nat := none       -- a control-core restart is due, with its cause (R409)
  dead : Bool := false               -- a MODULE-class event: no function starts until reset or power-up (R438)
  smbLow : Bool := false             -- SMB_ALERT_N held low (R374, R401)
  thermtrip : Bool := false
  riseIgnored : Bool := false        -- PWR_EN rose too early: the rise is ignored until it falls again (R411)
  prior : Stage := .ready            -- where REMCANCEL returns to: READY, or an earlier stage that REMREQ found (R432)
  deriving DecidableEq, Repr, Inhabited

/-- What a firmware or settings slot holds: content, and the 64 bytes of its commit record, none where it is erased (R289). -/
structure NvCopy where
  content : List Byte
  record : List Byte
  deriving DecidableEq, Repr, Inhabited

/-- What a run of library blocks holds. -/
structure NvEntry where
  block : Nat
  blocks : Nat
  content : List Byte
  record : List Byte
  deriving DecidableEq, Repr, Inhabited

/-- Non-volatile storage (R288 to R291) and what firmware last found there (NVS_SLOTSTAT). -/
structure Nv where
  fwA : Option NvCopy := none
  fwB : Option NvCopy := none
  setA : Option NvCopy := none
  setB : Option NvCopy := none
  library : List NvEntry := []
  nextId : Nat := 1
  listErr : Bool := false      -- HUB_HBMCAP.LISTERR (R308)
  found : Bool := false        -- firmware has read the slots since power-up
  fwActiveB : Bool := false
  setActiveB : Bool := false
  rejected : List Nat := []    -- settings slots that failed their signature at power-up (R287)
  deriving DecidableEq, Repr, Inhabited

structure Security where
  fwSvn : Nat := 0
  owned : Bool := false
  idfail : Bool := false
  idok : Bool := false
  fwFloor : Nat := 0
  okeyEn : BitVec 4 := 0
  okeys : Table W32 := []              -- key k × 24 + w
  settingsDigest : List Byte := []
  fwDigest : List Byte := []
  fwKey : List Byte := []              -- vendor key of the running firmware
  draws : Nat := 0                     -- nonces drawn from the random source (R427): the model's own counter
  signs : Nat := 0                     -- signatures and SPDM nonces drawn: the model's own counter
  ownerLevel : Nat := 0
  ownerMask : BitVec 16 := 0
  vendor : Bool := false
  fails : Nat := 0
  deriving DecidableEq, Repr, Inhabited

/-! ### Image commands (10) -/

/-- The LOAD that has passed its check and waits for every die to reach its floor (R276, R283): firmware's own copy of the
image, the functions it names, whether it is also to be stored, and what is left of an autoload (R287). -/
structure ImageWait where
  cmd : Option Cmd              -- none for an autoload at power-up
  image : List Byte
  funcs : List Nat
  store : Bool
  autoRest : List Nat := []     -- library entries an autoload still has to load
  deriving DecidableEq, Repr, Inhabited

structure ImgStat where
  offset : Nat := 0
  section_ : Nat := 0xFF
  stage : Nat := 0
  outcome : Nat := 0xF
  deriving DecidableEq, Repr, Inhabited

/-! ### Errors and debug (17) -/

/-- An error record (R435). -/
structure ErrRec where
  code : Nat
  cls : Nat
  func : Nat
  member : Nat
  unit : Nat
  htime : W64
  step : W32
  seq : W32
  a : W64
  b : W64
  c : W64
  hold : Nat
  deriving DecidableEq, Repr, Inhabited

structure Errors where
  ringBase : BitVec 35 := 0
  ringLog2 : BitVec 5 := 0
  rd : W32 := 0
  wr : W32 := 0
  lost : W32 := 0
  ivec : W16 := 0
  ipath : BitVec 2 := 0
  arm : Bool := false
  armEpoch : W32 := 0
  held : List ErrRec := []
  seq : W32 := 0
  maxHold : Nat := 0
  loss : Nat := 0
  recov : Nat := 0
  minutes : W32 := 0
  deriving DecidableEq, Repr, Inhabited

inductive TapInstr where
  | extest
  | samplePreload
  | idcode
  | dbgAuth
  | dbgNonce
  | dbgStat
  | dbgAcc
  | bypass
  deriving DecidableEq, Repr, Inhabited

structure Debug where
  all : Bool := false
  func : BitVec 4 := 0
  tile : BitVec 9 := 0
  bphit : BitVec 16 := 0
  wphit : BitVec 8 := 0
  wpWrite : Bool := false
  wpKind : Nat := 0
  wpUnit : Nat := 0
  wpAddr : BitVec 48 := 0
  twSpace : BitVec 2 := 0
  twPlate : BitVec 6 := 0
  twBank : BitVec 2 := 0
  twElem : BitVec 13 := 0
  bps : Table W64 := []
  wpBase : Table W64 := []
  wpLen : Table W64 := []
  haltAsked : List (Nat × Option Nat) := []   -- halts asked for: function, and the tile or none for ALL
  muleHalt : List Nat := []                   -- functions whose mules start no list (R451)
  tap : TapInstr := .idcode                   -- selected TAP instruction; idcode after test-logic reset (R447)
  accStatus : Nat := 0
  accData : W64 := 0
  deriving DecidableEq, Repr, Inhabited

/-! ### What leaves the module -/

/-- What the module answers to an SPDM request (R422, R423). The DMTF specification, not the manual, lays the messages out. -/
inductive SpdmAnswer where
  | version (major minor : Nat)
  | capabilities (sessions preShared mutualAuth provisioning : Bool)
  | algorithms (ecdsa hash : Nat) (dmtfMeasurements : Bool)   -- 384: ECDSA on P-384, SHA-384
  | digests (slotMask : Nat) (digest : List Byte)
  | certificate (slot : Nat) (portion : List Byte) (remainder : Nat)
  | challengeAuth (nonce signature : List Byte)
  | measurementCount (n : Nat)
  | measurements (blocks : List (Nat × List Byte))
  | unsupportedRequest
  | unspecifiedError
  | invalidRequest
  deriving DecidableEq, Repr, Inhabited

/-- Something the module sends or answers, in order. The list is the model's own record of its outputs. -/
inductive Out where
  | interrupt (path vector : Nat)                  -- R334, R436
  | frame (port kind tc : Nat) (bytes : List Byte) -- an Ethernet frame handed to a port: herd header on (R350)
  | ptp (port : Nat)                               -- Sync and delay messages (R243)
  | pfc (port : Nat) (classes pause : BitVec 8)    -- R366
  | spdm (a : SpdmAnswer)                          -- R422
  | mctp (bytes : List Byte)                       -- R428
  | regRead (value : W64)                          -- what a read returned
  | bucket (fn dst : Nat) (bytes : List Byte)      -- a closed bucket, for the mules that carry it (R159, R160)
  | shard (fn dst : Nat) (header : List Byte)      -- the shard header that goes before a gathered piece (R151, R152)
  | dispatch (fn dst : Nat) (bytes : List Byte)    -- a dispatch or return record, for the mules that carry it (R222)
  | peerWrite (addr : Nat) (bytes : List Byte)     -- bus-port peer-to-peer write (R328)
  | hostRead (hpa len : Nat)                       -- a read request whose data arrives as an operand
  | chiplet (hub : Nat) (aborted poisoned : Bool) (data : List Byte)  -- R384, R383
  | scan (instr : TapInstr) (value : Nat)          -- a TAP data register as captured (R448)
  | smbAlert                                       -- SMB_ALERT_N pulsed or asserted
  | configRetry (hub : Nat)                        -- Configuration Request Retry Status (R410)
  | configNormal (hub : Nat)
  | pldm (accepted : Bool)                         -- R417
  deriving DecidableEq, Repr, Inhabited

end Sys2Proof.Machine
end

