-- ==== Sys2Proof/Machine/State.lean ====
section
/-! DEFINITION. The state of one module, the reasons a command can stop, and the state after reset. -/
namespace Sys2Proof.Machine

/-- Everything the manual gives the module, and the model's own queue, output list and draw counters.
Indexed pieces are sparse tables: a key that is not listed holds the piece's reset value. -/
structure State where
  /-- The assembly: ordering code and what stands in the optional sites (R2, R380, R381). No command changes it. -/
  asm : Assembly := { code := .c4C12H2X, chiplet0 := false, chiplet1 := false, oldHub0 := false, oldHub1 := false }
  /-- Every byte of HBM, staging SRAM, tile SRAM and companion memory by device physical address (R37). -/
  mem : Table Byte := []
  /-- Addresses of the 64-byte HBM and companion lines (R302, R305) and of the 64-bit SRAM words (R440, R443) held
  as poison. -/
  poison : List Nat := []
  /-- Queues whose completion ring the host answers with an error (R335): a fact about the host that no command
  changes. -/
  badRings : List Nat := []
  /-- Tiles by tile id (R23). -/
  tiles : Table Tile := []
  /-- Functions by id (R31). -/
  funcs : Table Func := []
  /-- Queues by id (R329). -/
  queues : Table Queue := []
  /-- ERT entries (R217). -/
  ert : Table ErtEntry := []
  /-- HBM pages by PFN: stack × 32,768 + page (R297). -/
  pages : Table Page := []
  hbmStacks : Table Stack := []
  dies : Table Die := []
  hubs : Table Hub := []
  /-- Ethernet ports by port id (R345). -/
  ports : Table Port := []
  /-- Die-to-die links (R20): 0 to 3 the edges 0-1, 2-3, 0-2, 1-3; 4 to 7 hub to compute. -/
  links : Table D2d := []
  herd : Herd := {}
  larwa : Larwa := {}
  power : Power := {}
  boot : Boot := {}
  nv : Nv := {}
  sec : Security := {}
  base : Option BaseImage := none
  images : Table FuncImage := []
  imgWait : Option ImageWait := none
  imgStat : ImgStat := {}
  errs : Errors := {}
  dbg : Debug := {}
  /-- What the module has sent and answered, newest first: the model's own record. -/
  out : List Out := []
  /-- Free values drawn so far: the model's own counter. -/
  draws : Nat := 0
  /-- Commands that wait, first in, first out: the model's own queue. -/
  pending : List Instr := []
  deriving DecidableEq, Repr, Inhabited

/-- The module as it stands before input power comes (R408): every field at its reset value. -/
def State.reset : State := {}

/-- Why a step stops for good. -/
inductive Fault where
  /-- Raised by a command that names a die, tile, stack, hub die, port, link, queue or page the assembly does not
  have: the manual gives it no address (R4, R22, R345). Safe: no effect is claimed. -/
  | absent (unit : String) (n : Nat)
  deriving DecidableEq, Repr, Inhabited

/-- Why a command has no effect in the model. -/
inductive Refusal where
  /-- Raised by no meaning: an arm of `exec` not written yet. Safe. -/
  | notModelled (mnemonic : String)
  deriving DecidableEq, Repr, Inhabited

/-- A meaning's answer. -/
abbrev Answer := Host.Outcome State Fault Refusal

end Sys2Proof.Machine
end

