-- ==== Sys2Proof/Machine/Ops.lean ====
section
/-! DEFINITION. The named operations over the state: accessors of every table, the address space, memory with its
poison, error records (R435 to R439), completion records (R333, R334), stops of jobs and functions (R339), and
translation (R298). -/
namespace Sys2Proof.Machine

/-! ### Accessors -/

def State.tile (s : State) (t : Nat) : Tile := tget {} s.tiles t
def State.setTile (s : State) (t : Nat) (v : Tile) : State := { s with tiles := tset {} s.tiles t v }
def State.func (s : State) (n : Nat) : Func := tget {} s.funcs n
def State.setFunc (s : State) (n : Nat) (v : Func) : State := { s with funcs := tset {} s.funcs n v }
def State.queue (s : State) (q : Nat) : Queue := tget {} s.queues q
def State.setQueue (s : State) (q : Nat) (v : Queue) : State := { s with queues := tset {} s.queues q v }
def State.ertEntry (s : State) (e : Nat) : ErtEntry := tget {} s.ert e
def State.setErt (s : State) (e : Nat) (v : ErtEntry) : State := { s with ert := tset {} s.ert e v }
def State.page (s : State) (p : Nat) : Page := tget {} s.pages p
def State.setPage (s : State) (p : Nat) (v : Page) : State := { s with pages := tset {} s.pages p v }
def State.stack (s : State) (k : Nat) : Stack := tget {} s.hbmStacks k
def State.setStack (s : State) (k : Nat) (v : Stack) : State := { s with hbmStacks := tset {} s.hbmStacks k v }
def State.die (s : State) (d : Nat) : Die := tget {} s.dies d
def State.setDie (s : State) (d : Nat) (v : Die) : State := { s with dies := tset {} s.dies d v }
def State.hub (s : State) (h : Nat) : Hub := tget {} s.hubs h
def State.setHub (s : State) (h : Nat) (v : Hub) : State := { s with hubs := tset {} s.hubs h v }
def State.port (s : State) (p : Nat) : Port := tget {} s.ports p
def State.setPort (s : State) (p : Nat) (v : Port) : State := { s with ports := tset {} s.ports p v }
def State.link (s : State) (l : Nat) : D2d := tget {} s.links l
def State.setLink (s : State) (l : Nat) (v : D2d) : State := { s with links := tset {} s.links l v }
def State.image (s : State) (n : Nat) : FuncImage := tget {} s.images n
def State.diePower (s : State) (d : Nat) : DiePower := tget {} s.power.dies d
def State.setDiePower (s : State) (d : Nat) (v : DiePower) : State :=
  { s with power := { s.power with dies := tset {} s.power.dies d v } }
def State.code (s : State) : Code := s.asm.code
def State.emit (s : State) (o : Out) : State := { s with out := o :: s.out }

/-- Change one function's record. -/
def State.onFunc (s : State) (n : Nat) (f : Func → Func) : State := s.setFunc n (f (s.func n))
/-- Change one tile. -/
def State.onTile (s : State) (t : Nat) (f : Tile → Tile) : State := s.setTile t (f (s.tile t))
/-- Change one queue. -/
def State.onQueue (s : State) (q : Nat) (f : Queue → Queue) : State := s.setQueue q (f (s.queue q))
/-- Change every tile that differs from its reset state. -/
def State.onTiles (s : State) (f : Nat → Tile → Tile) : State :=
  (tkeys s.tiles).foldl (fun s t => s.onTile t (f t)) s
/-- Change every listed queue. -/
def State.onQueues (s : State) (f : Nat → Queue → Queue) : State :=
  (tkeys s.queues).foldl (fun s q => s.onQueue q (f q)) s

/-- Function ids 0 to 15 (R31). -/
def funcIds : List Nat := List.range 16

/-! ### What is fitted (R4, R20, R22) -/

def State.dieFitted (s : State) (d : Nat) : Bool := decide (d < s.code.dies)
def State.hubFitted (s : State) (h : Nat) : Bool := decide (h < s.code.hubs)
def State.tileFitted (s : State) (t : Nat) : Bool := decide (t < s.code.tiles)
def State.stackFitted (s : State) (k : Nat) : Bool := s.dieFitted (k / 3) && decide (k % 3 < s.code.positions)
/-- The fitted stacks in rising number (R22, R299). -/
def State.stackList (s : State) : List Nat := (List.range 12).filter s.stackFitted
/-- Links 0 to 3 are the compute-compute edges 0-1, 2-3, 0-2, 1-3; link 4 + d joins compute die d to its hub (R20). -/
def State.linkFitted (s : State) (l : Nat) : Bool :=
  if l = 0 then true
  else if l < 4 then s.code.dies == 4
  else if l < 6 then true
  else decide (l < 8) && s.code.hubs == 2

/-! ### The address space (R37 to R40) -/

/-- Where a device physical address lies. -/
inductive Region where
  | hbm (page : Nat)          -- page number stack × 32,768 + page
  | staging (die off : Nat)
  | tileSram (tile off : Nat)
  | regs (off : Nat)
  | doorbell (off : Nat)
  | companion (hpa : Nat)
  | reserved
  deriving DecidableEq, Repr, Inhabited

def pageSize : Nat := 0x200000
def stagingBase : Nat := 0x700000000000
def tileBase : Nat := 0x700100000000
def regBase : Nat := 0x7F0000000000
def doorBase : Nat := 0x7F8000000000
def companionBase : Nat := 0x800000000000

/-- A page whose window is treated as reserved: its stack is not fitted or failed, or it is withdrawn (R38). -/
def State.pageReserved (s : State) (p : Nat) : Bool :=
  !s.stackFitted (p / 32768) || (s.stack (p / 32768)).failed || (s.page p).withdrawn

/-- The region of an address, with the windows of R38 reserved. -/
def State.region (s : State) (a : Nat) : Region :=
  if a < 0xC000000000 then
    if s.pageReserved (a / pageSize) then .reserved else .hbm (a / pageSize)
  else if stagingBase ≤ a ∧ a < stagingBase + 0x8000000 then
    let o := a - stagingBase
    if s.dieFitted (o / 0x2000000) then .staging (o / 0x2000000) (o % 0x2000000) else .reserved
  else if tileBase ≤ a ∧ a < tileBase + 0x40000000 then
    let o := a - tileBase
    if s.tileFitted (o / 0x200000) then .tileSram (o / 0x200000) (o % 0x200000) else .reserved
  else if regBase ≤ a ∧ a < regBase + 0x80000000 then .regs (a - regBase)
  else if doorBase ≤ a ∧ a < doorBase + 0x800000 then .doorbell (a - doorBase)
  else if companionBase ≤ a ∧ a < 0x1000000000000 then .companion (a - companionBase)
  else .reserved

/-- Whether an address holds bytes of memory. -/
def State.isMemory (s : State) (a : Nat) : Bool :=
  match s.region a with
  | .hbm _ => true
  | .staging _ _ => true
  | .tileSram _ _ => true
  | .companion _ => true
  | _ => false

/-! ### Memory -/

/-- One byte; an unlisted address reads 0 (R309 for HBM; assumption 2 for the rest). -/
def State.byte (s : State) (a : Nat) : Byte := tget 0 s.mem a

/-- `n` bytes from address `a`. -/
def State.read (s : State) (a n : Nat) : List Byte := (List.range n).map fun i => s.byte (a + i)

/-- Whether the memory keeps its canonical form. -/
def Memory.wf (m : Table Byte) : Bool := twf 0 m

/-- The unit of poison at an address: a 64-bit word of SRAM (R440), a 64-byte line elsewhere (R302). -/
def poisonUnit (a : Nat) : Nat := if stagingBase ≤ a ∧ a < regBase then 8 else 64

/-- The poison unit that holds an address. -/
def poisonOf (a : Nat) : Nat := a / poisonUnit a * poisonUnit a

/-- The poisoned units that the range [a, a + n) meets. -/
def State.poisonsIn (s : State) (a n : Nat) : List Nat :=
  s.poison.filter fun p => decide (p < a + n ∧ a < p + poisonUnit p ∧ 0 < n)

/-- The lowest poisoned unit that the range [a, a + n) meets. -/
def State.poisonedIn (s : State) (a n : Nat) : Option Nat :=
  (s.poisonsIn a n).min?

/-- Mark the unit of an address as poison: what its bytes read as, where the manual says that the data is used as read
(R305), is a free value. -/
def State.addPoison (s : State) (a : Nat) : State :=
  let u := poisonOf a
  if s.poison.contains u then s
  else { s with
    poison := u :: s.poison, draws := s.draws + 1
    mem := tsetList 0 s.mem u ((List.range (poisonUnit u)).map fun i => Config.poisonedByte s.draws (u + i)) }

/-- Write bytes from address `a`; a write of a whole unit clears its poison (R304, R443). -/
def State.write (s : State) (a : Nat) (bs : List Byte) : State :=
  { s with
    mem := tsetList 0 s.mem a bs
    poison := s.poison.filter fun p => !decide (a ≤ p ∧ p + poisonUnit p ≤ a + bs.length) }

/-- Zero the range [lo, hi). -/
def State.zero (s : State) (lo hi : Nat) : State :=
  { s with
    mem := tclear s.mem lo hi
    poison := s.poison.filter fun p => !decide (lo ≤ p ∧ p + poisonUnit p ≤ hi) }

/-- Draw a fresh index for a free value. -/
def State.draw (s : State) : State × Nat := ({ s with draws := s.draws + 1 }, s.draws)

/-- A command whose event the named rule leaves no room for in the present state, or whose operands no unit can present: the
event does not take place, and nothing changes (assumption 77). -/
def State.noEvent (s : State) (_rule : String) : Answer := .next s

/-! ### Error records (R435 to R439, R445) -/

/-- Classes of R438. -/
def clsNotice : Nat := 0
def clsRecovered : Nat := 1
def clsStep : Nat := 2
def clsJob : Nat := 3
def clsFunction : Nat := 4
def clsModule : Nat := 5
def clsCommand : Nat := 6
def clsFirmware : Nat := 7

/-- What a record says beside the fields every record takes from the state. -/
structure Report where
  code : Nat
  cls : Nat
  func : Option Nat := none
  unit : Nat := 0
  a : Nat := 0
  b : Nat := 0
  c : Nat := 0
  hold : Nat := 0
  loss : Bool := false      -- marked L in R439
  deriving DecidableEq, Repr, Inhabited

/-- The 64 bytes of a record (R435). -/
def ErrRec.bytes (r : ErrRec) : List Byte :=
  let b := leBytes 2 r.code ++ leBytes 1 r.cls ++ leBytes 1 r.func ++ leBytes 2 r.member ++ leBytes 2 r.unit ++
    leBytes 8 r.htime.toNat ++ leBytes 4 r.step.toNat ++ leBytes 4 r.seq.toNat ++ leBytes 8 r.a.toNat ++
    leBytes 8 r.b.toNat ++ leBytes 8 r.c.toNat ++ leBytes 4 r.hold ++ zeros 8
  b ++ leBytes 4 (crc32c b).toNat

/-- Hold a record, dropping the oldest of more than 1,024 (R437). -/
def Errors.hold (e : Errors) (r : ErrRec) : Errors :=
  if e.held.length < 1024 then { e with held := e.held ++ [r] }
  else { e with held := e.held.drop 1 ++ [r], lost := if e.lost = 0xFFFFFFFF#32 then e.lost else e.lost + 1 }

/-- The counts of R445 that a record increments. -/
def Errors.count (e : Errors) (p : Report) : Errors :=
  if p.cls = clsRecovered then { e with recov := satAdd 32 e.recov 1, maxHold := max e.maxHold (min p.hold 0xFFFF) }
  else if p.cls = clsModule ∨ p.loss then { e with loss := satAdd 16 e.loss 1 }
  else e

/-- Report one error: the record of R435 is formed, counted and held for the ring. -/
def State.report (s : State) (p : Report) : State :=
  let r : ErrRec := {
    code := p.code, cls := p.cls, func := p.func.getD 0xFF,
    member := if s.herd.state = .idle then 0 else s.herd.member,
    unit := p.unit, htime := s.herd.time,
    step := match p.func with
      | some f => (s.func f).step
      | none => 0,
    seq := s.errs.seq, a := BitVec.ofNat 64 p.a, b := BitVec.ofNat 64 p.b, c := BitVec.ofNat 64 p.c, hold := p.hold }
  { s with errs := { (s.errs.hold r).count p with seq := s.errs.seq + 1 } }

/-- Two values in one field: [63:32] and [31:0] (R439). -/
def pair (x y : Nat) : Nat := x % 2 ^ 32 * 2 ^ 32 + y % 2 ^ 32
/-- Three values in one field: [63:48], [47:32] and [31:0] (R439). -/
def triple (x y z : Nat) : Nat := x % 2 ^ 16 * 2 ^ 48 + y % 2 ^ 16 * 2 ^ 32 + z % 2 ^ 32

/-! ### The Larwa port (R322, R323) -/

/-- The hub die whose link an access named by HPA, or a companion page at a VA, travels on (R323). -/
def State.linkOf (s : State) (a : Nat) : Nat := if s.code.hubs = 2 then a / pageSize % 2 else 0

def State.lwl (s : State) (h : Nat) : LwlLink := (s.hub h).link

/-- Whether the link that an access by HPA travels on is UP. -/
def State.hpaUp (s : State) (hpa : Nat) : Bool := (s.lwl (s.linkOf hpa)).state == .up

/-- Whether every range can be reached: companion memory only while its link is UP (R322). -/
def State.reachable (s : State) (rs : List (Nat × Nat)) : Bool :=
  rs.all fun r => match s.region r.1 with
    | .companion hpa => s.hpaUp hpa
    | _ => true

/-- The device physical address of a host physical address (R300). -/
def hostDpa (hpa : Nat) : Nat := companionBase + hpa

/-- An interrupt on a path: 0 the Larwa link, 1 the bus port, 2 none (R329). -/
def State.interrupt (s : State) (path vec : Nat) : State :=
  if path = 2 then s else s.emit (.interrupt path vec)

/-! ### Completion records (R333 to R335) -/

/-- The 32 bytes of completion record number `c` on a ring of 2^lg records (R334). -/
def cplBytes (c : W32) (lg : Nat) (k : Completion) : List Byte :=
  let b := leBytes 4 k.tag.toNat ++ leBytes 4 k.entry.toNat ++ leBytes 1 k.status ++
    leBytes 1 ((c.toNat / 2 ^ lg + 1) % 2) ++ leBytes 2 (c.toNat % 65536) ++ slice k.result 0 16 ++ zeros 2
  b ++ leBytes 2 (crc16 b).toNat

/-- Whether the completion ring has room (R333). -/
def Queue.room (q : Queue) : Bool := decide ((q.chead - q.cdone).toNat < 2 ^ q.log2Cpl)

/-- Where completion record CHEAD lies (R334). -/
def Queue.cplAddr (q : Queue) : Nat := q.cpl.toNat + q.chead.toNat % 2 ^ q.log2Cpl * 32

/-- Whether records of a queue may be written: it is armed in the present epoch and its ring is reachable. -/
def State.cplReady (s : State) (q : Queue) : Bool :=
  (q.state == .active || q.state == .haltedError) && q.epoch == s.larwa.epoch && q.room && s.hpaUp q.cplAddr

/-- Write one waiting record of queue `n` if there is room: the record, CHEAD, and the interrupt of a record onto an
emptied ring (R334). A host error on the ring halts the queue instead (R335). -/
def State.writeCpl (s : State) (n : Nat) : State :=
  let q := s.queue n
  match q.waiting with
  | [] => s
  | k :: rest =>
    if !s.cplReady q then s
    else if s.badRings.contains n then s.setQueue n { q with state := .haltedError, err := 5 }
    else
      let s1 := s.write (hostDpa q.cplAddr) (cplBytes q.chead q.log2Cpl k)
      let s2 := s1.setQueue n { q with waiting := rest, chead := q.chead + 1 }
      if q.chead = q.cdone then s2.interrupt q.ipath q.ivec else s2

/-- Write waiting records of queue `n` while there is room. -/
def State.flushQueue (s : State) (n : Nat) : State :=
  (List.range (s.queue n).waiting.length).foldl (fun s _ => s.writeCpl n) s

/-- Return a queue to IDLE (R338). -/
def State.idleQueue (s : State) (n : Nat) : State :=
  s.onQueue n fun q => { q with state := .idle, running := none, waiting := [], destroying := none, disarming := false,
                                stale := false, rereads := 0 }

/-- A QDESTROY or DISARM of queue `n` is due once its running command has completed and every record is written: the
queue goes IDLE and the QDESTROY completes with SUCCESS (R338). -/
def State.settleDestroy (s : State) (n : Nat) : State :=
  let q := s.queue n
  if (q.running.isNone && q.waiting.isEmpty) || (q.state != .active && q.state != .haltedError) then
    match q.destroying with
    | some c =>
      let s := s.idleQueue n
      let s := s.onQueue c.q fun a =>
        { a with running := none, waiting := a.waiting ++ [{ tag := c.tag, entry := c.entry, status := 0, result := [] }] }
      s.flushQueue c.q
    | none => if q.disarming then s.idleQueue n else s
  else s

/-- Put a completion record of command `c` on its queue and write what there is room for. A record for a queue that is
IDLE or HALTED_HOST has nowhere to go (R338, R342). -/
def State.complete (s : State) (c : Cmd) (status : Nat) (result : List Byte) : State :=
  let q := s.queue c.q
  let q := if q.running = some c then { q with running := none } else q
  let q := if q.state = .idle ∨ q.state = .haltedHost then q
           else { q with waiting := q.waiting ++ [{ tag := c.tag, entry := c.entry, status := status, result := result }] }
  ((s.setQueue c.q q).flushQueue c.q).settleDestroy c.q

/-- A long command releases its queue as soon as it has started (R333). -/
def State.release (s : State) (c : Cmd) : State :=
  (s.onQueue c.q fun q => if q.running = some c then { q with running := none } else q).settleDestroy c.q

def stSuccess : Nat := 0
def stRefused : Nat := 1
def stBadCommand : Nat := 2
def stState : Nat := 3
def stQueueStale : Nat := 4
def stHostAccess : Nat := 5
def stPortError : Nat := 6
def stNvError : Nat := 7
def stCancelled : Nat := 8
def stDataError : Nat := 9

/-- Argument bytes of an entry, by byte offset (R336). -/
def Cmd.arg (c : Cmd) (off n : Nat) : Nat := leAt c.bytes off n

/-- LWL_FSTATALL.STATEn (R343). -/
def FState.code : FState → Nat
  | .off => 0
  | .enabling => 1
  | .on => 2
  | .draining => 3
  | .scrubbing => 4

/-- RESULT of an ENABLE or DISABLE: bytes 0-3 an outcome, byte 4 the function state reached (R336). -/
def stateResult (outcome : Nat) (f : FState) : List Byte := leBytes 4 outcome ++ leBytes 1 f.code

/-! ### Stops (R202, R264, R266, R339, R456) -/

/-- Complete every command of a list with one status. -/
def State.completeAll (s : State) (cs : List Cmd) (status : Nat) (result : List Byte) : State :=
  cs.foldl (fun s c => s.complete c status result) s

/-- Outside a training step TILE_SR_STEPn is 0 (R70). -/
def State.clearSteps (s : State) (fn : Nat) : State :=
  s.onTiles fun _ t => { t with
    step := t.step.filter fun e => !decide ((tget {} t.part e.1).valid ∧ (tget {} t.part e.1).func.toNat = fn) }

/-- End a function's herd job: its FUNCRUN bit clears and none of its items issues again. STOP and RESUME commands that
waited complete with `status`; a STOP's RESULT is the global step (R336). -/
def State.endJob (s : State) (fn status : Nat) : State :=
  let f := s.func fn
  let stops := (f.stop.toList ++ f.stopMore).filterMap fun r => r.cmd
  let s := s.setFunc fn { f with
    run := false, armed := false, stop := none, stopMore := [], resumeCmd := none, halted := false,
    stopAtBoundary := 0, items := [], older := [], voteOpen := false, voteCast := false, voteBits := 0, voteOr := 0 }
  let s := (s.clearSteps fn).onTiles fun _ t => { t with
    seqs := t.seqs.filter fun e => !decide ((tget {} t.part e.1).valid ∧ (tget {} t.part e.1).func.toNat = fn) }
  let s := s.completeAll stops status (leBytes 4 f.step.toNat)
  s.completeAll f.resumeCmd.toList stCancelled []

/-- Whether entry `e` of a tile belongs to function `fn`. -/
def Tile.owns (t : Tile) (fn e : Nat) : Bool := (tget {} t.part e).valid && (tget {} t.part e).func.toNat == fn

/-- Clear the breakpoints and watchpoints of a function and release its halts (R456). -/
def State.releaseDebug (s : State) (fn : Nat) : State :=
  let bps := s.dbg.bps.filter fun e => !decide (bits e.2.toNat 61 58 = fn)
  let wps := s.dbg.wpBase.filter fun e => !decide (bits e.2.toNat 59 56 = fn)
  let lens := s.dbg.wpLen.filter fun e => decide (e.1 ∈ wps.map Prod.fst)
  let s := s.onTiles fun _ t => { t with
    seqs := t.seqs.foldl (fun (m : Table Sequencer) e =>
      tset {} m e.1 (if t.owns fn e.1 then { e.2 with halted := false, reason := 0, passBp := false } else e.2)) t.seqs }
  { s with dbg := { s.dbg with
      bps := bps, wpBase := wps, wpLen := lens,
      haltAsked := s.dbg.haltAsked.filter fun e => !decide (e.1 = fn),
      muleHalt := s.dbg.muleHalt.filter fun n => !decide (n = fn) } }

/-- Clear VALID in every firewall window that names a function (R385). -/
def State.closeWindows (s : State) (fn : Nat) : State :=
  (tkeys s.hubs).foldl (fun s h =>
    let hub := s.hub h
    s.setHub h { hub with windows := (tkeys hub.windows).foldl (fun (m : Table Window) w =>
      let v := tget {} m w
      tset {} m w (if v.valid && v.func.toNat == fn then { v with valid := false } else v)) hub.windows }) s

/-- The sequencers of a function issue nothing more (R118, R142). -/
def State.stopSequencers (s : State) (fn : Nat) : State :=
  s.onTiles fun _ t => { t with
    seqs := t.seqs.foldl (fun (m : Table Sequencer) e =>
      tset {} m e.1 (if t.owns fn e.1 then { e.2 with active := false, stopped := true } else e.2)) t.seqs }

/-- Move a function to DRAINING (R339): its job ends, its sequencers stop, its debug halts are released and its
firewall windows close. An ENABLE in progress completes CANCELLED. No effect in OFF, DRAINING and SCRUBBING. -/
def State.drain (s : State) (fn : Nat) : State :=
  let f := s.func fn
  if f.state = .on ∨ f.state = .enabling then
    let s := s.endJob fn stCancelled
    let s := s.onFunc fn fun f => { f with state := .draining, enablingCmds := [] }
    let s := ((s.stopSequencers fn).releaseDebug fn).closeWindows fn
    s.completeAll f.enablingCmds stCancelled (stateResult 0 .draining)
  else s

/-- Every herd job stops, a halted one too, with member `lost` lost to the herd: each reports the step at which it stopped, and
its function moves to DRAINING (R256, R266). -/
def State.stopJobs (s : State) (lost : Nat) : State :=
  funcIds.foldl (fun (s : State) n =>
    if (s.func n).run || (s.func n).armed || (s.func n).halted then
      (s.report { code := 0x0033, cls := clsFunction, func := some n, a := lost }).drain n
    else s) s

/-- The member is lost to its herd: every job stops (R266). -/
def State.loseHerd (s : State) : State :=
  let s := s.stopJobs (if s.herd.state = .idle then 0 else s.herd.member)
  { s with herd := { s.herd with state := if s.herd.state = .idle then .idle else .faulted } }

/-- An event of class MODULE (R438): every job stops, the member is lost to its herd, and no function starts until the
module is reset or powered up again. The BMC is told through SMB_ALERT_N (R439). -/
def State.moduleLoss (s : State) : State :=
  let s := s.loseHerd
  { s with boot := { s.boot with dead := true } }.emit .smbAlert

/-! ### Translation and shares (R34, R298) -/

/-- The device physical address of a VA of function `fn`, if its page is mapped (R298). -/
def State.translate (s : State) (fn va : Nat) : Option Nat :=
  let e := tget {} (s.func fn).table (va / pageSize)
  if e.valid then some (e.pfn.toNat * pageSize + va % pageSize) else none

/-- Whether a translation entry names a companion page (R37). -/
def Pte.companion (e : Pte) : Bool := decide (companionBase / pageSize ≤ e.pfn.toNat)

/-- Every page that the range [va, va + n) touches. -/
def pagesOf (va n : Nat) : List Nat :=
  if n = 0 then [] else (List.range ((va + n - 1) / pageSize + 1 - va / pageSize)).map fun i => va / pageSize + i

/-- Whether every page of a VA range is mapped. -/
def State.mapped (s : State) (fn va n : Nat) : Bool :=
  (pagesOf va n).all fun p => (tget {} (s.func fn).table p).valid

/-- Read `n` bytes of a function's virtual memory, page by page; unmapped pages read 0 (their access is a partition
fault before it gets here). -/
def State.readVA (s : State) (fn va n : Nat) : List Byte :=
  (pagesOf va n).flatMap fun p =>
    let lo := max va (p * pageSize)
    let hi := min (va + n) ((p + 1) * pageSize)
    match s.translate fn lo with
    | some a => s.read a (hi - lo)
    | none => zeros (hi - lo)

/-- Write bytes to a function's virtual memory, page by page. -/
def State.writeVA (s : State) (fn va : Nat) (bs : List Byte) : State :=
  (pagesOf va bs.length).foldl (fun s p =>
    let lo := max va (p * pageSize)
    let hi := min (va + bs.length) ((p + 1) * pageSize)
    match s.translate fn lo with
    | some a => s.write a ((bs.drop (lo - va)).take (hi - lo))
    | none => s) s

/-- The device physical ranges of a VA range. -/
def State.rangesVA (s : State) (fn va n : Nat) : List (Nat × Nat) :=
  (pagesOf va n).filterMap fun p =>
    let lo := max va (p * pageSize)
    let hi := min (va + n) ((p + 1) * pageSize)
    (s.translate fn lo).map fun a => (a, hi - lo)

/-- The DPA of a tile's SRAM at an offset (R37). -/
def tileAddr (t off : Nat) : Nat := tileBase + t * 0x200000 + off

/-- The partition entry of a tile that belongs to a function. -/
def Tile.entryOf (t : Tile) (fn : Nat) : Option Nat := (List.range 4).find? fun e => t.owns fn e

/-- The base and size in bytes of a function's staging share on die `d` (R31). -/
def State.stagingShare (s : State) (fn d : Nat) : Nat × Nat :=
  match (s.image fn).staging[d]? with
  | some (b, n) => (b * 0x100000, n * 0x100000)
  | none => (0, 0)

end Sys2Proof.Machine
end

