-- ==== Sys2Proof/Machine/Fabric.lean ====
section
/-! DEFINITION. What the wiring fixes: HUB_MODULE_CODE (R6), the ports and their roles (R344, R345), the torus (R239, R240),
the routes between dies (R21) and the rates of the die-to-die links (R20, R375). -/
namespace Sys2Proof.Machine

/-- HUB_MODULE_CODE (R6). -/
def Code.value (c : Code) : Nat := fieldAt 13 (b2n c.air) + fieldAt 8 c.hbmStacks + fieldAt 4 c.hubs + c.dies

/-! ### Ports (R344, R345) -/

/-- Lanes of a port. -/
def Code.lanes (c : Code) : Nat := if c.hubs = 2 then 4 else 2

/-- Port ids in the order +x, -x, +y, -y, +z, -z, S0, S1. -/
def Code.ports (c : Code) : List Nat := (List.range 8).map fun k => k * Code.lanes c

/-- The role number of a port id: 0 to 5 the herd ports +x to -z, 6 and 7 the switched ports. -/
def Code.role (c : Code) (p : Nat) : Option Nat := (Code.ports c).findIdx? fun x => x == p

def State.role (s : State) (p : Nat) : Option Nat := Code.role s.code p

/-- Whether a port id is a herd port, or a switched one. -/
def State.isHerdPort (s : State) (p : Nat) : Bool := (s.role p).any fun r => decide (r < 6)
def State.isSwitched (s : State) (p : Nat) : Bool := (s.role p).any fun r => decide (6 ≤ r)

/-- Speed of a port in Gb/s at a RATE code: 200, 100, 50 or 25 Gb/s per lane (R345). -/
def Code.portSpeed (c : Code) (rate : Nat) : Nat :=
  Code.lanes c * (if rate = 0 then 200 else if rate = 1 then 100 else if rate = 2 then 50 else 25)

/-! ### The torus (R239, R240) -/

/-- Extent of the axis of a herd port's role. -/
def extentOf (x y z r : Nat) : Nat := if r < 2 then x else if r < 4 then y else z

/-- Whether R239 uses the herd port of role `r`. -/
def portUsed (x y z r : Nat) : Bool := decide (r < 6 ∧ 2 ≤ extentOf x y z r)

/-- Coordinates of a member. -/
def coordOf (x y m : Nat) : Nat × Nat × Nat := (m % x, m / x % y, m / (x * y))

/-- The member that the herd port of role `r` of member `m` reaches. -/
def peerOf (x y z m r : Nat) : Nat :=
  let (a, b, c) := coordOf x y m
  let go (v e : Nat) : Nat := if r % 2 = 0 then (v + 1) % e else (v + e - 1) % e
  let (a, b, c) := if r < 2 then (go a x, b, c) else if r < 4 then (a, go b y, c) else (a, b, go c z)
  a + x * (b + y * c)

/-- The herd ports that a base image uses on a module, rising. -/
def State.herdPorts (s : State) (b : BaseImage) : List Nat :=
  ((Code.ports s.code).zipIdx.filter fun (_, r) => portUsed b.x b.y b.z r).map Prod.fst

/-- The role of the facing port: a + port faces a - port. -/
def facing (r : Nat) : Nat := if r % 2 = 0 then r + 1 else r - 1

/-! ### Routes between dies (R21) -/

/-- A die: compute 0 to 3, or 4 + h for hub die h. -/
abbrev DieId := Nat

/-- The compute die by which a hub die is reached in a column. -/
def attached (hub col : Nat) : Nat := if hub = 0 then col else 2 + col

/-- The links, in order, from one compute die to another: the row first, then the column. -/
def computeRoute (a b : Nat) : List Nat :=
  let row := if a % 2 = b % 2 then [] else [if a / 2 = 0 then 0 else 1]
  let col := if a / 2 = b / 2 then [] else [if b % 2 = 0 then 2 else 3]
  row ++ col

/-- The die-to-die links that traffic between two dies crosses. -/
def routeOf (a b : DieId) : List Nat :=
  if a = b then []
  else if a < 4 ∧ b < 4 then computeRoute a b
  else if 4 ≤ a ∧ 4 ≤ b then [4, 2, 6]
  else
    let (h, c) := if 4 ≤ a then (a - 4, b) else (b - 4, a)
    let d := attached h (c % 2)
    (4 + d) :: computeRoute d c

/-! ### Link rates (R20, R375, R378) -/

/-- UCIe modules fitted on a link. -/
def linkMods (l : Nat) : Nat := if l < 4 then 24 else 8

/-- The rate of a link in GB/s per direction: 250 per UCIe module in use at 32 GT/s, 125 at 16 GT/s. -/
def D2d.rate (d : D2d) : Nat := d.mods * (if d.gen = 1 then 125 else 250)

def State.linkRate (s : State) (l : Nat) : Nat := D2d.rate (s.link l)

end Sys2Proof.Machine
end

