-- ==== Sys2Proof/Machine/Num.lean ====
section
/-! DEFINITION. Tensor number formats and conversions (02_number_formats): exact values, the formats of R45 to R50,
rounding (R63, R72), overflow (R64), non-finite inputs (R65), block scales (R67), packing (R51) and the random source of
stochastic rounding (R68, R69). Every conversion goes from an exact value to the target in one rounding (R61). -/
namespace Sys2Proof.Machine

/-! ### Exact values -/

/-- An exact value: a NaN, an infinity, or ± m × 2^e. -/
inductive XVal where
  | nan
  | inf (neg : Bool)
  | fin (neg : Bool) (m : Nat) (e : Int)
  deriving DecidableEq, Repr, Inhabited

def XVal.isFinite : XVal → Bool
  | .fin _ _ _ => true
  | _ => false

/-- +1, as an exact value. -/
def XVal.one : XVal := .fin false 1 0

/-- m × 2^(e - q), for q at most e. -/
def scaleTo (m : Nat) (e q : Int) : Nat := m * 2 ^ (e - q).toNat

/-- The signed mantissa of a finite value at exponent `q`, for q at most its own. -/
def signedAt (neg : Bool) (m : Nat) (e q : Int) : Int :=
  if neg then -(scaleTo m e q : Int) else (scaleTo m e q : Int)

/-- An exact value from a signed mantissa; zero is +0 (R59: x + (-x) is +0). -/
def XVal.ofInt (v : Int) (e : Int) : XVal := .fin (decide (v < 0)) v.natAbs e

/-- The exact sum, with the zero signs of R59 and the infinities of IEEE 754-2019 addition. -/
def XVal.add : XVal → XVal → XVal
  | .nan, _ => .nan
  | _, .nan => .nan
  | .inf a, .inf b => if a = b then .inf a else .nan
  | .inf a, _ => .inf a
  | _, .inf b => .inf b
  | .fin n1 m1 e1, .fin n2 m2 e2 =>
    if m1 = 0 ∧ m2 = 0 then .fin (n1 && n2) 0 0
    else
      let q := min e1 e2
      XVal.ofInt (signedAt n1 m1 e1 q + signedAt n2 m2 e2 q) q

def XVal.neg : XVal → XVal
  | .nan => .nan
  | .inf a => .inf (!a)
  | .fin n m e => .fin (!n) m e

/-- The exact product, by R80: infinity × zero is NaN. -/
def XVal.mul : XVal → XVal → XVal
  | .nan, _ => .nan
  | _, .nan => .nan
  | .inf a, .inf b => .inf (a != b)
  | .inf a, .fin n m _ => if m = 0 then .nan else .inf (a != n)
  | .fin n m _, .inf b => if m = 0 then .nan else .inf (n != b)
  | .fin n1 m1 e1, .fin n2 m2 e2 => .fin (n1 != n2) (m1 * m2) (e1 + e2)

/-- Multiply by 2^k. -/
def XVal.scale (x : XVal) (k : Int) : XVal :=
  match x with
  | .fin n m e => .fin n m (e + k)
  | x => x

/-- Compare two finite magnitudes: m1 × 2^e1 < m2 × 2^e2. -/
def magLt (m1 : Nat) (e1 : Int) (m2 : Nat) (e2 : Int) : Bool :=
  let q := min e1 e2
  decide (scaleTo m1 e1 q < scaleTo m2 e2 q)

/-! ### Rounding (R63, R72) -/

/-- RND of R62. -/
inductive Rnd where
  | rne
  | rtz
  | sr (r : Nat)      -- the random value of R68 for the element
  deriving DecidableEq, Repr, Inhabited

/-- Round m / 2^d to an integer: lo is the quotient, hi the next. -/
def roundShift (mode : Rnd) (m d : Nat) : Nat :=
  let lo := m / 2 ^ d
  let rem := m % 2 ^ d
  if rem = 0 then lo
  else match mode with
    | .rtz => lo
    | .rne => if 2 * rem < 2 ^ d then lo else if 2 ^ d < 2 * rem then lo + 1 else if lo % 2 = 0 then lo else lo + 1
    | .sr r => if 2 ^ 32 ≤ rem * 2 ^ 32 / 2 ^ d + r then lo + 1 else lo

/-- Round a magnitude onto the grid of a float format with `mb` mantissa bits whose smallest step is 2^emin: the
mantissa and its exponent. The grid goes on above the largest finite value (R63: hi may lie beyond it). -/
def roundGrid (mode : Rnd) (mb : Nat) (emin : Int) (m : Nat) (e : Int) : Nat × Int :=
  if m = 0 then (0, emin)
  else
    let q := max ((Nat.log2 m : Int) + e - mb) emin
    if q ≤ e then (scaleTo m e q, q)
    else (roundShift mode m (q - e).toNat, q)

/-! ### Float formats (R45, R48) -/

structure FloatFmt where
  width : Nat
  mb : Nat           -- mantissa bits
  bias : Nat
  maxM : Nat         -- the largest finite value is maxM × 2^maxE
  maxE : Int
  inf : Option Nat   -- code of +infinity
  nan : Option Nat   -- the NaN the module produces
  deriving DecidableEq, Repr, Inhabited

def fmtFP32 : FloatFmt := ⟨32, 23, 127, 0xFFFFFF, 104, some 0x7F800000, some 0x7FC00000⟩
def fmtBF16 : FloatFmt := ⟨16, 7, 127, 0xFF, 120, some 0x7F80, some 0x7FC0⟩
def fmtFP16 : FloatFmt := ⟨16, 10, 15, 0x7FF, 5, some 0x7C00, some 0x7E00⟩
def fmtE5M2 : FloatFmt := ⟨8, 2, 15, 7, 13, some 0x7C, some 0x7F⟩
def fmtE4M3 : FloatFmt := ⟨8, 3, 7, 14, 5, none, some 0x7F⟩
def fmtE3M2 : FloatFmt := ⟨6, 2, 3, 7, 2, none, none⟩
def fmtE2M3 : FloatFmt := ⟨6, 3, 1, 15, -1, none, none⟩
def fmtE2M1 : FloatFmt := ⟨4, 1, 1, 3, 1, none, none⟩

/-- The exponent of a format's smallest step: 2^(1 - bias - mb). -/
def FloatFmt.emin (f : FloatFmt) : Int := 1 - f.bias - f.mb

/-- The value of an encoding (R46, R48). -/
def FloatFmt.decode (f : FloatFmt) (code : Nat) : XVal :=
  let neg := bitOf code (f.width - 1)
  let mag := code % 2 ^ (f.width - 1)
  let special : Option XVal :=
    match f.inf, f.nan with
    | some i, _ => if mag = i then some (.inf neg) else if i < mag then some .nan else none
    | none, some n => if mag = n then some .nan else none
    | none, none => none
  match special with
  | some x => x
  | none =>
    let ex := mag / 2 ^ f.mb
    let mant := mag % 2 ^ f.mb
    if ex = 0 then .fin neg mant f.emin
    else .fin neg (2 ^ f.mb + mant) (f.emin + ex - 1)

/-- The code of a magnitude m × 2^q on the format's grid, sign attached. -/
def FloatFmt.pack (f : FloatFmt) (neg : Bool) (m : Nat) (q : Int) : Nat :=
  let s := if neg then 2 ^ (f.width - 1) else 0
  if m < 2 ^ f.mb then s + m
  else
    let (m, q) := if 2 ^ (f.mb + 1) ≤ m then (m / 2, q + 1) else (m, q)
    s + (q - f.emin + 1).toNat * 2 ^ f.mb + (m - 2 ^ f.mb)

/-- Event counts of R60. -/
abbrev Ev := Events

def Ev.plus (a b : Ev) : Ev :=
  { nonfin := a.nonfin + b.nonfin, ovf := a.ovf + b.ovf, inval := a.inval + b.inval }

def evNone : Ev := {}
def evNonfin : Ev := { nonfin := 1 }
def evOvf : Ev := { ovf := 1 }

/-- Convert an exact value into a float format (R63 to R65): the code and the events of R60. -/
def FloatFmt.encode (f : FloatFmt) (mode : Rnd) (sat : Bool) (x : XVal) : Nat × Ev :=
  let sgn (neg : Bool) (c : Nat) : Nat := if neg then 2 ^ (f.width - 1) + c else c
  let big := f.pack false f.maxM f.maxE
  match x with
  | .nan => (f.nan.getD 0, evNonfin)
  | .inf neg => (if sat then sgn neg big else sgn neg (f.inf.getD big), evNonfin)
  | .fin neg m e =>
    let (r, q) := roundGrid mode f.mb f.emin m e
    if magLt f.maxM f.maxE r q then
      if mode = .rtz ∨ sat then (sgn neg big, evOvf)
      else match f.inf, f.nan with
        | some i, _ => (sgn neg i, { ovf := 1, nonfin := 1 })
        | none, some n => (n, { ovf := 1, nonfin := 1 })
        | none, none => (sgn neg big, evOvf)
    else (f.pack neg r q, evNone)

/-- Convert into a two's complement integer of range [lo, hi] (R64, R65), counting steps of 2^lsb. -/
def encodeInt (lo hi : Int) (lsb : Int) (mode : Rnd) (x : XVal) : Int × Ev :=
  match x with
  | .nan => (0, { nonfin := 1, inval := 1 })
  | .inf neg => (if neg then lo else hi, evNonfin)
  | .fin neg m e =>
    let r : Nat := if lsb ≤ e then scaleTo m e lsb else roundShift mode m (lsb - e).toNat
    let v : Int := if neg then -(r : Int) else (r : Int)
    if v < lo then (lo, evOvf) else if hi < v then (hi, evOvf) else (v, evNone)

/-! ### FP32 values -/

/-- The exact value of an FP32 bit pattern. -/
def f32 (w : W32) : XVal := fmtFP32.decode w.toNat

/-- One FP32 rounding with RNE, giving an infinity past the range (rne32 of R82), with the events of R60. -/
def rne32Ev (x : XVal) : W32 × Ev :=
  let (c, e) := fmtFP32.encode .rne false x
  (BitVec.ofNat 32 c, e)

def rne32 (x : XVal) : W32 := (rne32Ev x).1

/-- Whether an FP32 bit pattern is a NaN or an infinity. -/
def nonfinite (w : W32) : Bool := decide (255 ≤ bits w.toNat 30 23)

def isNan32 (w : W32) : Bool := decide (0x7F800000 < w.toNat % 2 ^ 31)
def isInf32 (w : W32) : Bool := decide (w.toNat % 2 ^ 31 = 0x7F800000)
def nan32 : W32 := 0x7FC00000

/-! ### The formats of R43 -/

/-- Bits per element. -/
def fmtWidth : Nat → Nat
  | 0 => 32
  | 1 => 16
  | 2 => 16
  | 3 => 8
  | 4 => 32
  | 5 => 8
  | 6 => 8
  | 7 => 8
  | 8 => 6
  | 9 => 6
  | 0xA => 4
  | _ => 0

def fmtReserved (f : Nat) : Bool := decide (0xA < f)
def fmtIsMX (f : Nat) : Bool := decide (5 ≤ f ∧ f ≤ 0xA)

/-- The float format of a code's element; FP32 for the integer codes, which do not use it. -/
def fmtFloat : Nat → FloatFmt
  | 1 => fmtBF16
  | 2 => fmtFP16
  | 6 => fmtE4M3
  | 7 => fmtE5M2
  | 8 => fmtE2M3
  | 9 => fmtE3M2
  | 0xA => fmtE2M1
  | _ => fmtFP32

/-- A two's complement number of `n` bits. -/
def signedOf (n v : Nat) : Int := if v < 2 ^ (n - 1) then v else (v : Int) - 2 ^ n

/-- The value of an element code in format `f`, without its scale (R46, R49, R50). -/
def elemValue (f code : Nat) : XVal :=
  if f = 3 then XVal.ofInt (signedOf 8 code) 0
  else if f = 4 then XVal.ofInt (signedOf 32 code) 0
  else if f = 5 then XVal.ofInt (signedOf 8 code) (-6)
  else (fmtFloat f).decode code

/-- The value of an MX element under scale code `s` (R52, R55). -/
def scaled (s : Nat) (x : XVal) : XVal := if s = 0xFF then .nan else x.scale ((s : Int) - 127)

/-! ### Scale descriptors and conversion words (R53, R62) -/

/-- Block size of a descriptor: 8, 16, 32, 64 or 128. -/
def sdBlock (sd : Nat) : Nat := 8 * 2 ^ (sd % 8)
def sdDir (sd : Nat) : Nat := bits sd 4 3
/-- A descriptor with a reserved field value. -/
def sdReserved (sd : Nat) : Bool := decide (4 < sd % 8 ∨ 1 < sdDir sd ∨ bits sd 7 5 ≠ 0)

def cvtFmt (c : Nat) : Nat := c % 16
def cvtRnd (c : Nat) : Nat := bits c 5 4
def cvtSat (c : Nat) : Bool := bitOf c 6
def cvtCeil (c : Nat) : Bool := bitOf c 7
def cvtSdesc (c : Nat) : Nat := bits c 15 8
/-- A conversion word with a reserved field value (R44). -/
def cvtReserved (c : Nat) : Bool :=
  fmtReserved (cvtFmt c) || decide (cvtRnd c = 3) || (fmtIsMX (cvtFmt c) && sdReserved (cvtSdesc c))

/-- The rounding mode of a conversion word, `r` being the element's random value. -/
def cvtMode (c r : Nat) : Rnd := if cvtRnd c = 1 then .rtz else if cvtRnd c = 2 then .sr r else .rne

/-! ### Conversion into a format without a scale -/

/-- Convert into FP32, BF16, FP16, INT8 or INT32: the element code. -/
def encodePlain (fmt : Nat) (mode : Rnd) (sat : Bool) (x : XVal) : Nat × Ev :=
  if fmt = 3 then
    let (v, e) := encodeInt (-128) 127 0 mode x
    ((v % 2 ^ 8).toNat, e)
  else if fmt = 4 then
    let (v, e) := encodeInt (-(2 ^ 31)) (2 ^ 31 - 1) 0 mode x
    ((v % 2 ^ 32).toNat, e)
  else (fmtFloat fmt).encode mode sat x

/-! ### Block quantisation (R67) -/

/-- emax and the largest magnitude, as m × 2^e, of an MX element format. -/
def mxLimits (f : Nat) : Int × Nat × Int :=
  if f = 5 then (0, 127, -6)
  else
    let g := fmtFloat f
    ((Nat.log2 g.maxM : Int) + g.maxE, g.maxM, g.maxE)

/-- floor(log2) of a positive magnitude. -/
def floorLog2 (m : Nat) (e : Int) : Int := (Nat.log2 m : Int) + e

/-- The scale exponent of R67 for a block whose largest magnitude is m × 2^e. -/
def scaleExp (f : Nat) (ceil : Bool) (m : Nat) (e : Int) : Int :=
  if m = 0 then 0
  else
    let (emax, lm, le) := mxLimits f
    let raw :=
      if ceil then
        let k := floorLog2 m e - floorLog2 lm le
        if magLt lm (le + k) m e then k + 1 else k
      else floorLog2 m e - emax
    min (max raw (-127)) 127

/-- The largest magnitude of a list of finite values. -/
def amaxOf : List XVal → Nat × Int
  | [] => (0, 0)
  | .fin _ m e :: xs =>
    let (m', e') := amaxOf xs
    if magLt m' e' m e then (m, e) else (m', e')
  | _ :: xs => amaxOf xs

/-- One element of a block under scale exponent `e`. -/
def encodeMXElem (fmt : Nat) (mode : Rnd) (sat : Bool) (e : Int) (x : XVal) : Nat × Ev :=
  if fmt = 5 then
    let (v, ev) := encodeInt (-127) 127 (-6) mode (x.scale (-e))
    ((v % 2 ^ 8).toNat, ev)
  else (fmtFloat fmt).encode mode sat (x.scale (-e))

/-- quantise_block of R67: scale code, element codes and events. `modes` gives each element's rounding. -/
def quantiseBlock (fmt : Nat) (ceil sat : Bool) (xs : List (XVal × Rnd)) : Nat × List Nat × Ev :=
  let bad := (xs.filter fun x => !x.1.isFinite).length
  if 0 < bad then (0xFF, xs.map fun _ => 0, { nonfin := bad })
  else
    let (m, ex) := amaxOf (xs.map Prod.fst)
    let e := scaleExp fmt ceil m ex
    let rs := xs.map fun x => encodeMXElem fmt x.2 sat e x.1
    ((e + 127).toNat, rs.map Prod.fst, rs.foldl (fun a r => a.plus r.2) evNone)

/-! ### Packing (R51) -/

/-- Bytes of `n` packed elements of width `w`. -/
def packedBytes (w n : Nat) : Nat :=
  if w = 6 then ceilDiv n 4 * 3 else if w = 4 then ceilDiv n 2 else n * (w / 8)

/-- Element `i` of a packed byte sequence. -/
def unpackAt (w : Nat) (bs : List Byte) (i : Nat) : Nat :=
  if w = 6 then bits (leAt bs (i / 4 * 3) 3) (6 * (i % 4) + 5) (6 * (i % 4))
  else if w = 4 then bits (leAt bs (i / 2) 1) (4 * (i % 2) + 3) (4 * (i % 2))
  else leAt bs (i * (w / 8)) (w / 8)

/-- Pack element codes, padding the last group with code 0. -/
def packElems (w : Nat) (cs : List Nat) : List Byte :=
  if w = 6 then
    (chunksOf 4 cs.length cs).flatMap fun g => leBytes 3 ((g.zipIdx.map fun x => x.1 % 64 * 2 ^ (6 * x.2)).sum)
  else if w = 4 then
    (chunksOf 2 cs.length cs).flatMap fun g => leBytes 1 ((g.zipIdx.map fun x => x.1 % 16 * 2 ^ (4 * x.2)).sum)
  else cs.flatMap fun c => leBytes (w / 8) c

/-! ### The random source (R68, R69) -/

def mix (x : W32) : W32 :=
  let x := x ^^^ (x >>> 16)
  let x := x * 0x7FEB352D
  let x := x ^^^ (x >>> 15)
  let x := x * 0x846CA68B
  x ^^^ (x >>> 16)

/-- rnd(seed, stream, index) of R68. -/
def rnd (seed stream index : W32) : W32 := mix (mix (seed ^^^ stream) ^^^ index)

/-- STREAM of R69: (STEP[19:0] << 12) or TAG. -/
def streamOf (step : Nat) (tag : Nat) : W32 := BitVec.ofNat 32 (step % 2 ^ 20 * 2 ^ 12 + tag % 2 ^ 12)

/-! ### Correctly rounded functions (R128) -/

/-- The integer square root, one bit at a time from bit `i` down. -/
def isqrtFrom (n : Nat) : Nat → Nat → Nat
  | 0, r => r
  | i + 1, r =>
    let c := r + 2 ^ i
    isqrtFrom n i (if c * c ≤ n then c else r)

def isqrt (n : Nat) : Nat := isqrtFrom n (Nat.log2 n / 2 + 1) 0

/-- A truncated magnitude with a sticky bit below its last place: rounds as the exact value does wherever at least two
bits lie below the rounding place. -/
def sticky (m : Nat) (e : Int) (inexact : Bool) : XVal := .fin false (2 * m + b2n inexact) (e - 1)

/-- m1 × 2^e1 / (m2 × 2^e2), m2 not 0. -/
def divMag (m1 : Nat) (e1 : Int) (m2 : Nat) (e2 : Int) : XVal :=
  let k := Nat.log2 m2 + 64
  sticky (m1 * 2 ^ k / m2) (e1 - e2 - k) (decide (m1 * 2 ^ k % m2 ≠ 0))

/-- √(m × 2^e). -/
def sqrtMag (m : Nat) (e : Int) : XVal :=
  let (m, e) := if e % 2 = 0 then (m, e) else (2 * m, e - 1)
  let n := m * 2 ^ 128
  let r := isqrt n
  sticky r (e / 2 - 64) (decide (r * r ≠ n))

/-- 1 / √(m × 2^e), m not 0. -/
def rsqrtMag (m : Nat) (e : Int) : XVal :=
  let (m, e) := if e % 2 = 0 then (m, e) else (2 * m, e - 1)
  let k := Nat.log2 m / 2 + 64
  let r := isqrt (2 ^ (2 * k) / m)
  sticky r (-(e / 2) - k) (decide (r * r * m ≠ 2 ^ (2 * k)))

/-- Set the sign of a finite value. -/
def XVal.withSign (neg : Bool) : XVal → XVal
  | .fin _ m e => .fin neg m e
  | x => x

/-- x / y (R128). -/
def xdiv : XVal → XVal → XVal
  | .nan, _ => .nan
  | _, .nan => .nan
  | .inf _, .inf _ => .nan
  | .inf a, .fin n _ _ => .inf (a != n)
  | .fin n _ _, .inf b => .fin (n != b) 0 0
  | .fin n1 m1 e1, .fin n2 m2 e2 =>
    if m2 = 0 then if m1 = 0 then .nan else .inf (n1 != n2)
    else (divMag m1 e1 m2 e2).withSign (n1 != n2)

/-- √x (R128). -/
def xsqrt : XVal → XVal
  | .nan => .nan
  | .inf neg => if neg then .nan else .inf false
  | .fin neg m e => if m = 0 then .fin neg 0 0 else if neg then .nan else sqrtMag m e

/-- 1 / √x (R128). -/
def xrsqrt : XVal → XVal
  | .nan => .nan
  | .inf neg => if neg then .nan else .fin false 0 0
  | .fin neg m e => if m = 0 then .inf neg else if neg then .nan else rsqrtMag m e

/-- Σ z^(2k+1) / (2k+1) in fixed point with p fraction bits: z and z² are given in that form. -/
def atanhSum (p z2 : Nat) : Nat → Nat → Nat → Nat → Nat
  | 0, _, _, acc => acc
  | n + 1, k, pw, acc => atanhSum p z2 n (k + 1) (pw * z2 / 2 ^ p) (acc + pw / (2 * k + 1))

/-- atanh(a / b) with p fraction bits, for a / b at most 1/3, within p + 4 units. -/
def atanhFix (p a b : Nat) : Nat :=
  let z := a * 2 ^ p / b
  atanhSum p (z * z / 2 ^ p) (p / 3 + 2) 0 z 0

/-- ln 2 with p fraction bits, within 2p + 8 units. -/
def ln2Fix (p : Nat) : Nat := 2 * atanhFix p 1 3

/-- Σ r^k / k! in fixed point. -/
def expSum (p r : Nat) : Nat → Nat → Nat → Nat → Nat
  | 0, _, _, acc => acc
  | n + 1, k, term, acc => expSum p r n (k + 1) (term * r / 2 ^ p / (k + 1)) (acc + term)

/-- Round the two ends of an interval of magnitudes (v ± d) × 2^e; the common result, if they agree. -/
def agree (neg : Bool) (v d : Nat) (e : Int) : Option W32 :=
  let a := rne32 (.fin neg (v - d) e)
  let b := rne32 (.fin neg (v + d) e)
  if a = b then some a else none

/-- e^x for a finite nonzero x in (-128, 128), with p fraction bits: the rounded result, if p bits settle it. -/
def expTry (p : Nat) (neg : Bool) (m : Nat) (e : Int) : Option W32 :=
  let g := p + 16
  let l := ln2Fix g
  let x : Int := if 0 ≤ e + g then signedAt neg m (e + g) 0 else
    if neg then -((m / 2 ^ (-(e + g)).toNat : Nat) : Int) - 1 else (m / 2 ^ (-(e + g)).toNat : Nat)
  let k : Int := x / (l : Int)
  let r := (x - k * l).toNat
  let v := expSum g r (g / 2 + 8) 0 (2 ^ g) 0
  agree false v (2048 * g) (k - g)

/-- ln of m × 2^e, not 1, with p fraction bits: the rounded result, if p bits settle it. -/
def logTry (p m : Nat) (e : Int) : Option W32 :=
  let lg := Nat.log2 m
  let (ex, num, den) :=      -- the value is 2^ex × num / den, with num / den in [3/4, 3/2)
    if 2 * m < 3 * 2 ^ lg then (e + lg, m, 2 ^ lg) else (e + lg + 1, m, 2 ^ (lg + 1))
  let (n, a) := if num < den then (true, den - num) else (false, num - den)
  let t : Int := 2 * (atanhFix p a (num + den) : Int)
  let v : Int := ex * (ln2Fix p : Int) + (if n then -t else t)
  agree (decide (v < 0)) v.natAbs (512 * p) (-(p : Int))

/-- The first of three precisions that settles a result; the last attempt's precision settles every FP32 input, so the
default is never reached (assumption 12). -/
def settle (f : Nat → Option W32) : W32 :=
  match f 256 with
  | some w => w
  | none => match f 512 with
    | some w => w
    | none => (f 1024).getD nan32

/-- e^x (R128). -/
def exp32 (w : W32) : W32 :=
  match f32 w with
  | .nan => nan32
  | .inf neg => if neg then 0 else 0x7F800000
  | .fin neg m e =>
    if m = 0 then 0x3F800000
    else if !magLt m e 128 0 then if neg then 0 else 0x7F800000
    else settle fun p => expTry p neg m e

/-- ln x (R128). -/
def log32 (w : W32) : W32 :=
  match f32 w with
  | .nan => nan32
  | .inf neg => if neg then nan32 else 0x7F800000
  | .fin neg m e =>
    if m = 0 then 0xFF800000
    else if neg then nan32
    else if w = 0x3F800000 then 0
    else settle fun p => logTry p m e

end Sys2Proof.Machine
end

