-- ==== Sys2Proof/Machine/Arith.lean ====
section
/-! DEFINITION. Element arithmetic of the vector engine: FP32 operations with the events of R60 and R129, saturating
integer operations, maximum and minimum (R58), comparisons, and the order of sort keys (R139). -/
namespace Sys2Proof.Machine

/-- Round an exact FP32 result; a non-finite source counts one event for the element, whatever the result (R129). -/
def fpResult (srcs : List W32) (x : XVal) : W32 × Ev :=
  let (w, e) := rne32Ev x
  if srcs.any nonfinite then (w, evNonfin) else (w, e)

def fpAdd (a b : W32) : W32 × Ev := fpResult [a, b] ((f32 a).add (f32 b))
def fpSub (a b : W32) : W32 × Ev := fpResult [a, b] ((f32 a).add (f32 b).neg)
def fpMul (a b : W32) : W32 × Ev := fpResult [a, b] ((f32 a).mul (f32 b))
def fpFma (a b c : W32) : W32 × Ev := fpResult [a, b, c] (((f32 a).mul (f32 b)).add (f32 c))
def fpDiv (a b : W32) : W32 × Ev := fpResult [a, b] (xdiv (f32 a) (f32 b))
def fpSqrt (a : W32) : W32 × Ev := fpResult [a] (xsqrt (f32 a))
def fpRsqrt (a : W32) : W32 × Ev := fpResult [a] (xrsqrt (f32 a))
def fpRcp (a : W32) : W32 × Ev := fpResult [a] (xdiv XVal.one (f32 a))

/-- e^a; a finite input whose result is an infinity has overflowed. -/
def fpExp (a : W32) : W32 × Ev :=
  let r := exp32 a
  (r, if nonfinite a then evNonfin else if nonfinite r then { ovf := 1, nonfin := 1 } else evNone)

/-- ln a; ln 0 and the logarithm of a negative number are non-finite results and no overflow. -/
def fpLog (a : W32) : W32 × Ev :=
  let r := log32 a
  (r, if nonfinite a || nonfinite r then evNonfin else evNone)

/-- The FP32 order key: sign-magnitude patterns in rising value, -0 before +0, every NaN last (R139). -/
def fpKey (w : W32) : Nat :=
  if isNan32 w then 2 ^ 33
  else if w.toNat < 2 ^ 31 then 2 ^ 32 + w.toNat
  else 2 ^ 32 - 1 - (w.toNat - 2 ^ 31)

/-- max of R58. -/
def fpMax (a b : W32) : W32 :=
  if isNan32 a then (if isNan32 b then nan32 else b)
  else if isNan32 b then a
  else if fpKey a < fpKey b then b else a

/-- min of R58. -/
def fpMin (a b : W32) : W32 :=
  if isNan32 a then (if isNan32 b then nan32 else b)
  else if isNan32 b then a
  else if fpKey a < fpKey b then a else b

/-- The events of an FP32 max or min: a non-finite source counts one; from finite sources the result is finite. -/
def fpPick (f : W32 → W32 → W32) (a b : W32) : W32 × Ev :=
  (f a b, if nonfinite a || nonfinite b then evNonfin else evNone)

def fpAbs (a : W32) : W32 := a &&& 0x7FFFFFFF
def fpNeg (a : W32) : W32 := a ^^^ 0x80000000

/-- Saturate to an integer range, one overflow event for a saturation (R129). -/
def satInt (lo hi v : Int) : W32 × Ev :=
  if v < lo then (BitVec.ofInt 32 lo, evOvf)
  else if hi < v then (BitVec.ofInt 32 hi, evOvf)
  else (BitVec.ofInt 32 v, evNone)

/-- Element types of R125. -/
inductive ETy where
  | f32
  | i32
  | u32
  deriving DecidableEq, Repr, Inhabited

/-- The element type TYPE names; 3 is reserved. -/
def etyOf (t : BitVec 2) : Option ETy :=
  if t = 0 then some .f32 else if t = 1 then some .i32 else if t = 2 then some .u32 else none

def ETy.lo : ETy → Int
  | .i32 => -(2 ^ 31)
  | _ => 0
def ETy.hi : ETy → Int
  | .i32 => 2 ^ 31 - 1
  | _ => 2 ^ 32 - 1
/-- An element read as an integer of its type. -/
def ETy.val (t : ETy) (w : W32) : Int :=
  match t with
  | .i32 => w.toInt
  | _ => w.toNat

/-- An element's exact value in its type. -/
def ETy.exact (t : ETy) (w : W32) : XVal :=
  match t with
  | .f32 => Machine.f32 w
  | _ => XVal.ofInt (t.val w) 0

def elemAdd (t : ETy) (a b : W32) : W32 × Ev :=
  match t with
  | .f32 => fpAdd a b
  | _ => satInt t.lo t.hi (t.val a + t.val b)
def elemSub (t : ETy) (a b : W32) : W32 × Ev :=
  match t with
  | .f32 => fpSub a b
  | _ => satInt t.lo t.hi (t.val a - t.val b)
def elemMul (t : ETy) (a b : W32) : W32 × Ev :=
  match t with
  | .f32 => fpMul a b
  | _ => satInt t.lo t.hi (t.val a * t.val b)
def elemMax (t : ETy) (a b : W32) : W32 × Ev :=
  match t with
  | .f32 => fpPick fpMax a b
  | _ => (if t.val a < t.val b then b else a, evNone)
def elemMin (t : ETy) (a b : W32) : W32 × Ev :=
  match t with
  | .f32 => fpPick fpMin a b
  | _ => (if t.val b < t.val a then b else a, evNone)

/-- VABS: F32 clears the sign; I32 saturates |-2^31| to 2^31 - 1 and counts nothing (R129). -/
def elemAbs (t : ETy) (a : W32) : W32 :=
  match t with
  | .i32 => (satInt t.lo t.hi (a.toInt.natAbs : Int)).1
  | _ => fpAbs a

/-- VNEG: F32 flips the sign; I32 saturates -(-2^31) and counts nothing (R129). -/
def elemNeg (t : ETy) (a : W32) : W32 :=
  match t with
  | .i32 => (satInt t.lo t.hi (-a.toInt)).1
  | _ => fpNeg a

/-- The order key of an element of a type, for comparisons of values that are not NaN: -0 equals +0. -/
def cmpKey (t : ETy) (w : W32) : Int :=
  match t with
  | .f32 => if w.toNat % 2 ^ 31 = 0 then 0 else if w.toNat < 2 ^ 31 then (w.toNat : Int) else -((w.toNat - 2 ^ 31 : Nat) : Int)
  | _ => t.val w

/-- VCMP (R127, R129): every comparison with a NaN is false except NE. -/
def elemCmp (t : ETy) (sub : Nat) (a b : W32) : W32 :=
  let un := t == .f32 && (isNan32 a || isNan32 b)
  let x := cmpKey t a
  let y := cmpKey t b
  let r : Bool :=
    if sub = 0 then !un && decide (x = y)
    else if sub = 1 then un || decide (x ≠ y)
    else if sub = 2 then !un && decide (x < y)
    else if sub = 3 then !un && decide (x ≤ y)
    else if sub = 4 then !un && decide (y < x)
    else if sub = 5 then !un && decide (y ≤ x)
    else if sub = 6 then t == .f32 && isNan32 a
    else t == .f32 && isInf32 a
  if r then 1 else 0

/-- VSHL (R127). -/
def elemShl (a b : W32) : W32 := if 32 ≤ b.toNat then 0 else a <<< b.toNat

/-- VSHR (R127). -/
def elemShr (t : ETy) (a b : W32) : W32 :=
  match t with
  | .i32 => if 32 ≤ b.toNat then (if a.msb then 0xFFFFFFFF else 0) else a.sshiftRight b.toNat
  | _ => if 32 ≤ b.toNat then 0 else a >>> b.toNat

/-- The sort key of R139, falling order being the mirror image. -/
def sortKey (t : ETy) (w : W32) : Int :=
  match t with
  | .f32 => fpKey w
  | _ => t.val w

end Sys2Proof.Machine
end

