-- ==== Sys2Proof/Machine/Dot.lean ====
section
/-! DEFINITION. The defined dot product (03_dot_product): spans, the reduction tree, lifted nodes, partial records, the
acceptance rule of pushes, the tree check of combines, and integer evaluation with replay. -/
namespace Sys2Proof.Machine

/-! ### Spans and additions (R78, R80, R82) -/

/-- The exact value a node stands for: v × 2^x. -/
def Node.value (n : Node) : XVal := (f32 n.v).scale (if n.x then 16 else 0)

/-- What a span's products have come to: the IEEE special cases of R80 and the exact sum of the finite products. -/
structure SpanAcc where
  nan : Bool := false
  pos : Bool := false       -- a +infinity product
  neg : Bool := false       -- a -infinity product
  sum : Int := 0
  e : Int := 0
  allNegZero : Bool := true
  deriving DecidableEq, Repr, Inhabited

/-- Take one exact product into a span. -/
def SpanAcc.take (a : SpanAcc) : XVal → SpanAcc
  | .nan => { a with nan := true }
  | .inf n => if n then { a with neg := true } else { a with pos := true }
  | .fin n m e =>
    if m = 0 then { a with allNegZero := a.allNegZero && n }
    else if a.sum = 0 then { a with sum := signedAt n m e e, e := e, allNegZero := false }
    else
      let q := min a.e e
      { a with sum := a.sum * 2 ^ (a.e - q).toNat + signedAt n m e q, e := q, allNegZero := false }

/-- The span node of R78, R80 and R82. The events are those of a second overflow (R83). -/
def SpanAcc.node (a : SpanAcc) : Node × Ev :=
  if a.nan || (a.pos && a.neg) then ({ v := nan32 }, evNone)
  else if a.pos then ({ v := 0x7F800000 }, evNone)
  else if a.neg then ({ v := 0xFF800000 }, evNone)
  else
    let s : XVal := .fin (if a.sum = 0 then a.allNegZero else decide (a.sum < 0)) a.sum.natAbs a.e
    let v := rne32 s
    if nonfinite v then
      let w := rne32 (s.scale (-16))
      ({ v := w, x := true }, if nonfinite w then { ovf := 1, nonfin := 1 } else evNone)
    else ({ v := v }, evNone)

/-- The span node of a list of exact products. -/
def spanNode (ps : List XVal) : Node × Ev := (ps.foldl SpanAcc.take {}).node

/-- add of R82, with the events of a second overflow (R83): an infinity from finite children. -/
def addNode (a b : Node) : Node × Ev :=
  if !a.x && !b.x then
    let s := (f32 a.v).add (f32 b.v)
    let v := rne32 s
    if !nonfinite v || nonfinite a.v || nonfinite b.v then ({ v := v }, evNone)
    else ({ v := rne32 (s.scale (-16)), x := true }, evNone)
  else
    let s := (a.value.add b.value).scale (-16)
    let v := rne32 s
    ({ v := v, x := true },
     if nonfinite v && !nonfinite a.v && !nonfinite b.v then { ovf := 1, nonfin := 1 } else evNone)

/-- One level of the tree: pairs are added, an odd last node passes up (R79). -/
def pairUp : List Node → List Node × Ev
  | a :: b :: t =>
    let (n, e) := addNode a b
    let (r, f) := pairUp t
    (n :: r, e.plus f)
  | l => (l, evNone)

/-- The balanced tree over a list of nodes (R79); `fuel` bounds its depth. -/
def treeFold : Nat → List Node → Node × Ev
  | 0, l => (l.headD {}, evNone)
  | _, [] => ({}, evNone)
  | _, [n] => (n, evNone)
  | f + 1, l =>
    let (r, e) := pairUp l
    let (n, g) := treeFold f r
    (n, e.plus g)

/-- The tree over all of a list. -/
def treeOf (l : List Node) : Node × Ev := treeFold (Nat.log2 l.length + 1) l

/-- ceil(log2 n), for n at least 1. -/
def clog2 (n : Nat) : Nat := if n ≤ 1 then 0 else Nat.log2 (n - 1) + 1

/-! ### Shapes of trees and parts (R79, R91, R103) -/

/-- W of a WCODE; codes above 4 are reserved. -/
def wOf (wcode : Nat) : Nat := 8 * 2 ^ wcode

/-- n, the span count of the whole tree. -/
def TreeDesc.n (d : TreeDesc) : Nat := d.nspanM1.toNat + 1

/-- P, the span count of the part a descriptor names (R103). -/
def TreeDesc.parts (d : TreeDesc) : Nat := min (2 ^ d.level.toNat) (d.n - d.pos.toNat * 2 ^ d.level.toNat)

/-- Whether (level, pos) is a node of the tree of n spans (R79). -/
def isNode (n level pos : Nat) : Bool := decide (level ≤ clog2 n ∧ pos * 2 ^ level < n)

/-- The level an accepted push of `s` spans has (R105): the least m with s ≤ 2^m. -/
def pushLevel (s : Nat) : Nat := clog2 s

/-- The acceptance rule of R105 for a push of `s` spans at count `c` into a part of `p` spans; `whole` says that the
push ends on a span boundary, which only the second case does not need. A push past the part's end is no node of it. -/
def pushOk (whole : Bool) (s c p : Nat) : Bool :=
  decide (1 ≤ s) &&
    ((whole && decide (s = 2 ^ pushLevel s ∧ pushLevel s ≤ 11 ∧ c % s = 0 ∧ c + s ≤ p)) ||
     (decide (c + s = p ∧ c % 2 ^ pushLevel s = 0)))

/-! ### The stack form (R79) -/

/-- Push a node of a level onto open entries, lowest level first. -/
def pushEntry : List (Nat × Node) → Nat → Node → List (Nat × Node) × Ev
  | [], l, n => ([(l, n)], evNone)
  | (k, m) :: t, l, n =>
    if k = l then
      let (r, e) := addNode m n
      let (s, f) := pushEntry t (l + 1) r
      (s, e.plus f)
    else ((l, n) :: (k, m) :: t, evNone)

/-- The final fold: the smallest open node into the next larger one, and so on (R79). -/
def foldEntries : List (Nat × Node) → Node × Ev
  | [] => ({}, evNone)
  | (_, n) :: t => t.foldl (fun a x => let (r, e) := addNode x.2 a.1; (r, a.2.plus e)) (n, evNone)

/-! ### Reading lifted results (R84) -/

/-- The events of reading a lifted value into a target: R64's, and none for an infinity or a NaN, whose overflow was counted
where it arose (R83, R84). -/
def liftedEv (n : Node) (e : Ev) : Ev := if nonfinite n.v then evNone else e

/-- The FP32 value of a node read out: v, or v × 2^16 rounded once under SAT (R65 for a lifted infinity); the event is
R64's. -/
def Node.read (n : Node) (mode : Rnd) (sat : Bool) : W32 × Ev :=
  if !n.x then (n.v, evNone)
  else
    let (c, e) := fmtFP32.encode mode sat n.value
    (BitVec.ofNat 32 c, liftedEv n e)

/-! ### Partial records (R91) -/

/-- The bytes of a record: header, values, exponent bits, padding to a multiple of 32. -/
def recordBytes (d : TreeDesc) (rows cols : Nat) (ns : List Node) : List Byte :=
  let body := leBytes 4 (fieldAt 27 d.level.toNat + d.pos.toNat) ++
    leBytes 4 (fieldAt 27 d.wcode.toNat + d.nspanM1.toNat) ++ leBytes 4 d.tree.toNat ++ leBytes 2 rows ++
    leBytes 2 cols ++ ns.flatMap (fun n => leBytes 4 n.v.toNat) ++
    (chunksOf 8 ns.length ns).flatMap fun g => leBytes 1 ((g.zipIdx.map fun x => b2n x.1.x * 2 ^ x.2).sum)
  body ++ zeros (roundUp body.length 32 - body.length)

/-- Bytes of a record of ROWS × COLS outputs (R110). -/
def recordSize (rows cols : Nat) : Nat := roundUp (16 + rows * cols * 4 + ceilDiv (rows * cols) 8) 32

/-- A record as read back. -/
def parseRecord (bs : List Byte) : TreePart :=
  let w0 := leAt bs 0 4
  let w1 := leAt bs 4 4
  let rows := leAt bs 12 2
  let cols := leAt bs 14 2
  let n := if rows ≤ 64 ∧ cols ≤ 128 then rows * cols else 0
  { tree := BitVec.ofNat 32 (leAt bs 8 4), level := bits w0 31 27, pos := bits w0 26 0, wcode := bits w1 29 27,
    nspanM1 := bits w1 26 0, rows := rows, cols := cols,
    nodes := (List.range n).map fun i =>
      { v := BitVec.ofNat 32 (leAt bs (16 + 4 * i) 4), x := bitOf (leAt bs (16 + 4 * n + i / 8) 1) (i % 8) } }

/-! ### The tree check and the combine (R92, R94) -/

/-- What a tree mismatch reports: LEVEL and POS. -/
abbrev Mismatch := Nat × Nat

/-- Spans [lo, hi) of node (level, pos) in a tree of n spans. -/
def nodeSpan (n level pos : Nat) : Nat × Nat := (pos * 2 ^ level, min ((pos + 1) * 2 ^ level) n)

/-- The first of the records that meets a condition of R94 on records, in list order: it disagrees with the first
record, has a reserved or out-of-range field, is no node, lies outside the target, or overlaps an earlier one. -/
def offending (first : TreePart) (n lo hi : Nat) : List TreePart → List TreePart → Option Mismatch
  | _, [] => none
  | seen, r :: rs =>
    let (a, b) := nodeSpan n r.level r.pos
    let bad := r.tree ≠ first.tree ∨ r.nspanM1 ≠ first.nspanM1 ∨ r.wcode ≠ first.wcode ∨ r.rows ≠ first.rows ∨
      r.cols ≠ first.cols ∨ 4 < r.wcode ∨ r.rows < 1 ∨ 64 < r.rows ∨ r.cols < 1 ∨ 128 < r.cols ∨
      isNode n r.level r.pos = false ∨ a < lo ∨ hi < b ∨
      seen.any (fun q => let (c, d) := nodeSpan n q.level q.pos; decide (a < d ∧ c < b)) = true
    if bad then some (r.level, r.pos) else offending first n lo hi (seen ++ [r]) rs

/-- The first span of [lo, hi) that no record covers. -/
def uncovered (n lo hi : Nat) (rs : List TreePart) : Option Nat :=
  -- each record either covers the frontier or does not; the frontier moves at most once for each record
  let step (f : Nat) : Nat :=
    match rs.find? fun r => let (a, b) := nodeSpan n r.level r.pos; decide (a ≤ f ∧ f < b) with
    | some r => (nodeSpan n r.level r.pos).2
    | none => f
  let f := (List.range rs.length).foldl (fun f _ => if f < hi then step f else f) lo
  if f < hi then some f else none

/-- The check of R94 in its fixed order: target, records in list order, coverage. DESIGN CHOICE (assumption 72): the span
count of the tree against which the target is checked is the first record's, whatever the others say. -/
def treeCheck (rs : List TreePart) (level pos : Nat) : Option Mismatch :=
  match rs with
  | [] => some (level, pos)
  | first :: _ =>
    let n := first.nspanM1 + 1
    if isNode n level pos = false then some (level, pos)
    else
      let (lo, hi) := nodeSpan n level pos
      match offending first n lo hi [] rs with
      | some m => some m
      | none => match uncovered n lo hi rs with
        | some sp => some (0, sp)
        | none => none

/-- node(level, pos) of output `i` with the supplied parts standing in for their nodes (R92). A node whose right half is empty
is its left child (R79), so a part stands in for every node over the same spans. -/
def combineNode (n : Nat) (rs : List TreePart) (i : Nat) : Nat → Nat → Node × Ev
  | level, pos =>
    match rs.find? fun r => decide (nodeSpan n r.level r.pos = nodeSpan n level pos) with
    | some r => (r.nodes.getD i {}, evNone)
    | none =>
      match level with
      | 0 => ({}, evNone)
      | l + 1 =>
        let (a, e) := combineNode n rs i l (2 * pos)
        if n ≤ (2 * pos + 1) * 2 ^ l then (a, e)
        else
          let (b, f) := combineNode n rs i l (2 * pos + 1)
          let (r, g) := addNode a b
          (r, (e.plus f).plus g)
  termination_by structural level => level

/-! ### Integer trees (R85, R86) -/

/-- Whether an exact integer lies outside the INT32 range. -/
def outside32 (v : Int) : Bool := decide (v < -(2 ^ 31) ∨ 2 ^ 31 - 1 < v)

def clamp32 (v : Int) : Int := min (max v (-(2 ^ 31))) (2 ^ 31 - 1)

/-- One level of the integer tree: whether a node saturates, and the nodes (clamped on the last pass). -/
def pairUpInt (clamp : Bool) : List Int → List Int × Bool
  | a :: b :: t =>
    let v := a + b
    let (r, s) := pairUpInt clamp t
    ((if clamp then clamp32 v else v) :: r, outside32 v || s)
  | l => (l, false)

/-- The integer tree over a list of span sums: its root and whether a node saturates. -/
def treeInt (clamp : Bool) : Nat → List Int → Int × Bool
  | 0, l => (l.headD 0, false)
  | _, [] => (0, false)
  | _, [v] => (v, false)
  | f + 1, l =>
    let (r, s) := pairUpInt clamp l
    let (v, t) := treeInt clamp f r
    (v, s || t)

/-- Arithmetic right shift, towards minus infinity (R86). -/
def asr (a : Int) (s : Nat) : Int := a / 2 ^ s

end Sys2Proof.Machine
end

