-- ==== Sys2Proof/Machine/Issue.lean ====
section
/-! DEFINITION. How a tile instruction issues: the conditions under which the sequencer issues it, breakpoints, the
partition and sequence faults (R35, R111, R143), SRAM errors (R441, R443), and watchpoints (R453). -/
namespace Sys2Proof.Machine

/-- What the body of a tile instruction comes to, once it issues. Read and written memory is named by DPA ranges, plates
by absolute element ranges (plate × 2048 + element, count). -/
inductive Body where
  | done (s : State) (reads writes : List (Nat × Nat)) (plateReads plateWrites : List (Nat × Nat))
  | partition (name : Nat)
  | sequence
  | stopped (s : State)        -- the body has dealt with its own stop (R94, R116)

/-- Functions with a share on a tile. -/
def Tile.funcs (t : Tile) : List Nat :=
  (List.range 4).filterMap fun e =>
    let p := tget {} t.part e
    if p.valid then some p.func.toNat else none

/-- Take a tile out of service: every function with a share on it moves to DRAINING (R116). -/
def State.retireTile (s : State) (t : Nat) : State :=
  let fs := (s.tile t).funcs
  fs.foldl (fun s f => s.drain f) (s.onTile t fun x => { x with outOfService := true })

/-- Fill a fault register unless it still holds a fault (R119, R145). -/
def FaultReg.fill (r : FaultReg) (iaddr : W32) (fn unit code : Nat) : FaultReg :=
  if r.valid then r
  else { iaddr := iaddr, valid := true, func := BitVec.ofNat 4 fn, unit := BitVec.ofNat 2 unit, code := BitVec.ofNat 8 code }

/-- Which engine's fault register a tile instruction uses. -/
inductive Eng where
  | me
  | ve
  deriving DecidableEq, Repr, Inhabited

def Tile.fault (x : Tile) (g : Eng) (iaddr : W32) (fn unit code : Nat) : Tile :=
  match g with
  | .me => { x with meFault := x.meFault.fill iaddr fn unit code }
  | .ve => { x with veFault := x.veFault.fill iaddr fn unit code }

/-- Stop the sequencer of entry `e` on a tile. -/
def State.stopSeq (s : State) (t e : Nat) : State :=
  s.onTile t fun x => { x with seqs := tset {} x.seqs e { tget {} x.seqs e with active := false, stopped := true } }

def eRegAccess : Nat := 0x0001
def eAddress : Nat := 0x0002
def eFirmwareFault : Nat := 0x0003
def eBridgeReset : Nat := 0x0004
def eControlRestart : Nat := 0x0005
def ePartition : Nat := 0x0010
def eSequence : Nat := 0x0011
def eResidue : Nat := 0x0012
def eTreeMismatch : Nat := 0x0013
def eTileStall : Nat := 0x0014
def eSramUE : Nat := 0x0015
def eGenMismatch : Nat := 0x0020
def eCrcFailure : Nat := 0x0021
def eStepSkew : Nat := 0x0022
def eJournal : Nat := 0x0023
def eHoldCap : Nat := 0x0024
def eItemStall : Nat := 0x0025
def eSkipLimit : Nat := 0x0026
def eStartMismatch : Nat := 0x0027
def eTimeFault : Nat := 0x0030
def eHerdLink : Nat := 0x0031
def eWiring : Nat := 0x0032
def eMemberLost : Nat := 0x0033
def eRetx : Nat := 0x0034
def eLaneShed : Nat := 0x0035
def eHbmUE : Nat := 0x0040
def ePageRetired : Nat := 0x0041
def eStackFailed : Nat := 0x0042
def eBias : Nat := 0x0043
def eCompanionUE : Nat := 0x0044
def eLinkEpoch : Nat := 0x0050
def eLwlRetrain : Nat := 0x0051
def eLwlOut : Nat := 0x0052
def eNarrowed : Nat := 0x0053
def eQueueStale : Nat := 0x0054
def eD2dRetrain : Nat := 0x0055
def eD2dFailed : Nat := 0x0056
def eShortfall : Nat := 0x0060
def eThermal : Nat := 0x0061
def eSupply : Nat := 0x0062
def eTelemetry : Nat := 0x0063
def eInput : Nat := 0x0064
def eNv : Nat := 0x0070
def eSnapshot : Nat := 0x0071
def eDebugAuth : Nat := 0x0072
def eDebugWrite : Nat := 0x0073

/-- A partition fault of a tile instruction (R35). -/
def State.tilePartition (s : State) (g : Eng) (t e fn unit : Nat) (iaddr : W32) (name : Nat) : State :=
  let s := (s.onTile t fun x => x.fault g iaddr fn unit 1).stopSeq t e
  let s := s.report { code := ePartition, cls := clsFunction, func := some fn, unit := t, a := iaddr.toNat, b := name }
  s.drain fn

/-- A sequence fault of a tile instruction (R111, R143). A second one of the function at the same address marks the
tile's SRAM suspect and takes the tile out of service. -/
def State.tileSequence (s : State) (g : Eng) (t e fn unit : Nat) (iaddr : W32) : State :=
  let again := (s.tile t).seqFaults.contains (fn, iaddr)
  let s := (s.onTile t fun x =>
    { (x.fault g iaddr fn unit 2) with
      seqFaults := if again then x.seqFaults else (fn, iaddr) :: x.seqFaults
      eccSuspect := x.eccSuspect || again }).stopSeq t e
  let s := s.report { code := eSequence, cls := clsFunction, func := some fn, unit := t, a := iaddr.toNat, b := unit }
  let s := s.drain fn
  if again then s.retireTile t else s

/-- An uncorrectable error in a tile's SRAM or plates, met by an instruction of function `fn` (R443). -/
def State.tileUE (s : State) (t e fn : Nat) (dpa : Nat) : State :=
  let suspect := (s.tile t).eccSuspect
  let s := (s.onTile t fun x => { x with eccSuspect := true, eccUE := satAdd 15 x.eccUE 1 }).stopSeq t e
  let s := s.report { code := eSramUE, cls := clsFunction, func := some fn, unit := t, a := dpa, loss := true }
  let s := s.drain fn
  if suspect then s.retireTile t else s

/-! ### Debug halts (R451 to R454) -/

/-- Halt a function on every tile where it holds a share, together with its mules (R451 ALL). -/
def State.haltAll (s : State) (fn reason : Nat) : State :=
  let s := s.onTiles fun _ x => { x with
    seqs := (List.range 4).foldl (fun m e =>
      if x.owns fn e then
        let q := tget {} m e
        tset {} m e { q with halted := true, reason := if q.halted then q.reason else BitVec.ofNat 3 reason }
      else m) x.seqs }
  { s with dbg := { s.dbg with muleHalt := if s.dbg.muleHalt.contains fn then s.dbg.muleHalt else fn :: s.dbg.muleHalt } }

/-- Whether a HALT of a function on a tile has been asked for: its sequencer issues nothing more there (R451). -/
def State.haltDue (s : State) (fn t : Nat) : Bool :=
  s.dbg.haltAsked.any fun h => h.1 == fn && (h.2 == none || h.2 == some t)

/-- The breakpoints that match before the instruction at `iaddr` of function `fn` on tile `t` (R452). -/
def State.breakpoints (s : State) (t fn : Nat) (iaddr : W32) : List Nat :=
  (List.range 16).filter fun n =>
    let b := (tget 0 s.dbg.bps n).toNat
    bitOf b 63 && bits b 61 58 == fn && (bitOf b 57 || bits b 56 48 == t) && bits b 31 5 == bits iaddr.toNat 31 5

/-- Halt the tile at a breakpoint (R452). -/
def State.hitBreak (s : State) (t e fn : Nat) (ns : List Nat) : State :=
  let s := s.onTile t fun x => { x with
    seqs := tset {} x.seqs e { tget {} x.seqs e with halted := true, reason := 2 } }
  let s := { s with dbg := { s.dbg with bphit := ns.foldl (fun v n => v ||| BitVec.ofNat 16 (2 ^ n)) s.dbg.bphit } }
  if ns.any (fun n => bitOf (tget 0 s.dbg.bps n).toNat 62) then s.haltAll fn 2 else s

/-- Whether [a, a + n) meets [b, b + m). -/
def meets (a n b m : Nat) : Bool := decide (a < b + m ∧ b < a + n ∧ 0 < n ∧ 0 < m)

/-- The watchpoints that an access of a function matches (R453). -/
def State.watchpoints (s : State) (fn : Nat) (write : Bool) (r : Nat × Nat) : List Nat :=
  (List.range 8).filter fun n =>
    let b := (tget 0 s.dbg.wpBase n).toNat
    let l := (tget 0 s.dbg.wpLen n).toNat % 2 ^ 32
    bitOf b 63 && bits b 59 56 == fn && (if write then bitOf b 61 else bitOf b 62) &&
      meets r.1 r.2 (bits b 47 6 * 64) (l * 64)

/-- Record watchpoint hits and halt the whole function (R453, R454). `kind` and `unit` are those of DBG_WPACC. -/
def State.watch (s : State) (fn kind unit : Nat) (reads writes : List (Nat × Nat)) : State :=
  let hits : List (Bool × (Nat × Nat) × List Nat) := (reads.map fun r => (false, r, s.watchpoints fn false r)) ++
    (writes.map fun r => (true, r, s.watchpoints fn true r))
  let hits := hits.filter fun (h : Bool × (Nat × Nat) × List Nat) => !h.2.2.isEmpty
  match hits with
  | [] => s
  | (w, r, _) :: _ =>
    let s := { s with dbg := { s.dbg with
      wphit := (hits.flatMap fun (h : Bool × (Nat × Nat) × List Nat) => h.2.2).foldl (fun (v : BitVec 8) n => v ||| BitVec.ofNat 8 (2 ^ n)) s.dbg.wphit
      wpWrite := w, wpKind := kind, wpUnit := unit, wpAddr := BitVec.ofNat 48 r.1 } }
    s.haltAll fn 3

/-! ### Issue -/

/-- Whether an upset's address lies in one of the ranges read. -/
def inRanges (a : Nat) (rs : List (Nat × Nat)) : Bool := rs.any fun r => decide (r.1 ≤ a ∧ a < r.1 + r.2)

/-- The lowest poisoned unit that a write of [a, a + n) covers only in part: such a write reads the unit first (R440). -/
def State.poisonedEdge (s : State) (a n : Nat) : Option Nat :=
  (s.poison.filter fun p => decide (p < a + n ∧ a < p + poisonUnit p ∧ 0 < n) &&
    !decide (a ≤ p ∧ p + poisonUnit p ≤ a + n)).min?

/-- The sequencer moves past an issued instruction. -/
def State.retire (s : State) (t e : Nat) : State :=
  s.onTile t fun x =>
    let q := tget {} x.seqs e
    { x with seqs := tset {} x.seqs e { q with iaddr := q.iaddr + 32, left := q.left - 1, passBp := false, beats := 0 } }

/-- Deal with what a body read and wrote (an upset of what it does not read meets nothing): poison and upsets first (the instruction does not complete, R443), else the
body's state, watchpoints and the sequencer's advance. `s0` is the state in which the instruction issued. -/
def State.finishBody (s0 : State) (g : Eng) (t e fn unit : Nat) (iaddr : W32) (u : Upset) : Body → Answer
  | .stopped s => .next s
  | .partition name => .next (s0.tilePartition g t e fn unit iaddr name)
  | .sequence => .next (s0.tileSequence g t e fn unit iaddr)
  | .done s reads writes plateReads plateWrites =>
    let finish (s : State) : Answer :=
      -- poison of a plate word ends when the whole word is written; so does SRAM poison, in State.write
      match (reads.filterMap (fun r => s0.poisonedIn r.1 r.2) ++
          writes.filterMap fun r => s0.poisonedEdge r.1 r.2).head? with
      | some p => .next (s0.tileUE t e fn p)
      | none =>
        if (s0.tile t).platePoison.any (fun w => plateReads.any (fun r => meets r.1 r.2 (2 * w) 2) ||
            plateWrites.any fun r => meets r.1 r.2 (2 * w) 2 && !decide (r.1 ≤ 2 * w ∧ 2 * w + 2 ≤ r.1 + r.2)) then
          .next (s0.tileUE t e fn 0)
        else
          let s := s.onTile t fun x => { x with platePoison := x.platePoison.filter fun w =>
            !(plateWrites.any fun r => decide (r.1 ≤ 2 * w ∧ 2 * w + 2 ≤ r.1 + r.2)) }
          .next ((s.retire t e).watch fn (if g = .me then 0 else 1) t reads writes)
    match u with
    | .none => finish s
    | .residue _ => finish s
    | .sramCE a =>
      if inRanges a reads then finish (s.onTile t fun x => { x with eccCE := satAdd 16 x.eccCE 1 })
      else finish s
    | .sramUE a =>
      if inRanges a reads then .next ((s0.addPoison a).tileUE t e fn (poisonOf a))
      else finish s
    | .plateCE =>
      if plateReads.isEmpty then finish s
      else finish (s.onTile t fun x => { x with eccCE := satAdd 16 x.eccCE 1 })
    | .plateUE w =>
      if plateReads.any (fun r => meets r.1 r.2 (2 * w) 2) then
        .next ((s0.onTile t fun x => { x with
          platePoison := if x.platePoison.contains w then x.platePoison else w :: x.platePoison }).tileUE t e fn 0)
      else finish s
    | _ => finish s

/-! ### Grants (R36, R247) -/

/-- Whether row SCHED mod G grants a resource group to a function. -/
def BaseImage.grants (b : BaseImage) (sched group fn : Nat) : Bool :=
  ((b.grantRows.getD (sched % max 1 b.grantG) []).getD group 0xFF) == fn

/-- Whether a resource group has an engine of a tile. -/
def GroupRec.hasEngine (r : GroupRec) (g : Eng) (t : Nat) : Bool :=
  r.gkind == (if g = .me then 0 else 1) && decide (r.first ≤ t ∧ t < r.first + r.count)

/-- Whether the present slot is a function's on an engine of a tile (R36): some resource group that has the engine is granted
to it. An engine that no group has is granted by none (assumption 78). -/
def State.engGranted (s : State) (g : Eng) (t fn : Nat) : Bool :=
  match s.base with
  | none => true
  | some b =>
    let gs := b.groups.filter fun r => r.hasEngine g t
    gs.isEmpty || gs.any fun r => b.grants s.herd.sched.toNat r.group fn

/-- Issue one tile instruction on tile `a.tile` for partition entry `a.entry`. Nothing issues where the tile is out of
service or stalled (R28, R116), the function is not ON (R118, R142), the sequencer has stopped (R111) or is halted (R451), or
the slot is not the function's on the engine (R36); a breakpoint halts the tile in place of issuing (R452). -/
def State.issue (s : State) (g : Eng) (a : At) (unit : Nat) (u : Upset) (body : Part → Body) : Answer :=
  if !s.tileFitted a.tile then .fault (.absent "tile" a.tile)
  else if 4 ≤ a.entry then s.noEvent "R32: a tile has four partition entries"
  else
    let x := s.tile a.tile
    let p := tget {} x.part a.entry
    let q := tget {} x.seqs a.entry
    let fn := p.func.toNat
    if !p.valid then s.noEvent "R32: an entry with VALID = 0 grants nothing"
    else if x.outOfService || x.stalled || q.stopped || q.halted || s.haltDue fn a.tile || (s.func fn).state != .on ||
        !s.engGranted g a.tile fn then .next s
    else
      match if q.passBp then [] else s.breakpoints a.tile fn q.iaddr with
      | [] => s.finishBody g a.tile a.entry fn unit q.iaddr u (body p)
      | ns => .next (s.hitBreak a.tile a.entry fn ns)

/-! ### Shares on a tile (R34) -/

/-- Whether a share-relative SRAM range lies inside the entry's share. -/
def Part.sramOk (p : Part) (off n : Nat) : Bool := decide (off + n ≤ p.sramCount.toNat * 65536)

/-- The DPA of a share-relative SRAM offset. -/
def Part.sram (p : Part) (t off : Nat) : Nat := tileAddr t (p.sramBase.toNat * 65536 + off)

/-- Whether a bank belongs to the entry. -/
def Part.bankOk (p : Part) (b : Nat) : Bool := bitOf p.accMask.toNat b

end Sys2Proof.Machine
end

