-- ==== Sys2Proof/Machine/Operands.lean ====
section
/-! DEFINITION. The operand paths of the tile engines: the panels of an MMA with their layout, scales and cast on load
(R99 to R102), and the runs, scalars and immediates of the vector engine (R120 to R126). -/
namespace Sys2Proof.Machine

/-! ### Panels of an MMA -/

/-- One operand of an MMA. Offsets are bytes from the start of the function's share, strides are in bytes. -/
structure Panel where
  n : Nat               -- rows of A, columns of B
  klen : Nat
  k0 : Nat              -- the instruction's first K index (R102)
  kend : Nat            -- the tensor's K, past which no block reaches (R54)
  outer : Bool          -- K-outer layout
  sfmt : Nat
  sdesc : Nat
  cvt : Nat
  base : Nat
  stride : Nat
  sbase : Nat
  sstride : Nat
  deriving DecidableEq, Repr, Inhabited

/-- The compute format. -/
def Panel.cfmt (o : Panel) : Nat := cvtFmt o.cvt

/-- The scale descriptor of the operand as computed: as stored where it is stored in an MX format (R100). -/
def Panel.cdesc (o : Panel) : Nat := if fmtIsMX o.sfmt then o.sdesc else cvtSdesc o.cvt

/-- Whether the loader casts the operand to an MX format (R100). -/
def Panel.casts (o : Panel) : Bool := fmtIsMX o.cfmt && !fmtIsMX o.sfmt

/-- The permitted conversions on load and the field values that are not reserved (R44, R99, R100). -/
def Panel.legal (o : Panel) : Bool :=
  let pairOk :=
    if o.sfmt = 0 then o.cfmt == 0 || o.cfmt == 1 || o.cfmt == 2 || fmtIsMX o.cfmt
    else if o.sfmt = 1 ∨ o.sfmt = 2 then o.cfmt == o.sfmt || fmtIsMX o.cfmt
    else if fmtIsMX o.sfmt then o.cfmt == o.sfmt
    else o.sfmt == 3 && o.cfmt == 3
  pairOk && decide (cvtRnd o.cvt ≤ 1) && (!fmtIsMX o.cfmt || !sdReserved o.cdesc) &&
    decide (1 ≤ o.klen ∧ o.klen ≤ 16384)

/-- The block size of a K-scaled operand (R77). -/
def Panel.kBlock (o : Panel) : Option Nat :=
  if fmtIsMX o.cfmt && sdDir o.cdesc == 0 then some (sdBlock o.cdesc) else none

/-- W of R77. -/
def spanWidth (a b : Option Nat) : Nat :=
  match a, b with
  | some x, some y => min x y
  | some x, none => x
  | none, some y => y
  | none, none => 32

/-- The K range the loader reads: the instruction's own, widened to whole blocks of a cast along K (R100). -/
def Panel.kRange (o : Panel) : Nat × Nat :=
  if o.casts && sdDir (cvtSdesc o.cvt) == 0 then
    let b := sdBlock (cvtSdesc o.cvt)
    (o.k0 / b * b, max (o.k0 + o.klen) (min (roundUp (o.k0 + o.klen) b) o.kend))
  else (o.k0, o.k0 + o.klen)

/-- Offset of the line that holds element (i, k), and the element's position in it (R101). K indices count from the
instruction's first. -/
def Panel.line (o : Panel) (i : Nat) (kr : Int) : Int × Int :=
  if o.outer then (o.base + kr * o.stride, i) else (o.base + (i : Int) * o.stride, kr)

/-- Bytes from a line's start to position `j`: whole groups for the 4- and 6-bit formats. -/
def linePos (w : Nat) (j : Int) : Int := if w = 6 then j / 4 * 3 else if w = 4 then j / 2 else j * (w / 8)

/-- The share-relative ranges an operand reads, values and scales. -/
def Panel.ranges (o : Panel) : List (Int × Nat) :=
  let w := fmtWidth o.sfmt
  let (lo, hi) := o.kRange
  let rel : Int := (lo : Int) - o.k0
  let vals : List (Int × Nat) :=
    if o.outer then (List.range (hi - lo)).map fun (j : Nat) => ((o.line 0 (rel + j)).1, packedBytes w o.n)
    else (List.range o.n).map fun i => ((o.line i rel).1 + linePos w rel, packedBytes w (hi - lo))
  let b := sdBlock o.sdesc
  let scales : List (Int × Nat) :=
    if !fmtIsMX o.sfmt then []
    else if sdDir o.sdesc = 0 then
      (List.range o.n).map fun i => ((o.sbase + i * o.sstride : Nat), (o.k0 + o.klen - 1) / b + 1 - o.k0 / b)
    else (List.range (ceilDiv o.n b)).map fun g => ((o.sbase + g * o.sstride : Nat), o.klen)
  vals ++ scales

/-- The stored value of element (i, k0 + kr), with its scale where it is stored in an MX format (R102). `at0` is the DPA
of the share's start. -/
def Panel.stored (o : Panel) (s : State) (at0 : Nat) (i : Nat) (kr : Int) : XVal :=
  let w := fmtWidth o.sfmt
  let (l, j) := o.line i kr
  let off := (l + linePos w j).toNat
  let code :=
    if w = 6 then bits (leNat (s.read (at0 + off) 3)) (6 * (j % 4).toNat + 5) (6 * (j % 4).toNat)
    else if w = 4 then bits (s.byte (at0 + off)).toNat (4 * (j % 2).toNat + 3) (4 * (j % 2).toNat)
    else leNat (s.read (at0 + off) (w / 8))
  let x := elemValue o.sfmt code
  if fmtIsMX o.sfmt then
    let b := sdBlock o.sdesc
    let so := if sdDir o.sdesc = 0 then o.sbase + i * o.sstride + ((o.k0 + kr.toNat) / b - o.k0 / b)
              else o.sbase + i / b * o.sstride + kr.toNat
    scaled (s.byte (at0 + so)).toNat x
  else x

/-- Quantise one block on load and give back the values, with each element's own events (R100, R113). -/
def castBlock (cvt : Nat) (xs : List XVal) : List (XVal × Ev) :=
  let f := cvtFmt cvt
  let (sc, codes, _) := quantiseBlock f (cvtCeil cvt) (cvtSat cvt) (xs.map fun x => (x, cvtMode cvt 0))
  let bad := xs.any fun x => !x.isFinite
  (xs.zip codes).map fun (x, c) =>
    (scaled sc (elemValue f c),
     if bad then (if x.isFinite then evNone else evNonfin)
     else (encodeMXElem f (cvtMode cvt 0) (cvtSat cvt) ((sc : Int) - 127) x).2)

/-- Row `i` of an operand that is not cast along the other dimension: KLEN values and their events. DESIGN CHOICE (assumption
73): the elements of a cast block that lie outside the MMA's own K range count no event in this MMA. -/
def Panel.row (o : Panel) (s : State) (at0 i : Nat) : List (XVal × Ev) :=
  if o.casts then
    let (lo, hi) := o.kRange
    let b := sdBlock (cvtSdesc o.cvt)
    let xs := (List.range (hi - lo)).map fun j => o.stored s at0 i ((lo + j : Nat) - (o.k0 : Int))
    (((chunksOf b xs.length xs).flatMap (castBlock o.cvt)).drop (o.k0 - lo)).take o.klen
  else
    (List.range o.klen).map fun (j : Nat) =>
      let x := o.stored s at0 i j
      if o.cfmt = o.sfmt then (x, if x.isFinite then evNone else evNonfin)
      else
        let (c, e) := encodePlain o.cfmt (cvtMode o.cvt 0) (cvtSat o.cvt) x
        (elemValue o.cfmt c, e)

/-- The operand as computed: n rows of KLEN values, each with the events its load counts (R113). -/
def Panel.load (o : Panel) (s : State) (at0 : Nat) : List (List (XVal × Ev)) :=
  if o.casts && sdDir (cvtSdesc o.cvt) == 1 then
    let b := sdBlock (cvtSdesc o.cvt)
    let cols := (List.range o.klen).map fun (j : Nat) =>
      let xs := (List.range o.n).map fun i => o.stored s at0 i j
      (chunksOf b xs.length xs).flatMap (castBlock o.cvt)
    (List.range o.n).map fun i => cols.map fun c => c.getD i (.nan, evNone)
  else (List.range o.n).map fun i => o.row s at0 i

/-- The events of a loaded operand, one sum. DESIGN CHOICE (assumption 73): the element positions of R60 are, for a product
of panels, the loaded elements of A and those of B, each counted once for each MMA, whatever the number of products an element
enters. -/
def loadEvents (m : List (List (XVal × Ev))) : Ev := (m.flatMap fun r => r.map Prod.snd).foldl Ev.plus evNone

/-- The integer an INT8 element holds. -/
def XVal.toInt : XVal → Int
  | .fin n m e => signedAt n m e 0
  | _ => 0

/-! ### Runs, scalars and immediates (R120 to R126) -/

/-- The first absolute element (plate × 2048 + element) of a run descriptor, or none where the run leaves the entry's
plate share (R121). -/
def Part.run (p : Part) (desc : W32) (n : Nat) : Option Nat :=
  let rel := bits desc.toNat 5 0 * 2048 + bits desc.toNat 16 6
  if rel + n ≤ p.plateCount.toNat * 4 * 2048 then some (p.plateBase.toNat * 4 * 2048 + rel) else none

/-- Elements of the plates. -/
def Tile.elems (x : Tile) (abs n : Nat) : List W32 := tgetList 0 x.plates abs n

/-- Write consecutive plate elements. -/
def Tile.setElems (x : Tile) (abs : Nat) (vs : List W32) : Tile := { x with plates := tsetList 0 x.plates abs vs }

/-- A scalar of a partition entry (R122). -/
def Tile.scalar (x : Tile) (e i : Nat) : W32 := tget 0 x.scalars (e * 16 + i % 16)
def Tile.setScalar (x : Tile) (e i : Nat) (v : W32) : Tile :=
  { x with scalars := tset 0 x.scalars (e * 16 + i % 16) v }

/-- A chain of a partition entry (R122). -/
def Tile.chain (x : Tile) (e c : Nat) : Chain := tget {} x.chains (e * 4 + c)
def Tile.setChain (x : Tile) (e c : Nat) (v : Chain) : Tile := { x with chains := tset {} x.chains (e * 4 + c) v }

/-- The sequencer of a partition entry. -/
def Tile.seq (x : Tile) (e : Nat) : Sequencer := tget {} x.seqs e

/-- A bank of the matrix engine. -/
def Tile.bank (x : Tile) (b : Nat) : Bank := tget {} x.banks b
def Tile.setBank (x : Tile) (b : Nat) (v : Bank) : Tile := { x with banks := tset {} x.banks b v }

/-- A source operand: a run, or one value for every element. -/
inductive Src where
  | run (abs : Nat)
  | all (v : W32)
  | outside (plate : Nat)
  | reserved
  deriving DecidableEq, Repr, Inhabited

/-- A run source (R121). -/
def Part.srcRun (p : Part) (desc : W32) (n : Nat) : Src :=
  match p.run desc n with
  | some a => .run a
  | none => .outside (bits desc.toNat 5 0)

/-- The second source by BSEL (R125). -/
def srcB (op : VOp) (p : Part) (x : Tile) (e : Nat) : Src :=
  if op.bsel = 0 then p.srcRun op.w3 op.count.toNat
  else if op.bsel = 1 then .all (x.scalar e op.sb.toNat)
  else if op.bsel = 2 then .all op.w6
  else .reserved

/-- The third source by CSEL (R125). -/
def srcC (op : VOp) (p : Part) (x : Tile) (e : Nat) : Src :=
  if op.csel = 0 then p.srcRun op.w4 op.count.toNat
  else if op.csel = 1 then .all (x.scalar e op.sc.toNat)
  else if op.csel = 2 then .all op.w7
  else .reserved

/-- The values of a source. -/
def Src.vals (x : Tile) (n : Nat) : Src → List W32
  | .run a => x.elems a n
  | .all v => List.replicate n v
  | _ => []

/-- The plate range a source reads. -/
def Src.reads (n : Nat) : Src → List (Nat × Nat)
  | .run a => [(a, n)]
  | _ => []

/-- The first source that is reserved or leaves the share: its body, if there is one. -/
def srcFault : List Src → Option Body
  | [] => none
  | .reserved :: _ => some .sequence
  | .outside p :: _ => some (.partition p)
  | _ :: t => srcFault t

/-- COUNT of 1 to 16,384 (R121); any other value is reserved. -/
def countOk (op : VOp) : Bool := decide (1 ≤ op.count.toNat ∧ op.count.toNat ≤ 16384)

/-- The form that every vector opcode but VROPEN shares (R121, R125): COUNT in range, W1[15] = 0, TYPE not the reserved 3. -/
def frameOk (op : VOp) : Bool := countOk op && !op.w1b15 && op.ty != 3

end Sys2Proof.Machine
end

