-- ==== Sys2Proof/Machine/Flags.lean ====
section
/-! DEFINITION. The event counts that stand for flags on this block: the counters of a partition entry (R129, R144) and
of a bank (R113), and their saturation. -/
namespace Sys2Proof.Machine

/-- Add events to 16-bit saturating counters (R119, R145, R268). -/
def Events.bump (c : Events) (e : Ev) : Events :=
  { nonfin := satAdd 16 c.nonfin e.nonfin, ovf := satAdd 16 c.ovf e.ovf, inval := satAdd 16 c.inval e.inval }

/-- Count events against a partition entry. -/
def Tile.countEv (x : Tile) (e : Nat) (v : Ev) : Tile :=
  { x with events := tset {} x.events e ((tget {} x.events e).bump v) }

/-- Count events against a bank (R113). -/
def Bank.countEv (b : Bank) (v : Ev) : Bank :=
  { b with nonfin := satAdd 16 b.nonfin v.nonfin, ovf := satAdd 16 b.ovf v.ovf }

/-- The sum of a list of events. -/
def sumEv (es : List Ev) : Ev := es.foldl Ev.plus evNone

end Sys2Proof.Machine
end

