-- ==== Sys2Proof/Machine/Matrix.lean ====
section
/-! DEFINITION. The matrix engine (04_matrix_engine): MMA, MTREE, MDRAIN, MSAVE, MCLR, the accumulator banks with their
stack frames, the fold, integer replay and residue faults. -/
namespace Sys2Proof.Machine

/-! ### Bank contents -/

/-- The key of output (r, c) of a bank: 128 columns to a row (R106). -/
def cellKey (cols i : Nat) : Nat := i / cols * 128 + i % cols

/-- The outputs of a bank, row-major over its ROWS × COLS. -/
def Bank.nodes (b : Bank) : List Node :=
  (List.range (b.rows * b.cols)).map fun i =>
    { v := tget 0 b.vals (cellKey b.cols i), x := tget false b.xbits (cellKey b.cols i) }

/-- Put outputs into a bank. -/
def Bank.setNodes (b : Bank) (ns : List Node) : Bank :=
  let keyed := ns.zipIdx.map fun (n, i) => (cellKey b.cols i, n)
  { b with
    vals := keyed.filterMap fun (k, n) => if n.v = 0 then none else some (k, n.v)
    xbits := keyed.filterMap fun (k, n) => if n.x then some (k, true) else none }

/-- What MCLR and ME_CTL.CLR leave of a bank: IDLE, nothing held; the event counts stay until MTREE (R113, R119). -/
def Bank.clear (b : Bank) : Bank := { nonfin := b.nonfin, ovf := b.ovf }

/-- W and P of an open bank. -/
def Bank.w (b : Bank) : Nat := wOf b.desc.wcode.toNat
def Bank.p (b : Bank) : Nat := b.desc.parts

/-- The first K index of the bank's next MMA (R102). -/
def Bank.k0 (b : Bank) : Nat := (b.desc.pos.toNat * 2 ^ b.desc.level.toNat + b.count) * b.w

/-! ### Stack frames (R106, R107) -/

/-- Share-relative offset of the frame of level `l`. -/
def Bank.frame (b : Bank) (l : Nat) : Nat := b.stackAddr.toNat * 32 + (l - 1) * 33792

/-- Bytes of a frame that are used: an integer tree has no exponent bits (R106). -/
def Bank.frameBytes (b : Bank) : Nat := if b.int then 32768 else 33792

/-- Write a frame: 64 × 128 values and their exponent bits, zero outside the bank's block. -/
def Bank.writeFrame (b : Bank) (s : State) (at0 l : Nat) (ns : List Node) : State :=
  let base := at0 + b.frame l
  let s := s.zero base (base + b.frameBytes)
  let s := (ns.zipIdx).foldl (fun s (n, i) => s.write (base + cellKey b.cols i * 4) (leBytes 4 n.v.toNat)) s
  if b.int then s
  else
    (ns.zipIdx).foldl (fun s (n, i) =>
      if n.x then
        let k := cellKey b.cols i
        let a := base + 32768 + k / 8
        s.write a [s.byte a ||| BitVec.ofNat 8 (2 ^ (k % 8))]
      else s) s

/-- Read a frame back. -/
def Bank.readFrame (b : Bank) (s : State) (at0 l : Nat) : List Node :=
  let base := at0 + b.frame l
  (List.range (b.rows * b.cols)).map fun i =>
    let k := cellKey b.cols i
    { v := BitVec.ofNat 32 (leNat (s.read (base + k * 4) 4))
      x := !b.int && bitOf (s.byte (base + 32768 + k / 8)).toNat (k % 8) }

/-- Add two blocks of nodes, and whether an integer node leaves the INT32 range (R82, R85). -/
def mergeNodes (int : Bool) (xs ys : List Node) : List Node × Bool :=
  if int then
    let vs := (xs.zip ys).map fun (a, b) => a.v.toInt + b.v.toInt
    (vs.map fun v => { v := if outside32 v then Config.intOverflowBits v else BitVec.ofInt 32 v }, vs.any outside32)
  else ((xs.zip ys).map fun (a, b) => (addNode a b).1, false)

/-- Which outputs of that addition overflow a second time, from finite children (R83). -/
def mergeAgain (int : Bool) (xs ys : List Node) : List Bool :=
  if int then [] else (xs.zip ys).map fun (a, b) => decide ((addNode a b).2.ovf ≠ 0)

/-- Two lists of flags joined by or, place by place. -/
def orFlags (xs ys : List Bool) : List Bool :=
  (List.range (max xs.length ys.length)).map fun i => xs.getD i false || ys.getD i false

/-- What merging blocks of nodes comes to: the nodes, whether an integer node left its range, and the outputs that overflowed
a second time. -/
structure Merge where
  nodes : List Node
  sat : Bool := false
  again : List Bool := []
  deriving DecidableEq, Repr, Inhabited

/-- Merge an older block from the left. -/
def Merge.add (int : Bool) (m : Merge) (older : List Node) : Merge :=
  let r := mergeNodes int older m.nodes
  { nodes := r.1, sat := m.sat || r.2, again := orFlags m.again (mergeAgain int older m.nodes) }

/-- Count outputs that overflowed a second time: one overflow event and one non-finite result for each, once (R83). -/
def Bank.overflowAgain (b : Bank) (fs : List Bool) : Bank :=
  let new := ((fs.zipIdx.filter Prod.fst).map fun f => cellKey b.cols f.2).filter fun k => !tget false b.again k
  { b.countEv { ovf := new.length, nonfin := new.length } with
    again := new.foldl (fun m k => tset false m k true) b.again }

/-- Levels set in `pad` above level `l`, rising, for as long as they are consecutive from `l`. -/
def risingFrom (pad l : Nat) : Nat → List Nat
  | 0 => []
  | f + 1 => if bitOf pad l then l :: risingFrom pad (l + 1) f else []

/-- The lowest level set in `pad`. -/
def lowBit (pad : Nat) : Nat := ((List.range 28).find? fun l => bitOf pad l).getD 28

/-- What a push does to frames: the level whose frame is written, if any, and the levels whose frames are read (R106). -/
def pushFrames (pad m : Nat) : Option Nat × List Nat :=
  if pad = 0 then (none, [])
  else if m < lowBit pad then (some (lowBit pad), [])
  else (none, risingFrom pad (m + 1) 28)

/-- Push a block of nodes of level `m` and `s` spans into an open bank (R105, R79); `again` marks the outputs whose node
overflowed a second time within the block. -/
def Bank.push (b : Bank) (s : State) (at0 m spans : Nat) (ns : List Node) (again : List Bool) : Bank × State :=
  let (wr, rd) := pushFrames b.pad m
  let s := match wr with
    | some l => b.writeFrame s at0 l b.nodes
    | none => s
  let block : Merge := { nodes := ns, again := again }
  let first := if b.pad = 0 ∨ m < lowBit b.pad then block else block.add b.int b.nodes
  let r := rd.foldl (fun a l => a.add b.int (b.readFrame s at0 l)) first
  let b := (b.setNodes r.nodes).overflowAgain r.again
  ({ b with count := b.count + spans, pad := b.pad + 2 ^ m, satSeen := b.satSeen || r.sat }, s)

/-- The levels whose frames a fold reads, rising (R107). -/
def Bank.foldLevels (b : Bank) : List Nat := (List.range 28).filter fun l => bitOf b.pad l && decide (lowBit b.pad < l)

/-! ### MMA -/

/-- The two panels of an MMA on an open bank. `kTree` is the tensor's K. -/
def mmaPanels (op : MmaOp) (k0 kTree : Nat) : Panel × Panel :=
  let klen := op.klen.toNat
  ({ n := op.rowsM1.toNat + 1, klen := klen, k0 := k0, kend := kTree, outer := op.layA, sfmt := op.sfmtA.toNat,
     sdesc := op.sdescA.toNat, cvt := op.cvtA.toNat, base := op.aAddr.toNat * 32, stride := op.aStride.toNat * 32,
     sbase := op.asAddr.toNat * 32, sstride := op.asStride.toNat },
   { n := op.colsM1.toNat + 1, klen := klen, k0 := k0, kend := kTree, outer := op.layB, sfmt := op.sfmtB.toNat,
     sdesc := op.sdescB.toNat, cvt := op.cvtB.toNat, base := op.bAddr.toNat * 32, stride := op.bStride.toNat * 32,
     sbase := op.bsAddr.toNat * 32, sstride := op.bsStride.toNat })

/-- The K of the tensor an MMA reads: that of the tree's TREES record in the function's image (R281). Without one it is
the end of an MMA that reaches the tree's last span, and else past every span the MMA's blocks can reach. -/
def FuncImage.treeK (i : FuncImage) (b : Bank) (klen : Nat) : Nat :=
  match i.trees.find? fun t => decide (t.tree = b.desc.tree.toNat) with
  | some t => max t.k (b.k0 + klen)
  | none =>
    if b.desc.pos.toNat * 2 ^ b.desc.level.toNat + b.count + ceilDiv klen b.w = b.desc.n then b.k0 + klen
    else b.desc.n * b.w

def State.treeK (s : State) (fn : Nat) (b : Bank) (klen : Nat) : Nat := (s.image fn).treeK b klen

/-- The pairs of compute formats of R96 and the kind of tree each takes: true for the integer tree. -/
def pairKind (a b : Nat) : Option Bool :=
  if a = 3 ∧ b = 3 then some true
  else if a = 0 ∨ b = 0 then (if a = 0 ∧ b = 0 then some false else none)
  else if a = 4 ∨ b = 4 ∨ fmtReserved a ∨ fmtReserved b then none
  else some false

/-- Whether an MMA may run on a bank (R96, R99, R100, R104, R105, R111, R112). -/
def Bank.accepts (b : Bank) (pa pb : Panel) : Bool :=
  let s := ceilDiv pa.klen b.w
  b.phase == .opened && pa.legal && pb.legal && pairKind pa.cfmt pb.cfmt == some b.int &&
    (decide (b.count = 0) || (b.rows == pa.n && b.cols == pb.n)) &&
    spanWidth pa.kBlock pb.kBlock == b.w && pushOk (decide (pa.klen % b.w = 0)) s b.count b.p &&
    (!b.int || decide (b.mmas.length < 64))

/-- The float nodes of one MMA: for each output, the tree over its spans (R76 to R82). -/
def floatNodes (w : Nat) (a b : List (List XVal)) : List Node :=
  a.flatMap fun ra => b.map fun rb =>
    let ps := (ra.zip rb).map fun (x, y) => x.mul y
    (treeOf ((chunksOf w ps.length ps).map fun c => (spanNode c).1)).1

/-- Which outputs of one MMA overflow a second time within it (R83). -/
def floatAgain (w : Nat) (a b : List (List XVal)) : List Bool :=
  a.flatMap fun ra => b.map fun rb =>
    let ps := (ra.zip rb).map fun (x, y) => x.mul y
    let sp := (chunksOf w ps.length ps).map spanNode
    sp.any (fun n => decide (n.2.ovf ≠ 0)) || decide ((treeOf (sp.map Prod.fst)).2.ovf ≠ 0)

/-- The span sums of one output of an integer tree, with every A element shifted right by `sh` (R85, R86). -/
def intSpans (sh : Nat) (a b : List Int) : List Int :=
  let ps := (a.zip b).map fun (x, y) => asr x sh * y
  (chunksOf 32 ps.length ps).map List.sum

/-- The integer nodes of one MMA on pass 0, and whether one saturates. -/
def intNodes (a b : List (List Int)) : List Node × Bool :=
  let rs := a.flatMap fun ra => b.map fun rb =>
    let sp := intSpans 0 ra rb
    treeInt false (Nat.log2 sp.length + 1) sp
  (rs.map fun (v, _) => { v := if outside32 v then Config.intOverflowBits v else BitVec.ofInt 32 v },
   rs.any fun r => r.2)

/-- Share-relative ranges as DPA ranges. -/
def Part.dpa (p : Part) (t : Nat) (rs : List (Int × Nat)) : List (Nat × Nat) :=
  rs.map fun r => (p.sram t r.1.toNat, r.2)

/-- The first share-relative range that leaves the share. -/
def Part.outsideOf (p : Part) (rs : List (Int × Nat)) : Option Nat :=
  (rs.find? fun r => decide (r.1 < 0) || !p.sramOk r.1.toNat r.2).map fun r => r.1.toNat

/-- Residue events: a transient mismatch is counted and reported (R115); a persistent one takes the tile out of service
(R116), with one record for each function with a share that runs a job, or for the issuing function if none does. -/
def State.residue (s : State) (t e fn bank : Nat) (iaddr : W32) (persistent : Bool) : State :=
  if !persistent then
    (s.onTile t fun x => { x with residueTransient := satAdd 16 x.residueTransient 1 }).report
      { code := eResidue, cls := clsRecovered, func := some fn, unit := t, a := iaddr.toNat, b := bank }
  else
    let s := (s.onTile t fun x => x.fault .me iaddr fn bank 3).stopSeq t e
    let fs := ((s.tile t).funcs.filter fun f => (s.func f).run)
    let fs := if fs.isEmpty then [fn] else fs
    let s := fs.foldl (fun s f => s.report
      { code := eResidue, cls := clsFunction, func := some f, unit := t, a := iaddr.toNat, b := bank, loss := true }) s
    s.retireTile t

/-- Wrap a matrix body's result with the residue check of its nodes (R114). -/
def withResidue (s0 : State) (t e fn bank : Nat) (iaddr : W32) (u : Upset) (b : Body) : Body :=
  match u, b with
  | .residue true, .done _ _ _ _ _ => .stopped (s0.residue t e fn bank iaddr true)
  | .residue false, .done s r w pr pw => .done (s.residue t e fn bank iaddr false) r w pr pw
  | _, b => b

/-- The body of MMA (R105). -/
def mmaBody (s : State) (t e : Nat) (op : MmaOp) (u : Upset) (p : Part) : Body :=
  let x := s.tile t
  let n := op.bank.toNat
  let b := x.bank n
  let fn := p.func.toNat
  if !p.bankOk n then .partition n
  else
    let (pa, pb) := mmaPanels op b.k0 (s.treeK fn b op.klen.toNat)
    if !b.accepts pa pb then .sequence
    else
      let spans := ceilDiv pa.klen b.w
      let m := pushLevel spans
      let b1 := { b with rows := pa.n, cols := pb.n }
      let (wr, rd) := pushFrames b.pad m
      let at0 := p.sram t 0
      let rel := pa.ranges ++ pb.ranges ++ rd.map fun l => ((b.frame l : Int), b.frameBytes)
      let wrel := wr.toList.map fun l => ((b.frame l : Int), b.frameBytes)
      match p.outsideOf (rel ++ wrel) with
      | some o => .partition o
      | none =>
        let ma := pa.load s at0
        let mb := pb.load s at0
        let va := ma.map fun r => r.map Prod.fst
        let vb := mb.map fun r => r.map Prod.fst
        let (ns, sat) :=
          if b.int then intNodes (va.map fun r => r.map XVal.toInt) (vb.map fun r => r.map XVal.toInt)
          else (floatNodes b.w va vb, false)
        let b1 := { b1 with
          satSeen := b1.satSeen || sat
          mmas := if b.int then b1.mmas ++ [op] else b1.mmas }
        let (b2, s2) := (b1.countEv ((loadEvents ma).plus (loadEvents mb))).push s at0 m spans ns
          (if b.int then [] else floatAgain b.w va vb)
        withResidue s t e fn n (x.seq e).iaddr u
          (.done (s2.onTile t fun x => x.setBank n b2) (p.dpa t rel) (p.dpa t wrel) [] [])

/-- MMA (R105): multiply one A panel by one B panel and push the node into an open bank. -/
def execMma (a : At) (op : MmaOp) (u : Upset) (s : State) : Answer :=
  s.issue .me a op.bank.toNat u (mmaBody s a.tile a.entry op u)

/-- The share-relative range of the LEVEL − 1 stack frames that an MTREE names (R106), if it names any. -/
def mtreeFrames (op : MtreeOp) : List (Int × Nat) :=
  if op.level.toNat ≤ 1 then []
  else [((op.stackAddr.toNat * 32 : Nat), (op.level.toNat - 2) * 33792 + (if op.int then 32768 else 33792))]

/-- MTREE (R103): open a bank for one tree or tree part. A stack that leaves the share is a partition fault (R118). -/
def execMtree (a : At) (op : MtreeOp) (s : State) : Answer :=
  s.issue .me a op.bank.toNat .none fun p =>
    let n := op.bank.toNat
    if !p.bankOk n then .partition n
    else if ((s.tile a.tile).bank n).phase = .opened ∨ 4 < op.wcode.toNat ∨
        isNode (op.nspanM1.toNat + 1) op.level.toNat op.pos.toNat = false then .sequence
    else match p.outsideOf (mtreeFrames op) with
    | some o => .partition o
    | none =>
      .done (s.onTile a.tile fun x => x.setBank n {
        phase := .opened, int := op.int, stackAddr := op.stackAddr,
        desc := { tree := op.tree, level := op.level, pos := op.pos, wcode := op.wcode, nspanM1 := op.nspanM1 } })
        [] [] [] []

/-- The integer rows of a recorded MMA's panel, read again from tile SRAM (R112). -/
def replayPanel (s : State) (at0 : Nat) (pa : Panel) : List (List Int) :=
  (pa.load s at0).map fun r => r.map fun v => v.1.toInt

/-- Join the rows of the recorded MMAs of a bank along K. -/
def joinRows (n : Nat) (ms : List (List (List Int))) : List (List Int) :=
  (List.range n).map fun i => ms.flatMap fun m => m.getD i []

/-- One evaluation of a whole integer block with A shifted by `sh`: its outputs and whether a node saturates (R86). -/
def intBlock (clamp : Bool) (sh : Nat) (a b : List (List (List Int))) (rows cols : Nat) : List Int × Bool :=
  -- the spans are those of each MMA in turn: every MMA but the last ends on a span boundary (R105)
  let rs := (List.range rows).flatMap fun r => (List.range cols).map fun c =>
    let sp := ((a.zip b).flatMap fun (ma, mb) => intSpans sh (ma.getD r []) (mb.getD c []))
    treeInt clamp (Nat.log2 sp.length + 1) sp
  (rs.map Prod.fst, rs.any Prod.snd)

/-- The replay of R86 after a saturation on pass 0: outputs, shift and SAT. -/
def replay (a b : List (List (List Int))) (rows cols : Nat) : List Int × Nat × Bool :=
  let (v1, s1) := intBlock false 1 a b rows cols
  if !s1 then (v1, 1, false)
  else
    let (v2, s2) := intBlock false 2 a b rows cols
    if !s2 then (v2, 2, false)
    else ((intBlock true 2 a b rows cols).1, 2, true)

/-- The lifts of a folded floating-point bank: one overflow event for each lifted output (R84). A second overflow of a node
(R83) is counted by `Bank.overflowAgain`, in the instruction that meets it. -/
def foldEvents (ns : List Node) : Ev := sumEv (ns.map fun n => if n.x then evOvf else evNone)

/-- The final fold of a bank (R79, R107): the frames, rising, each merged from the left. -/
def Bank.foldAll (b : Bank) (s : State) (at0 : Nat) : Merge :=
  b.foldLevels.foldl (fun a l => a.add b.int (b.readFrame s at0 l)) { nodes := b.nodes, sat := b.satSeen }

/-- The body of MDRAIN with FOLD = 1 on an open bank with COUNT = P (R109, R79, R112). -/
def foldBody (s : State) (t e n : Nat) (b : Bank) (u : Upset) (p : Part) : Body :=
  let fn := p.func.toNat
  let at0 := p.sram t 0
  let panels := b.mmas.map fun op => mmaPanels op 0 0
  let frames := b.foldLevels.map fun l => ((b.frame l : Int), b.frameBytes)
  let m := b.foldAll s at0
  let again := b.int && m.sat
  let rel := frames ++ (if again then panels.flatMap fun (x, y) => x.ranges ++ y.ranges else [])
  match p.outsideOf rel with
  | some o => .partition o
  | none =>
    let b' : Bank :=
      if again then
        let (vs, sh, clamped) := replay (panels.map fun q => replayPanel s at0 q.1) (panels.map fun q => replayPanel s at0 q.2)
          b.rows b.cols
        let b := { b.setNodes (vs.map fun v => { v := BitVec.ofInt 32 v }) with phase := .done, shift := sh, sat := clamped }
        if clamped then b.countEv evOvf else b
      else if b.int then { b.setNodes m.nodes with phase := .done }
      else { ((b.setNodes m.nodes).overflowAgain m.again).countEv (foldEvents m.nodes) with phase := .done }
    withResidue s t e fn n ((s.tile t).seq e).iaddr u
      (.done (s.onTile t fun x => x.setBank n b') (p.dpa t rel) [] [] [])

/-- MDRAIN (R109): the empty token; with FOLD = 1, the fold. -/
def execMdrain (a : At) (bank : BitVec 2) (fold : Bool) (u : Upset) (s : State) : Answer :=
  s.issue .me a bank.toNat u fun p =>
    let n := bank.toNat
    let b := (s.tile a.tile).bank n
    if !p.bankOk n then .partition n
    else if !fold then .done s [] [] [] []
    else match b.phase with
      | .idle => .sequence
      | .done => .done s [] [] [] []
      | .opened => if b.count = b.p then foldBody s a.tile a.entry n b u p else .sequence

/-- MSAVE (R110): write a completed bank as a partial record. -/
def execMsave (a : At) (bank : BitVec 2) (dst : BitVec 16) (s : State) : Answer :=
  s.issue .me a bank.toNat .none fun p =>
    let n := bank.toNat
    let b := (s.tile a.tile).bank n
    let off := dst.toNat * 32
    if !p.bankOk n then .partition n
    else if b.phase ≠ .done then .sequence
    else if !p.sramOk off (recordSize b.rows b.cols) then .partition off
    else
      let d := p.sram a.tile off
      .done (s.write d (recordBytes b.desc b.rows b.cols b.nodes)) [] [(d, recordSize b.rows b.cols)] [] []

/-- MCLR (R104, R110): discard a bank's contents. -/
def execMclr (a : At) (bank : BitVec 2) (s : State) : Answer :=
  s.issue .me a bank.toNat .none fun p =>
    let n := bank.toNat
    if !p.bankOk n then .partition n
    else .done (s.onTile a.tile fun x => x.setBank n (x.bank n).clear) [] [] [] []

end Sys2Proof.Machine
end

