-- ==== Sys2Proof/Machine/Vector.lean ====
section
/-! DEFINITION. The vector engine (05_vector_engine): element-wise work, loads, stores and conversions, the reading of
banks, reductions and chains, combines, scans, sorts, gathers and scatters. -/
namespace Sys2Proof.Machine

/-! ### Common form -/

/-- Issue a vector instruction whose TYPE is one of `tys` and whose SUBOP is at most `sub`. Any other TYPE or SUBOP, a
COUNT outside 1 to 16,384 and a set reserved bit are reserved values (R44, R121, R125, R127), which reach the engine only
through the debug port and are sequence faults (R444). -/
def vissue (a : At) (op : VOp) (u : Upset) (tys : List Nat) (sub : Nat) (s : State) (body : Part → Body) : Answer :=
  s.issue .ve a op.chain.toNat u fun p =>
    if !frameOk op || !tys.contains op.ty.toNat || decide (sub < op.subop.toNat) then .sequence else body p

/-- TYPE lists of R127. -/
def tyF : List Nat := [0]
def tyFI : List Nat := [0, 1]
def tyU : List Nat := [2]
def tyAny : List Nat := [0, 1, 2]

/-- The reserved bits of a run descriptor (R125). -/
def runOk (desc : W32) : Bool := bits desc.toNat 31 17 == 0

/-- The element type, F32 where TYPE is reserved (the reserved value has been turned away before). -/
def vty (op : VOp) : ETy := (etyOf op.ty).getD .f32

/-- Write a destination run and count events: the body of most instructions. -/
def Part.store (p : Part) (s : State) (t e : Nat) (desc : W32) (vs : List W32) (ev : Ev) (reads : List (Nat × Nat)) : Body :=
  match p.run desc vs.length with
  | none => .partition (bits desc.toNat 5 0)
  | some d => .done (s.onTile t fun x => (x.setElems d vs).countEv e ev) [] [] reads [(d, vs.length)]

/-! ### Element-wise instructions -/

/-- Body of an element-wise instruction: `n` sources of A, B, C and a function of each element's index and sources. All
sources are read before anything is written (R124). -/
def elementBody (s : State) (a : At) (op : VOp) (n : Nat) (f : Nat → W32 → W32 → W32 → W32 × Ev) (p : Part) : Body :=
  let x := s.tile a.tile
  let c := op.count.toNat
  let sa := if 1 ≤ n then p.srcRun op.w2 c else .all 0
  let sb := if 2 ≤ n then srcB op p x a.entry else .all 0
  let sc := if 3 ≤ n then srcC op p x a.entry else .all 0
  let descs := (if 1 ≤ n then [op.w2] else []) ++ (if 2 ≤ n ∧ op.bsel = 0 then [op.w3] else []) ++
    (if 3 ≤ n ∧ op.csel = 0 then [op.w4] else []) ++ [op.w5]
  if !(descs.all runOk) then .sequence
  else match srcFault [sa, sb, sc] with
    | some b => b
    | none =>
      let va := sa.vals x c
      let vb := sb.vals x c
      let vc := sc.vals x c
      let rs := (List.range c).zipWith (fun i w => (i, w)) (va.zip (vb.zip vc)) |>.map fun (i, w, v, z) => f i w v z
      p.store s a.tile a.entry op.w5 (rs.map Prod.fst) (sumEv (rs.map Prod.snd))
        (sa.reads c ++ sb.reads c ++ sc.reads c)

/-- An element-wise instruction (R125 to R129). -/
def elementwise (a : At) (op : VOp) (tys : List Nat) (sub n : Nat) (f : W32 → W32 → W32 → W32 × Ev) (s : State) : Answer :=
  vissue a op .none tys sub s (elementBody s a op n fun _ => f)

/-- VADD (R127): D := A + B. -/
def execVadd (a : At) (op : VOp) (s : State) : Answer := elementwise a op tyAny 0 2 (fun x y _ => elemAdd (vty op) x y) s
/-- VSUB (R127): D := A − B. -/
def execVsub (a : At) (op : VOp) (s : State) : Answer := elementwise a op tyAny 0 2 (fun x y _ => elemSub (vty op) x y) s
/-- VMUL (R127): D := A × B. -/
def execVmul (a : At) (op : VOp) (s : State) : Answer := elementwise a op tyAny 0 2 (fun x y _ => elemMul (vty op) x y) s
/-- VFMA (R127): D := A × B + C, rounded once. -/
def execVfma (a : At) (op : VOp) (s : State) : Answer := elementwise a op tyF 0 3 (fun x y z => fpFma x y z) s
/-- VMAX (R58, R127). -/
def execVmax (a : At) (op : VOp) (s : State) : Answer := elementwise a op tyAny 0 2 (fun x y _ => elemMax (vty op) x y) s
/-- VMIN (R58, R127). -/
def execVmin (a : At) (op : VOp) (s : State) : Answer := elementwise a op tyAny 0 2 (fun x y _ => elemMin (vty op) x y) s
/-- VABS (R127). -/
def execVabs (a : At) (op : VOp) (s : State) : Answer := elementwise a op tyFI 0 1 (fun x _ _ => (elemAbs (vty op) x, evNone)) s
/-- VNEG (R127). -/
def execVneg (a : At) (op : VOp) (s : State) : Answer := elementwise a op tyFI 0 1 (fun x _ _ => (elemNeg (vty op) x, evNone)) s
/-- VDIV (R128). -/
def execVdiv (a : At) (op : VOp) (s : State) : Answer := elementwise a op tyF 0 2 (fun x y _ => fpDiv x y) s
/-- VSQRT (R128). -/
def execVsqrt (a : At) (op : VOp) (s : State) : Answer := elementwise a op tyF 0 1 (fun x _ _ => fpSqrt x) s
/-- VRSQRT (R128). -/
def execVrsqrt (a : At) (op : VOp) (s : State) : Answer := elementwise a op tyF 0 1 (fun x _ _ => fpRsqrt x) s
/-- VRCP (R128). -/
def execVrcp (a : At) (op : VOp) (s : State) : Answer := elementwise a op tyF 0 1 (fun x _ _ => fpRcp x) s
/-- VEXP (R128). -/
def execVexp (a : At) (op : VOp) (s : State) : Answer := elementwise a op tyF 0 1 (fun x _ _ => fpExp x) s
/-- VLOG (R128). -/
def execVlog (a : At) (op : VOp) (s : State) : Answer := elementwise a op tyF 0 1 (fun x _ _ => fpLog x) s
/-- VCMP (R127): 1 or 0 by SUBOP. -/
def execVcmp (a : At) (op : VOp) (s : State) : Answer :=
  elementwise a op tyAny 7 2 (fun x y _ => (elemCmp (vty op) op.subop.toNat x y, evNone)) s
/-- VSEL (R127): D := B where A is not 0, else C. -/
def execVsel (a : At) (op : VOp) (s : State) : Answer :=
  elementwise a op tyAny 0 3 (fun x y z => (if x = 0 then z else y, evNone)) s
/-- VAND (R127). -/
def execVand (a : At) (op : VOp) (s : State) : Answer := elementwise a op tyU 0 2 (fun x y _ => (x &&& y, evNone)) s
/-- VOR (R127). -/
def execVor (a : At) (op : VOp) (s : State) : Answer := elementwise a op tyU 0 2 (fun x y _ => (x ||| y, evNone)) s
/-- VXOR (R127). -/
def execVxor (a : At) (op : VOp) (s : State) : Answer := elementwise a op tyU 0 2 (fun x y _ => (x ^^^ y, evNone)) s
/-- VSHL (R127): shifts of 32 or more give 0. -/
def execVshl (a : At) (op : VOp) (s : State) : Answer := elementwise a op tyU 0 2 (fun x y _ => (elemShl x y, evNone)) s
/-- VSHR (R127): logical for U32, arithmetic for I32. -/
def execVshr (a : At) (op : VOp) (s : State) : Answer :=
  elementwise a op [1, 2] 0 2 (fun x y _ => (elemShr (vty op) x y, evNone)) s
/-- VMOV (R127): bits unchanged. -/
def execVmov (a : At) (op : VOp) (s : State) : Answer := elementwise a op tyAny 0 1 (fun x _ _ => (x, evNone)) s

/-- VIOTA (R127): D := IMM_B + i. U32 arithmetic saturates and VIOTA counts nothing (R129). -/
def execViota (a : At) (op : VOp) (s : State) : Answer :=
  vissue a op .none tyU 0 s (elementBody s a op 0 fun i _ _ _ => ((satInt 0 (2 ^ 32 - 1) (op.w6.toNat + i)).1, evNone))

/-- VSETS (R127): scalar SD := IMM_B; COUNT must be 1. -/
def execVsets (a : At) (op : VOp) (s : State) : Answer :=
  vissue a op .none tyAny 0 s fun _ =>
    if op.count ≠ 1 then .sequence
    else .done (s.onTile a.tile fun x => x.setScalar a.entry op.sd.toNat op.w6) [] [] [] []

/-! ### Conversions, loads and stores (R130, R131) -/

/-- RLEN of the index word. -/
def rlenOf (op : VOp) : Nat := bits op.w4.toNat 14 0

/-- INDEX of element `i` (R131). -/
def srIndex (op : VOp) (rl i : Nat) : W32 :=
  op.w3 + BitVec.ofNat 32 (i / rl) * op.w6 + BitVec.ofNat 32 (i % rl)

/-- The rounding mode of element `i`: under SR its random value (R68 to R71, R131). -/
def elemMode (x : Tile) (e : Nat) (op : VOp) (i : Nat) : Rnd :=
  let cvt := op.w1hi.toNat
  if cvtRnd cvt = 2 then
    cvtMode cvt (rnd (tget 0 x.seed e) (streamOf (tget 0 x.step e).toNat (bits op.w4.toNat 26 15))
      (srIndex op (rlenOf op) i)).toNat
  else cvtMode cvt 0

/-- Whether a conversion word may be run by VCVT, VLD or VST: no reserved value, DIR = 0 for an MX format, and RLEN of 1 to
16,384 where rows matter (R130, R131). DESIGN CHOICE (assumption 74): R130's DIR = 0 binds VCVT too, whose run has no other
dimension for a block to lie along; and RLEN is not judged where the conversion is neither into an MX format nor SR, rows then
having no effect. -/
def convOk (op : VOp) : Bool :=
  let cvt := op.w1hi.toNat
  let mx := fmtIsMX (cvtFmt cvt)
  !cvtReserved cvt && (!mx || sdDir (cvtSdesc cvt) == 0) &&
    (!(mx || cvtRnd cvt == 2) || decide (1 ≤ rlenOf op ∧ rlenOf op ≤ 16384))

/-- The blocks of an MX run: (first element, length) in rising order, cut at rows and every B elements of a row (R131). -/
def mxBlocks (rl b n : Nat) : List (Nat × Nat) :=
  (List.range (ceilDiv n rl)).flatMap fun r =>
    let len := min rl (n - r * rl)
    (List.range (ceilDiv len b)).map fun k => (r * rl + k * b, min b (len - k * b))

/-- The scale byte's index of row r and block b (R131). -/
def scaleIndex (rl b i : Nat) : Nat := i / rl * ceilDiv rl b + i % rl / b

/-- Convert values under a conversion word: element codes, each element's scale code (0x7F outside the MX formats), the
scale bytes as (index, code), and the events (R61 to R67). -/
def convertRun (op : VOp) (modes : List Rnd) (xs : List XVal) : List (Nat × Nat) × List (Nat × Nat) × Ev :=
  let cvt := op.w1hi.toNat
  let f := cvtFmt cvt
  let ms := xs.zip modes
  if fmtIsMX f then
    let b := sdBlock (cvtSdesc cvt)
    let rs := (mxBlocks (rlenOf op) b xs.length).map fun (i, k) =>
      (scaleIndex (rlenOf op) b i, quantiseBlock f (cvtCeil cvt) (cvtSat cvt) ((ms.drop i).take k))
    (rs.flatMap fun (_, sc, cs, _) => cs.map fun c => (c, sc), rs.map fun (i, sc, _, _) => (i, sc),
     sumEv (rs.map fun (_, _, _, e) => e))
  else
    let rs := ms.map fun (x, m) => encodePlain f m (cvtSat cvt) x
    (rs.map fun (c, _) => (c, 0x7F), [], sumEv (rs.map Prod.snd))

/-- The F32 a converted element decodes to, with the events of R66: an MX value past F32's range follows R64. -/
def decodeF32 (f : Nat) (mode : Rnd) (sat : Bool) (code sc : Nat) : W32 × Ev :=
  let v := elemValue f code
  let v := if fmtIsMX f then scaled sc v else v
  let (w, e) := fmtFP32.encode mode sat v
  (BitVec.ofNat 32 w, if v.isFinite then e else evNone)

/-- VCVT (R131). -/
def execVcvt (a : At) (op : VOp) (s : State) : Answer :=
  vissue a op .none tyAny 0 s fun p =>
    let x := s.tile a.tile
    let n := op.count.toNat
    let f := cvtFmt op.w1hi.toNat
    if !convOk op || !runOk op.w2 || !runOk op.w5 || op.w7 ≠ 0 then .sequence
    else match p.run op.w2 n with
      | none => .partition (bits op.w2.toNat 5 0)
      | some r =>
        let modes := (List.range n).map (elemMode x a.entry op)
        let (codes, _, ev) := convertRun op modes ((x.elems r n).map (vty op).exact)
        let out := (codes.zip modes).map fun ((c, sc), m) =>
          if f = 3 ∨ f = 4 then (BitVec.ofInt 32 (elemValue f c).toInt, evNone)
          else decodeF32 f m (cvtSat op.w1hi.toNat) c sc
        p.store s a.tile a.entry op.w5 (out.map Prod.fst) (ev.plus (sumEv (out.map Prod.snd))) [(r, n)]

/-- Byte offsets of VLD and VST: SRAM_ADDR and SCALE_ADDR (R126). DESIGN CHOICE (assumption 74): the bits of these words
above [20:0], and those of the index word above [26:0], for which R126 names no field, are ignored. -/
def sramAddr (op : VOp) : Nat := bits op.w5.toNat 20 0
def scaleAddr (op : VOp) : Nat := bits op.w7.toNat 20 0

/-- SRAM_ADDR is aligned to the element size, to 3 bytes for 6-bit storage (R130). -/
def alignedFor (w addr : Nat) : Bool := if w = 6 then addr % 3 == 0 else addr % max 1 (w / 8) == 0

/-- The scale bytes an MX run names (R131). -/
def scaleBytes (op : VOp) (n : Nat) : Nat :=
  let rl := rlenOf op
  let b := sdBlock (cvtSdesc op.w1hi.toNat)
  if !fmtIsMX (cvtFmt op.w1hi.toNat) then 0 else scaleIndex rl b (n - 1) + 1

/-- VLD (R130). -/
def execVld (a : At) (op : VOp) (u : Upset) (s : State) : Answer :=
  vissue a op u tyFI 0 s fun p =>
    let x := s.tile a.tile
    let n := op.count.toNat
    let cvt := op.w1hi.toNat
    let f := cvtFmt cvt
    let w := fmtWidth f
    let addr := sramAddr op
    let nsc := scaleBytes op n
    if !convOk op || !runOk op.w2 || !alignedFor w addr || (op.ty == 1 && f ≠ 3 && f ≠ 4) then .sequence
    else if !p.sramOk addr (packedBytes w n) then .partition addr
    else if nsc ≠ 0 && !p.sramOk (scaleAddr op) nsc then .partition (scaleAddr op)
    else match p.run op.w2 n with
      | none => .partition (bits op.w2.toNat 5 0)
      | some d =>
        let src := p.sram a.tile addr
        let ssrc := p.sram a.tile (scaleAddr op)
        let bs := s.read src (packedBytes w n)
        let scs := s.read ssrc nsc
        let b := sdBlock (cvtSdesc cvt)
        let out := (List.range n).map fun i =>
          let code := unpackAt w bs i
          if op.ty = 1 then (BitVec.ofInt 32 (elemValue f code).toInt, evNone)
          else
            let v := elemValue f code
            let v := if fmtIsMX f then scaled (scs.getD (scaleIndex (rlenOf op) b i) 0).toNat v else v
            let (c, e) := fmtFP32.encode (elemMode x a.entry op i) (cvtSat cvt) v
            (BitVec.ofNat 32 c, e)
        let vs := out.map Prod.fst
        .done (s.onTile a.tile fun x => (x.setElems d vs).countEv a.entry (sumEv (out.map Prod.snd)))
          ((src, packedBytes w n) :: (if nsc = 0 then [] else [(ssrc, nsc)])) [] [] [(d, n)]

/-- VST (R130). -/
def execVst (a : At) (op : VOp) (u : Upset) (s : State) : Answer :=
  vissue a op u tyAny 0 s fun p =>
    let x := s.tile a.tile
    let n := op.count.toNat
    let cvt := op.w1hi.toNat
    let w := fmtWidth (cvtFmt cvt)
    let addr := sramAddr op
    let nsc := scaleBytes op n
    if !convOk op || !runOk op.w2 || !alignedFor w addr then .sequence
    else if !p.sramOk addr (packedBytes w n) then .partition addr
    else if nsc ≠ 0 && !p.sramOk (scaleAddr op) nsc then .partition (scaleAddr op)
    else match p.run op.w2 n with
      | none => .partition (bits op.w2.toNat 5 0)
      | some r =>
        let modes := (List.range n).map (elemMode x a.entry op)
        let (codes, scs, ev) := convertRun op modes ((x.elems r n).map (vty op).exact)
        let dst := p.sram a.tile addr
        let sdst := p.sram a.tile (scaleAddr op)
        let s1 := s.write dst (packElems w (codes.map Prod.fst))
        let s2 := scs.foldl (fun s (i, c) => s.write (sdst + i) [BitVec.ofNat 8 c]) s1
        .done (s2.onTile a.tile fun x => x.countEv a.entry ev) []
          ((dst, packedBytes w n) :: (if nsc = 0 then [] else [(sdst, nsc)])) [(r, n)] []

/-! ### Reductions (R133 to R136) -/

/-- The span nodes of a sum-type reduction with W = 32 (R133): SUM = A · 1, SUMSQ = A · A, DOT = A · B. -/
def sumSpans (sub : Nat) (va vb : List W32) : List Node :=
  let ps := (va.zip vb).map fun (x, y) =>
    if sub = 0 then (f32 x).mul XVal.one else if sub = 1 then (f32 x).mul (f32 x) else (f32 x).mul (f32 y)
  (chunksOf 32 ps.length ps).map fun c => (spanNode c).1

/-- Whether some span or addition of the tree over a sum-type reduction overflows a second time (R83). -/
def sumAgain (sub : Nat) (va vb : List W32) : Bool :=
  let ps := (va.zip vb).map fun (x, y) =>
    if sub = 0 then (f32 x).mul XVal.one else if sub = 1 then (f32 x).mul (f32 x) else (f32 x).mul (f32 y)
  let sp := (chunksOf 32 ps.length ps).map spanNode
  sp.any (fun n => decide (n.2.ovf ≠ 0)) || decide ((treeOf (sp.map Prod.fst)).2.ovf ≠ 0)

/-- Push the node of some spans into a chain, if R105 as applied by R135 accepts it; `again` says that the node overflowed a
second time within the pushed spans. -/
def Chain.push (c : Chain) (whole : Bool) (spans : List Node) (again : Bool) : Option Chain :=
  if c.phase = .opened ∧ pushOk whole spans.length c.count c.desc.parts then
    let r := pushEntry c.stack (pushLevel spans.length) (treeOf spans).1
    some { c with count := c.count + spans.length
                  stack := r.1
                  lifted := c.lifted || r.1.any fun e => e.2.x
                  again := c.again || again || decide (r.2.ovf ≠ 0) }
  else none

/-- One overflow event for the lift of an output, and one overflow event with a non-finite result where a node of it
overflowed a second time (R83, R84). -/
def liftEv (lift again : Bool) : Ev :=
  (if lift then evOvf else evNone).plus (if again then { ovf := 1, nonfin := 1 } else evNone)

/-- The events that a push into a chain meets (R129, assumption 72): the chain's first lifted node, and its first second
overflow. -/
def chainEv (c c' : Chain) : Ev := liftEv (c'.lifted && !c.lifted) (c'.again && !c.again)

/-- A lifted output read into FP32 by VRDACC (R132). DESIGN CHOICE (assumption 72): R132 names CVT.SAT and FMT = FP32; the
rounding mode is CVT.RND. -/
def readAcc (cvt : Nat) (n : Node) : W32 × Ev := n.read (cvtMode cvt (Config.liftedRandom cvt n.v).toNat) (cvtSat cvt)

/-- An output read under a conversion word (R84): v where it is not lifted, else v × 2^16 rounded once into CVT.FMT and written
as VCVT writes it (R131): as F32, or as I32 from INT8 and INT32. The block of an MX target, and the INDEX of an SR rounding, are
free values (assumption 72). -/
def readOut (cvt : Nat) (n : Node) : W32 × Ev :=
  let f := cvtFmt cvt
  if !n.x ∨ f = 0 then readAcc cvt n
  else if fmtIsMX f then (Config.liftedMX cvt n.v, evNone)
  else
    let (c, e) := encodePlain f (cvtMode cvt (Config.liftedRandom cvt n.v).toNat) (cvtSat cvt) n.value
    (if f = 3 ∨ f = 4 then BitVec.ofInt 32 (elemValue f c).toInt else BitVec.ofNat 32 (fmtFP32.encode .rne false (elemValue f c)).1,
     liftedEv n e)

/-- MAX, MIN, MAXABS or NFCOUNT of a list, merged into `old` if given (R133, R134, R136). -/
def plainReduce (t : ETy) (sub : Nat) (vs : List W32) (old : Option W32) : W32 :=
  if sub = 6 then
    BitVec.ofNat 32 (min ((vs.filter nonfinite).length + (old.elim 0 BitVec.toNat)) (2 ^ 32 - 1))
  else
    let f (a b : W32) : W32 := if sub = 4 then (elemMin t a b).1 else (elemMax t a b).1
    let vs := if sub = 5 then vs.map fpAbs else vs
    match old.toList ++ vs with
    | [] => 0
    | v :: rest => let r := rest.foldl f v
                   if t = .f32 ∧ isNan32 r then nan32 else r

/-- SUBOP of VRED: 0 to 2 are the sums; all but MAX and MIN take F32 only (R133). -/
def vredTypeOk (op : VOp) : Bool := op.ty = 0 || op.subop = 3 || op.subop = 4

/-- VRED into a chain or scalars, SHAPE 0 (R134 to R136). -/
def vredWhole (s : State) (a : At) (op : VOp) (va vb : List W32) (ev : Ev) (reads : List (Nat × Nat)) : Body :=
  let x := s.tile a.tile
  let sub := op.subop.toNat
  let sd := op.sd.toNat
  let merge := bitOf op.w4.toNat 18
  let old (i : Nat) : Option W32 := if merge then some (x.scalar a.entry i) else none
  let ch := x.chain a.entry op.chain.toNat
  let k := if sub = 7 then 1 else sub
  let pushed := ch.push (decide (va.length % 32 = 0)) (sumSpans k va vb) (sumAgain k va vb)
  let fin (x : Tile) : Body := .done (s.setTile a.tile (x.countEv a.entry ev)) [] [] reads []
  if sub ≤ 2 then
    match pushed with
    | none => .sequence
    | some c => fin ((x.setChain a.entry op.chain.toNat c).countEv a.entry (chainEv ch c))
  else if sub = 7 then
    match pushed with
    | none => .sequence
    | some c =>
      if 14 < sd then .sequence
      else
        let x := (x.setChain a.entry op.chain.toNat c).countEv a.entry (chainEv ch c)
        fin ((x.setScalar a.entry sd (plainReduce .f32 5 va (old sd))).setScalar a.entry (sd + 1)
          (plainReduce .f32 6 va (old (sd + 1))))
  else fin (x.setScalar a.entry sd (plainReduce (vty op) sub va (old sd)))

/-- The groups of elements of SHAPE 1 (rows) and SHAPE 2 (columns). -/
def vredGroups (shape rl n : Nat) : List (List Nat) :=
  if shape = 1 then (List.range (n / rl)).map fun r => (List.range rl).map fun c => r * rl + c
  else (List.range rl).map fun c => (List.range (n / rl)).map fun r => r * rl + c

/-- One output of a row or column: its bits and events. -/
def vredOut (op : VOp) (va vb : List W32) : W32 × Ev :=
  let sub := op.subop.toNat
  if sub ≤ 2 then
    let n := (treeOf (sumSpans sub va vb)).1
    let (w, e) := readOut op.w1hi.toNat n
    (w, (liftEv n.x (sumAgain sub va vb)).plus e)
  else (plainReduce (vty op) sub va none, evNone)

/-- VRED (R133 to R136). -/
def execVred (a : At) (op : VOp) (s : State) : Answer :=
  vissue a op .none tyAny 7 s fun p =>
    let x := s.tile a.tile
    let n := op.count.toNat
    let sub := op.subop.toNat
    let shape := bits op.w4.toNat 17 16
    let rl := rlenOf op
    let two := sub == 2
    if !vredTypeOk op || shape = 3 || (shape ≠ 0 && (bitOf op.w4.toNat 18 || sub = 7)) || bits op.w4.toNat 31 19 ≠ 0 ||
        bitOf op.w4.toNat 15 || op.w6 ≠ 0 || op.w7 ≠ 0 || cvtReserved op.w1hi.toNat || !runOk op.w2 ||
        (two && op.bsel = 0 && !runOk op.w3) || (shape ≠ 0 && !runOk op.w5) then .sequence
    else
      let sa := p.srcRun op.w2 n
      let sb := if two then srcB op p x a.entry else sa
      match srcFault [sa, sb] with
      | some b => b
      | none =>
        let va := sa.vals x n
        let vb := sb.vals x n
        let reads := sa.reads n ++ (if two then sb.reads n else [])
        let ev : Ev := if op.ty ≠ 0 then evNone
          else { nonfin := ((va.zip vb).filter fun (v, w) => nonfinite v || (two && nonfinite w)).length }
        if shape = 0 then vredWhole s a op va vb ev reads
        else if rl = 0 ∨ n % rl ≠ 0 then .sequence
        else
          let out := (vredGroups shape rl n).map fun g =>
            vredOut op (g.map fun i => va.getD i 0) (g.map fun i => vb.getD i 0)
          p.store s a.tile a.entry op.w5 (out.map Prod.fst) (ev.plus (sumEv (out.map Prod.snd))) reads

/-! ### Chains (R135) -/

/-- VROPEN (R135): open a chain for one node of a W = 32 tree. W1 holds TREE. -/
def execVropen (a : At) (op : VOp) (s : State) : Answer :=
  s.issue .ve a op.chain.toNat .none fun _ =>
    let x := s.tile a.tile
    let c := op.chain.toNat
    if op.ty = 3 then .sequence else
    let d : TreeDesc := {
      tree := BitVec.ofNat 32 (op.count.toNat + fieldAt 15 (b2n op.w1b15) + fieldAt 16 op.w1hi.toNat)
      level := BitVec.ofNat 5 (bits op.w2.toNat 31 27), pos := BitVec.ofNat 27 (bits op.w2.toNat 26 0)
      wcode := BitVec.ofNat 3 (bits op.w3.toNat 29 27), nspanM1 := BitVec.ofNat 27 (bits op.w3.toNat 26 0) }
    if (x.chain a.entry c).phase = .opened || d.wcode ≠ 2 || !isNode d.n d.level.toNat d.pos.toNat ||
        bits op.w3.toNat 31 30 ≠ 0 || op.w4 ≠ 0 || op.w5 ≠ 0 || op.w6 ≠ 0 || op.w7 ≠ 0 || op.subop ≠ 0 then .sequence
    else .done (s.setTile a.tile (x.setChain a.entry c { phase := .opened, desc := d })) [] [] [] []

/-- VRFOLD (R135): the final fold of a chain with COUNT = P, into scalar SD or a 1 × 1 partial record. It counts no event
(R129): the pushes have counted theirs. -/
def execVrfold (a : At) (op : VOp) (s : State) : Answer :=
  s.issue .ve a op.chain.toNat .none fun p =>
    let x := s.tile a.tile
    let c := op.chain.toNat
    let ch := x.chain a.entry c
    let addr := bits op.w6.toNat 20 0
    if ch.phase ≠ .opened || ch.count ≠ ch.desc.parts || decide (1 < op.subop.toNat) || !frameOk op ||
        cvtReserved op.w1hi.toNat || op.w2 ≠ 0 || op.w3 ≠ 0 || op.w4 ≠ 0 || op.w5 ≠ 0 || op.w7 ≠ 0 then .sequence
    else
      let n := (foldEntries ch.stack).1
      let x := x.setChain a.entry c { ch with phase := .done, stack := [], result := n }
      if op.subop = 1 then
        if !p.sramOk addr 32 then .partition addr
        else
          let d := p.sram a.tile addr
          .done ((s.setTile a.tile x).write d (recordBytes ch.desc 1 1 [n])) [] [(d, 32)] [] []
      else .done (s.setTile a.tile (x.setScalar a.entry op.sd.toNat (readOut op.w1hi.toNat n).1)) [] [] [] []

/-- VRCLR (R135): back to IDLE from any state. -/
def execVrclr (a : At) (op : VOp) (s : State) : Answer :=
  s.issue .ve a op.chain.toNat .none fun _ =>
    if !frameOk op || op.subop ≠ 0 then .sequence
    else .done (s.onTile a.tile fun x => x.setChain a.entry op.chain.toNat {}) [] [] [] []

/-- VEVT (R144): the entry's counts to scalars SD to SD + 2, then zeroed. -/
def execVevt (a : At) (op : VOp) (s : State) : Answer :=
  s.issue .ve a op.chain.toNat .none fun _ =>
    let sd := op.sd.toNat
    if !frameOk op || op.subop ≠ 0 || decide (13 < sd) then .sequence
    else
      .done (s.onTile a.tile fun x =>
        let ev := tget {} x.events a.entry
        let x := ((x.setScalar a.entry sd (BitVec.ofNat 32 ev.nonfin)).setScalar a.entry (sd + 1)
          (BitVec.ofNat 32 ev.ovf)).setScalar a.entry (sd + 2) (BitVec.ofNat 32 ev.inval)
        { x with events := tset {} x.events a.entry {} }) [] [] [] []

/-! ### Reading a bank (R132) -/

/-- The values VRDACC writes and its own events. -/
def rdaccVals (b : Bank) (raw : Bool) (cvt : Nat) : List (W32 × Ev) :=
  b.nodes.map fun n =>
    if b.int then
      if raw then (n.v, evNone) else (rne32 (XVal.ofInt n.v.toInt b.shift), evNone)
    else readAcc cvt n

/-- VRDACC (R132). -/
def execVrdacc (a : At) (op : VOp) (s : State) : Answer :=
  vissue a op .none tyFI 3 s fun p =>
    let x := s.tile a.tile
    let n := bits op.w3.toNat 1 0
    let b := x.bank n
    let raw := bitOf op.subop.toNat 0
    let feed := bitOf op.subop.toNat 1
    let sd := op.sd.toNat
    let c := op.chain.toNat
    if !p.bankOk n then .partition n
    else if b.phase ≠ .done || op.count.toNat ≠ b.rows * b.cols || (raw && (!b.int || op.ty ≠ 1)) ||
        bits op.w3.toNat 31 2 ≠ 0 || op.w2 ≠ 0 || op.w4 ≠ 0 || op.w6 ≠ 0 || op.w7 ≠ 0 || !runOk op.w5 ||
        cvtReserved op.w1hi.toNat || (feed && decide (13 < sd)) then .sequence
    else
      let out := rdaccVals b raw op.w1hi.toNat
      let vs := out.map Prod.fst
      let fedChain := (x.chain a.entry c).push (decide (vs.length % 32 = 0)) (sumSpans 1 vs vs) (sumAgain 1 vs vs)
      if feed && fedChain.isNone then .sequence
      else
        let x := if raw then
            x.setScalar a.entry sd (BitVec.ofNat 32 (b.shift + (if b.sat then 4 else 0)))
          else x
        let x := if feed then
            let x := x.setChain a.entry c (fedChain.getD {})
            let x := x.setScalar a.entry (sd + 1) (plainReduce .f32 5 vs (some (x.scalar a.entry (sd + 1))))
            x.setScalar a.entry (sd + 2) (plainReduce .f32 6 vs (some (x.scalar a.entry (sd + 2))))
          else x
        let ev : Ev := { nonfin := b.nonfin, ovf := b.ovf }
        p.store (s.setTile a.tile x) a.tile a.entry op.w5 vs (ev.plus (sumEv (out.map Prod.snd))) []

/-! ### Scans, sort, gather and scatter (R138 to R140) -/

/-- The least value of a type (R138). -/
def leastOf : ETy → W32
  | .f32 => 0xFF800000
  | .i32 => 0x80000000
  | .u32 => 0

/-- One scan: outputs, the running value and the events; `prev` is the last segment key seen. -/
def scanFrom (t : ETy) (excl mx : Bool) (seg : Nat) : W32 → Option W32 → List (W32 × W32) → List W32 × W32 × Ev
  | acc, _, [] => ([], acc, evNone)
  | acc, prev, (a, b) :: rest =>
    let new := match prev with
      | none => false
      | some q => (seg == 1 && b != 0) || (seg == 2 && b != q)
    let start := if new then (if mx then leastOf t else 0) else acc
    let (r, e) := if mx then elemMax t start a else elemAdd t start a
    let r := if mx && t == .f32 && isNan32 r then nan32 else r
    let e : Ev := if t = .f32 then { ovf := if nonfinite start || nonfinite a then 0 else e.ovf,
                                     nonfin := if nonfinite a || nonfinite r then 1 else 0 } else e
    let (os, fin, es) := scanFrom t excl mx seg r (some b) rest
    ((if excl then start else r) :: os, fin, e.plus es)

/-- VSCAN (R138). -/
def execVscan (a : At) (op : VOp) (s : State) : Answer :=
  vissue a op .none tyAny 11 s fun p =>
    let x := s.tile a.tile
    let n := op.count.toNat
    let seg := bits op.subop.toNat 3 2
    let sb := if seg = 0 then .all 0 else srcB op p x a.entry
    if !runOk op.w2 || !runOk op.w5 || (seg ≠ 0 && op.bsel = 0 && !runOk op.w3) then .sequence
    else match srcFault [p.srcRun op.w2 n, sb] with
      | some b => b
      | none =>
        let sa := p.srcRun op.w2 n
        let (os, fin, ev) := scanFrom (vty op) (bitOf op.subop.toNat 0) (bitOf op.subop.toNat 1) seg
          (x.scalar a.entry op.sc.toNat) none ((sa.vals x n).zip (sb.vals x n))
        p.store (s.setTile a.tile (x.setScalar a.entry op.sd.toNat fin)) a.tile a.entry op.w5 os ev
          (sa.reads n ++ sb.reads n)

/-- Insert a key with its payload after every entry that does not sort after it. -/
def insertSorted (before : W32 → W32 → Bool) (k : W32 × W32) : List (W32 × W32) → List (W32 × W32)
  | [] => [k]
  | h :: t => if before k.1 h.1 then k :: h :: t else h :: insertSorted before k t

/-- The stable sort of R139. -/
def sortPairs (t : ETy) (falling : Bool) (l : List (W32 × W32)) : List (W32 × W32) :=
  l.foldl (fun acc k => insertSorted
    (fun x y => if falling then decide (sortKey t y < sortKey t x) else decide (sortKey t x < sortKey t y)) k acc) []

/-- VSORT (R139): keys to D, payloads to C. -/
def execVsort (a : At) (op : VOp) (s : State) : Answer :=
  vissue a op .none tyAny 1 s fun p =>
    let x := s.tile a.tile
    let n := op.count.toNat
    if !runOk op.w2 || (op.bsel = 0 && !runOk op.w3) || !runOk op.w4 || !runOk op.w5 || op.w6 ≠ 0 || op.w7 ≠ 0 then .sequence
    else
      let sa := p.srcRun op.w2 n
      let sb := srcB op p x a.entry
      match srcFault [sa, sb], p.run op.w4 n, p.run op.w5 n with
      | some b, _, _ => b
      | _, none, _ => .partition (bits op.w4.toNat 5 0)
      | _, _, none => .partition (bits op.w5.toNat 5 0)
      | none, some rc, some rd =>
        let ks := sortPairs (vty op) (op.subop == 1) ((sa.vals x n).zip (sb.vals x n))
        .done (s.setTile a.tile ((x.setElems rd (ks.map Prod.fst)).setElems rc (ks.map Prod.snd)))
          [] [] (sa.reads n ++ sb.reads n) [(rc, n), (rd, n)]

/-- TLEN (R140). -/
def tlenOk (op : VOp) : Bool := decide (1 ≤ op.w6.toNat ∧ op.w6.toNat ≤ 16384)

/-- VGATH (R140): D[i] := T[B[i]]; an index past the table writes 0 and counts one invalid event. -/
def execVgath (a : At) (op : VOp) (s : State) : Answer :=
  vissue a op .none tyAny 0 s fun p =>
    let x := s.tile a.tile
    let n := op.count.toNat
    let tl := op.w6.toNat
    let sb := srcB op p x a.entry
    if !tlenOk op || !runOk op.w4 || !runOk op.w5 || (op.bsel = 0 && !runOk op.w3) then .sequence
    else match srcFault [sb, p.srcRun op.w4 tl] with
      | some b => b
      | none =>
        let table := (p.srcRun op.w4 tl).vals x tl
        let out := (sb.vals x n).map fun i =>
          if i.toNat < tl then (table.getD i.toNat 0, evNone) else (0, { inval := 1 })
        p.store s a.tile a.entry op.w5 (out.map Prod.fst) (sumEv (out.map Prod.snd))
          (sb.reads n ++ (p.srcRun op.w4 tl).reads tl)

/-- VSCAT (R140): T[B[i]] := A[i], the highest i winning; an index past the table writes nothing and counts one invalid
event. -/
def execVscat (a : At) (op : VOp) (s : State) : Answer :=
  vissue a op .none tyAny 0 s fun p =>
    let x := s.tile a.tile
    let n := op.count.toNat
    let tl := op.w6.toNat
    if !tlenOk op || !runOk op.w2 || (op.bsel = 0 && !runOk op.w3) || !runOk op.w5 || op.w4 ≠ 0 || op.w7 ≠ 0 then .sequence
    else
      let sa := p.srcRun op.w2 n
      let sb := srcB op p x a.entry
      match srcFault [sa, sb], p.run op.w5 tl with
      | some b, _ => b
      | none, none => .partition (bits op.w5.toNat 5 0)
      | none, some rt =>
        let ps := (sa.vals x n).zip (sb.vals x n)
        let hit := ps.filter fun (_, i) => decide (i.toNat < tl)
        let y := hit.foldl (fun y (v, i) => y.setElems (rt + i.toNat) [v]) x
        .done (s.setTile a.tile (y.countEv a.entry { inval := n - hit.length })) [] [] (sa.reads n ++ sb.reads n)
          (hit.map fun (_, i) => (rt + i.toNat, 1))

/-! ### Combines (R94, R137) -/

/-- A repeat of a failure: whether the same thing failed in the step before (R94, R153). -/
def repeated (f : Func) (kind a b : Nat) : Bool :=
  f.fails.any fun x => decide (x.kind = kind ∧ x.a = a ∧ x.b = b ∧ x.step + 1 = f.step)

/-- Note a failure in the present step; failures older than the step before no longer matter. -/
def Func.noteFail (f : Func) (kind a b : Nat) : Func :=
  let keep := f.fails.filter fun x => decide (x.step = f.step ∨ x.step + 1 = f.step)
  let r : FailSeen := { kind := kind, a := a, b := b, step := f.step }
  { f with fails := if keep.contains r then keep else r :: keep }

/-- A vote bit is raised for the step (R168): 0 NONFIN, 1 NORM, 2 SKEW, 3 GEN, 4 FAULT. -/
def Func.raise (f : Func) (bit : Nat) : Func := { f with voteBits := f.voteBits ||| BitVec.ofNat 8 (2 ^ bit) }

/-- A tree mismatch met by function `fn` (R94). -/
def State.treeMismatch (s : State) (t e fn unit : Nat) (tree : W32) (m : Mismatch) : State :=
  let x := s.tile t
  let again := repeated (s.func fn) 3 tree.toNat 0
  let s := s.setTile t { (x.fault .ve (x.seq e).iaddr fn unit 3) with
    treeFault := { tree := tree, level := BitVec.ofNat 5 m.1, pos := BitVec.ofNat 27 m.2 } }
  let s := s.report { code := eTreeMismatch, cls := clsStep, func := some fn, unit := t, a := tree.toNat, b := pair m.1 m.2 }
  let s := s.onFunc fn fun f => (f.raise 4).noteFail 3 tree.toNat 0
  if again then s.drain fn else s

/-- The body of VCOMB (R137). -/
def vcombBody (s : State) (a : At) (op : VOp) (p : Part) : Body :=
  let x := s.tile a.tile
  let nrec := bits op.w3.toNat 5 0
  let list := bits op.w6.toNat 20 0
  let dst := bits op.w4.toNat 20 0
  let level := bits op.w7.toNat 31 27
  let pos := bits op.w7.toNat 26 0
  let toRec := op.subop = 1
  let fn := p.func.toNat
  if nrec < 1 || 32 < nrec || bits op.w3.toNat 31 6 ≠ 0 || op.w2 ≠ 0 || !frameOk op || cvtReserved op.w1hi.toNat ||
      (!toRec && !runOk op.w5) then .sequence
  else if !p.sramOk list (4 * nrec) then .partition list
  else
    let la := p.sram a.tile list
    let offs := (List.range nrec).map fun i => leNat (s.read (la + 4 * i) 4)
    match offs.find? fun o => !p.sramOk o 16 with
    | some o => .partition o
    | none =>
      let hdrs := offs.map fun o => parseRecord (s.read (p.sram a.tile o) 16)
      let first := hdrs.headD (parseRecord [])
      let reads := (la, 4 * nrec) :: offs.map fun o => (p.sram a.tile o, 16)
      match treeCheck hdrs level pos with
      | some m =>
        let s' := s.treeMismatch a.tile a.entry fn op.chain.toNat first.tree m
        if (s'.func fn).state = .on then .done s' reads [] [] [] else .stopped s'
      | none =>
        let cells := first.rows * first.cols
        let size := recordSize first.rows first.cols
        let need := 16 + cells * 4 + ceilDiv cells 8
        match offs.find? fun o => !p.sramOk o need with
        | some o => .partition o
        | none =>
          let recs := offs.map fun o => parseRecord (s.read (p.sram a.tile o) need)
          let n := first.nspanM1 + 1
          let nodes := (List.range cells).map fun i => combineNode n recs i level pos
          let outs := nodes.map Prod.fst
          let inNf := (List.range cells).map fun i => recs.any fun r => nonfinite (r.nodes.getD i {}).v
          let inX := (List.range cells).map fun i => recs.any fun r => (r.nodes.getD i {}).x
          let ev := (sumEv (nodes.zipIdx.map fun (o, i) =>
              liftEv (o.1.x && !inX.getD i false) (decide (o.2.ovf ≠ 0)))).plus { nonfin := (inNf.filter id).length }
          let reads := reads ++ offs.map fun o => (p.sram a.tile o, need)
          if toRec then
            if !p.sramOk dst size then .partition dst
            else
              let d := p.sram a.tile dst
              let desc : TreeDesc := { tree := first.tree, level := BitVec.ofNat 5 level, pos := BitVec.ofNat 27 pos,
                                       wcode := BitVec.ofNat 3 first.wcode, nspanM1 := BitVec.ofNat 27 first.nspanM1 }
              .done ((s.setTile a.tile (x.countEv a.entry ev)).write d (recordBytes desc first.rows first.cols outs))
                reads [(d, size)] [] []
          else if level ≠ clog2 n ∨ pos ≠ 0 ∨ op.count.toNat ≠ cells then .sequence
          else
            let vs := outs.map (readOut op.w1hi.toNat)
            match p.run op.w5 cells with
            | none => .partition (bits op.w5.toNat 5 0)
            | some r =>
              .done (s.setTile a.tile ((x.setElems r (vs.map Prod.fst)).countEv a.entry (ev.plus (sumEv (vs.map Prod.snd)))))
                reads [] [] [(r, cells)]

/-- VCOMB (R137): combine 1 to 32 partial records of one tree into the target node. -/
def execVcomb (a : At) (op : VOp) (u : Upset) (s : State) : Answer :=
  s.issue .ve a op.chain.toNat u fun p =>
    if op.ty ≠ 0 || decide (1 < op.subop.toNat) then .sequence else vcombBody s a op p

end Sys2Proof.Machine
end

