-- ==== Sys2Proof/Machine/TileCode.lean ====
section
/-! DEFINITION. The 32-byte words of tile instructions (R98, R99, R103, R109, R110, R125) read into the operands of the
commands, and the running of one such instruction. -/
namespace Sys2Proof.Machine

/-- Word i of an instruction. -/
def wordAt (ws : List W32) (i : Nat) : W32 := ws.getD i 0

/-- Bits [hi:lo] of word i, as a bit vector of width w. -/
def wf (ws : List W32) (i hi lo w : Nat) : BitVec w := BitVec.ofNat w (bits (wordAt ws i).toNat hi lo)

/-- The eight words of 32 bytes (R98). -/
def tileWords (bs : List Byte) : List W32 := (List.range 8).map fun i => BitVec.ofNat 32 (leAt bs (4 * i) 4)

/-- The fields of an MMA (R99). -/
def mmaOf (ws : List W32) : MmaOp := {
  bank := wf ws 0 9 8 2, layA := bitOf (wordAt ws 0).toNat 10, layB := bitOf (wordAt ws 0).toNat 11
  sfmtA := wf ws 0 15 12 4, sfmtB := wf ws 0 19 16 4, sdescA := wf ws 1 7 0 8, sdescB := wf ws 1 15 8 8
  rowsM1 := wf ws 1 21 16 6, colsM1 := wf ws 1 28 22 7, cvtA := wf ws 2 15 0 16, cvtB := wf ws 2 31 16 16
  klen := wf ws 3 14 0 15, aAddr := wf ws 4 15 0 16, aStride := wf ws 4 31 16 16, bAddr := wf ws 5 15 0 16
  bStride := wf ws 5 31 16 16, asAddr := wf ws 6 15 0 16, asStride := wf ws 6 31 16 16, bsAddr := wf ws 7 15 0 16
  bsStride := wf ws 7 31 16 16 }

/-- The fields of an MTREE (R103). -/
def mtreeOf (ws : List W32) : MtreeOp := {
  bank := wf ws 0 9 8 2, int := bitOf (wordAt ws 0).toNat 10, tree := wordAt ws 1, level := wf ws 2 31 27 5
  pos := wf ws 2 26 0 27, wcode := wf ws 3 29 27 3, nspanM1 := wf ws 3 26 0 27, stackAddr := wf ws 4 15 0 16 }

/-- The fields of a vector instruction (R125). -/
def vopOf (ws : List W32) : VOp := {
  ty := wf ws 0 9 8 2, subop := wf ws 0 13 10 4, bsel := wf ws 0 15 14 2, csel := wf ws 0 17 16 2, sb := wf ws 0 21 18 4
  sc := wf ws 0 25 22 4, sd := wf ws 0 29 26 4, chain := wf ws 0 31 30 2, count := wf ws 1 14 0 15
  w1hi := wf ws 1 31 16 16, w1b15 := bitOf (wordAt ws 1).toNat 15
  w2 := wordAt ws 2, w3 := wordAt ws 3, w4 := wordAt ws 4, w5 := wordAt ws 5, w6 := wordAt ws 6, w7 := wordAt ws 7 }

/-- The opcode of an instruction. -/
def opcodeOf (ws : List W32) : Nat := bits (wordAt ws 0).toNat 7 0

/-- Words of a matrix instruction with the bits that are fields; every other bit is reserved (R98 to R110). -/
def matrixMask (op : Nat) : List Nat :=
  if op = 0x40 then [0xFFFFF, 0x1FFFFFFF, 0xFFFFFFFF, 0x7FFF, 0xFFFFFFFF, 0xFFFFFFFF, 0xFFFFFFFF, 0xFFFFFFFF]
  else if op = 0x41 then [0x7FF, 0xFFFFFFFF, 0xFFFFFFFF, 0x3FFFFFFF, 0xFFFF, 0, 0, 0]
  else if op = 0x42 then [0x7FF, 0, 0, 0, 0, 0, 0, 0]
  else if op = 0x43 then [0x3FF, 0, 0, 0, 0xFFFF, 0, 0, 0]
  else [0x3FF, 0, 0, 0, 0, 0, 0, 0]

def matrixReserved (ws : List W32) : Bool :=
  ((matrixMask (opcodeOf ws)).zipIdx).any fun (m, i) => wordAt ws i &&& ~~~ BitVec.ofNat 32 m != 0

/-- The vector opcodes of R127. -/
def vectorOp (op : Nat) : Option (At → VOp → State → Answer) :=
  if op = 0x60 then some execVadd else if op = 0x61 then some execVsub else if op = 0x62 then some execVmul
  else if op = 0x63 then some execVfma else if op = 0x64 then some execVmax else if op = 0x65 then some execVmin
  else if op = 0x66 then some execVabs else if op = 0x67 then some execVneg else if op = 0x68 then some execVdiv
  else if op = 0x69 then some execVsqrt else if op = 0x6A then some execVrsqrt else if op = 0x6B then some execVrcp
  else if op = 0x6C then some execVexp else if op = 0x6D then some execVlog else if op = 0x6E then some execVcmp
  else if op = 0x6F then some execVsel else if op = 0x70 then some execVand else if op = 0x71 then some execVor
  else if op = 0x72 then some execVxor else if op = 0x73 then some execVshl else if op = 0x74 then some execVshr
  else if op = 0x75 then some execVcvt else if op = 0x76 then some execViota else if op = 0x77 then some execVmov
  else if op = 0x78 then some execVsets else if op = 0x80 then some fun a o => execVld a o .none
  else if op = 0x81 then some fun a o => execVst a o .none else if op = 0x82 then some execVrdacc
  else if op = 0x88 then some execVropen else if op = 0x89 then some execVred else if op = 0x8A then some execVrfold
  else if op = 0x8B then some execVrclr else if op = 0x8C then some execVevt else if op = 0x90 then some execVscan
  else if op = 0x91 then some execVsort else if op = 0x92 then some execVgath else if op = 0x93 then some execVscat
  else if op = 0x98 then some fun a o => execVcomb a o .none
  else none

/-- Whether an opcode is one of R98 or R127. -/
def opcodeKnown (op : Nat) : Bool := decide (0x40 ≤ op ∧ op ≤ 0x44) || (vectorOp op).isSome

/-- Run the instruction that 32 bytes spell for partition entry `a.entry`. A reserved opcode and a set reserved bit are
sequence faults (R99, R444). -/
def State.runTile (s : State) (a : At) (bs : List Byte) : Answer :=
  let ws := tileWords bs
  let op := opcodeOf ws
  if 0x40 ≤ op ∧ op ≤ 0x44 ∧ matrixReserved ws then s.issue .me a (wf ws 0 9 8 2).toNat .none fun _ => .sequence
  else if op = 0x40 then execMma a (mmaOf ws) .none s
  else if op = 0x41 then execMtree a (mtreeOf ws) s
  else if op = 0x42 then execMdrain a (wf ws 0 9 8 2) (bitOf (wordAt ws 0).toNat 10) .none s
  else if op = 0x43 then execMsave a (wf ws 0 9 8 2) (wf ws 4 15 0 16) s
  else if op = 0x44 then execMclr a (wf ws 0 9 8 2) s
  else match vectorOp op with
    | some f => f a (vopOf ws) s
    | none => s.issue (if op < 0x60 then .me else .ve) a 0 .none fun _ => .sequence

end Sys2Proof.Machine
end

