-- ==== Sys2Proof/Machine/Image.lean ====
section
/-! DEFINITION. The layout of Aedvas images (R271 to R275, R458): the header, the directory, the records of each section with
their byte offsets, and the base or function definition that a member reads from an image. -/
namespace Sys2Proof.Machine

/-! ### Header and directory (R271, R272) -/

structure ImgHdr where
  magic : Nat
  fmtMajor : Nat
  kind : Nat
  nsect : Nat
  length : Nat
  moduleCode : Nat
  funcMask : Nat
  herdId : Nat
  baseDigest : List Byte
  dirOff : Nat
  sigOff : Nat
  deriving DecidableEq, Repr, Inhabited

def imgHdr (b : List Byte) : ImgHdr :=
  { magic := leAt b 0 4, fmtMajor := leAt b 4 2, kind := leAt b 8 1, nsect := leAt b 10 2, length := leAt b 12 4
    moduleCode := leAt b 16 4, funcMask := leAt b 20 2, herdId := leAt b 24 8, baseDigest := slice b 32 48
    dirOff := leAt b 80 4, sigOff := leAt b 84 4 }

/-- A directory entry with its index. -/
structure Sec where
  idx : Nat
  type : Nat
  func : Nat
  member : Nat
  off : Nat
  len : Nat
  deriving DecidableEq, Repr, Inhabited

/-- The directory. -/
def imgDir (b : List Byte) : List Sec :=
  let h := imgHdr b
  (List.range h.nsect).map fun i =>
    let e := slice b (h.dirOff + 16 * i) 16
    { idx := i, type := leAt e 0 2, func := leAt e 2 1, member := leAt e 4 2, off := leAt e 8 4, len := leAt e 12 4 }

/-- Signed content: bytes 0 to SIG_OFF - 1. -/
def signedContent (b : List Byte) : List Byte := b.take (b.length - 128)

/-- The image digest (R270). -/
def imgDigest (b : List Byte) : List Byte := sha384 (signedContent b)

/-- The section a member uses for (TYPE, FUNC): its own, else that of every member (R273). -/
def secFor (dir : List Sec) (type func member : Nat) : Option Sec :=
  (dir.find? fun e => e.type == type && e.func == func && e.member == member) <|>
    dir.find? fun e => e.type == type && e.func == func && e.member == 0xFFFF

/-- The bytes of a section. -/
def Sec.bytes (e : Sec) (b : List Byte) : List Byte := slice b e.off e.len

def tyMembers : Nat := 1
def tySpeed : Nat := 2
def tyGroups : Nat := 3
def tyGrant : Nat := 4
def tyGates : Nat := 5
def tyPages : Nat := 6
def tyFres : Nat := 0x10
def tyMap : Nat := 0x11
def tyJob : Nat := 0x12
def tyLayers : Nat := 0x13
def tyExperts : Nat := 0x14
def tyLrate : Nat := 0x15
def tyPrecond : Nat := 0x16
def tyUpdprog : Nat := 0x17
def tyTileprog : Nat := 0x18
def tyXfer : Nat := 0x19
def tyStepprog : Nat := 0x1A
def tyInputs : Nat := 0x1B
def tyTrees : Nat := 0x1C

/-! ### Records (R274)

Each parser gives the records of one section with their byte offsets in the section. -/

/-- Records of `size` bytes after a header of `hdr` bytes. -/
def fixedRecs {α : Type} (bs : List Byte) (hdr size : Nat) (f : List Byte → α) : List (Nat × α) :=
  (List.range ((bs.length - hdr) / size)).map fun i => (hdr + i * size, f (slice bs (hdr + i * size) size))

/-- Groups one after another: `step` reads one group from the front and says how many bytes it takes. The second value is
where the section stops short of a whole group. -/
def walk {α : Type} (step : List Byte → α × Nat) : Nat → Nat → List Byte → List (Nat × α) × Option Nat
  | 0, off, bs => ([], if bs.isEmpty then none else some off)
  | f + 1, off, bs =>
    if bs.isEmpty then ([], none)
    else
      let (a, n) := step bs
      if bs.length < n then ([], some off)
      else
        let (r, e) := walk step f (off + n) (bs.drop n)
        ((off, a) :: r, e)

/-- All groups of a section. -/
def groupRecs {α : Type} (bs : List Byte) (step : List Byte → α × Nat) : List (Nat × α) × Option Nat :=
  walk step bs.length 0 bs

def memberRec (r : List Byte) : MemberRec := { member := leAt r 0 2, code := leAt r 4 4, ident := slice r 8 24 }
def speedRec (r : List Byte) : SpeedRec := { die := leAt r 0 1, vmv := leAt r 2 2, rate := leAt r 4 2 }
def groupRec (r : List Byte) : GroupRec :=
  { group := leAt r 0 1, gkind := leAt r 1 1, first := leAt r 4 4, count := leAt r 8 4, mask := leAt r 12 4 }
def pageRec (r : List Byte) : PageGrant := { func := leAt r 0 1, write := leAt r 1 1 == 1, page := leAt r 8 8 }

def gateStep (bs : List Byte) : GateList × Nat :=
  let n := leAt bs 2 2
  ({ port := leAt bs 0 1
     entries := (List.range n).map fun i =>
       { interval := leAt bs (8 + 8 * i) 4, gates := leAt bs (12 + 8 * i) 1, window := leAt bs (13 + 8 * i) 1 } }, 8 + 8 * n)

def tileShare (r : List Byte) : TileShare :=
  { tile := leAt r 0 2, accMask := leAt r 2 1, plateBase := leAt r 3 1, plateCount := leAt r 4 1, sramBase := leAt r 5 1
    sramCount := leAt r 6 1 }

def mapRange (r : List Byte) : MapRange :=
  { vpn := leAt r 0 4, npage := leAt r 4 4, tier := leAt r 8 1, stack := leAt r 9 1, bias := leAt r 10 1 }

/-- The JOB record (R275). -/
def jobRec (r : List Byte) : Job :=
  let w (o : Nat) : W32 := BitVec.ofNat 32 (leAt r o 4)
  { shards := leAt r 0 2, t := leAt r 2 1, p := leAt r 3 1, q := leAt r 4 1, mode := leAt r 5 1, path := leAt r 6 1
    nvar := leAt r 7 1, var0 := leAt r 8 1, bucketLog2 := leAt r 9 1, log2Nslot := leAt r 10 1, ledgerLog2 := leAt r 11 1
    ceilSq := w 12, skipLimit := leAt r 16 2, updPlate := leAt r 18 1, prefMax := leAt r 19 1, holdCap := leAt r 20 4
    holdTimeout := leAt r 24 4, snapEvery := leAt r 28 4, ema0 := w 32, beta1 := w 36, beta2 := w 40, cvtM := leAt r 44 2
    demandMax := leAt r 46 1, slotPages := leAt r 47 1, poolSlots := leAt r 48 2, lwlGts := leAt r 50 1
    lwlWidth := leAt r 51 1, journalVpn := leAt r 52 4, ledgerVpn := leAt r 56 4, gbuf0Vpn := leAt r 60 4
    gbuf1Vpn := leAt r 64 4, stateVpn := leAt r 68 4, poolVpn := leAt r 72 4, cmdOff := leAt r 76 4, fillOf := leAt r 80 1
    v := leAt r 81 1, seed := w 84
    variants := (List.range (leAt r 7 1)).map fun i => (leAt r (96 + 8 * i) 2, leAt r (100 + 8 * i) 4) }

def layerRec (r : List Byte) : Layer :=
  { layer := leAt r 0 2, expert := leAt r 2 1 == 1, treat := leAt r 3 1, rows := leAt r 4 4, cols := leAt r 8 4
    wtag := leAt r 12 2, mtag := leAt r 14 2, stage := leAt r 16 1, corr := leAt r 17 1 == 1, firstChunk := leAt r 20 4
    nchunk := leAt r 24 4 }

def expertStep (bs : List Byte) : ExpertLayer × Nat :=
  let n := leAt bs 2 2
  ({ layer := leAt bs 0 2, k := leAt bs 4 1, d := leAt bs 8 4, cap := leAt bs 12 4, ertBase := leAt bs 16 4
     experts := (List.range n).map fun i =>
       let o := 24 + 16 * i
       { lshard := leAt bs o 2, parked := leAt bs (o + 2) 1 == 1, homeVpn := leAt bs (o + 4) 4, npage := leAt bs (o + 8) 2 } },
   24 + 16 * n)

def preGroup (r : List Byte) : PreGroup :=
  let w (o : Nat) : W32 := BitVec.ofNat 32 (leAt r o 4)
  { layer := leAt r 0 2, lshard := leAt r 2 2, brow := leAt r 4 4, bcol := leAt r 8 4, a := leAt r 12 1, b := leAt r 13 1
    sides := leAt r 14 1, pL := leAt r 15 1, pR := leAt r 16 1, kmax := leAt r 17 1, n := leAt r 18 2, offset := leAt r 20 2
    betaP := w 24, lambda0 := w 28, tol := w 32, chunk0 := leAt r 36 4 }

def progStep (bs : List Byte) : ProgSection × Nat :=
  let n := leAt bs 8 4
  ({ tfirst := leAt bs 0 2, tcount := leAt bs 2 2, offset := leAt bs 4 4
     instrs := (List.range (min n (bs.length / 32))).map fun i => tileWords (slice bs (32 + 32 * i) 32) }, 32 + 32 * n)

/-- One transfer and the bytes it takes with its cast extension (R458). -/
def xferStep (bs : List Byte) : Xfer × Nat :=
  let f := leAt bs 28 1
  let cast := bitOf f 7
  ({ srcSp := leAt bs 0 1, dstSp := leAt bs 1 1, port := leAt bs 2 1, tc := leAt bs 3 1, cvt := leAt bs 4 2
     mule := leAt bs 6 2, src := leAt bs 8 8, dst := leAt bs 16 8, bytes := leAt bs 24 4, sfmt := f % 16
     ssdesc := leAt bs 29 1
     cast := if cast then some { nelem := leAt bs 32 4, rlen := leAt bs 36 4, ibase := leAt bs 40 4, rstride := leAt bs 44 4
                                 tag := leAt bs 48 2 % 4096 } else none },
   if cast then 64 else 32)

/-- `n` transfers from offset `off` of a list, with their offsets, and the bytes they take. -/
def xfersFrom : Nat → Nat → List Byte → List (Nat × Xfer) × Nat
  | 0, off, _ => ([], off)
  | n + 1, off, bs =>
    let (x, k) := xferStep bs
    let (r, e) := xfersFrom n (off + k) (bs.drop k)
    ((off, x) :: r, e)

/-- A list's INDEX and its transfers, with offsets from the list's start. -/
def xferListStep (bs : List Byte) : (Nat × List (Nat × Xfer)) × Nat :=
  let n := leAt bs 4 4
  if bs.length / 32 < n then ((leAt bs 0 4, []), bs.length + 1)
  else
    let (xs, e) := xfersFrom n 16 (bs.drop 16)
    ((leAt bs 0 4, xs), e)

def stepStep (bs : List Byte) : StepProg × Nat :=
  let n := leAt bs 4 4
  ({ var := leAt bs 0 1
     entries := (List.range (min n (bs.length / 16))).map fun i =>
       let o := 16 + 16 * i
       { start := leAt bs o 4, due := leAt bs (o + 4) 4, op := leAt bs (o + 8) 1, group := leAt bs (o + 9) 1
         arg := leAt bs (o + 12) 4 } }, 16 + 16 * n)

def inputRec (r : List Byte) : InputRec :=
  { pmember := leAt r 0 2, var := leAt r 2 1, item := leAt r 4 4, producer := leAt r 8 4 }

def treeStep (bs : List Byte) : TreeRec × Nat :=
  let n := leAt bs 10 2
  ({ tree := leAt bs 0 4, k := leAt bs 4 4, wcode := leAt bs 8 1, int := leAt bs 9 1 == 1, layer := leAt bs 12 2
     role := leAt bs 14 1
     parts := (List.range n).map fun i => let w := leAt bs (16 + 8 * i) 4; (bits w 31 27, bits w 26 0) }, 16 + 8 * n)

/-! ### What a member reads -/

/-- The records of the section that serves (TYPE, FUNC, member), as `parse` gives them. -/
def secRecs {α : Type} (b : List Byte) (dir : List Sec) (type func member : Nat) (parse : List Byte → List (Nat × α)) : List α :=
  match secFor dir type func member with
  | some e => (parse (e.bytes b)).map Prod.snd
  | none => []

/-- The bytes of the section that serves (TYPE, FUNC, member); none where there is none. -/
def secData (b : List Byte) (dir : List Sec) (type func member : Nat) : List Byte :=
  match secFor dir type func member with
  | some e => e.bytes b
  | none => []

/-- The base definition an image gives member `m`. -/
def baseOf (b : List Byte) (m : Nat) : BaseImage :=
  let dir := imgDir b
  let mh := secData b dir tyMembers 0xFF 0xFFFF
  let gr := secData b dir tyGrant 0xFF m
  let g := leAt gr 0 4
  let ng := leAt gr 4 2
  { digest := imgDigest b, herdId := BitVec.ofNat 64 (leAt mh 0 8), x := leAt mh 8 1, y := leAt mh 9 1, z := leAt mh 10 1
    root := leAt mh 12 2, member := m
    members := (fixedRecs mh 16 32 memberRec).map Prod.snd
    speed := secRecs b dir tySpeed 0xFF m fun s => fixedRecs s 0 8 speedRec
    groups := secRecs b dir tyGroups 0xFF m fun s => fixedRecs s 0 16 groupRec
    grantG := g
    grantRows := (List.range (min g gr.length)).map fun i => (slice gr (8 + i * roundUp ng 4) ng).map fun x => x.toNat
    gates := secRecs b dir tyGates 0xFF m fun s => (groupRecs s gateStep).1
    pages := secRecs b dir tyPages 0xFF 0xFFFF fun s => fixedRecs s 0 16 pageRec }

/-- The step programs of a function on member `m`. -/
def stepsOf (b : List Byte) (fn m : Nat) : List StepProg :=
  secRecs b (imgDir b) tyStepprog fn m fun s => (groupRecs s stepStep).1

/-- The transfer lists of a function on member `m`. -/
def xfersOf (b : List Byte) (fn m : Nat) : List XferList :=
  secRecs b (imgDir b) tyXfer fn m fun s =>
    (groupRecs s xferListStep).1.map fun (o, l) => (o, { index := l.1, xfers := l.2.map Prod.snd })

/-- The definition of function `fn` an image gives member `m`. -/
def funcOf (b : List Byte) (fn m : Nat) : FuncImage :=
  let dir := imgDir b
  let fr := secData b dir tyFres fn m
  { digest := imgDigest b
    qfirst := leAt fr 0 2, qcount := leAt fr 2 2, ertBase := leAt fr 4 1, ertCount := leAt fr 6 2
    staging := (List.range 4).map fun d => (leAt fr (8 + 2 * d) 1, leAt fr (9 + 2 * d) 1)
    tiles := (fixedRecs fr 32 8 tileShare).map Prod.snd
    map := secRecs b dir tyMap fn 0xFFFF fun s => fixedRecs s 0 16 mapRange
    job := jobRec (secData b dir tyJob fn 0xFFFF)
    layers := secRecs b dir tyLayers fn 0xFFFF fun s => fixedRecs s 0 32 layerRec
    experts := secRecs b dir tyExperts fn 0xFFFF fun s => (groupRecs s expertStep).1
    lrate := secRecs b dir tyLrate fn 0xFFFF fun s => fixedRecs s 0 8 fun r => (leAt r 0 4, BitVec.ofNat 32 (leAt r 4 4))
    precond := secRecs b dir tyPrecond fn 0xFFFF fun s => fixedRecs s 0 48 preGroup
    updprog := secRecs b dir tyUpdprog fn 0xFFFF fun s => fixedRecs s 32 32 tileWords
    progs := secRecs b dir tyTileprog fn m fun s => (groupRecs s progStep).1
    xfers := xfersOf b fn m
    steps := stepsOf b fn m
    inputs := secRecs b dir tyInputs fn m fun s => fixedRecs s 0 12 inputRec
    trees := secRecs b dir tyTrees fn 0xFFFF fun s => (groupRecs s treeStep).1 }

/-- The functions a function image defines. -/
def maskFuncs (mask : Nat) : List Nat := (List.range 16).filter fun n => bitOf mask n

/-- The member record that matches this module's identity (R270). -/
def myMember (b : List Byte) : Option Nat :=
  let hash := sha384 Config.identityKey
  ((baseOf b 0).members.find? fun r => r.ident == hash.take 24).map MemberRec.member

end Sys2Proof.Machine
end

