-- ==== Sys2Proof/Machine/ImageShape.lean ====
section
/-! DEFINITION. Stages 1 and 2 of the image check (R271 to R277): authenticity and structure. A check gives the places it
objects to; the first of them in section order is reported. -/
namespace Sys2Proof.Machine

/-- A place in an image: the directory index of its section (none for the header and the directory) and a byte offset. -/
abbrev Place := Option Nat × Nat

/-- Section order, the header before every section. -/
def Place.before (p q : Place) : Bool :=
  let k (x : Place) : Nat := x.1.elim 0 fun n => n + 1
  decide (k p < k q ∨ (k p = k q ∧ p.2 < q.2))

/-- The first place of a list in section order. -/
def firstPlace : List Place → Option Place
  | [] => none
  | p :: ps => some (ps.foldl (fun a q => if Place.before q a then q else a) p)

/-- Places of one section from offsets within it. -/
def Sec.at (e : Sec) (os : List Nat) : List Place := os.map fun o => (some e.idx, e.off + o)

/-! ### Stage 1 (R277) -/

/-- The enrolled owner keys, 96 bytes each (R420). -/
def State.ownerKeys (s : State) : List (List Byte) :=
  (List.range 4).filterMap fun k =>
    if s.sec.okeyEn.getLsbD k then
      some ((List.range 24).flatMap fun w => leBytes 4 (tget 0 s.sec.okeys (k * 24 + w)).toNat)
    else none

/-- Whether a signature block (R272) names one of `keys` and verifies under it. -/
def signedBy (keys : List (List Byte)) (content sig : List Byte) : Bool :=
  match keys.find? fun k => (sha384 k).take 16 == slice sig 0 16 with
  | some k => ecVerify k (sha384 content) (slice sig 16 48) (slice sig 64 48)
  | none => false

/-- Whether the last 128 bytes of `b` sign the rest under one of `keys`. -/
def signatureOk (keys : List (List Byte)) (b : List Byte) : Bool :=
  signedBy keys (signedContent b) (b.drop (b.length - 128))

/-- Stage 1: MAGIC, LENGTH and SIG_OFF, KEYID and the signature. -/
def State.stage1 (s : State) (b : List Byte) : List Place :=
  let h := imgHdr b
  if b.length < 256 ∨ h.magic ≠ 0x56444541 then [(none, 0)]
  else if h.length ≠ b.length ∨ 268435456 < h.length then [(none, 12)]
  else if h.sigOff ≠ h.length - 128 then [(none, 84)]
  else if s.sec.owned && signatureOk s.ownerKeys b then [] else [(none, h.sigOff)]

/-! ### Stage 2: the records of each section (R272 to R275) -/

/-- Whether any byte of the named ranges (offset, count) is not 0. -/
def anySet (bs : List Byte) (off : Nat) (rs : List (Nat × Nat)) : Bool := rs.any fun r => leAt bs (off + r.1) r.2 != 0

/-- The form of a section of fixed records: header bytes, record bytes, and the reserved ranges of each. -/
def fixedForm (type : Nat) : Option (Nat × Nat × List (Nat × Nat) × List (Nat × Nat)) :=
  if type = tyMembers then some (16, 32, [(11, 1), (14, 2)], [(2, 2)])
  else if type = tySpeed then some (0, 8, [], [(1, 1), (6, 2)])
  else if type = tyGroups then some (0, 16, [], [(2, 2)])
  else if type = tyPages then some (0, 16, [], [(2, 6)])
  else if type = tyFres then some (32, 8, [(5, 1), (18, 14)], [(7, 1)])
  else if type = tyMap then some (0, 16, [], [(11, 5)])
  else if type = tyJob then some (160, 160, [(82, 2), (88, 8)], [])
  else if type = tyLayers then some (0, 32, [], [(18, 2), (28, 4)])
  else if type = tyLrate then some (0, 8, [], [])
  else if type = tyPrecond then some (0, 48, [], [(22, 2), (40, 8)])
  else if type = tyUpdprog then some (32, 32, [(4, 28)], [])
  else if type = tyInputs then some (0, 12, [], [(3, 1)])
  else none

/-- Bad places of a section of fixed records: a length that is no whole number of records, and reserved bytes. -/
def fixedBad (bs : List Byte) (hdr size : Nat) (rh rr : List (Nat × Nat)) : List Nat :=
  let n := (bs.length - hdr) / size
  (if bs.length < hdr ∨ (bs.length - hdr) % size ≠ 0 then [0] else []) ++
    (if anySet bs 0 rh then [0] else []) ++
    ((List.range n).filter fun i => anySet bs (hdr + i * size) rr).map fun i => hdr + i * size

/-- The signature block's reserved bytes (R272). -/
def sigBad (b : List Byte) : Bool := anySet (b.drop (b.length - 128)) 0 [(112, 16)]

/-- Values of fixed records that R274 and R275 do not list. -/
def fixedValues (c : Code) (type : Nat) (bs : List Byte) : List Nat :=
  let bad {α : Type} (rs : List (Nat × α)) (p : α → Bool) : List Nat := (rs.filter fun r => p r.2).map Prod.fst
  if type = tyGroups then
    bad (fixedRecs bs 0 16 groupRec) (fun g => decide (3 < g.gkind) ||
      (g.gkind == 3 && !(Code.ports c).contains g.first)) ++ (if 256 < bs.length / 16 then [0] else [])
  else if type = tyPages then
    bad (fixedRecs bs 0 16 fun r => r) fun r =>
      decide (1 < leAt r 1 1 ∨ (15 < leAt r 0 1 ∧ leAt r 0 1 ≠ 0xFE) ∨ leAt r 8 8 % 4096 ≠ 0)
  else if type = tyFres then (if leAt bs 16 2 ≠ (bs.length - 32) / 8 then [16] else [])
  else if type = tyMap then
    bad (fixedRecs bs 0 16 mapRange) fun r => decide (1 < r.tier ∨ 1 < r.bias ∨ (r.tier = 0 ∧ r.bias ≠ 0) ∨
      2 ^ 27 < r.vpn + r.npage) ||
      (r.tier == 0 && r.stack != 0xFF && !(decide (r.stack / 3 < c.dies ∧ r.stack % 3 < c.positions)))
  else if type = tyLayers then
    bad (fixedRecs bs 0 32 fun r => r) fun r => decide (1 < leAt r 2 1 ∨ 2 < leAt r 3 1 ∨ 1 < leAt r 17 1 ∨
      leAt r 0 2 = 0xFFFF ∨ leAt r 4 4 = 0 ∨ leAt r 8 4 = 0 ∨ 0xFFF < leAt r 12 2 ∨ 0xFFF < leAt r 14 2)
  else if type = tyLrate then
    let ps := fixedRecs bs 0 8 fun r => leAt r 0 4
    (if ps.isEmpty ∨ 256 < ps.length then [0] else []) ++
      ((ps.zip (ps.drop 1)).filter fun p => decide (p.2.2 ≤ p.1.2)).map fun p => p.2.1
  else if type = tyPrecond then
    bad (fixedRecs bs 0 48 preGroup) fun g => decide (g.a < 1 ∨ 32 < g.a ∨ g.b < 1 ∨ 16 < g.b ∨ g.sides < 1 ∨ 3 < g.sides)
  else if type = tyUpdprog then
    (if leAt bs 0 4 = 0 ∨ 64 < leAt bs 0 4 ∨ leAt bs 0 4 ≠ (bs.length - 32) / 32 then [0] else [])
  else if type = tyJob then
    let j := jobRec bs
    let at_ (p : Bool) (o : Nat) : List Nat := if p then [o] else []
    at_ (decide (1 < j.mode)) 5 ++ at_ (decide (1 < j.path)) 6 ++ at_ (decide (j.nvar < 1 ∨ 8 < j.nvar)) 7 ++
      at_ (decide (j.nvar ≤ j.var0)) 8 ++ at_ (decide (j.bucketLog2 < 24 ∨ 28 < j.bucketLog2)) 9 ++
      at_ (decide (j.log2Nslot < 6 ∨ 15 < j.log2Nslot)) 10 ++ at_ (decide (j.ledgerLog2 < 6 ∨ 24 < j.ledgerLog2)) 11 ++
      at_ (decide (j.holdTimeout < 1 ∨ 60000 < j.holdTimeout)) 24 ++
      at_ (!([16, 32, 64].contains j.lwlGts)) 50 ++ at_ (!([4, 8, 16].contains j.lwlWidth)) 51 ++
      at_ (decide (15 < j.fillOf ∧ j.fillOf ≠ 0xFF)) 80 ++ at_ (!([1, 2, 4, 8].contains j.v)) 81 ++
      ((List.range 8).filter fun i => leAt bs (98 + 8 * i) 2 != 0 ||
        (decide (j.nvar ≤ i) && leAt bs (96 + 8 * i) 8 != 0)).map fun i => 96 + 8 * i
  else []

/-- Bad places of one transfer (R274, R458): reserved fields, spaces, and the fields of a plain transfer. -/
def xferReserved (bs : List Byte) (o : Nat) (x : Xfer) : Bool :=
  anySet bs o [(30, 2)] || bits (leAt bs (o + 28) 1) 6 4 != 0 || decide (4 < x.srcSp ∨ 4 < x.dstSp) ||
    (x.srcSp == 4 && decide (x.src / 2 ^ 48 ≠ 0)) || (x.dstSp == 4 && x.dst != 0) ||
    (x.cast.isSome && (anySet bs (o + 32) [(18, 14)] || decide (4095 < leAt bs (o + 48) 2)))

/-- Bad places of a section made of groups. -/
def groupBad (c : Code) (type : Nat) (bs : List Byte) : List Nat :=
  let short (e : Option Nat) : List Nat := e.toList
  if type = tyGates then
    let (gs, e) := groupRecs bs gateStep
    short e ++ (gs.filter fun (o, g) => anySet bs o [(1, 1), (4, 4)] || !(Code.ports c).contains g.port ||
      decide (g.entries.length < 1 ∨ 1024 < g.entries.length) ||
      ((List.range g.entries.length).any fun i => anySet bs (o + 8 + 8 * i) [(6, 2)]) ||
      (g.entries.any fun x => decide (31 < x.window ∧ x.window ≠ 0xFF) || x.interval % 8 != 0) ||
      (g.entries.foldl (fun n x => n + x.interval) 0) != 1024).map Prod.fst
  else if type = tyExperts then
    let (gs, e) := groupRecs bs expertStep
    short e ++ (gs.filter fun (o, g) => anySet bs o [(5, 3), (20, 4)] ||
      (List.range g.experts.length).any fun i =>
        anySet bs (o + 24 + 16 * i) [(3, 1), (10, 6)] || decide (1 < leAt bs (o + 26 + 16 * i) 1)).map Prod.fst
  else if type = tyTileprog then
    let (gs, e) := groupRecs bs progStep
    short e ++ (gs.filter fun (o, _) => anySet bs o [(12, 20)]).map Prod.fst
  else if type = tyXfer then
    let (gs, e) := groupRecs bs xferListStep
    short e ++ gs.flatMap fun (o, l) =>
      (if anySet bs o [(8, 8)] then [o] else []) ++ (l.2.filter fun (k, x) => xferReserved bs (o + k) x).map fun (k, _) => o + k
  else if type = tyStepprog then
    let (gs, e) := groupRecs bs stepStep
    short e ++ gs.flatMap fun (o, g) =>
      (if anySet bs o [(1, 3), (8, 8)] then [o] else []) ++
        ((g.entries.zipIdx.filter fun (x, i) => anySet bs (o + 16 + 16 * i) [(10, 2)] || decide (x.op < 1 ∨ 6 < x.op ∨
          x.due ≤ x.start)).map fun (_, i) => o + 16 + 16 * i) ++
        (((g.entries.zip (g.entries.drop 1)).zipIdx.filter fun (p, _) => decide (p.2.start < p.1.start)).map
          fun (_, i) => o + 32 + 16 * i)
  else if type = tyTrees then
    let (gs, e) := groupRecs bs treeStep
    short e ++ (gs.filter fun (o, g) => anySet bs o [(15, 1)] || decide (4 < g.wcode ∨ 1 < leAt bs (o + 9) 1 ∨ 1 < g.role) ||
      (List.range g.parts.length).any fun i => leAt bs (o + 20 + 8 * i) 4 != 0).map Prod.fst
  else if type = tyGrant then
    let g := leAt bs 0 4
    let w := roundUp (leAt bs 4 2) 4
    let rows := (List.range (min g (bs.length / max 1 w))).flatMap fun k =>
      if (slice bs (8 + k * w) (leAt bs 4 2)).any fun x => decide (15 < x.toNat ∧ x.toNat ≠ 0xFF) then [8 + k * w] else []
    (if anySet bs 0 [(6, 2)] ∨ bs.length ≠ 8 + g * w then [0] else []) ++ rows
  else []

/-- Bad places of a section's records. -/
def secBad (c : Code) (e : Sec) (bs : List Byte) : List Nat :=
  match fixedForm e.type with
  | some (hdr, size, rh, rr) =>
    if e.type = tyJob then
      (if bs.length ≠ 160 then [0] else []) ++ (if anySet bs 0 rh then [0] else []) ++ fixedValues c e.type bs
    else fixedBad bs hdr size rh rr ++ fixedValues c e.type bs
  | none => groupBad c e.type bs

/-! ### Stage 2: header and directory (R271 to R273) -/

/-- The section types of each kind, and those that may be given once per member (R274). -/
def baseTypes : List Nat := [tyMembers, tySpeed, tyGroups, tyGrant, tyGates, tyPages]
def funcTypes : List Nat :=
  [tyFres, tyMap, tyJob, tyLayers, tyExperts, tyLrate, tyPrecond, tyUpdprog, tyTileprog, tyXfer, tyStepprog, tyInputs, tyTrees]
def perMember (type : Nat) : Bool :=
  [tySpeed, tyGroups, tyGrant, tyGates, tyFres, tyTileprog, tyXfer, tyStepprog, tyInputs].contains type

/-- A directory entry that breaks R272 or R273. `members` is the herd's member count. -/
def dirBad (b : List Byte) (dir : List Sec) (members : Nat) (e : Sec) : Bool :=
  let h := imgHdr b
  let raw := slice b (h.dirOff + 16 * e.idx) 16
  let listed := if h.kind = 0 then baseTypes.contains e.type && e.func == 0xFF
    else funcTypes.contains e.type && decide (e.func < 16) && bitOf h.funcMask e.func
  anySet raw 0 [(3, 1), (6, 2)] || !listed ||
    !(e.member == 0xFFFF || (decide (e.member < members) && perMember e.type)) ||
    e.off % 32 != 0 || decide (h.sigOff < e.off + e.len) || overlap e.off e.len 0 128 ||
    overlap e.off e.len h.dirOff (16 * h.nsect) ||
    dir.any fun d => decide (d.idx < e.idx) && (overlap e.off e.len d.off d.len ||
      (d.type == e.type && d.func == e.func && d.member == e.member))

/-- Places of a header that break R271. -/
def State.headerBad (s : State) (b : List Byte) : List Place :=
  let h := imgHdr b
  let bad (p : Bool) (o : Nat) : List Place := if p then [(none, o)] else []
  bad (h.fmtMajor != 1) 4 ++ bad (decide (1 < h.kind)) 8 ++ bad (anySet b 0 [(9, 1)]) 9 ++
    bad (decide (h.nsect < 1 ∨ 4096 < h.nsect)) 10 ++ bad (h.moduleCode != Code.value s.code) 16 ++
    bad (h.kind == 0 && h.funcMask != 0) 20 ++ bad (anySet b 0 [(22, 2)]) 22 ++
    bad (h.kind == 1 && s.base.any fun x => x.herdId.toNat != h.herdId) 24 ++
    bad (if h.kind = 0 then h.baseDigest.any (fun x => x != 0) else s.base.any fun x => x.digest != h.baseDigest) 32 ++
    bad (decide (h.sigOff < h.dirOff + 16 * h.nsect ∨ h.dirOff < 128)) 80 ++ bad (anySet b 0 [(88, 40)]) 88

/-- Whether every member of 0 to `members` - 1 has a section of (TYPE, FUNC) (R273). -/
def hasFor (dir : List Sec) (type func members : Nat) : Bool :=
  (List.range members).all fun m => (secFor dir type func m).isSome

/-- A shape of R239: solo, or 8 to 512 members with axes of 1 to 8. -/
def shapeOk (x y z : Nat) : Bool :=
  let n := x * y * z
  decide (1 ≤ x ∧ x ≤ 8 ∧ 1 ≤ y ∧ y ≤ 8 ∧ 1 ≤ z ∧ z ≤ 8) && decide (n = 1 ∨ 8 ≤ n)

/-- What stage 2 requires of a base image: its required sections (R273), members (R5, R239, R277), and gates on every herd
port that R239 uses on some member (R358). -/
def State.baseShape (s : State) (b : List Byte) (dir : List Sec) : List Place :=
  let x := baseOf b 0
  let n := x.x * x.y * x.z
  let sec := secFor dir tyMembers 0xFF 0xFFFF
  let at_ (p : Bool) (o : Nat) : List Place :=
    if p then (match sec with | some e => e.at [o] | none => [(none, 0)]) else []
  let missing := [tyMembers, tySpeed, tyGroups, tyGrant].any fun t => !hasFor dir t 0xFF n
  let used := (List.range 6).filter fun r => portUsed x.x x.y x.z r
  let noGates := !((List.range n).all fun m => used.all fun r =>
    match (Code.ports s.code)[r]? with
    | some p => (baseOf b m).gates.any fun g => g.port == p
    | none => false)
  let me := (x.members.filter fun r => r.ident == (sha384 Config.identityKey).take 24).length
  (if missing || noGates then [(none, 0)] else []) ++
    at_ (!shapeOk x.x x.y x.z) 8 ++ at_ (x.herdId.toNat != (imgHdr b).herdId) 0 ++ at_ (decide (n ≤ x.root)) 12 ++
    at_ (s.sec.idfail || me != 1) 16 ++
    at_ (!(x.members.length == n && (List.range n).all fun m => x.members.any fun r => r.member == m)) 16 ++
    ((x.members.zipIdx.filter fun (r, _) => r.code != (x.members.headD default).code).flatMap fun (_, i) =>
      at_ true (16 + 32 * i))

/-- Whether a step program is complete: it ends in exactly one STEPEND, whose START is greater than 0 (R273). -/
def StepProg.ended (p : StepProg) : Bool :=
  (p.entries.filter fun e => e.op == 6).length == 1 && (p.entries.getLast?).any fun e => e.op == 6 && decide (0 < e.start)

/-- What stage 2 requires of a function image: required sections of every function it defines, for every member (R273). -/
def funcShape (b : List Byte) (dir : List Sec) (members : Nat) : List Place :=
  (maskFuncs (imgHdr b).funcMask).flatMap fun fn =>
    let i := funcOf b fn 0
    let need := [tyFres, tyJob, tyStepprog] ++ (if i.layers.isEmpty then [] else [tyLrate, tyUpdprog])
    (if need.any fun t => !hasFor dir t fn members then [(none, 0)] else []) ++
      (if i.layers.length ≠ 0 ∧ i.lrate.isEmpty then [(none, 0)] else []) ++
      (dir.filter fun e => e.type == tyStepprog && e.func == fn).flatMap fun e =>
        let ps := (groupRecs (e.bytes b) stepStep).1
        (if (List.range i.job.nvar).all fun v => (ps.filter fun p => p.2.var == v).length == 1 then [] else e.at [0]) ++
          e.at ((ps.filter fun p => !StepProg.ended p.2 || decide (i.job.nvar ≤ p.2.var)).map Prod.fst)

/-- Stage 2: FMT_MAJOR, R271 to R275, MODULE_CODE, members, shape, HERD_ID and BASE_DIGEST. -/
def State.stage2 (s : State) (b : List Byte) : List Place :=
  let h := imgHdr b
  match s.headerBad b with
  | [] =>
    let dir := imgDir b
    -- with no base accepted the herd's members are not known: 512 at most (R239)
    let members := if h.kind = 0 then (baseOf b 0).x * (baseOf b 0).y * (baseOf b 0).z
      else (s.base.map fun x => x.x * x.y * x.z).getD 512
    match (dir.filter (dirBad b dir members)).map fun e => (some e.idx, h.dirOff + 16 * e.idx) with
    | [] =>
      (dir.flatMap fun e => e.at (secBad s.code e (e.bytes b))) ++
        (if h.kind = 0 then s.baseShape b dir else funcShape b dir (if s.base.isNone then 0 else members)) ++
        (if sigBad b then [(none, h.sigOff + 112)] else [])
    | ps => ps
  | ps => ps

end Sys2Proof.Machine
end

