-- ==== Sys2Proof/Machine/Queues.lean ====
section
/-! DEFINITION. The hardware queues (R329 to R338): doorbells, the fetch and judgement of entries, the queue commands, and
the arming of queue 0. -/
namespace Sys2Proof.Machine

/-- Number of queues (R329). -/
def queueCount : Nat := 1048576

/-- The function that a queue's group is granted to (R274 FRES, R329). -/
def State.queueFunc (s : State) (q : Nat) : Option Nat :=
  funcIds.find? fun n =>
    let i := s.image n
    decide (1 ≤ q / 512 ∧ i.qfirst ≤ q / 512 ∧ q / 512 < i.qfirst + i.qcount)

/-- A function's descriptor pages, rising (R329). -/
def State.descPages (s : State) (fn : Nat) : List Nat :=
  s.pages.filterMap fun e => if e.2.use = .descriptor fn then some e.1 else none

/-- The line that holds queue `q`'s descriptor, for a queue of a function (R329). -/
def State.descLine (s : State) (q : Nat) : Option Nat :=
  match s.queueFunc q with
  | none => none
  | some fn =>
    let off := (q - (s.image fn).qfirst * 512) * 64
    ((s.descPages fn)[off / pageSize]?).map fun p => p * pageSize + off % pageSize

/-! ### Entries (R330, R332, R336) -/

/-- The link the entry HEAD of a queue travels on. -/
def Queue.entryAddr (q : Queue) : Nat := q.ring.toNat + q.head.toNat % 2 ^ q.log2Ent * 64

/-- Argument fields of each opcode: whether it is an admin opcode, and (offset, bytes, bits used) of each field (R336). -/
def opcodeArgs (op : Nat) : Option (Bool × List (Nat × Nat × Nat)) :=
  let src := [(8, 8, 64), (16, 4, 32), (20, 4, 32)]
  let ship := [(8, 1, 8), (9, 1, 8), (16, 16, 128)]
  let copy := [(8, 8, 64), (16, 8, 64), (24, 4, 32)]
  if op = 0x01 then some (true, src)
  else if op = 0x02 then some (true, src ++ [(24, 1, 1)])
  else if op = 0x03 then some (true, src)
  else if op = 0x04 then some (true, [(20, 4, 32)])
  else if op = 0x05 then some (true, [(8, 2, 16), (10, 1, 1)])
  else if op = 0x10 then some (true, [(8, 1, 8), (16, 8, 64), (24, 4, 32)])
  else if op = 0x11 then some (true, [(8, 1, 8)])
  else if op = 0x20 then some (true, [(8, 4, 32), (12, 1, 8), (13, 1, 8), (14, 1, 8), (16, 2, 16), (24, 8, 64), (32, 8, 64)])
  else if op = 0x21 then some (true, [(8, 4, 32)])
  else if op = 0x22 then some (true, [(8, 4, 32), (12, 1, 1)])
  else if op = 0x40 then some (false, [(8, 4, 32)])
  else if op = 0x41 then some (false, [(8, 1, 8), (12, 4, 32)])
  else if op = 0x42 then some (false, [])
  else if op = 0x43 then some (false, ship)
  else if op = 0x44 then some (false, ship ++ [(12, 4, 32)])
  else if op = 0x45 then some (false, copy)
  else if op = 0x46 then some (false, copy)
  else none

/-- Whether every reserved byte and bit of an entry is 0. -/
def reservedClear (bs : List Byte) (fields : List (Nat × Nat × Nat)) : Bool :=
  decide (leAt bs 1 1 < 2) &&
  (fields.all fun f => decide (leAt bs f.1 f.2.1 < 2 ^ f.2.2)) &&
  ((List.range 54).all fun j =>
    let i := j + 8
    fields.any (fun f => decide (f.1 ≤ i ∧ i < f.1 + f.2.1)) || decide (leAt bs i 1 = 0))

/-- Whether 64 bytes are entry `i` of a ring of 2^lg entries: PHASE, SEQ and CRC (R330). -/
def entryFresh (bs : List Byte) (i : W32) (lg : Nat) : Bool :=
  decide (leAt bs 1 1 % 2 = (i.toNat / 2 ^ lg + 1) % 2) && decide (leAt bs 2 2 = i.toNat % 65536) &&
    decide (leAt bs 62 2 = (crc16 (slice bs 0 62)).toNat)

/-- Whether a hub mule reads the entry at HEAD now (R332, R333): the queue is ACTIVE in the present epoch, announces an
entry, holds no command, has room for a record, and its ring's link is UP. Entries wait until READY (R410). -/
def State.fetchReady (s : State) (n : Nat) : Bool :=
  let q := s.queue n
  q.state == .active && q.epoch == s.larwa.epoch && q.head != q.tail && q.running.isNone && q.waiting.isEmpty && q.room &&
    q.destroying.isNone && !q.disarming && s.hpaUp q.entryAddr && (s.boot.stage == .ready || s.boot.stage == .prepared)

/-- Halt a queue with an error; a halt record is written if the completion ring has room (R332, R335). -/
def State.haltQueue (s : State) (n err : Nat) : State :=
  let q := s.queue n
  let rec_ : List Completion := if q.room ∧ q.waiting.isEmpty then
    [{ tag := 0, entry := q.head, status := err, result := [] }] else []
  (s.setQueue n { q with state := .haltedError, err := err, stale := false, rereads := 0,
                         waiting := q.waiting ++ rec_ }).flushQueue n

/-- Accept the entry at HEAD (R332): a bad one completes with BAD_COMMAND, and a good one is the queue's command. -/
def State.acceptEntry (s : State) (n : Nat) (bs : List Byte) : State :=
  let q := s.queue n
  let c : Cmd := { q := n, entry := q.head, opcode := leAt bs 0 1, tag := BitVec.ofNat 32 (leAt bs 4 4), bytes := bs }
  let s := s.setQueue n { q with head := q.head + 1, stale := false, rereads := 0, running := some c }
  match opcodeArgs c.opcode with
  | none => s.complete c stBadCommand []
  | some (admin, fields) =>
    if admin ≠ decide (n = 0) ∨ reservedClear bs fields = false then s.complete c stBadCommand [] else s

/-- Judge what a read of entry HEAD returned. -/
def State.judgeEntry (s : State) (n : Nat) (d : HostData) : State :=
  let q := s.queue n
  match d with
  | .ok bs =>
    if entryFresh bs q.head q.log2Ent then s.acceptEntry n bs
    else if q.stale ∧ q.rereads = 7 then
      (s.haltQueue n stQueueStale).report
        { code := eQueueStale, cls := clsCommand, func := if q.view < 16 then some q.view else none,
          a := n, b := q.head.toNat }
    else s.setQueue n { q with stale := true, rereads := if q.stale then q.rereads + 1 else 0 }
  | _ => s.haltQueue n stHostAccess

/-- Whether the data of an entry read has the length of one. -/
def entryData : HostData → Bool
  | .ok bs => decide (bs.length = 64)
  | _ => true

/-- ENTRY_REREAD (R332): the entry is read again while its last read was stale. -/
def execEntryReread (q : Nat) (data : HostData) (s : State) : Answer :=
  if queueCount ≤ q then .fault (.absent "queue" q)
  else if !entryData data then s.noEvent "R330: an entry is 64 bytes"
  else if s.fetchReady q && (s.queue q).stale then .next (s.judgeEntry q data)
  else .next s

/-! ### Doorbells (R331) -/

/-- A new TAIL: accepted, or ignored and counted. -/
def Queue.setTail (q : Queue) (t : W32) : Queue :=
  if (t - q.head).toNat ≤ 2 ^ q.log2Ent ∧ (t - q.tail).toNat < 2 ^ 31 then { q with tail := t }
  else { q with ignored := satAdd 32 q.ignored 1 }

/-- A new CDONE: accepted, or ignored and counted. -/
def Queue.setCdone (q : Queue) (d : W32) : Queue :=
  if (d - q.cdone).toNat < 2 ^ 31 ∧ (q.chead - d).toNat < 2 ^ 31 then { q with cdone := d }
  else { q with ignored := satAdd 32 q.ignored 1 }

/-- The queue after a doorbell write; `half` is none for a 64-bit write, and else whether the upper half is written. -/
def Queue.doorbell (q : Queue) (half : Option Bool) (value : W64) : Queue :=
  if q.state = .idle ∨ q.state = .haltedHost then { q with ignored := satAdd 32 q.ignored 1 }
  else
    let lo := BitVec.ofNat 32 (value.toNat % 2 ^ 32)
    let hi := BitVec.ofNat 32 (value.toNat / 2 ^ 32)
    match half with
    | none => (q.setTail lo).setCdone hi
    | some false => q.setTail lo
    | some true => q.setCdone lo

/-- A doorbell write: records that wait are written when the driver has made room (R333). -/
def State.doorbell (s : State) (q : Nat) (half : Option Bool) (value : W64) : State :=
  ((s.setQueue q ((s.queue q).doorbell half value)).flushQueue q).settleDestroy q

/-- DOORBELL_WRITE (R331). -/
def execDoorbellWrite (q : Nat) (half : Option Bool) (value : W64) (s : State) : Answer :=
  if queueCount ≤ q then .fault (.absent "queue" q) else .next (s.doorbell q half value)

/-! ### Commands in progress -/

/-- Run a meaning on the command in progress on queue `q`, which must have opcode `op`. -/
def State.withCmd (s : State) (q op : Nat) (f : Cmd → Answer) : Answer :=
  match (s.queue q).running with
  | none => s.noEvent "R336: the queue has no command in progress"
  | some c => if c.opcode = op then f c else s.noEvent "R336: the command in progress has another opcode"

/-- The function whose view owns the queue of a command (R336). -/
def State.cmdFunc (s : State) (c : Cmd) : Nat := (s.queue c.q).view

/-- A command ends at once. -/
def State.finish (s : State) (c : Cmd) (status : Nat) (result : List Byte := []) : Answer :=
  .next (s.complete c status result)

/-- Whether a command still needs the host before it can take its effect (R342). -/
def Cmd.needsHost (c : Cmd) : Bool :=
  if c.opcode = 1 ∨ c.opcode = 2 ∨ c.opcode = 3 then decide (c.arg 8 8 ≠ 0)
  else if c.opcode = 0x10 then decide (c.arg 24 4 ≠ 0)
  else decide (c.opcode = 0x45 ∨ c.opcode = 0x46)

/-- Forget every command of the queues that `p` names: their completion records have nowhere to go (R342). -/
def State.dropCmds (s : State) (p : Nat → Bool) : State :=
  let keep (c : Cmd) : Bool := !p c.q
  let req (r : StopReq) : StopReq := { r with cmd := r.cmd.filter keep }
  let s := funcIds.foldl (fun s n =>
    let f := s.func n
    s.setFunc n { f with
      enablingCmds := f.enablingCmds.filter keep, pendingCmds := f.pendingCmds.filter keep
      stop := f.stop.map req, stopMore := f.stopMore.map req, resumeCmd := f.resumeCmd.filter keep
      snap := f.snap.map fun h => { h with cmd := h.cmd.filter keep } }) s
  let s := s.onQueues fun _ q => { q with destroying := q.destroying.filter keep }
  { s with imgWait := s.imgWait.map fun w => { w with cmd := w.cmd.filter keep } }

/-- Long commands of a queue that QDESTROY or DISARM reaches complete with CANCELLED first (R338). -/
def State.cancelLong (s : State) (q : Nat) : State :=
  funcIds.foldl (fun s n =>
    let f := s.func n
    let mine (c : Cmd) : Bool := c.q == q
    let ships := (f.snap.toList.flatMap fun h => h.cmd.toList).filter mine
    let s1 := s.setFunc n { f with
      enablingCmds := f.enablingCmds.filter fun c => !mine c
      pendingCmds := f.pendingCmds.filter fun c => !mine c
      snap := if ships.isEmpty then f.snap else none }
    let s2 := s1.completeAll ((f.enablingCmds ++ f.pendingCmds).filter mine) stCancelled (stateResult 0 f.state)
    s2.completeAll ships stCancelled []) s

/-- Whether any part of an HPA or VA range travels on the link of a hub die (R323). -/
def State.onLink (s : State) (hub lo n : Nat) : Bool := (pagesOf lo n).any fun p => s.linkOf (p * pageSize) == hub

/-- Whether a ring of a queue travels, wholly or in part, on a link (R322). -/
def State.ringOn (s : State) (hub : Nat) (q : Queue) : Bool :=
  s.onLink hub q.ring.toNat (2 ^ q.log2Ent * 64) || s.onLink hub q.cpl.toNat (2 ^ q.log2Cpl * 32)

/-- The state of a queue that becomes active: HALTED_LINK while a ring of it travels on a link that is out (R322). -/
def State.activeState (s : State) (q : Queue) : QState :=
  if (List.range s.code.hubs).any fun h => (s.lwl h).state == .out && s.ringOn h q then .haltedLink else .active

/-- QCREATE (R336): arm a function's queue. -/
def execQcreate (q : Nat) (s : State) : Answer :=
  s.withCmd q 0x20 fun c =>
    let id := c.arg 8 4
    let ring := c.arg 24 8
    let cpl := c.arg 32 8
    let ok (l : Nat) : Bool := decide (4 ≤ l ∧ l ≤ 16)
    match s.queueFunc id with
    | none => s.finish c stBadCommand
    | some fn =>
      if queueCount ≤ id ∨ id < 512 ∨ ok (c.arg 12 1) = false ∨ ok (c.arg 13 1) = false ∨ 2 < c.arg 14 1 ∨
          ring % 4096 ≠ 0 ∨ cpl % 4096 ≠ 0 ∨ 2 ^ 47 < ring + 2 ^ c.arg 12 1 * 64 ∨ 2 ^ 47 < cpl + 2 ^ c.arg 13 1 * 32 then
        s.finish c stBadCommand
      else if (s.func fn).state ≠ .on ∨ ((s.queue id).state ≠ .idle ∧ (s.queue id).state ≠ .haltedHost) then
        s.finish c stState
      else
        let v : Queue := {
          ring := BitVec.ofNat 64 ring, cpl := BitVec.ofNat 64 cpl, log2Ent := c.arg 12 1, log2Cpl := c.arg 13 1
          state := .active, view := fn, ivec := c.arg 16 2, ipath := c.arg 14 1, epoch := s.larwa.epoch }
        let s := s.setQueue id { v with state := s.activeState v }
        let s := match s.descLine id with
          | some a => { s with poison := s.poison.filter fun p => !decide (p = a) }
          | none => s
        s.finish c stSuccess

/-- QDESTROY (R338). -/
def execQdestroy (q : Nat) (s : State) : Answer :=
  s.withCmd q 0x21 fun c =>
    let id := c.arg 8 4
    if id = 0 ∨ queueCount ≤ id then s.finish c stBadCommand
    else if (s.queue id).state = .idle then s.finish c stSuccess
    else .next (((s.cancelLong id).onQueue id fun v => { v with destroying := some c }).settleDestroy id)

/-- QRESUME (R332, R336). -/
def execQresume (q : Nat) (s : State) : Answer :=
  s.withCmd q 0x22 fun c =>
    let id := c.arg 8 4
    let v := s.queue id
    if id = 0 ∨ queueCount ≤ id then s.finish c stBadCommand
    else if v.state ≠ .haltedError ∨ v.err = stDataError then s.finish c stState
    else
      let head := if c.arg 12 1 = 1 then v.tail else v.head
      (s.setQueue id { v with state := s.activeState v, head := head, stale := false, rereads := 0 }).finish c stSuccess
        (leBytes 4 head.toNat)

/-! ### Queue 0 (R338, R343) -/

/-- ARM (R343): arm queue 0 in the present epoch, or set ARMERR. -/
def State.armQueue (s : State) : State :=
  let l := s.larwa
  let ok (x : BitVec 5) : Bool := decide (4 ≤ x.toNat ∧ x.toNat ≤ 16)
  if (s.queue 0).state = .active ∨ ok l.aqRingLog2 = false ∨ ok l.aqCplLog2 = false then
    { s with larwa := { l with aqArmErr := true } }
  else
    let v : Queue := {
      ring := BitVec.ofNat 64 (l.aqRingBase.toNat * 4096), cpl := BitVec.ofNat 64 (l.aqCplBase.toNat * 4096)
      log2Ent := l.aqRingLog2.toNat, log2Cpl := l.aqCplLog2.toNat, state := .active, view := 16
      ivec := l.aqIvec.toNat, ipath := l.aqIpath.toNat, epoch := l.epoch }
    (s.dropCmds fun n => n == 0).setQueue 0 { v with state := s.activeState v }

/-- ARM (R343). -/
def execArm (s : State) : Answer := .next s.armQueue

/-- DISARM (R343): queue 0 goes IDLE as QDESTROY does. -/
def State.disarmQueue (s : State) : State :=
  if (s.queue 0).state = .idle then s
  else ((s.cancelLong 0).onQueue 0 fun v => { v with disarming := true }).settleDestroy 0

/-- DISARM (R343). -/
def execDisarm (s : State) : Answer := .next s.disarmQueue

end Sys2Proof.Machine
end

