-- ==== Sys2Proof/Machine/Layout.lean ====
section
/-! DEFINITION. The logical mapping of a job (R146 to R150, R241), its parameter blocks and chunks (R150, R184, R214), and
where the job's state lies in the function's memory (R183, R195, R275). -/
namespace Sys2Proof.Machine

/-! ### Coordinates (R240, R241) -/

/-- Members of the herd. -/
def Herd.count (h : Herd) : Nat := h.x * h.y * h.z

/-- Members of the full-sharding dimension. -/
def Job.md (j : Job) (members : Nat) : Nat := members / (j.t * j.p * j.q)

/-- The sequence, tensor, rank and pipeline coordinates of member `m`. -/
def Job.coords (j : Job) (members m : Nat) : Nat × Nat × Nat × Nat :=
  (m % j.q, m / j.q % j.t, m / (j.q * j.t) % j.md members, m / (j.q * j.t * j.md members))

/-- The logical shards member `m` owns, where it is the owning member of its group (R146). -/
def Job.ownedShards (j : Job) (members m : Nat) : List Nat :=
  let (qr, tr, r, _) := j.coords members m
  let per := j.shards / j.md members
  if qr = 0 ∧ tr = 0 then (List.range per).map fun i => r * per + i else []

/-- Whether a layer's stage lies on member `m`; with v thin stages a member, stage s lies on stage group s mod p (R176). -/
def Job.ownsStage (j : Job) (members m stage : Nat) : Bool :=
  let (_, _, _, pr) := j.coords members m
  stage % j.p == pr

/-! ### Parameter blocks (R150, R214) -/

/-- One parameter block: the expert it belongs to, its number among the blocks of the layer (dense) or of the expert, its
block row and column in its matrix, its rows and columns of real elements, and its matrix: the place of its first element in
the layer's or expert's elements, and its column count (R192). -/
structure Block where
  expert : Option Nat
  num : Nat
  brow : Nat
  bcol : Nat
  rows : Nat
  cols : Nat
  origin : Nat
  wide : Nat
  deriving DecidableEq, Repr, Inhabited

/-- Blocks of an R × C matrix, row-major, the first numbered `first`; the matrix's elements begin at `origin`. -/
def matrixBlocks (expert : Option Nat) (first origin rows cols : Nat) : List Block :=
  let nc := ceilDiv cols 128
  (List.range (ceilDiv rows 64 * nc)).map fun b =>
    { expert := expert, num := first + b, brow := b / nc, bcol := b % nc, origin := origin, wide := cols
      rows := min 64 (rows - b / nc * 64), cols := min 128 (cols - b % nc * 128) }

/-- The layers of a function: of the LAYERS records that share one LAYER, the first (assumption 75). -/
def FuncImage.heads (i : FuncImage) : List Layer :=
  (i.layers.zipIdx.filter fun (l, k) => !((i.layers.take k).any fun m => m.layer == l.layer)).map Prod.fst

/-- The matrices of a layer: a dense layer has one; each expert of an expert layer has one for every LAYERS record of the
layer, in the image's order (R214, assumption 75). -/
def FuncImage.mats (i : FuncImage) (l : Layer) : List (Nat × Nat) :=
  if l.expert then (i.layers.filter fun m => m.layer == l.layer && m.expert).map fun m => (m.rows, m.cols) else [(l.rows, l.cols)]

/-- Elements of a list of matrices: an expert's, or a dense layer's. -/
def matsSize (ms : List (Nat × Nat)) : Nat := ms.foldl (fun n m => n + m.1 * m.2) 0

/-- The blocks of a list of matrices, one after another (R214). -/
def matsBlocks (expert : Option Nat) (ms : List (Nat × Nat)) : List Block :=
  (ms.foldl (fun (a : List Block × Nat) m => (a.1 ++ matrixBlocks expert a.1.length a.2 m.1 m.2, a.2 + m.1 * m.2)) ([], 0)).1

/-- The experts of a layer record. -/
def FuncImage.expertLayer (i : FuncImage) (layer : Nat) : Option ExpertLayer := i.experts.find? fun e => e.layer == layer

/-- The experts that a logical shard holds of a layer, rising. -/
def ExpertLayer.ofShard (e : ExpertLayer) (shard : Nat) : List Nat :=
  (List.range e.experts.length).filter fun x => ((e.experts[x]?).map ExpertRec.lshard) == some shard

/-- The blocks that logical shard `shard` owns of a layer, in rising block order (R150; R214 for an expert layer). -/
def FuncImage.shardBlocks (i : FuncImage) (l : Layer) (shard : Nat) : List Block :=
  if l.expert then
    match i.expertLayer l.layer with
    | some e => (e.ofShard shard).flatMap fun x => matsBlocks (some x) (i.mats l)
    | none => []
  else
    let bs := matsBlocks none (i.mats l)
    let per := ceilDiv bs.length i.job.shards
    (bs.drop (shard * per)).take per

/-- The layer record of a layer id. -/
def FuncImage.layer (i : FuncImage) (id : Nat) : Option Layer := i.layers.find? fun l => l.layer == id

/-! ### Chunks (R184) -/

inductive ChunkKind where
  | param
  | stats (group : Nat) (left : Bool)
  | root (group : Nat) (left : Bool)
  deriving DecidableEq, Repr, Inhabited

/-- A chunk: its id, and the first block (position in the shard's list) or matrix row it holds, and how many. -/
structure Chunk where
  id : Nat
  layer : Nat
  lshard : Nat
  kind : ChunkKind
  expert : Option Nat
  first : Nat
  num : Nat
  deriving DecidableEq, Repr, Inhabited

/-- Cut `n` consecutive things from `base` on into runs of at most `m`. -/
def runsOf (m base n : Nat) : List (Nat × Nat) :=
  (List.range (ceilDiv n m)).map fun i => (base + i * m, min m (n - i * m))

/-- The chunks of one shard of a layer, without ids. -/
def FuncImage.shardRuns (i : FuncImage) (l : Layer) (shard : Nat) : List (Option Nat × Nat × Nat) :=
  if l.expert then
    match i.expertLayer l.layer with
    | some e =>
      let per := (matsBlocks none (i.mats l)).length
      ((e.ofShard shard).zipIdx).flatMap fun (x, k) => (runsOf 64 (k * per) per).map fun r => (some x, r.1, r.2)
    | none => []
  else (runsOf 64 0 (i.shardBlocks l shard).length).map fun r => (none, r.1, r.2)

/-- A layer's chunks, numbered from FIRST_CHUNK in rising shard. -/
def FuncImage.layerChunks (i : FuncImage) (l : Layer) : List Chunk :=
  let all := (List.range i.job.shards).flatMap fun j => (i.shardRuns l j).map fun r => (j, r)
  all.zipIdx.map fun ((j, x, f, n), k) =>
    { id := l.firstChunk + k, layer := l.layer, lshard := j, kind := .param, expert := x, first := f, num := n }

/-- Orders n_L and n_R of a preconditioner group (R207). -/
def PreGroup.nl (g : PreGroup) : Nat := 64 * g.a
def PreGroup.nr (g : PreGroup) : Nat := 128 * g.b
def PreGroup.order (g : PreGroup) (left : Bool) : Nat := if left then g.nl else g.nr
def PreGroup.has (g : PreGroup) (left : Bool) : Bool := if left then bitOf g.sides 0 else bitOf g.sides 1

/-- A group's matrices in the order in which they are numbered: left statistics, left root, right statistics, right root. -/
def PreGroup.matrices (g : PreGroup) : List (Bool × Bool) :=      -- (left, root)
  [(true, false), (true, true), (false, false), (false, true)].filter fun m => g.has m.1

/-- A group's chunks, numbered from CHUNK0. -/
def PreGroup.chunks (g : PreGroup) (gi : Nat) : List Chunk :=
  let all := g.matrices.flatMap fun m => (runsOf 256 0 (g.order m.1)).map fun r => (m, r)
  all.zipIdx.map fun (((left, root), f, n), k) =>
    { id := g.chunk0 + k, layer := g.layer, lshard := g.lshard, expert := none, first := f, num := n
      kind := if root then .root gi left else .stats gi left }

/-- Every chunk of a function. -/
def FuncImage.chunks (i : FuncImage) : List Chunk :=
  (i.heads.flatMap fun l => i.layerChunks l) ++ (i.precond.zipIdx.flatMap fun (g, k) => g.chunks k)

/-- The chunk with an id. -/
def FuncImage.chunk (i : FuncImage) (id : Nat) : Option Chunk := i.chunks.find? fun c => c.id == id

/-- Whether a member owns a chunk. -/
def FuncImage.ownsChunk (i : FuncImage) (members m : Nat) (c : Chunk) : Bool :=
  (i.job.ownedShards members m).contains c.lshard &&
    (match i.layer c.layer with
     | some l => i.job.ownsStage members m l.stage
     | none => false)

/-- The chunks a member owns, in the image's sweep order: rising CHUNK. -/
def State.ownedChunks (s : State) (fn : Nat) : List Chunk :=
  let i := s.image fn
  i.chunks.filter (i.ownsChunk s.herd.count s.herd.member)

/-! ### Weight-gradient trees (R159) -/

/-- The blocks of a layer in order, with their logical shards and places (R150, R214). -/
def FuncImage.layerBlocks (i : FuncImage) (l : Layer) : List (Nat × Nat × Block) :=
  if l.expert then
    match i.expertLayer l.layer with
    | some e => e.experts.zipIdx.flatMap fun (r, x) =>
      ((i.shardBlocks l r.lshard).zipIdx.filter fun (b, _) => b.expert == some x).map fun (b, k) => (r.lshard, k, b)
    | none => []
  else (List.range i.job.shards).flatMap fun j => (i.shardBlocks l j).zipIdx.map fun (b, k) => (j, k, b)

/-- The block that a weight-gradient tree stands for: the b-th ROLE 1 tree of a layer, in rising TREE, is block b. -/
def FuncImage.treeBlock (i : FuncImage) (tree : Nat) : Option (Layer × Nat × Nat × Block) :=
  match i.trees.find? fun t => t.tree == tree && t.role == 1 with
  | none => none
  | some t =>
    let before := (i.trees.filter fun u => u.role == 1 && u.layer == t.layer && decide (u.tree < tree)).length
    (i.layer t.layer).bind fun l => ((i.layerBlocks l)[before]?).map fun x => (l, x)

/-! ### Regions of the job (R195, R275) -/

/-- Bytes of a parameter entry's parts: weights, moments, factors, correction (R183, R196). -/
def Block.weights (b : Block) : Nat := 2 * (b.rows * b.cols)
def Block.moments (b : Block) : Nat := b.rows * b.cols + b.rows * ceilDiv b.cols 32
def Block.factors (b : Block) : Nat := 4 * (b.rows + b.cols)
def Block.correction (b : Block) : Nat := packedBytes 4 (b.rows * b.cols) + b.rows * ceilDiv b.cols 32

/-- Chunk ids: the lowest and the highest of the function. -/
def FuncImage.chunkRange (i : FuncImage) : Option (Nat × Nat) :=
  match i.chunks with
  | [] => none
  | c :: cs => some (cs.foldl (fun m d => min m d.id) c.id, cs.foldl (fun m d => max m d.id) c.id)

/-- Pages of the chunk state array (R275). -/
def FuncImage.statePages (i : FuncImage) : Nat :=
  match i.chunkRange with
  | none => 0
  | some (lo, hi) => ceilDiv (16 * (hi + 1 - lo)) pageSize

/-- Owned blocks of member `m` in rising (LAYER, block) order, with their layer. -/
def FuncImage.ownedBlocks (i : FuncImage) (members m : Nat) : List (Layer × Nat × Block) :=
  let shards := i.job.ownedShards members m
  (i.heads.filter fun l => i.job.ownsStage members m l.stage).flatMap fun l =>
    shards.flatMap fun j => (i.shardBlocks l j).map fun b => (l, j, b)

/-- Bytes per element of a gradient buffer. -/
def Job.gradBytes (j : Job) : Nat := if j.path = 0 then 2 else 4

/-- Bytes of a gradient buffer. -/
def FuncImage.gradSize (i : FuncImage) (members m : Nat) : Nat :=
  (i.ownedBlocks members m).foldl (fun n (b : Layer × Nat × Block) => n + b.2.2.rows * b.2.2.cols * i.job.gradBytes) 0

/-- The extents of R275 on member `m`: (VPN, pages). -/
def FuncImage.extents (i : FuncImage) (members m : Nat) : List (Nat × Nat) :=
  let j := i.job
  let n := 2 ^ j.log2Nslot
  let g := ceilDiv (i.gradSize members m) pageSize
  [(j.journalVpn, ceilDiv (4096 + n * 96) pageSize + n), (j.ledgerVpn, ceilDiv (2 ^ j.ledgerLog2 * 64) pageSize),
   (j.gbuf0Vpn, g), (j.gbuf1Vpn, g), (j.stateVpn, i.statePages), (j.poolVpn, j.poolSlots * j.slotPages)]

/-- Offsets of the journal (R195). -/
def headerOff (slot : Nat) : Nat := 4096 + slot * 64
def commitOff (nslot slot : Nat) : Nat := 4096 + nslot * 64 + slot * 32
def slotOff (nslot slot : Nat) : Nat := roundUp (4096 + nslot * 96) pageSize + slot * pageSize

/-- NSLOT. -/
def Job.nslot (j : Job) : Nat := 2 ^ j.log2Nslot

/-- The VA of a function's journal. -/
def Job.journalVa (j : Job) : Nat := j.journalVpn * pageSize

/-- The VA of a chunk's state word (R275). -/
def FuncImage.stateVa (i : FuncImage) (chunk : Nat) : Nat :=
  i.job.stateVpn * pageSize + 16 * (chunk - (i.chunkRange.map Prod.fst).getD 0)

/-- A chunk state word (R184). -/
def stateWord (lastgen applied chunk : Nat) : List Byte :=
  let b := leBytes 4 lastgen ++ leBytes 4 applied ++ leBytes 4 chunk
  b ++ leBytes 4 (crc32c b).toNat

/-- Whether 16 bytes are a chunk state word with a good CRC. -/
def stateWordOk (b : List Byte) : Bool := decide (leAt b 12 4 = (crc32c (slice b 0 12)).toNat)

/-- Whether the commit record of a slot is valid (R197). -/
def State.commitValid (s : State) (fn slot : Nat) : Bool :=
  let j := (s.image fn).job
  let h := s.readVA fn (j.journalVa + headerOff slot) 64
  let r := s.readVA fn (j.journalVa + commitOff j.nslot slot) 32
  decide (leAt r 28 4 = (crc32c (slice r 0 28)).toNat ∧ leAt r 0 4 = leAt h 0 4 ∧ leAt r 4 4 = leAt h 4 4 ∧
    leAt r 8 4 = slot ∧ leAt r 12 4 = leAt h 28 4)

/-! ### Home state (R183, R215) -/

/-- Bytes of one block's state of kind 0, 1 or 2; kind 4 stands for the correction part of kind 2. -/
def Block.size (b : Block) (kind : Nat) : Nat :=
  if kind = 0 then b.weights else if kind = 1 then b.moments else if kind = 2 then b.factors else b.correction

/-- Bytes of a list of blocks' state of one kind. -/
def blocksSize (kind : Nat) (bs : List Block) : Nat := bs.foldl (fun n b => n + b.size kind) 0

/-- The VA of an expert's home weights (R217). -/
def FuncImage.expertHome (i : FuncImage) (layer expert : Nat) : Option Nat :=
  match i.expertLayer layer with
  | some e => (e.experts[expert]?).map fun x => x.homeVpn * pageSize
  | none => none

/-- Whether an expert is parked (R215). -/
def FuncImage.expertParked (i : FuncImage) (layer expert : Nat) : Bool :=
  ((i.expertLayer layer).bind fun e => e.experts[expert]?).any ExpertRec.parked

/-- Where the home state of one kind (0 to 2) of a block lies: weights of an expert at its home pages; the other state of a
parked expert in companion pages of its own (R215); all else in the region of its (kind, LAYER, LSHARD). The answer is the
base VA and the shard's blocks that lie from there on. -/
def FuncImage.homeRegion (i : FuncImage) (kind : Nat) (l : Layer) (shard : Nat) (expert : Option Nat) : Nat × List Block :=
  let bs := i.shardBlocks l shard
  let parked (b : Block) : Bool := b.expert.any (i.expertParked l.layer)
  let region := (Config.homePlace i.digest kind l.layer shard, bs.filter fun b => !parked b)
  match expert with
  | none => region
  | some x =>
    if kind = 0 then ((i.expertHome l.layer x).getD 0, bs.filter fun b => b.expert == some x)
    else if i.expertParked l.layer x then
      (Config.parkedPlace i.digest kind l.layer x, bs.filter fun b => b.expert == some x)
    else region

/-- Where a run of blocks of one chunk lies, by kind, as (VA, bytes): kind 2 regions hold every block's factors, then every
block's correction, which is kind 4 here (R183). `first` counts in the shard's blocks. -/
def FuncImage.homeRun (i : FuncImage) (kind : Nat) (l : Layer) (c : Chunk) : Nat × Nat :=
  let bs := i.shardBlocks l c.lshard
  let run := (bs.drop c.first).take c.num
  let (base, own) := i.homeRegion (if kind = 4 then 2 else kind) l c.lshard c.expert
  let before := (bs.take c.first).filter own.contains
  (base + blocksSize kind before + (if kind = 4 then blocksSize 2 own else 0), blocksSize kind run)

/-- Bytes of a region of one kind that holds `bs`. -/
def regionSize (kind : Nat) (corr : Bool) (bs : List Block) : Nat :=
  blocksSize kind bs + (if kind = 2 ∧ corr then blocksSize 4 bs else 0)

/-- The regions of (kind, LAYER, LSHARD) in block order, kinds 0 to 2, as (VA, bytes). -/
def FuncImage.home (i : FuncImage) (kind : Nat) (l : Layer) (shard : Nat) : List (Nat × Nat) :=
  let experts := ((i.shardBlocks l shard).map Block.expert).eraseDups
  (experts.map fun x =>
    let (va, bs) := i.homeRegion kind l shard x
    (va, regionSize kind l.corr bs)).eraseDups

/-- The pages beside its weights that a parked expert's state takes, as (VA, bytes) (R215). -/
def FuncImage.parkedState (i : FuncImage) (l : Layer) (x : Nat) : List (Nat × Nat) :=
  [1, 2].map fun k => (Config.parkedPlace i.digest k l.layer x, regionSize k l.corr (matsBlocks (some x) (i.mats l)))

/-- The groups of a (LAYER, LSHARD), with their indices. -/
def FuncImage.groupsOf (i : FuncImage) (layer shard : Nat) : List (Nat × PreGroup) :=
  (i.precond.zipIdx.filter fun (g, _) => g.layer == layer && g.lshard == shard).map fun (g, k) => (k, g)

/-- Bytes of a group's kind 3 state: its matrices, then 16 bytes of group state (R207). -/
def PreGroup.size (g : PreGroup) : Nat := (g.matrices.foldl (fun n m => n + 4 * (g.order m.1 * g.order m.1)) 0) + 16

/-- The VA of a group's matrix. -/
def FuncImage.matrixVa (i : FuncImage) (gi : Nat) (left root : Bool) : Nat :=
  match i.precond[gi]? with
  | none => 0
  | some g =>
    let before := (i.groupsOf g.layer g.lshard).filter fun x => decide (x.1 < gi)
    let base := Config.homePlace i.digest 3 g.layer g.lshard + before.foldl (fun n x => n + x.2.size) 0
    let ms := g.matrices.takeWhile fun m => m != (left, root)
    base + ms.foldl (fun n m => n + 4 * (g.order m.1 * g.order m.1)) 0

/-- The VA of a group's 16-byte state. -/
def FuncImage.groupStateVa (i : FuncImage) (gi : Nat) : Nat :=
  match i.precond[gi]? with
  | none => 0
  | some g =>
    let before := (i.groupsOf g.layer g.lshard).filter fun x => decide (x.1 < gi)
    Config.homePlace i.digest 3 g.layer g.lshard + before.foldl (fun n x => n + x.2.size) 0 + g.size - 16

/-- Every home state region of a function on this member, as VA ranges. -/
def State.homeRanges (s : State) (fn : Nat) : List (Nat × Nat) :=
  let i := s.image fn
  let m := s.herd.member
  let shards := i.job.ownedShards s.herd.count m
  (i.heads.filter fun l => i.job.ownsStage s.herd.count m l.stage).flatMap fun l => shards.flatMap fun j =>
    [0, 1, 2].flatMap (fun k => i.home k l j) ++
      [(Config.homePlace i.digest 3 l.layer j, (i.groupsOf l.layer j).foldl (fun n x => n + x.2.size) 0)] ++
      (match i.expertLayer l.layer with
       | some e => (e.ofShard j).filterMap fun x => (e.experts[x]?).map fun r => (r.homeVpn * pageSize, r.npage * pageSize)
       | none => [])

end Sys2Proof.Machine
end

