-- ==== Sys2Proof/Machine/Nv.lean ====
section
/-! DEFINITION. Non-volatile storage (R288 to R294, R308): the image library's blocks, writes, deletions, and the
retirement list kept there. -/
namespace Sys2Proof.Machine

/-- Blocks of the image library (R288). -/
def libBlocks : Nat := 215

/-- The library id of the retirement list (R308). -/
def retId : Nat := 0xFFFFFFFF

/-! ### Commit records (R289) -/

def nvMagic : Nat := 0x5243564E

/-- The commit record of a write: slot code, SEQ, library entry id (else 0) and content. -/
def nvRecord (slot seq entry : Nat) (content : List Byte) : List Byte :=
  let b := leBytes 4 nvMagic ++ leBytes 1 slot ++ zeros 3 ++ leBytes 4 seq ++ leBytes 4 content.length ++
    leBytes 4 (crc32c content).toNat ++ leBytes 4 entry ++ (sha384 content).take 32 ++ zeros 4
  b ++ leBytes 4 (crc32c b).toNat

/-- SEQ and ENTRY of a record. -/
def recSeq (r : List Byte) : Nat := leAt r 8 4
def recEntry (r : List Byte) : Nat := leAt r 20 4

/-- Whether a slot or entry is valid: MAGIC, SLOT and RCRC, and content that matches LENGTH, CCRC and DIGEST. -/
def nvValid (slot : Nat) (content record : List Byte) : Bool :=
  record.length == 64 && leAt record 0 4 == nvMagic && leAt record 4 1 == slot &&
    leAt record 60 4 == (crc32c (slice record 0 60)).toNat && leAt record 12 4 == content.length &&
    leAt record 16 4 == (crc32c content).toNat && slice record 24 32 == (sha384 content).take 32

/-! ### The image library (R288, R290) -/

/-- Blocks an entry of `len` content bytes takes with its commit record (R289). -/
def nvBlocks (len : Nat) : Nat := ceilDiv (roundUp len 4096 + 64) 0x200000

/-- The valid entries; a run without a valid commit record is a target that the next write erases (R291). -/
def Nv.entries (v : Nv) : List NvEntry := v.library.filter fun e => nvValid 5 e.content e.record

/-- Whether an entry lies on block `b`. -/
def NvEntry.has (e : NvEntry) (b : Nat) : Bool := decide (e.block ≤ b ∧ b < e.block + e.blocks)

/-- Whether block `b` is free. -/
def Nv.blockFree (v : Nv) (b : Nat) : Bool := decide (b < libBlocks) && !(v.entries.any fun e => e.has b)

/-- The first free run of `n` blocks (R290). -/
def Nv.freeRun (v : Nv) (n : Nat) : Option Nat :=
  (List.range libBlocks).find? fun b => (List.range n).all fun i => v.blockFree (b + i)

/-- Free blocks (NVS_SLOTSTAT.LIBFREE). -/
def Nv.free (v : Nv) : Nat := ((List.range libBlocks).filter v.blockFree).length

/-- The SEQ of the next library write (R290). -/
def Nv.nextSeq (v : Nv) : Nat := v.entries.foldl (fun m e => max m (recSeq e.record)) 0 + 1

/-- Write an entry in the first free run, if there is one and a SEQ is left: the run is erased, and a write that fails or is cut
short leaves no commit record (R290 to R292). The answer names the run's first block. -/
def Nv.writeEntry (v : Nv) (id : Nat) (content : List Byte) (how : NvEnd) : Option (Nv × Nat) :=
  let n := nvBlocks content.length
  match v.freeRun n with
  | none => none
  | some b =>
    if v.nextSeq = 0xFFFFFFFF then none
    else
      let kept := v.library.filter fun e => nvValid 5 e.content e.record || !overlap e.block e.blocks b n
      some ({ v with library := kept ++ [{ block := b, blocks := n, content := content
                                           record := if how = .done then nvRecord 5 v.nextSeq id content else [] }] }, b)

/-- How a write or an erase of the library ends for which no operand says it: a free value. -/
def State.drawEnd (s : State) : State × NvEnd :=
  let (s, k) := s.draw
  (s, match Config.nvEnds k % 3 with
    | 0 => .done
    | 1 => .fails
    | _ => .cut)

/-- The valid library entry with an id. -/
def Nv.entry (v : Nv) (id : Nat) : Option NvEntry := v.entries.find? fun e => recEntry e.record == id

/-- Delete an entry: its commit record is erased first. -/
def Nv.remove (v : Nv) (id : Nat) : Nv :=
  { v with library := v.library.filter fun e => !(nvValid 5 e.content e.record && recEntry e.record == id) }

/-- Offset in the NV storage of a library block (R288). -/
def blockOffset (b : Nat) : Nat := 0x05200000 + b * 0x200000

/-! ### A/B pairs (R287, R290) -/

/-- What a slot holds: 1 firmware A, 2 firmware B, 3 settings A, 4 settings B. -/
def Nv.slot (v : Nv) (k : Nat) : Option NvCopy :=
  if k = 1 then v.fwA else if k = 2 then v.fwB else if k = 3 then v.setA else v.setB

def Nv.setSlot (v : Nv) (k : Nat) (c : Option NvCopy) : Nv :=
  if k = 1 then { v with fwA := c } else if k = 2 then { v with fwB := c }
  else if k = 3 then { v with setA := c } else { v with setB := c }

/-- The copy in a slot if it is valid: a settings copy that failed its signature at power-up is not (R287). -/
def Nv.copy (v : Nv) (k : Nat) : Option NvCopy :=
  (v.slot k).filter fun c => nvValid k c.content c.record && !v.rejected.contains k

/-- SEQ of a copy; 0 for none. -/
def copySeq (c : Option NvCopy) : Nat := (c.map fun x => recSeq x.record).getD 0

/-- The slot that a write of a pair (from slot `k`) goes to: an invalid copy, or else the one with the lower SEQ (R290). -/
def Nv.pairTarget (v : Nv) (k : Nat) : Nat :=
  match v.copy k, v.copy (k + 1) with
  | none, _ => k
  | some _, none => k + 1
  | some x, some y => if recSeq y.record < recSeq x.record then k + 1 else k

/-- The SEQ a pair write takes. -/
def Nv.pairSeq (v : Nv) (k : Nat) : Nat := max (copySeq (v.copy k)) (copySeq (v.copy (k + 1))) + 1

/-- The slots of a pair that hold valid copies, the one in use first. -/
def Nv.pairOrder (v : Nv) (k : Nat) : List (Nat × List Byte) :=
  let x := ((v.copy k).map fun c => (k, c.content)).toList
  let y := ((v.copy (k + 1)).map fun c => (k + 1, c.content)).toList
  if copySeq (v.copy k) < copySeq (v.copy (k + 1)) then y ++ x else x ++ y

/-- Write a copy into a slot: one that fails or is cut short leaves no commit record. -/
def Nv.writeCopy (v : Nv) (k seq : Nat) (content : List Byte) (how : NvEnd) : Nv :=
  { v.setSlot k (some { content := content, record := if how = .done then nvRecord k seq 0 content else [] }) with
    rejected := v.rejected.filter fun x => x != k }

/-- Offset in the NV storage of a slot (R288). -/
def slotOffset (k : Nat) : Nat :=
  if k = 1 then 0x01000000 else if k = 2 then 0x03000000 else if k = 3 then 0x05000000 else 0x05100000

/-- A write of NV storage that fails (R292): NV_ERROR with the slot and the offset of its target. -/
def State.nvError (s : State) (slot off : Nat) : State := s.report { code := eNv, cls := clsCommand, a := slot, b := off }

/-! ### The retirement list (R308) -/

/-- Pages that are SUSPECT or RETIRED, as records of the list. -/
def State.retRecords (s : State) : List (Nat × Page) :=
  s.pages.filter fun e => e.2.health != .good

/-- The content of the retirement list entry. -/
def State.retContent (s : State) : List Byte :=
  leBytes 4 0x54455248 ++ leBytes 4 s.retRecords.length ++ zeros 8 ++
    s.retRecords.flatMap fun e =>
      leBytes 4 e.1 ++ leBytes 1 (if e.2.health = .suspect then 1 else 2) ++ leBytes 1 (min e.2.ues 255) ++ zeros 2

/-- The records that a retirement list holds: page, state and UE count. -/
def retParse (c : List Byte) : List (Nat × PageHealth × Nat) :=
  if leAt c 0 4 ≠ 0x54455248 then []
  else (List.range (leAt c 4 4)).map fun i =>
    let o := 16 + 8 * i
    (leAt c o 4 % 2 ^ 27, if leAt c (o + 4) 1 = 1 then .suspect else .retired, leAt c (o + 5) 1)

/-- What the write of the list answers, `wrote` what the write made of the library: where the library has no room, or the write
`failed`, LISTERR and an NV error (R292, R308). -/
def State.listWritten (s : State) (failed : Bool) (wrote : Option (Nv × Nat)) : State :=
  match wrote with
  | some (v, b) =>
    if failed then { s with nv := { v with listErr := true } }.nvError 5 (blockOffset b)
    else
      { s with nv := { v with
          listErr := false
          library := v.library.filter fun e => recEntry e.record != retId || e.block == b } }
  | none => { s with nv := { s.nv with listErr := true } }.nvError 5 0

/-- Write a new copy of the list after a change of state (R308). -/
def State.writeRetList (s : State) : State :=
  let (s, k) := s.draw
  let failed := Config.listWriteFails k
  s.listWritten failed (s.nv.writeEntry retId s.retContent (if failed then .fails else .done))

/-- NVS_SLOTSTAT as firmware last found the slots (R294). -/
def State.slotStat (s : State) : Nat :=
  let v := s.nv
  if !v.found then 0
  else
    fieldAt 24 v.free + fieldAt 16 (v.entries.filter fun e => recEntry e.record != retId).length +
      fieldAt 7 (b2n v.setActiveB) + fieldAt 6 (b2n (v.copy 4).isSome) + fieldAt 5 (b2n (v.copy 3).isSome) +
      fieldAt 4 (b2n v.fwActiveB) + fieldAt 3 (b2n (v.copy 2).isSome) + fieldAt 2 (b2n (v.copy 1).isSome) +
      b2n Config.factoryValid

end Sys2Proof.Machine
end

