-- ==== Sys2Proof/Machine/Ert.lean ====
section
/-! DEFINITION. The expert residency table and the copy pool (R217, R226 to R235): entries of a function, pool slots, and
the start and end of fetches. -/
namespace Sys2Proof.Machine

/-- The entry of expert `e` of a layer (R217). -/
def FuncImage.ertOf (i : FuncImage) (layer e : Nat) : Option Nat := (i.expertLayer layer).map fun l => l.ertBase + e

/-- The ERT entries of a function, rising. -/
def FuncImage.ertEntries (i : FuncImage) : List Nat :=
  i.experts.flatMap fun l => (List.range l.experts.length).map fun e => l.ertBase + e

/-- The entries of a function that are in use and in which member-owned experts stand. -/
def State.entriesOf (s : State) (fn : Nat) : List (Nat × ErtEntry) :=
  s.ert.filter fun e => e.2.valid && e.2.func == fn

/-- Parked experts that one logical shard holds in one layer, at most; with PREF_MAX the slots R218 requires. -/
def FuncImage.poolNeed (i : FuncImage) : Nat :=
  i.job.prefMax + (i.experts.foldl (fun n l =>
    (List.range i.job.shards).foldl (fun n j =>
      max n (l.experts.filter fun x => x.lshard == j && x.parked).length) n) 0)

/-- Slots of the pool that hold something: a copy, a prefetch or a fetch. -/
def State.slotsUsed (s : State) (fn : Nat) : List Nat :=
  let f := s.func fn
  ((s.entriesOf fn).filterMap fun e => if e.2.copy ≠ 0 then some e.2.slot else none) ++
    f.prefetches.map Prefetch.slot ++ f.fetches.map Fetch.slot

/-- The lowest free slot of the pool. -/
def State.freeSlot (s : State) (fn : Nat) : Option Nat :=
  let f := s.func fn
  let used := s.slotsUsed fn
  (List.range f.poolSlots).find? fun k => !used.contains k && !f.slotsGone.contains k

/-- The entry whose copy gives up its slot (R232): the VALID copy of lowest HEAT that is not needed, ties to the lowest
entry index. -/
def State.victim (s : State) (fn : Nat) (needed : Nat → Bool) : Option Nat :=
  let cs := (s.entriesOf fn).filter fun e => e.2.copy == 2 && !needed e.1
  (cs.foldl (fun (b : Option (Nat × Nat)) e =>
    match b with
    | none => some (e.1, e.2.heat)
    | some (_, h) => if e.2.heat < h then some (e.1, e.2.heat) else b) none).map Prod.fst

/-- Take a slot: a free one, or that of a victim, whose COPY becomes NONE. -/
def State.takeSlot (s : State) (fn : Nat) (needed : Nat → Bool) : Option (Nat × State) :=
  match s.freeSlot fn with
  | some k => some (k, s)
  | none =>
    match s.victim fn needed with
    | none => none
    | some v =>
      let e := s.ertEntry v
      some (e.slot, s.setErt v { e with copy := 0 })

/-- Whether an entry has a kept row in the present micro-batch of its layer. -/
def State.keptRow (s : State) (fn x : Nat) : Bool :=
  let e := s.ertEntry x
  (s.func fn).dispatch.any fun d => d.layer == e.layer && d.expert == e.expert && decide (0 < d.kept)

/-- Whether the micro-batch of a layer needs an entry. -/
def State.needed (s : State) (fn layer x : Nat) : Bool := (s.ertEntry x).layer == layer && s.keptRow fn x

/-- Start a demand fetch of an entry (R234): its COPY becomes FILLING in a slot. Without a slot the copy stays NONE. -/
def State.demandFetch (s : State) (fn x : Nat) : State :=
  match s.takeSlot fn (s.needed fn (s.ertEntry x).layer) with
  | none => s.setErt x { s.ertEntry x with copy := 0 }
  | some (k, s) =>
    let s := s.setErt x { s.ertEntry x with copy := 1, slot := k }
    s.onFunc fn fun f => { f with
      xDemand := satAdd 32 f.xDemand 1
      fetches := f.fetches ++ [{ entry := x, slot := k, lastgen := f.gen, demand := true }] }

/-- The VA of a pool slot. -/
def State.slotVa (s : State) (fn k : Nat) : Nat := ((s.func fn).poolVpn + k * (s.func fn).slotPages) * pageSize

/-- Withdraw a slot of the copy pool (R226): a copy in it is given up; with fewer slots than R218 requires, the job stops
as for a module-loss fault. -/
def State.withdrawSlot (s : State) (fn k : Nat) : State :=
  let s := (s.entriesOf fn).foldl (fun s e => if e.2.copy ≠ 0 ∧ e.2.slot = k then s.setErt e.1 { e.2 with copy := 0 } else s) s
  let s := s.onFunc fn fun f => { f with
    slotsGone := if f.slotsGone.contains k then f.slotsGone else f.slotsGone ++ [k]
    prefetches := f.prefetches.filter fun p => p.slot != k
    fetches := f.fetches.filter fun p => p.slot != k }
  let f := s.func fn
  if f.poolSlots - f.slotsGone.length < (s.image fn).poolNeed then s.drain fn else s

end Sys2Proof.Machine
end

