-- ==== Sys2Proof/Machine/Hbm.lean ====
section
/-! DEFINITION. Memory errors and their handling (R302 to R310, R441 to R443), page retirement (R307), failed stacks (R306),
stalled tiles (R28), and the coherence bias of companion pages (R311 to R313). -/
namespace Sys2Proof.Machine

/-- Set a bit of a function's vote for the step (R168). -/
def State.voteBit (s : State) (fn bit : Nat) : State :=
  s.onFunc fn fun f => { f with voteBits := f.voteBits ||| BitVec.ofNat 8 (2 ^ bit) }

def voteNonfin : Nat := 0
def voteNorm : Nat := 1
def voteSkew : Nat := 2
def voteGen : Nat := 3
def voteFault : Nat := 4

/-- The VPN at which a function maps a page frame. -/
def State.vpnOf (s : State) (fn pfn : Nat) : Option Nat :=
  ((s.func fn).table.find? fun e => e.2.valid && e.2.pfn.toNat == pfn).map Prod.fst

/-- The function and VPN that map a page frame. -/
def State.mapping (s : State) (pfn : Nat) : Option (Nat × Nat) :=
  funcIds.findSome? fun n => (s.vpnOf n pfn).map fun v => (n, v)

/-- The row of R305 for a VA of a function: 1 the copy pool, 2 uncommitted journal or the gradient buffer of the step under
way, 3 anything else that is mapped. -/
def State.ueRow (s : State) (fn va : Nat) : Nat :=
  let i := s.image fn
  let j := i.job
  let page := va / pageSize
  let inside (v n : Nat) : Bool := decide (v ≤ page ∧ page < v + n)
  let o := va - j.journalVa
  let g := ceilDiv (i.gradSize s.herd.count s.herd.member) pageSize
  if inside j.poolVpn (j.poolSlots * j.slotPages) then 1
  else if inside j.journalVpn (slotOff j.nslot j.nslot / pageSize) then
    let slot :=
      if o < 4096 then none
      else if o < 4096 + j.nslot * 64 then some ((o - 4096) / 64)
      else if o < 4096 + j.nslot * 96 then some ((o - 4096 - j.nslot * 64) / 32)
      else if slotOff j.nslot 0 ≤ o then some ((o - slotOff j.nslot 0) / pageSize)
      else none
    match slot with
    | some k => if s.commitValid fn k then 3 else 2
    | none => 3
  else if inside (if (s.func fn).step.toNat % 2 = 0 then j.gbuf0Vpn else j.gbuf1Vpn) g then 2
  else 3

/-- A control-core restart becomes due (R409). -/
def State.askRestart (s : State) (cause : Nat) : State :=
  { s with boot := { s.boot with restart := s.boot.restart <|> some cause } }

/-- Take the module's side of rows 1 to 3 of R305. -/
def State.takeRow (s : State) (fn va row : Nat) : State :=
  if row = 1 then
    let f := s.func fn
    let k := (va / pageSize - f.poolVpn) / max 1 f.slotPages
    match (s.entriesOf fn).find? fun e => e.2.copy != 0 && e.2.slot == k with
    | some (x, e) => (s.setErt x { e with copy := 0 }).demandFetch fn x
    | none => s
  else if row = 2 then s.voteBit fn voteFault
  else s.drain fn

/-- Retire a page (R307): report it, and withdraw it where it may be withdrawn now. -/
def State.retirePage (s : State) (p : Nat) : State :=
  let s := s.setPage p { s.page p with health := .retired }
  let s := s.report { code := ePageRetired, cls := clsNotice, unit := p / 32768, a := p % 32768 }
  match (s.page p).use with
  | .free => s.setPage p { s.page p with withdrawn := true }
  | .firmware => s
  | .descriptor fn => s.onFunc fn fun f => { f with stopAtBoundary := if f.run || f.armed || f.halted then 3 else f.stopAtBoundary }
  | .mapped fn =>
    match s.vpnOf fn p with
    | some v =>
      let f := s.func fn
      if f.poolVpn ≤ v ∧ v < f.poolVpn + f.poolSlots * f.slotPages then s.withdrawSlot fn ((v - f.poolVpn) / max 1 f.slotPages)
      else s.onFunc fn fun f => { f with stopAtBoundary := if f.run || f.armed || f.halted then 3 else f.stopAtBoundary }
    | none => s

/-- Advance a page's retirement state after a UE (R307), and keep the list (R308). -/
def State.advancePage (s : State) (p : Nat) : State :=
  let g := s.page p
  let s := s.setPage p { g with ues := satAdd 8 g.ues 1 }
  match g.health with
  | .good => (s.setPage p { s.page p with health := .suspect }).writeRetList
  | .suspect => (s.retirePage p).writeRetList
  | .retired => s

/-- Count an HBM UE in CD_HBMSTATp and, unless it holds one, record it in CD_ECCLOG (R305, R317). -/
def State.countUE (s : State) (line : Nat) (patrol : Bool) : State :=
  let p := line / pageSize
  let k := p / 32768
  let s := s.setStack k { s.stack k with ue := satAdd 16 (s.stack k).ue 1 }
  let d := s.die (k / 3)
  let fn := match (s.page p).use with
    | .mapped f => some f
    | .descriptor f => some f
    | _ => none
  if d.eccValid then s
  else s.setDie (k / 3) { d with
    eccValid := true, eccPatrol := patrol, eccMapped := fn.isSome, eccFunc := fn.getD 0, eccLine := line / 64 * 64 }

/-- A page that a scrub or the self-test cannot read back holds an uncorrectable error (R307, R317): it is counted, and
CD_ECCLOG records a line of it, which one being free (assumption 79). -/
def State.logMismatch (s : State) (p : Nat) : State :=
  let (s, k) := s.draw
  s.countUE (p * pageSize + Config.badLine k % 32768 * 64) true

/-- The queue whose descriptor a line of a descriptor page holds (R329): 64 bytes each in rising queue id. -/
def State.descQueue (s : State) (fn line : Nat) : Option Nat :=
  match (s.descPages fn).findIdx? fun p => p == line / pageSize with
  | some k => some ((s.image fn).qfirst * 512 + (k * pageSize + line % pageSize) / 64)
  | none => none

/-- An uncorrectable error on a read of an HBM line (R305): poison, the row's handling, the record, and the page's
retirement state. -/
def State.hbmUE (s : State) (a : Nat) : State :=
  let line := a / 64 * 64
  let p := line / pageSize
  let s := (s.addPoison line).countUE line false
  let rep (row cls : Nat) (fn : Option Nat) (loss : Bool) : Report :=
    { code := eHbmUE, cls := cls, func := fn, unit := p / 32768, a := line, b := row, loss := loss }
  let s : State := match (s.page p).use with
    | .free => s.report (rep 5 clsNotice none false)
    | .firmware =>
      let s := s.report (rep 4 clsFirmware none false)
      let s := funcIds.foldl (fun (s : State) n => if (s.func n).run || (s.func n).armed then s.drain n else s) s
      s.askRestart 8
    | .descriptor fn =>
      let s := s.report (rep 6 clsRecovered (some fn) false)
      match s.descQueue fn line with
      | some q => if (s.queue q).state = .idle then s
                  else s.onQueue q fun v => { v with state := .haltedError, err := stDataError }
      | none => s
    | .mapped fn =>
      match s.vpnOf fn p with
      | some v =>
        let va := v * pageSize + line % pageSize
        let row := s.ueRow fn va
        (s.report (rep row (if row = 3 then clsFunction else clsRecovered) (some fn) (row == 3))).takeRow fn va row
      | none => s
  s.advancePage p

/-- An uncorrectable error on a companion page of a function (R236, R305, R310). `le` is LAYER and EXPERT where a demand
fetch met it, whose home is then lost: the job stops. -/
def State.companionUE (s : State) (a : Nat) (le : Option (Nat × Nat)) : State :=
  let line := a / 64 * 64
  let s := s.addPoison line
  match s.mapping (line / pageSize) with
  | none => s
  | some (fn, v) =>
    let va := v * pageSize + line % pageSize
    let row := if le.isSome then 3 else s.ueRow fn va
    let s := s.report { code := eCompanionUE, cls := if row = 3 then clsFunction else clsRecovered, func := some fn
                        a := line / pageSize * pageSize
                        b := match le with | some (l, e) => pair l e | none => 0 }
    s.takeRow fn va row

/-- A corrected HBM error (R303). -/
def State.hbmCE (s : State) (a : Nat) : State :=
  let k := a / pageSize / 32768
  s.setStack k { s.stack k with ce := satAdd 16 (s.stack k).ce 1 }

/-- A corrected SRAM error, on staging SRAM or tile SRAM (R441). -/
def State.sramCE (s : State) (a : Nat) : State :=
  match s.region a with
  | .staging d _ => s.setDie d { s.die d with sramCE := satAdd 16 (s.die d).sramCE 1 }
  | .tileSram t _ => s.onTile t fun x => { x with eccCE := satAdd 16 x.eccCE 1 }
  | _ => s

/-- An uncorrectable SRAM error met by a mule of function `fn` (R443). -/
def State.sramUE (s : State) (fn a : Nat) : State :=
  let s := s.addPoison a
  match s.region a with
  | .staging d _ =>
    let s := s.setDie d { s.die d with sramUE := satAdd 16 (s.die d).sramUE 1 }
    (s.report { code := eSramUE, cls := clsFunction, func := some fn, unit := d, a := poisonOf a, loss := true }).drain fn
  | .tileSram t _ =>
    let suspect := (s.tile t).eccSuspect
    let s := s.onTile t fun x => { x with eccSuspect := true, eccUE := satAdd 15 x.eccUE 1 }
    let s := (s.report { code := eSramUE, cls := clsFunction, func := some fn, unit := t, a := poisonOf a, loss := true }).drain fn
    if suspect then s.retireTile t else s
  | _ => s

/-- Deal with a poisoned unit that a mule of a function reads. -/
def State.muleMeets (s : State) (fn a : Nat) : State :=
  match s.region a with
  | .hbm _ => s.hbmUE a
  | .companion _ => s.companionUE a none
  | _ => s.sramUE fn a

/-- Deal with the poisoned units that writes of ranges cover only in part, and so read first (R302, R440). -/
def State.meetEdges (s : State) (fn : Nat) (rs : List (Nat × Nat)) : State :=
  (rs.flatMap fun r => s.poison.filter fun p => decide (p < r.1 + r.2 ∧ r.1 < p + poisonUnit p ∧ 0 < r.2) &&
    !decide (r.1 ≤ p ∧ p + poisonUnit p ≤ r.1 + r.2)).foldl (fun (s : State) a => s.muleMeets fn a) s

/-- An uncorrectable error in an ERT entry (R443): the jobs of the entry's function stop. -/
def State.ertUE (s : State) (x : Nat) : State :=
  let e := s.ertEntry x
  if e.valid then
    (s.report { code := eSramUE, cls := clsFunction, func := some e.func, unit := 0, a := 0, loss := true }).drain e.func
  else s

/-- ENTRY_FETCH (R332): a hub mule reads the entry at HEAD. Where the read of the queue's descriptor or of a firmware page
meets an uncorrectable error (R305), that is dealt with first, and a queue whose own descriptor is lost fetches nothing. -/
def execEntryFetch (q : Nat) (data : HostData) (upset : Upset) (s : State) : Answer :=
  if queueCount ≤ q then .fault (.absent "queue" q)
  else if !entryData data then s.noEvent "R330: an entry is 64 bytes"
  else
    let fetch (s : State) : Answer :=
      if s.fetchReady q && !(s.queue q).stale then .next (s.judgeEntry q data) else .next s
    let lost := (s.descLine q).filter fun a => s.poison.contains (a / 64 * 64) && s.fetchReady q
    -- an upset of another place is not met
    let readsHbm (a : Nat) : Bool := match s.region a, (s.page (a / pageSize)).use with
      | .hbm _, .descriptor _ => true
      | .hbm _, .firmware => true
      | _, _ => false
    let s := (lost.map s.hbmUE).getD s
    match upset with
    | .hbmUE a => fetch (if readsHbm a then s.hbmUE a else s)
    | .hbmCE a => fetch (if readsHbm a then s.hbmCE a else s)
    | _ => fetch s

/-! ### The patrol, corrections and failed stacks -/

/-- Whether an address lies in a working stack's window. -/
def State.inStack (s : State) (a : Nat) : Bool :=
  decide (a < 0xC000000000) && s.stackFitted (a / pageSize / 32768) && !(s.stack (a / pageSize / 32768)).failed

/-- CE_WRITEBACK (R303): the corrected line is written back in an idle cycle; its data do not change. -/
def execCeWriteback (dpa : Nat) (s : State) : Answer :=
  if s.inStack dpa then .next s else .fault (.absent "HBM line" dpa)

/-- End a patrol pass of a die. -/
def State.endPass (s : State) (d : Nat) : State :=
  s.setDie d { s.die d with patrolSlow := false, patrolPasses := ((s.die d).patrolPasses + 1) % 2 ^ 31 }

/-- PATROL_READ (R304): a line is read in an idle cycle; a UE is marked poison in place and the page's state advances. -/
def execPatrolRead (dpa : Nat) (upset : Upset) (lastOfPass : Bool) (s : State) : Answer :=
  if !s.inStack dpa then .fault (.absent "HBM line" dpa)
  else
    let line := dpa / 64 * 64
    let p := line / pageSize
    let done (s : State) : Answer := .next (if lastOfPass then s.endPass (p / 32768 / 3) else s)
    match upset with
    | .none => done s
    | .hbmCE _ => done (s.hbmCE line)
    | .hbmUE _ =>
      if s.poison.contains line then done s
      else
        let s := (s.addPoison line).countUE line true
        let s := if (s.page p).use = .free then
          s.report { code := eHbmUE, cls := clsNotice, unit := p / 32768, a := line, b := 5 } else s
        done (s.advancePage p)
    | _ => done s

/-- PATROL_SLOW (R304). -/
def execPatrolSlow (die : Nat) (s : State) : Answer :=
  if s.dieFitted die then .next (s.setDie die { s.die die with patrolSlow := true }) else .fault (.absent "compute die" die)

/-- The functions that hold a page of a stack. -/
def State.stackUsers (s : State) (k : Nat) : List Nat :=
  funcIds.filter fun n => s.pages.any fun e =>
    e.1 / 32768 == k && (e.2.use == .mapped n || e.2.use == .descriptor n)

/-- A stack fails (R306). -/
def State.failStack (s : State) (k : Nat) : State :=
  let fs := if k = 0 then funcIds else s.stackUsers k
  let s := s.setStack k { s.stack k with failed := true }
  let s := s.report { code := eStackFailed, cls := clsFunction, unit := k, loss := true }
  fs.foldl (fun s n => s.drain n) s

/-- STACK_FAILED (R306). -/
def execStackFailed (stack : Nat) (s : State) : Answer :=
  if !s.stackFitted stack then .fault (.absent "stack" stack)
  else if (s.stack stack).failed then s.noEvent "R306: the stack has failed already"
  else .next (s.failStack stack)

/-- Whether a sequencer holds an instruction that is able to proceed (R28): one is left to issue, nothing halts or stops it, and
an engine of the tile is its function's in the present slot (R36). -/
def State.seqCanProceed (s : State) (t e : Nat) (q : Sequencer) : Bool :=
  let fn := (tget {} (s.tile t).part e).func.toNat
  q.active && decide (0 < q.left) && !q.halted && !q.stopped && (s.engGranted .me t fn || s.engGranted .ve t fn)

/-- TILE_STALL (R28): the bridge stops issuing to the tile, and the functions with a share on it stop (R438). -/
def execTileStall (tile : Nat) (s : State) : Answer :=
  if !s.tileFitted tile then .fault (.absent "tile" tile)
  else
    let x := s.tile tile
    if x.stalled then s.noEvent "R28: the tile is stalled already"
    else if x.seqs.any (fun e => s.seqCanProceed tile e.1 e.2) then
      let fs := x.funcs
      let s := s.onTile tile fun x => { x with stalled := true }
      let s := s.report { code := eTileStall, cls := clsFunction, unit := tile, loss := true
                          a := fs.foldl (fun (m : BitVec 16) f => m ||| BitVec.ofNat 16 (2 ^ f)) 0 |>.toNat }
      .next (fs.foldl (fun s n => s.drain n) s)
    else s.noEvent "R28: the tile holds no instruction that is able to proceed"

/-! ### Coherence bias (R311, R313) -/

/-- HOST_BIAS_FLIP (R313): a host access to a device-bias page of a function that is ON. -/
def execHostBiasFlip (fn vpn : Nat) (write : Bool) (s : State) : Answer :=
  if 16 ≤ fn then .fault (.absent "function" fn)
  else
    let f := s.func fn
    let e := tget {} f.table vpn
    if f.state ≠ .on ∨ !(e.valid && e.companion && !e.bias) ∨ f.flipped.contains vpn then
      s.noEvent "R313: the page is no device-bias page of a function that is ON"
    else
      let s := s.setFunc fn { f with
        flipped := f.flipped ++ [vpn], flips := satAdd 32 f.flips 1
        hostWr := if write then satAdd 16 f.hostWr 1 else f.hostWr }
      .next (if write then
        s.report { code := eBias, cls := clsNotice, func := some fn, a := e.pfn.toNat * pageSize } else s)

/-- DEVICE_BIAS_GRANT (R313). -/
def execDeviceBiasGrant (fn vpn : Nat) (s : State) : Answer :=
  if 16 ≤ fn then .fault (.absent "function" fn)
  else if (s.func fn).biasAsked.contains vpn then
    .next (s.onFunc fn fun f => { f with
      flipped := f.flipped.filter fun v => v != vpn, biasAsked := f.biasAsked.filter fun v => v != vpn })
  else s.noEvent "R313: device bias was not requested again for the page"

end Sys2Proof.Machine
end

