-- ==== Sys2Proof/Machine/Errors.lean ====
section
/-! DEFINITION. The error ring (R436, R437): arming, the driver's consumption, and the writing of held records. -/
namespace Sys2Proof.Machine

/-- A write of 1 to HUB_ERRCTL.ARM (R457): WR and RD return to 0; with LOG2 outside 6 to 16, ARM stays 0. -/
def Errors.arming (e : Errors) (epoch : W32) : Errors :=
  if 6 ≤ e.ringLog2.toNat ∧ e.ringLog2.toNat ≤ 16 then { e with arm := true, armEpoch := epoch, wr := 0, rd := 0 }
  else { e with arm := false }

/-- ERRCTL_ARM (R436). -/
def execErrctlArm (s : State) : Answer := .next { s with errs := s.errs.arming s.larwa.epoch }

/-- A write of RD (R436): ignored beyond WR, or where more than the ring would lie between RD and WR. -/
def Errors.consume (e : Errors) (rd : W32) : Errors :=
  if (e.wr - rd).toNat ≤ 2 ^ e.ringLog2.toNat then { e with rd := rd } else e

/-- ERRPTR_RD_WRITE (R436). -/
def execErrptrRdWrite (rd : W32) (s : State) : Answer := .next { s with errs := s.errs.consume rd }

/-- Where record WR lies (R436). -/
def Errors.addr (e : Errors) : Nat := e.ringBase.toNat * 4096 + e.wr.toNat % 2 ^ e.ringLog2.toNat * 64

/-- Whether a held record can be written: the ring is armed in the present epoch and has room, and its link is UP (R437). -/
def State.errReady (s : State) : Bool :=
  s.errs.arm && s.errs.armEpoch == s.larwa.epoch && decide ((s.errs.wr - s.errs.rd).toNat < 2 ^ s.errs.ringLog2.toNat) &&
    s.hpaUp s.errs.addr

/-- Write the oldest held record and advance WR, with an interrupt onto an emptied ring. -/
def State.writeErr (s : State) : State :=
  match s.errs.held with
  | [] => s
  | r :: rest =>
    if s.errReady then
      let e := s.errs
      let s := { (s.write (hostDpa e.addr) r.bytes) with errs := { e with held := rest, wr := e.wr + 1 } }
      if e.wr = e.rd then s.interrupt e.ipath.toNat e.ivec.toNat else s
    else s

/-- ERROR_RECORD_WRITE (R436): a record that the link does not acknowledge stays held. -/
def execErrorRecordWrite (ack : HostAck) (s : State) : Answer :=
  match ack with
  | .acked => .next s.writeErr
  | .error => .next s

end Sys2Proof.Machine
end

