-- ==== Sys2Proof/Machine/Functions.lean ====
section
/-! DEFINITION. Functions (R339, R340): ENABLE and DISABLE, the building of a function's tables (R299 to R301, R329), draining,
and the scrub on teardown (R314). -/
namespace Sys2Proof.Machine

/-! ### Free pages and placement (R297, R299) -/

/-- Whether an HBM page is free. -/
def State.pageFree (s : State) (p : Nat) : Bool :=
  let g := s.page p
  g.use == .free && !g.withdrawn && g.health != .retired && s.stackFitted (p / 32768) && !(s.stack (p / 32768)).failed

/-- The free pages of a stack, rising. -/
def State.freePages (s : State) (k : Nat) : List Nat :=
  ((List.range 32768).map fun i => k * 32768 + i).filter s.pageFree

/-- Firmware's pages (R297). -/
def State.firmwarePages (s : State) : List Nat :=
  s.pages.filterMap fun e => if e.2.use = .firmware then some e.1 else none

/-- Take free pages of stack 0 until firmware holds 16 (R297). -/
def State.takeFirmwarePages (s : State) : State :=
  ((s.freePages 0).take (16 - s.firmwarePages.length)).foldl (fun (s : State) p =>
    s.setPage p { s.page p with use := .firmware }) s

/-- The stack of each HBM page of a MAP section in placement order, none for a companion page (R299). -/
def mapStacks (list : List Nat) (m : List MapRange) : List (Nat × Option Nat × Bool) :=
  (m.foldl (fun (acc : List (Nat × Option Nat × Bool) × Nat) r =>
    if r.tier = 1 then (acc.1 ++ (List.range r.npage).map fun i => (r.vpn + i, none, r.bias == 1), acc.2)
    else if r.stack = 0xFF then
      (acc.1 ++ (List.range r.npage).map fun i => (r.vpn + i, list[(acc.2 + i) % max 1 list.length]?, false), acc.2 + r.npage)
    else (acc.1 ++ (List.range r.npage).map fun i => (r.vpn + i, some r.stack, false), acc.2)) ([], 0)).1

/-- Queue-descriptor pages of a function (R329): QCOUNT groups of 512 queues, 64 groups to a page. -/
def FuncImage.descCount (i : FuncImage) : Nat := ceilDiv i.qcount 64

/-- HBM pages a function takes of stack `k`. -/
def FuncImage.demand (i : FuncImage) (list : List Nat) (k : Nat) : Nat :=
  ((mapStacks list i.map).filter fun e => e.2.1 == some k).length + (if k = 0 then i.descCount else 0)

/-- Companion pages a function takes. -/
def FuncImage.hostCount (i : FuncImage) : Nat :=
  i.map.foldl (fun n r => if r.tier = 1 then n + r.npage else n) 0

/-- Why an enable cannot be carried out (R301): RESULT byte 8 and bytes 12-15. -/
def State.enableRefusal (s : State) (fn : Nat) (i : FuncImage) (host : List Nat) : Option (Nat × Nat) :=
  let short := if s.firmwarePages.length < 16 then some (0, 16 - s.firmwarePages.length) else
    s.stackList.findSome? fun k =>
      let need := i.demand s.stackList k
      let have_ := (s.freePages k).length
      if have_ < need then some (k, need - have_) else none
  match short with
  | some r => some r
  | none =>
    let n := i.hostCount
    let used := (funcIds.filter fun k => k ≠ fn ∧ (s.func k).state ≠ .off).flatMap fun k => (s.func k).hostPages
    let bad := (List.range n).find? fun x =>
      match host[x]? with
      | none => true
      | some a => decide (a % pageSize ≠ 0 ∨ 2 ^ 47 ≤ a) || (host.take x).contains a || used.contains a
    bad.map fun x => (0xFF, x)

/-- The translation table and the pages it takes (R299), with the descriptor pages (R329). -/
def State.place (s : State) (i : FuncImage) (host : List Nat) : Table Pte × List Nat × List Nat :=
  let r := (mapStacks s.stackList i.map).foldl
    (fun (acc : Table Pte × List (Nat × Nat) × Nat) e =>
      match e.2.1 with
      | none =>
        (tset {} acc.1 e.1 { valid := true, bias := e.2.2, pfn := BitVec.ofNat 27 (hostDpa (host.getD acc.2.2 0) / pageSize) },
          acc.2.1, acc.2.2 + 1)
      | some k =>
        let taken := (acc.2.1.filter fun x => x.1 == k).length
        let p := (s.freePages k).getD taken 0
        (tset {} acc.1 e.1 { valid := true, pfn := BitVec.ofNat 27 p }, acc.2.1 ++ [(k, p)], acc.2.2))
    ([], [], 0)
  let z := (r.2.1.filter fun x => x.1 == 0).length
  (r.1, r.2.1.map Prod.snd, ((s.freePages 0).drop z).take i.descCount)

/-! ### ENABLE and DISABLE (R340) -/

/-- The host page list of an ENABLE: NHP page addresses of 8 bytes. -/
def pageList (n : Nat) : HostData → Option (List Nat)
  | .ok bs => some ((List.range n).map fun i => leAt bs (8 * i) 8)
  | _ => if n = 0 then some [] else none

/-- ENABLE (R340). The page list is read when the command starts. -/
def execEnable (q : Nat) (pages : HostData) (s : State) : Answer :=
  s.withCmd q 0x10 fun c =>
    let fn := c.arg 8 1
    let hpl := c.arg 16 8
    let n := c.arg 24 4
    let f := s.func fn
    let bad : Bool := match pages with | .ok bs => bs.length ≠ 8 * n | _ => false
    if 16 ≤ fn ∨ (0 < n ∧ 2 ^ 47 < hpl + 8 * n) then s.finish c stBadCommand
    else if bad then s.noEvent "R336: HPL names NHP addresses of 8 bytes"
    else if s.boot.stage = .prepared ∨ s.boot.remreq ∨ s.boot.dead then s.finish c stState (stateResult 0 f.state)
    else if s.imgWait.any fun w => w.funcs.contains fn then .next s
    else match f.state with
      | .on => s.finish c stSuccess (stateResult 0 .on)
      | .enabling => .next ((s.setFunc fn { f with enablingCmds := f.enablingCmds ++ [c] }).release c)
      | .off =>
        if (tkeys s.images).contains fn = false then s.finish c stRefused (stateResult 2 .off)
        else if 0 < n ∧ s.hpaUp hpl = false then .next s
        else match pageList n pages with
          | none => s.finish c stHostAccess (stateResult 0 .off)
          | some l => .next ((s.setFunc fn { f with
              state := .enabling, epoch := s.larwa.epoch, hostPages := l, enablingCmds := [c] }).release c)
      | _ =>
        if f.pending.isSome then .next ((s.setFunc fn { f with pendingCmds := f.pendingCmds ++ [c] }).release c)
        else if 0 < n ∧ s.hpaUp hpl = false then .next s
        else match pageList n pages with
          | none => s.finish c stHostAccess (stateResult 0 f.state)
          | some l => .next ((s.setFunc fn { f with pending := some l, pendingCmds := [c] }).release c)

/-- Place the program sections of TILEPROG in the tiles' shares. -/
def State.placePrograms (s : State) (fn : Nat) (i : FuncImage) : State :=
  i.progs.foldl (fun (s : State) g =>
    (List.range g.tcount).foldl (fun (s : State) k =>
      let t := g.tfirst + k
      match (s.tile t).entryOf fn with
      | some e => s.write ((tget {} (s.tile t).part e).sram t g.offset) (g.instrs.flatMap fun ws => ws.flatMap fun w => leBytes 4 w.toNat)
      | none => s) s) s

/-- Write TILE_PART entries and seeds for a function's tile shares, zeroing the entry's scalars and chains (R32, R70, R122).
Which entry of a tile a share takes is the model's choice: the lowest free one (assumption 80). -/
def State.placeShares (s : State) (fn : Nat) (i : FuncImage) : State :=
  i.tiles.foldl (fun (s : State) h => s.onTile h.tile fun x =>
    match (List.range 4).find? fun e => !(tget {} x.part e).valid with
    | none => x
    | some e => { x with
        part := tset {} x.part e {
          valid := true, func := BitVec.ofNat 4 fn, accMask := BitVec.ofNat 4 h.accMask
          plateBase := BitVec.ofNat 4 h.plateBase, plateCount := BitVec.ofNat 5 h.plateCount
          sramBase := BitVec.ofNat 5 h.sramBase, sramCount := BitVec.ofNat 6 h.sramCount }
        scalars := x.scalars.filter fun c => c.1 / 16 != e
        chains := x.chains.filter fun c => c.1 / 4 != e
        seed := tset 0 x.seed e i.job.seed }) s

/-- Write the ERT entries of a function from its image (R217). -/
def State.placeErt (s : State) (fn : Nat) (i : FuncImage) : State :=
  i.experts.foldl (fun (s : State) l => l.experts.zipIdx.foldl (fun (s : State) x =>
    s.setErt (l.ertBase + x.2) { layer := l.layer, expert := x.2, valid := true, parked := x.1.parked, func := fn
                                 lshard := x.1.lshard, homeVpn := x.1.homeVpn, npage := x.1.npage }) s) s

/-- The registers and job state firmware loads when it enables a function (R173, R213, R238, R268). -/
def FuncImage.fresh (i : FuncImage) (epoch : W32) (host : List Nat) (table : Table Pte) : Func :=
  let j := i.job
  { state := .on, epoch := epoch, hostPages := host, table := table, mbvar := j.var0, ema := j.ema0
    jbase := j.journalVpn, jlog2 := j.log2Nslot, poolSlots := j.poolSlots, slotPages := j.slotPages, poolVpn := j.poolVpn
    ertBase := i.ertBase, ertCount := i.ertCount }

/-- ENABLING_DONE (R339): the function's tables and registers are built and it reaches ON, or the enable is refused under
R301 and it stays OFF. -/
def execEnablingDone (fn : Nat) (s : State) : Answer :=
  if 16 ≤ fn then .fault (.absent "function" fn)
  else
    let f := s.func fn
    let i := s.image fn
    if f.state ≠ .enabling then s.noEvent "R339: the function is not ENABLING"
    else match s.enableRefusal fn i f.hostPages with
      | some (unit, n) =>
        let s1 := s.setFunc fn { f with state := .off, enablingCmds := [], hostPages := [] }
        .next (s1.completeAll f.enablingCmds stRefused
          (leBytes 4 2 ++ leBytes 1 0 ++ zeros 3 ++ leBytes 1 unit ++ zeros 3 ++ leBytes 4 n))
      | none =>
        let (t, ps, ds) := s.place i f.hostPages
        let s := ps.foldl (fun (s : State) p => s.setPage p { s.page p with use := .mapped fn }) s
        let s := ds.foldl (fun (s : State) p => s.setPage p { s.page p with use := .descriptor fn }) s
        let s := ((s.placeShares fn i).placeErt fn i).placePrograms fn i
        .next ((s.setFunc fn (i.fresh f.epoch f.hostPages t)).completeAll f.enablingCmds stSuccess (stateResult 0 .on))

/-- DISABLE (R340). -/
def execDisable (q : Nat) (s : State) : Answer :=
  s.withCmd q 0x11 fun c =>
    let fn := c.arg 8 1
    if 16 ≤ fn then s.finish c stBadCommand
    else match (s.func fn).state with
      | .off => s.finish c stSuccess (stateResult 0 .off)
      | .enabling => (s.drain fn).finish c stSuccess (stateResult 0 .draining)
      | .on => (s.drain fn).finish c stSuccess (stateResult 0 .draining)
      | st =>
        let f := s.func fn
        let s1 := s.setFunc fn { f with pending := none, pendingCmds := [] }
        (s1.completeAll f.pendingCmds stCancelled (stateResult 0 st)).finish c stSuccess (stateResult 0 st)

/-! ### Draining and scrubbing (R118, R142, R314, R339) -/

/-- The queues of a function. -/
def State.queuesOf (s : State) (fn : Nat) : List Nat :=
  s.queues.filterMap fun e => if e.2.view = fn ∧ 512 ≤ e.1 ∧ e.2.state ≠ .idle then some e.1 else none

/-- DRAIN_COMPLETE (R339): banks and chains are clear, queue commands complete with CANCELLED, and the function moves to
SCRUBBING. -/
def execDrainComplete (fn : Nat) (s : State) : Answer :=
  if 16 ≤ fn then .fault (.absent "function" fn)
  else if (s.func fn).state ≠ .draining then s.noEvent "R339: the function is not DRAINING"
  else
    let s := (s.queuesOf fn).foldl (fun (s : State) q =>
      let s := s.cancelLong q
      s.completeAll (s.queue q).running.toList stCancelled []) s
    let s := s.onTiles fun _ x =>
      let es := (List.range 4).filter (x.owns fn)
      { x with
        banks := x.banks.filter fun b => !(es.any fun e => bitOf (tget {} x.part e).accMask.toNat b.1)
        chains := x.chains.filter fun c => !es.contains (c.1 / 4) }
    .next (s.onFunc fn fun f => { f with
      state := .scrubbing, run := false, armed := false, snap := none, prefetches := [], fetches := [], demandOpen := none })

/-- Clear what a function holds on a tile (R314, order 1, 2 and 5). -/
def Tile.scrub (x : Tile) (fn : Nat) : Tile :=
  (List.range 4).foldl (fun (x : Tile) e =>
    if x.owns fn e then
      let p := tget {} x.part e
      { x with
        plates := tclear x.plates (p.plateBase.toNat * 8192) ((p.plateBase.toNat + p.plateCount.toNat) * 8192)
        platePoison := x.platePoison.filter fun w =>
          !decide (p.plateBase.toNat * 4096 ≤ w ∧ w < (p.plateBase.toNat + p.plateCount.toNat) * 4096)
        banks := x.banks.filter fun b => !bitOf p.accMask.toNat b.1
        chains := x.chains.filter fun c => c.1 / 4 != e
        scalars := x.scalars.filter fun c => c.1 / 16 != e
        events := tdel x.events e, part := tdel x.part e, seed := tdel x.seed e, step := tdel x.step e
        seqs := tdel x.seqs e }
    else x) x

/-- Scrub one HBM page, or withdraw it where it is RETIRED or fails its read-back (R307, R314). -/
def State.scrubPage (s : State) (bad : Bool) (p : Nat) : State :=
  let g := s.page p
  if g.health = .retired ∨ (s.stack (p / 32768)).failed then s.setPage p { g with use := .free, withdrawn := g.health == .retired }
  else if bad then
    (((s.logMismatch p).setPage p { g with use := .free, withdrawn := true, health := .retired }).report
      { code := ePageRetired, cls := clsNotice, unit := p / 32768, a := p % 32768 }).writeRetList
  else (s.zero (p * pageSize) ((p + 1) * pageSize)).setPage p { g with use := .free }

/-- SCRUB_COMPLETE (R314, R339): the function's resources are zeroed, its entries cleared, its queues go IDLE, and it
reaches OFF; an ENABLE_PENDING is then acted on. -/
def execScrubComplete (fn : Nat) (badPages : List (Nat × Nat)) (s : State) : Answer :=
  if 16 ≤ fn then .fault (.absent "function" fn)
  else if (s.func fn).state ≠ .scrubbing then s.noEvent "R314: the function is not SCRUBBING"
  else
    let ps := s.pages.filterMap fun e => if e.2.use = .mapped fn ∨ e.2.use = .descriptor fn then some e.1 else none
    let bad := badPages.map fun b => b.1 * 32768 + b.2
    if bad.any (fun p => !ps.contains p) then s.noEvent "R314: the scrub writes only pages of the function"
    else
      let s := (tkeys s.tiles).foldl (fun (s : State) t => (s.tile t |> fun x => (List.range 4).foldl (fun (s : State) e =>
        if x.owns fn e then
          let p := tget {} x.part e
          s.zero (p.sram t 0) (p.sram t (p.sramCount.toNat * 65536))
        else s) s).onTile t fun x => x.scrub fn) s
      let s := (List.range 4).foldl (fun (s : State) d =>
        let (b, n) := s.stagingShare fn d
        s.zero (stagingBase + d * 0x2000000 + b) (stagingBase + d * 0x2000000 + b + n)) s
      let s := ps.foldl (fun (s : State) p => s.scrubPage (bad.contains p) p) s
      let s := { s with ert := s.ert.filter fun e => !(e.2.valid && e.2.func == fn) }
      let s := (s.queuesOf fn).foldl (fun (s : State) q => s.setQueue q {}) s
      let s := s.takeFirmwarePages
      let f := s.func fn
      let off := { f with
        state := .off, table := [], hostPages := [], pending := none, pendingCmds := [], debugWritten := false
        flipped := [], biasAsked := [] }
      .next (match f.pending with
        | none => s.setFunc fn off
        | some l =>
          if (tkeys s.images).contains fn then
            s.setFunc fn { off with state := .enabling, epoch := s.larwa.epoch, hostPages := l, enablingCmds := f.pendingCmds }
          else (s.setFunc fn off).completeAll f.pendingCmds stRefused (stateResult 2 .off))

/-! ### COPY_IN and COPY_OUT (R337) -/

/-- Whether two VA ranges meet. -/
def rangesMeet (a n b m : Nat) : Bool := decide (a < b + m ∧ b < a + n ∧ 0 < n ∧ 0 < m)

/-- Whether a VA range lies wholly within MAP ranges of TIER 0. -/
def State.inHbm (s : State) (fn va n : Nat) : Bool :=
  (pagesOf va n).all fun p =>
    (s.image fn).map.any fun r => r.tier == 0 && decide (r.vpn ≤ p ∧ p < r.vpn + r.npage)

/-- Whether a range overlaps a region closed to COPY_IN (R337): what the JOB section places, and home state. -/
def State.closedRange (s : State) (fn va n : Nat) : Bool :=
  (((s.image fn).extents s.herd.count s.herd.member).any fun e => rangesMeet va n (e.1 * pageSize) (e.2 * pageSize)) ||
    ((s.homeRanges fn).any fun r => rangesMeet va n r.1 r.2)

/-- The argument checks common to both copies, in R337's words. -/
def State.copyBad (s : State) (fn : Nat) (c : Cmd) : Bool :=
  let va := c.arg 16 8
  let n := c.arg 24 4
  n % 64 != 0 || n == 0 || decide (2 ^ 30 < n ∨ 2 ^ 47 < c.arg 8 8 + n ∨ 2 ^ 48 < va + n) || !s.inHbm fn va n

/-- The links that a host range travels on are UP. -/
def State.hostRangeUp (s : State) (hpa n : Nat) : Bool := (pagesOf hpa n).all fun p => s.hpaUp (p * pageSize)

/-- Deal with the poisoned lines that a COPY_OUT reads, one after another. -/
def State.meetPoison (s : State) (fn : Nat) (rs : List (Nat × Nat)) : State :=
  (rs.filterMap fun r => s.poisonedIn r.1 r.2).foldl (fun (s : State) a => s.muleMeets fn a) s

/-- COPY_IN (R337): host data placed in the function's HBM. -/
def execCopyIn (q : Nat) (data : HostData) (s : State) : Answer :=
  s.withCmd q 0x45 fun c =>
    let fn := s.cmdFunc c
    let n := c.arg 24 4
    if (s.func fn).state ≠ .on then s.finish c stState
    else if s.copyBad fn c ∨ s.closedRange fn (c.arg 16 8) n then s.finish c stBadCommand
    else if s.hostRangeUp (c.arg 8 8) n = false then .next s
    else match data with
      | .ok bs =>
        if bs.length = n then
          (s.meetEdges fn (s.rangesVA fn (c.arg 16 8) n)).writeVA fn (c.arg 16 8) bs |>.finish c stSuccess
        else s.noEvent "R336: COPY_IN moves LENGTH bytes"
      | _ => s.finish c stHostAccess

/-- COPY_OUT (R337): the function's HBM written to host memory. -/
def execCopyOut (q : Nat) (ack : HostAck) (s : State) : Answer :=
  s.withCmd q 0x46 fun c =>
    let fn := s.cmdFunc c
    let n := c.arg 24 4
    let va := c.arg 16 8
    if (s.func fn).state ≠ .on then s.finish c stState
    else if s.copyBad fn c then s.finish c stBadCommand
    else if s.hostRangeUp (c.arg 8 8) n = false then .next s
    else match ack with
      | .error => s.finish c stHostAccess
      | .acked =>
        let bs := s.readVA fn va n
        ((s.write (hostDpa (c.arg 8 8)) bs).meetPoison fn (s.rangesVA fn va n)).finish c stSuccess

end Sys2Proof.Machine
end

