-- ==== Sys2Proof/Machine/ProgCheck.lean ====
section
/-! DEFINITION. The check of tile programs: the form of each instruction (R44, R96 to R112, R121 to R137), the tree check that
follows banks and chains without their values (R281), tile SRAM hazards (R106, R112), and beat counts (R97, R107, R110,
R127, R279). -/
namespace Sys2Proof.Machine

/-- A share-relative range of tile SRAM. -/
abbrev Rel := Int × Nat

def relMeets (a b : Rel) : Bool := decide (a.1 < b.1 + b.2 ∧ b.1 < a.1 + a.2 ∧ 0 < a.2 ∧ 0 < b.2)
def anyMeets (as bs : List Rel) : Bool := as.any fun a => bs.any (relMeets a)

/-- What the check follows of one function on one tile: banks and chains with the values left out, the tree parts opened, and
the operand ranges of the MMAs recorded in open integer banks (R112). -/
structure ProgSim where
  banks : Table Bank := []
  chains : Table Chain := []
  opened : List (Nat × Nat × Nat) := []
  recorded : Table (List Rel) := []
  deriving DecidableEq, Repr, Inhabited

/-- What the check finds of one instruction: faults of form (stage 4), of resources (stage 3), beats, and the tile SRAM it
reads and writes. -/
structure InstrFind where
  shape : Bool := false
  resource : Bool := false
  beats : Nat := 1
  reads : List Rel := []
  writes : List Rel := []
  next : ProgSim := {}
  deriving DecidableEq, Repr, Inhabited

/-! ### Matrix instructions -/

/-- Frames of an open bank's stack: levels 1 to LEVEL - 1 (R106). -/
def Bank.frames (b : Bank) : List Rel :=
  (List.range (b.desc.level.toNat - 1)).map fun l => ((b.frame (l + 1) : Int), b.frameBytes)

/-- Frames of every bank that is open, but bank `n`. -/
def ProgSim.framesBut (p : ProgSim) (n : Nat) : List Rel :=
  p.banks.flatMap fun e => if e.1 ≠ n ∧ e.2.phase = .opened then Bank.frames e.2 else []

/-- Twice the beats per K index of R95, by the wider compute format; FP32 takes 16. -/
def beatsK2 (a b : Nat) : Nat :=
  if a = 0xA ∧ b = 0xA then 1
  else if a = 0 ∨ b = 0 then 32
  else if fmtWidth a = 16 ∨ fmtWidth b = 16 then 4
  else 2

/-- Beats of an MMA (R97). -/
def mmaBeats (pa pb : Panel) : Nat :=
  -- both terms counted in 1/8192 beats: 64 sA + 128 sB bytes over 1,024, sA and sB in bits over 8
  let t1 := beatsK2 pa.cfmt pb.cfmt * 4096
  let t2 := 64 * fmtWidth pa.sfmt + 128 * fmtWidth pb.sfmt
  let slow (p : Panel) : Bool := p.outer && decide (fmtWidth p.sfmt < 8)
  let k := pa.klen
  let wide (p : Panel) : Nat := p.kRange.2 - p.kRange.1
  let k' := max (wide pa) (wide pb)
  let n := if k < k' then max (k * t1) (k' * t2) else k * max t1 t2
  ceilDiv ((if slow pa || slow pb then 2 else 1) * n) 8192

/-- The layout rules of R101 and R102 that an instruction shows by itself. -/
def panelLaid (p : Panel) (limit : Nat) : Bool :=
  (fmtWidth p.sfmt != 6 || p.stride % 96 == 0) &&
    (!(p.casts && sdDir (cvtSdesc p.cvt) == 1) || decide (sdBlock (cvtSdesc p.cvt) ≤ limit))

/-- Whether a range lies in a share of `n` bytes. -/
def inShare (n : Nat) (r : Rel) : Bool := decide (0 ≤ r.1 ∧ r.1 + r.2 ≤ n)

/-- The check of one matrix instruction. `size` is the bytes of the tile SRAM share, `acc` the function's banks and `resident`
the instructions that lie in the share (R106). -/
def checkMatrix (i : FuncImage) (size acc : Nat) (resident : List Rel) (ws : List W32) (p : ProgSim) : InstrFind :=
  let op := opcodeOf ws
  let n := (mtreeOf ws).bank.toNat
  let b := tget {} p.banks n
  let set (b : Bank) : ProgSim := { p with banks := tset {} p.banks n b }
  let bad := matrixReserved ws || !bitOf acc n
  if op = 0x40 then
    let o := mmaOf ws
    let (pa, pb) := mmaPanels o b.k0 (i.treeK b o.klen.toNat)
    let spans := ceilDiv pa.klen b.w
    let m := pushLevel spans
    let (wr, rd) := pushFrames b.pad m
    let rs := pa.ranges ++ pb.ranges
    let fr (l : Nat) : Rel := ((b.frame l : Int), b.frameBytes)
    { shape := bad || !b.accepts pa pb || !panelLaid pa 64 || !panelLaid pb 128 || rs.any fun r => !inShare size r
      resource := anyMeets rs (p.framesBut 4)
      beats := max (mmaBeats pa pb) (66 * (wr.toList.length + rd.length))
      reads := rs ++ rd.map fr
      writes := wr.toList.map fr
      next := { set { b with
          rows := pa.n, cols := pb.n, count := b.count + spans, pad := roundUp (b.count + spans) (2 ^ m)
          mmas := if b.int then b.mmas ++ [o] else b.mmas } with
        recorded := if b.int then tset [] p.recorded n (tget [] p.recorded n ++ rs) else p.recorded } }
  else if op = 0x41 then
    let o := mtreeOf ws
    let nb : Bank := {
      phase := .opened, int := o.int, stackAddr := o.stackAddr
      desc := { tree := o.tree, level := o.level, pos := o.pos, wcode := o.wcode, nspanM1 := o.nspanM1 } }
    { shape := bad || b.phase == .opened || decide (4 < o.wcode.toNat) || !isNode nb.desc.n o.level.toNat o.pos.toNat
      resource := (Bank.frames nb).any (fun r => !inShare size r) || anyMeets (Bank.frames nb) (p.framesBut n ++ resident)
      next := { set nb with opened := p.opened ++ [(o.tree.toNat, o.level.toNat, o.pos.toNat)]
                            recorded := tdel p.recorded n } }
  else if op = 0x42 then
    if !bitOf (wordAt ws 0).toNat 10 then { shape := bad, next := p }
    else
      let fr := b.foldLevels.map fun l => ((b.frame l : Int), b.frameBytes)
      { shape := bad || b.phase == .idle || (b.phase == .opened && decide (b.count ≠ b.p))
        beats := if b.phase = .opened then 66 * fr.length + 24 else 1
        reads := fr
        next := { set { b with phase := .done } with recorded := tdel p.recorded n } }
  else if op = 0x43 then
    let w : Rel := (((wf ws 4 15 0 16).toNat * 32 : Nat), recordSize b.rows b.cols)
    { shape := bad || b.phase != .done || b.int
      beats := ceilDiv w.2 512
      writes := [w], next := p }
  else { shape := bad, next := { set { nonfin := b.nonfin } with recorded := tdel p.recorded n } }

/-- The faults of a matrix instruction's form that show whatever its bank holds (R44, R96, R99 to R103). A bank that the section
itself has not opened gives no first K index: the MMA is then judged with its own K range only. -/
def matrixFormBad (i : FuncImage) (size : Nat) (ws : List W32) (b : Bank) : Bool :=
  let op := opcodeOf ws
  let o := mmaOf ws
  let d := mtreeOf ws
  let (pa, pb) := if b.phase = .opened then mmaPanels o b.k0 (i.treeK b o.klen.toNat) else mmaPanels o 0 o.klen.toNat
  matrixReserved ws ||
    (op == 0x40 && (!pa.legal || !pb.legal || (pairKind pa.cfmt pb.cfmt).isNone || !panelLaid pa 64 || !panelLaid pb 128 ||
      (pa.ranges ++ pb.ranges).any fun r => !inShare size r)) ||
    (op == 0x41 && (decide (4 < d.wcode.toNat) || !isNode (d.nspanM1.toNat + 1) d.level.toNat d.pos.toNat))

/-! ### Vector instructions -/

/-- Permitted types, largest SUBOP and beat factor of a vector opcode (R127). -/
def vecForm (op : Nat) : List Nat × Nat × Nat :=
  if op = 0x63 then (tyF, 0, 1)
  else if op = 0x66 ∨ op = 0x67 then (tyFI, 0, 1)
  else if 0x68 ≤ op ∧ op ≤ 0x6B then (tyF, 0, 4)
  else if op = 0x6C ∨ op = 0x6D then (tyF, 0, 8)
  else if op = 0x6E then (tyAny, 7, 1)
  else if 0x70 ≤ op ∧ op ≤ 0x73 then (tyU, 0, 1)
  else if op = 0x74 then ([1, 2], 0, 1)
  else if op = 0x76 then (tyU, 0, 1)
  else if op = 0x80 then (tyFI, 0, 1)
  else if op = 0x82 then (tyFI, 3, 1)
  else if op = 0x89 then (tyAny, 7, 1)
  else if op = 0x90 then (tyAny, 11, 1)
  else if op = 0x91 then (tyAny, 1, 1)
  else if op = 0x92 ∨ op = 0x93 then (tyAny, 0, 2)
  else if op = 0x98 then (tyF, 1, 1)
  else if op = 0x88 ∨ op = 0x8B ∨ op = 0x8C then (tyAny, 0, 1)
  else if op = 0x8A then (tyAny, 1, 1)
  else (tyAny, 0, 1)

/-- Sources that an element-wise opcode reads. -/
def vecSources (op : Nat) : Nat :=
  if op = 0x63 ∨ op = 0x6F then 3
  else if (0x60 ≤ op ∧ op ≤ 0x65) ∨ op = 0x68 ∨ op = 0x6E ∨ (0x70 ≤ op ∧ op ≤ 0x74) then 2
  else if op = 0x76 ∨ op = 0x78 then 0
  else 1

/-- Whether the INDEX range of an SR conversion stays within 0xFFFF_FFFF (R69, R131). -/
def srFits (base rstride rl n : Nat) : Bool :=
  let last := (n - 1) / rl
  let tail := base + last * rstride + (n - 1) % rl
  let before := if last = 0 then 0 else base + (last - 1) * rstride + (rl - 1)
  decide (max tail before < 2 ^ 32)

/-- The element-wise opcodes. -/
def isElementwise (op : Nat) : Bool := decide (0x60 ≤ op ∧ op ≤ 0x78) && op != 0x75 && op != 0x78

/-- Whether the form of a vector instruction is one that R125 to R138 permit; the states of banks and chains are the tree
check's. -/
def vecFormOk (op : Nat) (o : VOp) : Bool :=
  let (tys, sub, _) := vecForm op
  let shape := bits o.w4.toNat 17 16
  let cv := o.w1hi.toNat
  (op == 0x88 || !o.w1b15) && tys.contains o.ty.toNat && decide (o.subop.toNat ≤ sub) &&
    (op == 0x88 || countOk o) &&
    (if isElementwise op then
      let n := vecSources op
      (n == 0 || runOk o.w2) && (n < 2 || (o.bsel != 3 && (o.bsel != 0 || runOk o.w3))) &&
        (n < 3 || (o.csel != 3 && (o.csel != 0 || runOk o.w4))) && runOk o.w5
    else if op = 0x75 then
      convOk o && runOk o.w2 && runOk o.w5 && o.w7 == 0 &&
        (cvtRnd cv != 2 || srFits o.w3.toNat o.w6.toNat (max 1 (rlenOf o)) o.count.toNat)
    else if op = 0x78 then o.count == 1
    else if op = 0x80 ∨ op = 0x81 then
      convOk o && runOk o.w2 && alignedFor (fmtWidth (cvtFmt cv)) (sramAddr o) &&
        !(op == 0x80 && o.ty == 1 && cvtFmt cv != 3 && cvtFmt cv != 4) &&
        (cvtRnd cv != 2 || srFits o.w3.toNat o.w6.toNat (max 1 (rlenOf o)) o.count.toNat)
    else if op = 0x82 then
      bits o.w3.toNat 31 2 == 0 && o.w2 == 0 && o.w4 == 0 && o.w6 == 0 && o.w7 == 0 && runOk o.w5 && !cvtReserved cv &&
        !(o.subop.getLsbD 0 && o.ty != 1)
    else if op = 0x88 then bits o.w3.toNat 31 30 == 0 && o.w4 == 0 && o.w5 == 0 && o.w6 == 0 && o.w7 == 0
    else if op = 0x89 then
      vredTypeOk o && shape != 3 && !(shape != 0 && (bitOf o.w4.toNat 18 || o.subop == 7)) && bits o.w4.toNat 31 19 == 0 &&
        !bitOf o.w4.toNat 15 && o.w6 == 0 && o.w7 == 0 && !cvtReserved cv && runOk o.w2 &&
        (o.subop != 2 || (o.bsel != 3 && (o.bsel != 0 || runOk o.w3))) &&
        (shape == 0 || (runOk o.w5 && rlenOf o != 0 && o.count.toNat % rlenOf o == 0))
    else if op = 0x8A then !cvtReserved cv && o.w2 == 0 && o.w3 == 0 && o.w4 == 0 && o.w5 == 0 && o.w7 == 0
    else if op = 0x90 then
      runOk o.w2 && runOk o.w5 && (o.subop.toNat / 4 == 0 || (o.bsel != 3 && (o.bsel != 0 || runOk o.w3)))
    else if op = 0x91 then runOk o.w2 && o.bsel != 3 && (o.bsel != 0 || runOk o.w3) && runOk o.w4 && runOk o.w5 && o.w6 == 0 && o.w7 == 0
    else if op = 0x92 then tlenOk o && runOk o.w4 && runOk o.w5 && o.bsel != 3 && (o.bsel != 0 || runOk o.w3)
    else if op = 0x93 then tlenOk o && runOk o.w2 && o.bsel != 3 && (o.bsel != 0 || runOk o.w3) && runOk o.w5 && o.w4 == 0 && o.w7 == 0
    else if op = 0x98 then
      let nrec := bits o.w3.toNat 5 0
      decide (1 ≤ nrec ∧ nrec ≤ 32) && bits o.w3.toNat 31 6 == 0 && o.w2 == 0 && !cvtReserved cv &&
        (o.subop == 1 || runOk o.w5)
    else true)

/-- The runs that a vector instruction reads and those it writes, each as (first element, length) in the plate share. -/
def vecRuns (op : Nat) (o : VOp) : List (Nat × Nat) × List (Nat × Nat) :=
  let n := o.count.toNat
  let tl := o.w6.toNat
  let at_ (w : W32) (k : Nat) : Nat × Nat := (bits w.toNat 5 0 * 2048 + bits w.toNat 16 6, k)
  let b := if o.bsel = 0 then [at_ o.w3 n] else []
  let shape := bits o.w4.toNat 17 16
  if isElementwise op then
    let k := vecSources op
    ((if 1 ≤ k then [at_ o.w2 n] else []) ++ (if 2 ≤ k then b else []) ++ (if 3 ≤ k ∧ o.csel = 0 then [at_ o.w4 n] else []),
     [at_ o.w5 n])
  else if op = 0x75 then ([at_ o.w2 n], [at_ o.w5 n])
  else if op = 0x89 then
    (at_ o.w2 n :: (if o.subop = 2 then b else []),
     if shape = 1 then [at_ o.w5 (n / max 1 (rlenOf o))] else if shape = 2 then [at_ o.w5 (rlenOf o)] else [])
  else if op = 0x90 then (at_ o.w2 n :: (if o.subop.toNat / 4 = 0 then [] else b), [at_ o.w5 n])
  else if op = 0x91 then (at_ o.w2 n :: b, [at_ o.w5 n, at_ o.w4 n])
  else if op = 0x92 then (b ++ [at_ o.w4 tl], [at_ o.w5 n])
  else if op = 0x93 then (at_ o.w2 n :: b, [at_ o.w5 tl])
  else ([], [])

/-- Destination runs that overlap a source run without being that run: each adds ceil(COUNT / 128) beats (R124). -/
def runsClash (op : Nat) (o : VOp) : Nat :=
  let (srcs, dsts) := vecRuns op o
  (dsts.filter fun d => srcs.any fun r => r != d && overlap r.1 r.2 d.1 d.2).length

/-- Beats of a vector instruction (R123, R124, R127). `opens` is the open entries of the chain, and `outs` the outputs of the
records of a VCOMB. -/
def vecBeats (op : Nat) (o : VOp) (opens outs : Nat) : Nat :=
  let unit := ceilDiv o.count.toNat 128
  let (_, _, f) := vecForm op
  let own :=
    if op = 0x88 ∨ op = 0x8B ∨ op = 0x8C then 1
    else if op = 0x8A then max 4 (4 * opens)
    else if op = 0x98 then bits o.w3.toNat 5 0 * ceilDiv outs 128
    else if op = 0x90 then (if o.ty = 0 then 4 else 1) * unit
    else if op = 0x91 then let l := max 1 (clog2 o.count.toNat); l * (l + 1) / 2 * unit
    else f * unit
  own + runsClash op o * unit

/-- Outputs of a VCOMB's records as the image shows them (R137): COUNT in the form that writes a run; a full block in the form
that writes a record, whose records lie where data in tile SRAM says (assumption 46). -/
def combOuts (o : VOp) : Nat := if o.subop = 0 then o.count.toNat else 8192

/-- Bytes of the record a VCOMB writes as the image shows them (R91): the record of a full block, padded to whole 32 bytes
(assumption 46). -/
def combRecordBytes : Nat := 33824

/-- A push of `n` elements into a chain, as the check follows it. -/
def Chain.simPush (c : Chain) (n : Nat) : Option Chain :=
  let s := ceilDiv n 32
  if c.phase = .opened ∧ pushOk (n % 32 == 0) s c.count c.desc.parts then some { c with count := c.count + s } else none

/-- Set bits of a count: the open entries of a chain. -/
def openEntries (n : Nat) : Nat := ((List.range 28).filter fun i => bitOf n i).length

/-- The check of one vector instruction. -/
def checkVector (acc : Nat) (ws : List W32) (p : ProgSim) : InstrFind :=
  let op := opcodeOf ws
  let o := vopOf ws
  let n := o.count.toNat
  let cn := o.chain.toNat
  let c := tget {} p.chains cn
  let setc (c : Chain) : ProgSim := { p with chains := tset {} p.chains cn c }
  let base : InstrFind := { shape := !vecFormOk op o, beats := vecBeats op o (openEntries c.count) (combOuts o), next := p }
  if op = 0x80 ∨ op = 0x81 then
    let rs : List Rel := ((sramAddr o : Int), packedBytes (fmtWidth (cvtFmt o.w1hi.toNat)) n) ::
      (if scaleBytes o n = 0 then [] else [((scaleAddr o : Int), scaleBytes o n)])
    if op = 0x80 then { base with reads := rs } else { base with writes := rs }
  else if op = 0x82 then
    let k := bits o.w3.toNat 1 0
    let b := tget {} p.banks k
    let fed := c.simPush n
    let feed := o.subop.getLsbD 1
    { base with
      shape := base.shape || !bitOf acc k || b.phase != .done || n != b.rows * b.cols || (o.subop.getLsbD 0 && !b.int) ||
        (feed && (fed.isNone || decide (13 < o.sd.toNat)))
      next := if feed then setc (fed.getD c) else p }
  else if op = 0x88 then
    let d : TreeDesc := {
      tree := wordAt ws 1
      level := BitVec.ofNat 5 (bits o.w2.toNat 31 27), pos := BitVec.ofNat 27 (bits o.w2.toNat 26 0)
      wcode := BitVec.ofNat 3 (bits o.w3.toNat 29 27), nspanM1 := BitVec.ofNat 27 (bits o.w3.toNat 26 0) }
    { base with
      shape := base.shape || c.phase == .opened || d.wcode != 2 || !isNode d.n d.level.toNat d.pos.toNat
      next := { setc { phase := .opened, desc := d } with
        opened := p.opened ++ [(d.tree.toNat, d.level.toNat, d.pos.toNat)] } }
  else if op = 0x89 ∧ bits o.w4.toNat 17 16 = 0 ∧ (o.subop.toNat ≤ 2 ∨ o.subop.toNat = 7) then
    let q := c.simPush n
    { base with shape := base.shape || q.isNone || (o.subop == 7 && decide (14 < o.sd.toNat)), next := setc (q.getD c) }
  else if op = 0x8A then
    { base with
      shape := base.shape || c.phase != .opened || c.count != c.desc.parts
      writes := if o.subop = 1 then [((bits o.w6.toNat 20 0 : Int), 32)] else []
      next := setc { c with phase := .done } }
  else if op = 0x8B then { base with next := setc {} }
  else if op = 0x8C then { base with shape := base.shape || decide (13 < o.sd.toNat) }
  else if op = 0x98 then
    { base with
      reads := [((bits o.w6.toNat 20 0 : Int), 4 * bits o.w3.toNat 5 0)]
      writes := if o.subop = 1 then [((bits o.w4.toNat 20 0 : Int), combRecordBytes)] else base.writes }
  else base

/-! ### Programs -/

/-- The check of one instruction at share offset `at_`: its own form, and the hazards of R106 and R112. -/
def checkInstr (i : FuncImage) (size acc at_ : Nat) (resident : List Rel) (ws : List W32) (p : ProgSim) : InstrFind :=
  let op := opcodeOf ws
  let f := if op < 0x60 then checkMatrix i size acc resident ws p else checkVector acc ws p
  let own := (tget {} p.banks (mtreeOf ws).bank.toNat).phase == .opened && op < 0x60
  let others := p.framesBut (if own then (mtreeOf ws).bank.toNat else 4)
  { f with
    shape := f.shape || !opcodeKnown op
    resource := f.resource || anyMeets [((at_ : Int), 32)] (p.framesBut 4) || anyMeets (f.reads ++ f.writes) others ||
      p.recorded.any fun e => anyMeets f.writes e.2 }

/-- The result of a program: what is bad at each instruction (in order), the beats, what it reads and writes, and the state of
banks and chains it leaves. -/
structure ProgFind where
  shape : List Nat := []
  resource : List Nat := []
  beats : Nat := 0
  reads : List Rel := []
  writes : List Rel := []
  next : ProgSim := {}
  deriving DecidableEq, Repr, Inhabited

/-- The ranges of a tile's share that hold the function's instructions (R274 TILEPROG). -/
def FuncImage.resident (i : FuncImage) (t : Nat) : List Rel :=
  (i.progs.filter fun g => decide (g.tfirst ≤ t ∧ t < g.tfirst + g.tcount)).map fun g => ((g.offset : Int), 32 * g.instrs.length)

/-- Follow a section's instructions in order. -/
def checkSection (i : FuncImage) (sh : TileShare) (g : ProgSection) (p : ProgSim) : ProgFind :=
  g.instrs.zipIdx.foldl (fun (a : ProgFind) (ws, k) =>
    let f := checkInstr i (sh.sramCount * 65536) sh.accMask (g.offset + 32 * k) (i.resident sh.tile) ws a.next
    { shape := if f.shape then a.shape ++ [k] else a.shape
      resource := if f.resource then a.resource ++ [k] else a.resource
      beats := a.beats + f.beats, reads := a.reads ++ f.reads, writes := a.writes ++ f.writes, next := f.next })
    { next := p }

/-- The instructions of a section, scheduled or not, whose form is refused on a tile (R44, R96, R99 to R103, R125 to R137). -/
def sectionForm (i : FuncImage) (sh : TileShare) (g : ProgSection) : List Nat :=
  (g.instrs.zipIdx.foldl (fun (a : List Nat × ProgSim) (ws, k) =>
    let op := opcodeOf ws
    let b := tget {} a.2.banks (mtreeOf ws).bank.toNat
    let bad := if op < 0x60 then matrixFormBad i (sh.sramCount * 65536) ws b else !vecFormOk op (vopOf ws)
    (if bad then a.1 ++ [k] else a.1, (checkInstr i (sh.sramCount * 65536) sh.accMask (g.offset + 32 * k) [] ws a.2).next))
    ([], {})).1

/-- The section at ARG on a tile. -/
def FuncImage.sectionAt (i : FuncImage) (t arg : Nat) : Option (Nat × ProgSection) :=
  (i.progs.zipIdx.find? fun (g, _) => g.offset == arg && decide (g.tfirst ≤ t ∧ t < g.tfirst + g.tcount)).map fun (g, k) => (k, g)

/-- The tiles of a resource group; several records may name one group. -/
def BaseImage.groupTiles (b : BaseImage) (g : Nat) : List Nat :=
  (b.groups.filter fun x => x.group == g && decide (x.gkind ≤ 1)).flatMap fun x => (List.range x.count).map fun k => x.first + k

/-- The TILE items of a step program that run on a tile, in program order: (entry index, section index, section) (R281). -/
def tileItems (b : BaseImage) (i : FuncImage) (p : StepProg) (t : Nat) : List (Nat × Nat × ProgSection) :=
  p.entries.zipIdx.filterMap fun (e, k) =>
    if e.op = 1 ∧ (b.groupTiles e.group).contains t then (i.sectionAt t e.arg).map fun (n, g) => (k, n, g) else none

/-- Follow every TILE item of one variant on one tile: per item, the entry index, the section index and what was found. -/
def checkTile (b : BaseImage) (i : FuncImage) (p : StepProg) (sh : TileShare) : List (Nat × Nat × ProgFind) :=
  ((tileItems b i p sh.tile).foldl (fun (a : List (Nat × Nat × ProgFind) × ProgSim) (k, n, g) =>
    let f := checkSection i sh g a.2
    (a.1 ++ [(k, n, f)], { f.next with opened := [] })) ([], {})).1

/-! ### Update programs (R190) -/

/-- Whether one run descriptor names the runs of an update program: run number, from UPD_PLATE on, 4 plates each. -/
def updRun (base : Nat) (w : W32) : Option Nat :=
  let p := bits w.toNat 5 0
  if runOk w ∧ base ≤ p ∧ bits w.toNat 16 6 = 0 ∧ (p - base) % 4 = 0 ∧ (p - base) / 4 < 16 then some ((p - base) / 4) else none

/-- One instruction of an update program breaks R190. -/
def updBad (base : Nat) (ws : List W32) : Bool :=
  let op := opcodeOf ws
  let o := vopOf ws
  let n := vecSources op
  let (tys, sub, _) := vecForm op
  let u32Ok := decide (0x70 ≤ op ∧ op ≤ 0x74) || op == 0x76
  let srcs := (if decide (1 ≤ n) then [o.w2] else []) ++ (if decide (2 ≤ n) && o.bsel == 0 then [o.w3] else []) ++
    (if decide (3 ≤ n) && o.csel == 0 then [o.w4] else [])
  !(decide (0x60 ≤ op ∧ op ≤ 0x78) && op != 0x75) || o.w1b15 || !tys.contains o.ty.toNat || decide (sub < o.subop.toNat) ||
    !(o.ty == 0 || (o.ty == 2 && u32Ok)) || (decide (2 ≤ n) && o.bsel == 3) || (decide (3 ≤ n) && o.csel == 3) ||
    srcs.any (fun w => (updRun base w).isNone) ||
    (if op = 0x78 then decide (o.sd.toNat < 6)
     else match updRun base o.w5 with
       | some r => decide (r < 5)
       | none => true)

/-- The runs that an update program names from UPD_PLATE on: the eight of R190 and its temporary ones. -/
def updRuns (base : Nat) (ps : List (List W32)) : Nat :=
  (ps.flatMap fun ws => let o := vopOf ws; [o.w2, o.w3, o.w4, o.w5].filterMap (updRun base)).foldl (fun m r => max m (r + 1)) 8

/-- Whether the runs lie outside the plate share of a tile that takes part in the sweep: one of a group that UCMD names. -/
def updOutside (b : BaseImage) (i : FuncImage) : Bool :=
  let ts := i.steps.flatMap fun p => (p.entries.filter fun e => e.op == 3).flatMap fun e => b.groupTiles e.group
  i.tiles.any fun sh => ts.contains sh.tile &&
    decide (sh.plateCount * 4 < i.job.updPlate + 4 * updRuns i.job.updPlate i.updprog)

/-- The instructions of an update program that break R190, and whether it fails to write W', M' or V'. -/
def updProgram (base : Nat) (ps : List (List W32)) : List Nat × Bool :=
  let outs := ps.filterMap fun ws => if opcodeOf ws = 0x78 then none else updRun base (vopOf ws).w5
  ((ps.zipIdx.filter fun (ws, _) => updBad base ws).map Prod.snd, !([5, 6, 7].all fun r => outs.contains r))

end Sys2Proof.Machine
end

