-- ==== Sys2Proof/Machine/MulePath.lean ====
section
/-! DEFINITION. Where the ends of a mule transfer lie and which paths it crosses (R274, R279), with the rates of those paths,
and the capacity of port windows (R357). -/
namespace Sys2Proof.Machine

/-- A path that R279 gives a rate. -/
inductive Path where
  | stack (k : Nat)
  | d2d (l : Nat)
  | tile (t : Nat)
  | larwa (h : Nat)
  deriving DecidableEq, Repr, Inhabited

/-- The VA, or the tile or die and share-relative offset, that an end of a transfer names: tile id or die in [47:32], the
offset in [31:0] (assumption 20). -/
def endUnit (v : Nat) : Nat := bits v 47 32
def endOff (v : Nat) : Nat := v % 2 ^ 32

/-- The stack of each HBM page of a function, by VPN (R299). -/
def FuncImage.stackMap (i : FuncImage) (list : List Nat) : List (Nat × Nat) :=
  (mapStacks list i.map).filterMap fun e => e.2.1.map fun k => (e.1, k)

/-- The die at which one end of a part lies, and the path its memory is: `pos` is the byte position in the transfer. -/
def State.endAt (s : State) (hbmStacks : List (Nat × Nat)) (sp v port pos : Nat) : DieId × List Path :=
  if sp = 0 then
    match (hbmStacks.find? fun e => e.1 == (v + pos) / pageSize).map Prod.snd with
    | some k => (k / 3, [.stack k])
    | none => (0, [])
  else if sp = 1 then let h := if s.code.hubs = 2 then (v + pos) / pageSize % 2 else 0; (4 + h, [.larwa h])
  else if sp = 2 then (endUnit v, [])
  else if sp = 3 then (endUnit v / 128, [.tile (endUnit v)])
  else (4 + port / 16, [])

/-- Bytes of a packed tensor with its scale bytes (R458). -/
def castSide (fmt sdesc nelem rlen : Nat) : Nat :=
  packedBytes (fmtWidth fmt) nelem + (if fmtIsMX fmt then nelem / max 1 rlen * ceilDiv rlen (sdBlock sdesc) else 0)

/-- Bytes a transfer writes. -/
def Xfer.dstBytes (x : Xfer) : Nat :=
  match x.cast with
  | some c => castSide (cvtFmt x.cvt) (cvtSdesc x.cvt) c.nelem c.rlen
  | none => x.bytes

/-- Bytes of the destination that the first `p` source bytes fill: all as many, but for a cast in proportion. -/
def Xfer.dstPos (x : Xfer) (p : Nat) : Nat := if x.cast.isSome then p * x.dstBytes / max 1 x.bytes else p

/-- The parts of a transfer, as (source position, source bytes): cut where either end crosses a page (R279). -/
def Xfer.cuts (x : Xfer) : List (Nat × Nat) :=
  let srcUp (p l : Nat) : Nat := if x.srcSp ≤ 1 then pageSize - (x.src + p) % pageSize else l
  let dstUp (p l : Nat) : Nat :=
    if x.dstSp ≤ 1 then ceilDiv ((pageSize - (x.dst + x.dstPos p) % pageSize) * x.bytes) (max 1 x.dstBytes) else l
  -- at most one part for each page either end meets
  (List.range (x.bytes / pageSize + x.dstBytes / pageSize + 4)).foldl (fun (acc : List (Nat × Nat) × Nat × Nat) _ =>
    let (r, p, l) := acc
    if l = 0 then acc
    else
      let n := min l (min (srcUp p l) (dstUp p l))
      (r ++ [(p, n)], p + n, l - n)) ([], 0, x.bytes) |>.1

/-- The parts of a transfer with the paths each crosses and the bytes on them: the source's on its own path, the target's on
its own, and the more of the two between dies (R279, R458). -/
def State.xferParts (s : State) (hbmStacks : List (Nat × Nat)) (x : Xfer) : List (List (Path × Nat)) :=
  x.cuts.map fun (pos, n) =>
    let m := x.dstPos (pos + n) - x.dstPos pos
    let (d1, p1) := s.endAt hbmStacks x.srcSp x.src x.port pos
    let (d2, p2) := s.endAt hbmStacks x.dstSp x.dst x.port (x.dstPos pos)
    p1.map (fun p => (p, n)) ++ p2.map (fun p => (p, m)) ++ (routeOf d1 d2).map fun l => (Path.d2d l, max n m)

/-- The rate of a path in bytes per ns, at the assumed rates (R279). -/
def State.pathRate (s : State) (b : BaseImage) (j : Job) : Path → Rat
  | .stack _ => 2460
  | .d2d l => (s.linkRate l : Rat)
  | .tile t => 128 * (((b.speed.find? fun r => r.die == t / 128).map SpeedRec.rate).getD 0 : Rat) / 1000
  | .larwa _ => 128 * (j.lwlGts : Rat) / 64 * (j.lwlWidth : Rat) / 16

/-- The list of an INDEX. -/
def FuncImage.xferList (i : FuncImage) (index : Nat) : Option XferList := i.xfers.find? fun l => l.index == index

/-- Paths that a list crosses. -/
def State.listPaths (s : State) (hbmStacks : List (Nat × Nat)) (l : XferList) : List Path :=
  (l.xfers.flatMap fun x => (s.xferParts hbmStacks x).flatMap fun ps => ps.map Prod.fst).eraseDups

/-- A list's time in ns: for each part the longest time on any path it crosses. `share` is the number of items that share a
path. -/
def State.listTime (s : State) (b : BaseImage) (i : FuncImage) (hbmStacks : List (Nat × Nat)) (share : Path → Nat)
    (l : XferList) : Rat :=
  ((l.xfers.flatMap fun x => s.xferParts hbmStacks x).map fun ps =>
    (ps.map fun (p, n) => let r := s.pathRate b i.job p
      if r = 0 then (2 ^ 64 : Rat) else (n : Rat) * (share p : Rat) / r).foldl max 0).foldl (fun a t => a + t) 0

/-! ### Windows (R356, R357) -/

/-- Window runs of one class: maximal runs of consecutive entries with one WINDOW and the class open: (WINDOW, ns). -/
def windowRuns (tc : Nat) (es : List GateEntry) : List (Nat × Nat) :=
  (es.foldl (fun (a : List (Nat × Nat) × Option (Nat × Nat)) e =>
    let flush := a.1 ++ a.2.toList
    if bitOf e.gates tc then
      match a.2 with
      | some (w, n) => if w = e.window then (a.1, some (w, n + e.interval)) else (flush, some (e.window, e.interval))
      | none => (a.1, some (e.window, e.interval))
    else (flush, none)) ([], none)) |> fun a => a.1 ++ a.2.toList

/-- DATA frames that a slot's windows of a class carry in a window mask, at speed `gb` Gb/s. -/
def windowFrames (g : GateList) (tc mask gb : Nat) : Nat :=
  ((windowRuns tc g.entries).filter fun r => decide (r.1 < 32) && bitOf mask r.1).foldl (fun n r => n + r.2 * gb / 33200) 0

/-- The frames a transfer sends. -/
def Xfer.frames (x : Xfer) : Nat := ceilDiv x.bytes 4096

/-- Whether a list's sends fit the windows of a group in `g` slots. -/
def State.windowsFit (s : State) (b : BaseImage) (group g : Nat) (l : XferList) : Bool :=
  let sends := l.xfers.filter fun x => x.dstSp == 4
  sends.all fun x =>
    let same := sends.filter fun y => y.port == x.port && y.tc == x.tc
    let need := same.foldl (fun n y => n + y.frames) 0
    match b.groups.find? (fun r => r.group == group && r.gkind == 3 && r.first == x.port), b.gates.find? fun r => r.port == x.port with
    | some r, some gl =>
        decide (need ≤ g * windowFrames gl x.tc r.mask (Code.portSpeed s.code (s.port x.port).rate.toNat))
    | _, _ => false

end Sys2Proof.Machine
end

