-- ==== Sys2Proof/Machine/ImageCheck.lean ====
section
/-! DEFINITION. Stages 3 to 5 of the image check (R277): resources, programs and deadlines. -/
namespace Sys2Proof.Machine

/-! ### What an image is checked as -/

/-- The member id under which this module reads an image: by its identity for a base image, else that of the base in force. -/
def State.readMember (s : State) (b : List Byte) : Nat :=
  if (imgHdr b).kind = 0 then (myMember b).getD 0 else (s.base.map BaseImage.member).getD 0

/-- The base image that an image is checked with. -/
def State.checkBase (s : State) (b : List Byte) : BaseImage :=
  if (imgHdr b).kind = 0 then baseOf b (s.readMember b) else s.base.getD {}

/-- The section an image's function uses for a type, and a place in it. -/
def imgPlace (b : List Byte) (type fn m off : Nat) : Place :=
  match secFor (imgDir b) type fn m with
  | some e => (some e.idx, e.off + off)
  | none => (none, 0)

/-- Byte offset of each group of a section. -/
def groupOffs {α : Type} (b : List Byte) (type fn m : Nat) (step : List Byte → α × Nat) : List Nat :=
  (groupRecs (secData b (imgDir b) type fn m) step).1.map Prod.fst

/-! ### Grants (R247, R278) -/

/-- Slots of [START, DUE) granted to a function (R278). -/
def BaseImage.granted (b : BaseImage) (fn : Nat) (e : StepEntry) : Nat :=
  ((List.range (e.due - e.start)).filter fun k => b.grants (e.start + k) e.group fn).length

/-! ### Stage 3: resources -/

/-- Functions in force beside those an image defines, with their definitions. -/
def State.otherImages (s : State) (mask : Nat) : List (Nat × FuncImage) :=
  s.images.filter fun e => !bitOf mask e.1

/-- Whether two shares of one tile overlap (R33). -/
def TileShare.clash (x y : TileShare) : Bool :=
  x.tile == y.tile && ((List.range 4).any (fun k => bitOf x.accMask k && bitOf y.accMask k) ||
    overlap x.plateBase x.plateCount y.plateBase y.plateCount || overlap x.sramBase x.sramCount y.sramBase y.sramCount)

/-- The faults of one tile share (R31, R33, R116): units past the tile's end, a tile not fitted or out of service, or a
share that meets one of `seen`; a fifth function on one tile (R32). -/
def State.shareBad (s : State) (seen : List TileShare) (x : TileShare) : Bool :=
  !s.tileFitted x.tile || (s.tile x.tile).outOfService || decide (16 < x.plateBase + x.plateCount) ||
    decide (32 < x.sramBase + x.sramCount) || decide (15 < x.accMask) || seen.any (TileShare.clash x) ||
    decide (4 ≤ (seen.filter fun y => y.tile == x.tile).length)

/-- Whether two definitions share staging units, queue groups or ERT groups (R31). -/
def FuncImage.clash (x y : FuncImage) : Bool :=
  ((x.staging.zip y.staging).any fun (a, b) => overlap a.1 a.2 b.1 b.2) || overlap x.qfirst x.qcount y.qfirst y.qcount ||
    overlap x.ertBase x.ertCount y.ertBase y.ertCount

/-- The faults of FRES beside its tiles: staging past a die's 32 MiB, group 0 or queues past the last group (R329), ERT
groups past the last (R217), or units of another function. -/
def State.fresBad (s : State) (others : List FuncImage) (i : FuncImage) : Bool :=
  (i.staging.zipIdx.any fun (a, d) => decide (32 < a.1 + a.2) || (decide (0 < a.2) && !s.dieFitted d)) ||
    (decide (0 < i.qcount ∧ i.qfirst = 0)) || decide (2048 < i.qfirst + i.qcount) || decide (256 < i.ertBase + i.ertCount) ||
    others.any (FuncImage.clash i)

/-- HBM pages of a stack that accepted images can be given: those fitted, less retired or withdrawn ones, less firmware's. -/
def State.stackPages (s : State) (k : Nat) : Nat :=
  if (s.stack k).failed then 0
  else
    let gone := (s.pages.filter fun e => e.1 / 32768 == k && (e.2.withdrawn || e.2.health == .retired)).length
    32768 - gone - (if k = 0 then 16 else 0)

/-- Whether the demands on each stack fit (R277). -/
def State.pagesFit (s : State) (is : List FuncImage) : Bool :=
  s.stackList.all fun k => decide ((is.foldl (fun n i => n + i.demand s.stackList k) 0) ≤ s.stackPages k)

/-- Whether an extent lies within the MAP ranges (R275). -/
def FuncImage.mapsPages (i : FuncImage) (vpn n : Nat) : Bool :=
  (List.range n).all fun k => i.map.any fun r => decide (r.vpn ≤ vpn + k ∧ vpn + k < r.vpn + r.npage)

/-- The faults of the regions that the JOB record places (R275, R201, R218). -/
def FuncImage.jobBad (i : FuncImage) (members m : Nat) : Bool :=
  let es := i.extents members m
  es.any (fun e => !i.mapsPages e.1 e.2) ||
    ((es.zipIdx).any fun (e, k) => (es.drop (k + 1)).any fun f => overlap e.1 e.2 f.1 f.2) ||
    decide (i.job.nslot < (i.chunks.filter (i.ownsChunk members m)).length) || decide (i.job.poolSlots < i.poolNeed)

/-- The faults of an expert layer's resources (R218). -/
def FuncImage.expertsBad (i : FuncImage) (l : ExpertLayer) : Bool :=
  let n := l.experts.length
  decide (l.ertBase < i.ertBase * 1024 ∨ (i.ertBase + i.ertCount) * 1024 < l.ertBase + n) ||
    (l.experts.any fun x => x.parked && decide (i.job.slotPages < x.npage)) ||
    i.experts.any fun k => k.layer != l.layer && overlap l.ertBase n k.ertBase k.experts.length

/-! #### What items touch (R141, R350) -/

/-- Something an item touches: the space (0 HBM or companion VA, 2 staging, 3 tile SRAM), the die or tile, a range, and
whether it is written. -/
structure Touch where
  space : Nat
  unit : Nat
  lo : Nat
  n : Nat
  write : Bool
  deriving DecidableEq, Repr, Inhabited

def Touch.meets (a b : Touch) : Bool :=
  a.space == b.space && a.unit == b.unit && (a.write || b.write) && overlap a.lo a.n b.lo b.n

/-- One end of a transfer. -/
def endTouch (sp v n : Nat) (w : Bool) : List Touch :=
  if sp ≤ 1 then [{ space := 0, unit := 0, lo := v, n := n, write := w }]
  else if sp ≤ 3 then [{ space := sp, unit := endUnit v, lo := endOff v, n := n, write := w }]
  else []

def Xfer.touches (x : Xfer) : List Touch := endTouch x.srcSp x.src x.bytes false ++ endTouch x.dstSp x.dst x.dstBytes true

/-- The items of a variant with what each touches: (entry index, entry, touches). -/
def FuncImage.itemTouches (i : FuncImage) (p : StepProg) (tiles : List (Nat × List (Nat × Nat × ProgFind))) :
    List (Nat × StepEntry × List Touch) :=
  p.entries.zipIdx.map fun (e, k) =>
    if e.op = 2 then (k, e, ((i.xferList e.arg).map fun l => l.xfers.flatMap Xfer.touches).getD [])
    else if e.op = 1 then
      (k, e, tiles.flatMap fun (t, fs) => (fs.filter fun f => f.1 == k).flatMap fun (_, _, f) =>
        let side (w : Bool) (r : Rel) : Touch := { space := 3, unit := t, lo := r.1.toNat, n := r.2, write := w }
        f.reads.map (side false) ++ f.writes.map (side true))
    else (k, e, [])

/-- MULE items that touch tile SRAM which a TILE item touches in a common slot, one of them writing (R141). -/
def hazards (is : List (Nat × StepEntry × List Touch)) : List Nat :=
  (is.filter fun (_, e, ts) => e.op == 2 && is.any fun (_, f, us) =>
    f.op == 1 && decide (e.start < f.due ∧ f.start < e.due) && ts.any fun a => a.space == 3 && us.any (Touch.meets a)).map Prod.fst

/-- MULE items that write a range of a recorded MMA while its bank still needs it (R112): from the start of the TILE item that
leaves it recorded to the end of the next TILE item of that tile, or of the step. -/
def recordedHits (p : StepProg) (tiles : List (Nat × List (Nat × Nat × ProgFind))) (is : List (Nat × StepEntry × List Touch)) :
    List Nat :=
  let entry (k : Nat) : StepEntry := (p.entries[k]?).getD default
  let spans := tiles.flatMap fun (t, fs) => fs.zipIdx.flatMap fun (x, n) =>
    let until_ := (fs[n + 1]?).map fun y => (entry y.1).due
    (x.2.2.next.recorded.flatMap Prod.snd).map fun r => (t, (entry x.1).start, until_, r)
  (is.filter fun (_, e, us) => e.op == 2 && us.any fun u => u.write && u.space == 3 && spans.any fun (t, from_, until_, r) =>
    u.unit == t && decide (from_ < e.due) && until_.all (fun d => decide (e.start < d)) && overlap u.lo u.n r.1.toNat r.2).map
      Prod.fst

/-- TILE, MULE and UCMD items of a group that is not named, or of which no slot is granted to the function (R247). -/
def BaseImage.ungranted (b : BaseImage) (fn : Nat) (p : StepProg) : List Nat :=
  (p.entries.zipIdx.filter fun (e, _) => decide (1 ≤ e.op ∧ e.op ≤ 3) &&
    (!(b.groups.any fun g => g.group == e.group) || b.granted fn e == 0)).map Prod.snd

/-- MULE items with a receiving transfer whose destination another item touches before it is due (R350). `sentAt` is the
START of the item that sends it, on the neighbour. -/
def received (i : FuncImage) (is : List (Nat × StepEntry × List Touch)) (sentAt : Xfer → Nat) : List Nat :=
  (is.filter fun (k, e, _) => e.op == 2 && ((i.xferList e.arg).map XferList.xfers).any fun xs => xs.any fun x =>
    x.srcSp == 4 && is.any fun (j, f, us) => j != k && decide (f.start < e.due ∧ sentAt x < f.due) &&
      (endTouch x.dstSp x.dst x.dstBytes true).any fun a => us.any (Touch.meets a)).map Prod.fst

/-! #### Stage 3 as a whole -/

/-- The checks of every tile of a function under one variant: (tile, what was found of each item). -/
def tileFinds (b : BaseImage) (i : FuncImage) (p : StepProg) : List (Nat × List (Nat × Nat × ProgFind)) :=
  i.tiles.map fun sh => (sh.tile, checkTile b i p sh)

/-- START of the neighbour's MULE item that sends the transfer a receiving transfer names; 0 where the neighbour has none. -/
def State.senderStart (s : State) (b : List Byte) (base : BaseImage) (fn var : Nat) (x : Xfer) : Nat :=
  match s.role x.port with
  | none => 0
  | some r =>
    let p := peerOf base.x base.y base.z base.member r
    match (stepsOf b fn p).find? fun q => q.var == var with
    | some q => ((q.entries.find? fun e => e.op == 2 && e.arg == x.src % 2 ^ 32).map StepEntry.start).getD 0
    | none => 0

/-- Places of TILEPROG instructions. -/
def instrPlace (b : List Byte) (fn m g k : Nat) : Place :=
  imgPlace b tyTileprog fn m ((groupOffs b tyTileprog fn m progStep).getD g 0 + 32 + 32 * k)

/-- Place of a step program's entry. -/
def entryPlace (b : List Byte) (fn m v k : Nat) : Place :=
  imgPlace b tyStepprog fn m ((groupOffs b tyStepprog fn m stepStep).getD v 0 + 16 + 16 * k)

/-- Resource faults of one function. -/
def State.funcResources (s : State) (b : List Byte) (fn : Nat) : List Place :=
  let base := s.checkBase b
  let m := base.member
  let n := base.x * base.y * base.z
  let i := funcOf b fn m
  let mask := (imgHdr b).funcMask
  let mates := ((maskFuncs mask).filter fun f => f != fn).map fun f => funcOf b f m
  let others := (s.otherImages mask).map Prod.snd ++ mates
  let at_ (p : Bool) (ty o : Nat) : List Place := if p then [imgPlace b ty fn m o] else []
  let earlier (k : Nat) : List TileShare := i.tiles.take k ++ others.flatMap FuncImage.tiles
  at_ (s.fresBad others i) tyFres 0 ++
    ((i.tiles.zipIdx.filter fun (x, k) => s.shareBad (earlier k) x).map fun (_, k) => imgPlace b tyFres fn m (32 + 8 * k)) ++
    at_ (!s.pagesFit (i :: others)) tyMap 0 ++ at_ (i.jobBad n m) tyJob 0 ++
    ((i.experts.zip (groupOffs b tyExperts fn 0xFFFF expertStep)).filter fun (l, _) => i.expertsBad l).flatMap
      (fun (_, o) => [imgPlace b tyExperts fn 0xFFFF o]) ++
    i.steps.zipIdx.flatMap fun (p, v) =>
      let fs := tileFinds base i p
      let is := i.itemTouches p fs
      ((p.entries.zipIdx.filter fun (e, _) => e.op == 6 && e.start % max 1 base.grantG != 0).map
          fun (_, k) => entryPlace b fn m v k) ++
        (fs.flatMap fun (_, xs) => xs.flatMap fun (_, g, f) => f.resource.map fun k => instrPlace b fn m g k) ++
        (base.ungranted fn p ++ hazards is ++ recordedHits p fs is ++ received i is (s.senderStart b base fn p.var)).map
          fun k => entryPlace b fn m v k

/-- Whether two resource groups share an engine, a mule or a window. -/
def GroupRec.clash (x y : GroupRec) : Bool :=
  x.gkind == y.gkind &&
    (if x.gkind ≤ 1 then overlap x.first x.count y.first y.count
     else (x.gkind == 2 || x.first == y.first) && (List.range 32).any fun k => bitOf x.mask k && bitOf y.mask k)

/-- Resource faults of a base image: G, and a slot of one engine, mule or window granted to two functions (R31, R247). -/
def State.baseResources (s : State) (b : List Byte) : List Place :=
  let x := s.checkBase b
  let m := x.member
  let gOk := decide (1 ≤ x.grantG ∧ x.grantG ≤ 65536) && x.grantG == 2 ^ Nat.log2 x.grantG
  let pairs := x.groups.zipIdx.flatMap fun (g, k) => ((x.groups.drop (k + 1)).filter (GroupRec.clash g)).map fun h => (g, h)
  let rowBad (r : List Nat) : Bool := pairs.any fun (g, h) =>
    let a := r.getD g.group 0xFF
    let c := r.getD h.group 0xFF
    a != 0xFF && c != 0xFF && a != c
  (if gOk then [] else [imgPlace b tyGrant 0xFF m 0]) ++
    (x.grantRows.zipIdx.filter fun (r, _) => rowBad r).map fun (_, k) =>
      imgPlace b tyGrant 0xFF m (8 + k * roundUp ((x.grantRows.headD []).length) 4)

/-- Stage 3: R269's condition, the base of a function image, and resources across every accepted image. -/
def State.stage3 (s : State) (b : List Byte) : List Place :=
  let h := imgHdr b
  if h.kind = 0 then
    (if funcIds.all fun n => (s.func n).state == .off then [] else [(none, 0)]) ++ s.baseResources b
  else if s.base.isNone then [(none, 32)]
  else
    (if (maskFuncs h.funcMask).all fun n => (s.func n).state == .off then [] else [(none, 20)]) ++
      (maskFuncs h.funcMask).flatMap (s.funcResources b)

/-! ### Stage 4: programs -/

/-- The refusals of R355, R344 and R458 for one transfer. -/
def State.xferBad (s : State) (b : BaseImage) (x : Xfer) : Bool :=
  let usesPort := x.srcSp == 4 || x.dstSp == 4
  let portOk := match s.role x.port with
    | some r => portUsed b.x b.y b.z r
    | none => false
  let castBad := match x.cast with
    | none => x.cvt != 0 || x.sfmt != 0 || x.ssdesc != 0
    | some c =>
      fmtReserved x.sfmt || cvtReserved x.cvt || (fmtIsMX x.sfmt && (sdReserved x.ssdesc || sdDir x.ssdesc == 1)) ||
        (fmtIsMX (cvtFmt x.cvt) && sdDir (cvtSdesc x.cvt) == 1) || x.dstSp == 4 ||
        decide (c.rlen < 1 ∨ c.nelem < c.rlen) || c.nelem % max 1 c.rlen != 0 ||
        (cvtRnd x.cvt == 2 && !srFits c.ibase c.rstride (max 1 c.rlen) c.nelem) ||
        x.bytes != castSide x.sfmt x.ssdesc c.nelem c.rlen
  decide (5 < x.tc) || (usesPort && !portOk) || castBad

/-- Whether the neighbour's image sends what a receiving transfer names on the facing port (R350). -/
def State.senderOk (s : State) (b : List Byte) (base : BaseImage) (fn : Nat) (x : Xfer) : Bool :=
  match s.role x.port with
  | none => false
  | some r =>
    let p := peerOf base.x base.y base.z base.member r
    match (xfersOf b fn p).find? fun l => l.index == x.src % 2 ^ 32 with
    | some l => (l.xfers[bits x.src 47 32]?).any fun y => y.dstSp == 4 && s.role y.port == some (facing r)
    | none => false

/-- v = W × 2^k for some k. -/
def pow2Times (w v : Nat) : Bool := w != 0 && v % w == 0 && v / w != 0 && v / w == 2 ^ Nat.log2 (v / w)

/-- Cuts and mapping (R146, R147, R241, R242). -/
def Job.cutsOk (j : Job) (x y z : Nat) : Bool :=
  let n := x * y * z
  let pow (v : Nat) : Bool := v == 2 ^ Nat.log2 v && v != 0
  let part (v : Nat) : Bool :=
    (v != 0 && x % v == 0) || (v % x == 0 && x * y % v == 0) || v % (x * y) == 0
  let md := j.md n
  pow j.shards && decide (8 ≤ j.shards ∧ j.shards ≤ 4096) && [1, 2, 4, 8].contains j.t && [1, 2, 4, 8].contains j.q &&
    decide (1 ≤ j.p ∧ j.p ≤ 64) && n == md * j.t * j.p * j.q && md != 0 && j.shards % max 1 md == 0 &&
    part j.q && part (j.q * j.t) && part (j.q * j.t * md)

/-- The parts of a logical shard's tokens that the sequence cut makes are nodes (R147, R149): T / (L × q) is W × 2^m. -/
def Job.partsOk (j : Job) (w : Nat) : Bool := j.variants.all fun (_, t) => t % (j.shards * j.q) == 0 && pow2Times w (t / (j.shards * j.q))

/-- W of a layer: that of its ROLE 1 trees (R281). -/
def FuncImage.layerW (i : FuncImage) (l : Nat) : Option Nat :=
  (i.trees.find? fun t => t.role == 1 && t.layer == l).map fun t => wOf t.wcode

/-- The micro-batch variants against a layer's W (R108, R149, R157). -/
def Job.variantsOk (j : Job) (w : Nat) : Bool :=
  j.variants.all fun (c, t) =>
    c != 0 && t % j.shards == 0 && pow2Times w (t / j.shards) && t / j.shards % c == 0 && t / j.shards / c % w == 0 &&
      (j.mode == 0 || (c == 2 ^ Nat.log2 c && pow2Times w (t / j.shards / c)))

/-- R220 for one expert layer. -/
def FuncImage.dispatchOk (i : FuncImage) (l : ExpertLayer) : Bool :=
  let w := (i.layerW l.layer).getD 32
  let n := l.experts.length
  l.d != 0 && l.d == 2 ^ Nat.log2 l.d && pow2Times w l.cap && decide (l.cap ≤ l.d ∧ 1 ≤ l.k ∧ l.k ≤ n) &&
    (i.job.variants.all fun (c, t) => t / i.job.shards / max 1 c % l.d == 0 && decide (t / l.d * l.cap ≤ 2 ^ 30)) &&
    (l.experts.all fun x => decide (x.lshard < i.job.shards)) && i.layers.any fun y => y.layer == l.layer && y.expert

/-- A layer record's faults: NCHUNK (R184), tags (R192), its stage (R147), and the sequence cut for its W. Where a LAYER comes
again, the first record gives all but ROWS and COLS, and only an expert layer may repeat (R214, assumption 75). -/
def FuncImage.layerBad (i : FuncImage) (l : Layer) : Bool :=
  let n := (i.layerChunks l).length
  let per := match i.expertLayer l.layer with
    | some e => if l.expert then e.experts.length else 1
    | none => 1
  let span := (per * matsSize (i.mats l) - 1) / 2 ^ 32
  l.nchunk != n || decide (0xFFF < l.wtag + span ∨ 0xFFF < l.mtag + span) || overlap l.wtag (span + 1) l.mtag (span + 1) ||
    decide (i.job.p * i.job.v ≤ l.stage) ||
    (match i.layerW l.layer with
     | some w => !i.job.variantsOk w || !i.job.partsOk w
     | none => false)

/-- A preconditioner group's faults (R207). -/
def FuncImage.groupFault (i : FuncImage) (g : PreGroup) : Bool :=
  let pOk (p : Nat) : Bool := [1, 2, 4].contains p
  let pos (w : W32) : Bool := !nonfinite w && decide (0 < w.toNat ∧ w.toNat < 2 ^ 31)
  decide (g.a < 1 ∨ 32 < g.a ∨ g.b < 1 ∨ 16 < g.b ∨ g.sides < 1 ∨ 3 < g.sides ∨ g.kmax < 1 ∨ 64 < g.kmax ∨ g.n < 1 ∨
      g.n ≤ g.offset) || (g.has true && !pOk g.pL) || (g.has false && !pOk g.pR) || !pos g.betaP ||
    decide (0x3F800000 < g.betaP.toNat) || !pos g.lambda0 || nonfinite g.tol ||
    (match i.layer g.layer with
     | none => true
     | some l =>
       let nc := ceilDiv l.cols 128
       decide (l.rows < 64 * (g.brow + g.a) ∨ l.cols < 128 * (g.bcol + g.b)) ||
         (let per := ceilDiv (matsBlocks none (i.mats l)).length i.job.shards
          !l.expert && !((List.range g.a).all fun r => (List.range g.b).all fun c =>
            ((g.brow + r) * nc + g.bcol + c) / max 1 per == g.lshard)))

/-- Whether chunk ids of a function are all different (R184). -/
def FuncImage.chunkIdsClash (i : FuncImage) : Bool :=
  let ids := i.chunks.map Chunk.id
  ids.zipIdx.any fun (c, k) => (ids.take k).contains c

/-- The parts of a TREES record that are no node, or that share a span with an earlier part (R90, R281), by number. -/
def badParts (t : TreeRec) : List Nat :=
  let n := ceilDiv t.k (wOf t.wcode)
  let span (p : Nat × Nat) : Nat × Nat := nodeSpan n p.1 p.2
  (t.parts.zipIdx.filter fun (p, k) => !isNode n p.1 p.2 || (t.parts.take k).any fun q =>
    decide ((span p).1 < (span q).2 ∧ (span q).1 < (span p).2)).map Prod.snd

/-- The faults of a TREES record that no part shows (R75, R88, R90, R281): its K, a span that no part covers, an INT tree of
several parts, one of the weight-gradient product of a layer whose K runs over several micro-batches, and its layer. -/
def treeBad (i : FuncImage) (t : TreeRec) : Bool :=
  let n := ceilDiv t.k (wOf t.wcode)
  decide (t.k < 1 ∨ 2 ^ 30 < t.k) ||
    (t.parts.foldl (fun c p => let (a, b) := nodeSpan n p.1 p.2; c + (b - a)) 0) != n ||
    (t.int && (t.parts != [(clog2 n, 0)] || (t.role == 1 && i.job.variants.any fun v => decide (1 < v.1)))) ||
    (t.role == 1 && (!(i.layers.any fun l => l.layer == t.layer) ||
      i.trees.any fun u => u.role == 1 && u.layer == t.layer && u.wcode != t.wcode))

/-- MMAs into an INT bank of a layer's weight gradient that do not cover one whole parameter block (R88): a split in M that is
no multiple of 64, or in N no multiple of 128. -/
def intSplits (i : FuncImage) (g : ProgSection) : List Nat :=
  (g.instrs.zipIdx.foldl (fun (a : List Nat × List (Nat × Nat)) (ws, k) =>
    let o := mtreeOf ws
    let bank := o.bank.toNat
    if opcodeOf ws = 0x41 then (a.1, tset 0 a.2 bank (if o.int then o.tree.toNat + 1 else 0))
    else if opcodeOf ws = 0x40 then
      let m := mmaOf ws
      let tree := tget 0 a.2 m.bank.toNat
      match (if tree = 0 then none else i.treeBlock (tree - 1)) with
      | some (_, _, _, b) => if m.rowsM1.toNat + 1 = b.rows ∧ m.colsM1.toNat + 1 = b.cols then a else (a.1 ++ [k], a.2)
      | none => a
    else a) ([], [])).1

/-- Whether an opening of a bank or chain names a declared part (R281). -/
def openingOk (i : FuncImage) (ws : List W32) : Bool :=
  let o := mtreeOf ws
  let go (tree level pos wcode nspanM1 : Nat) (int : Option Bool) : Bool :=
    match i.trees.find? fun t => t.tree == tree with
    | none => false
    | some t => t.parts.contains (level, pos) && t.wcode == wcode && nspanM1 + 1 == ceilDiv t.k (wOf t.wcode) &&
        (int.isNone || int == some t.int)
  if opcodeOf ws = 0x41 then go o.tree.toNat o.level.toNat o.pos.toNat o.wcode.toNat o.nspanM1.toNat (some o.int)
  else if opcodeOf ws = 0x88 then go o.tree.toNat o.level.toNat o.pos.toNat o.wcode.toNat o.nspanM1.toNat none
  else true

/-- The TILEPROG sections that a member runs in a variant, in program order: (section group index, section). -/
def runSections (i : FuncImage) (p : StepProg) : List (Nat × ProgSection) :=
  p.entries.flatMap fun e => if e.op = 1 then (i.progs.zipIdx.filter fun (g, _) => g.offset == e.arg).map fun (g, k) => (k, g) else []

/-- Openings of each part of a tree in a variant, over every member's programs, a section that several members or tiles run
counting once for each time the step program issues it. -/
def openings (b : List Byte) (fn members var : Nat) : List (Nat × Nat × Nat) :=
  let dir := imgDir b
  let keys := ((List.range members).map fun m => ((secFor dir tyStepprog fn m).map Sec.idx, (secFor dir tyTileprog fn m).map Sec.idx, m))
  let firsts := keys.zipIdx.filter fun (k, n) => !(keys.take n).any fun q => q.1 == k.1 && q.2.1 == k.2.1
  (firsts.map fun (k, _) => k.2.2).flatMap fun m =>
    let i := funcOf b fn m
    match i.steps.find? fun p => p.var == var with
    | none => []
    | some p => (runSections i p).flatMap fun (_, g) => g.instrs.filterMap fun ws =>
        let o := mtreeOf ws
        if opcodeOf ws = 0x41 ∨ opcodeOf ws = 0x88 then some (o.tree.toNat, o.level.toNat, o.pos.toNat) else none

/-- The parts of a tree that a variant does not open exactly once, by number, where it opens the tree at all (R281). -/
def badOpens (t : TreeRec) (os : List (Nat × Nat × Nat)) : List Nat :=
  if os.any fun o => o.1 == t.tree then
    (t.parts.zipIdx.filter fun (p, _) => (os.filter fun o => o == (t.tree, p.1, p.2)).length != 1).map Prod.snd
  else []

/-- Places in a TREES record: its header, or its parts. -/
def treePlaces (b : List Byte) (fn o : Nat) (header : Bool) (parts : List Nat) : List Place :=
  (if header then [imgPlace b tyTrees fn 0xFFFF o] else []) ++ parts.map fun k => imgPlace b tyTrees fn 0xFFFF (o + 16 + 8 * k)

/-- Bias rules of R312: the ledger ring shared; parked homes, with their optimiser state, and offloaded activations in
device-bias pages. The home pages of other experts lie in HBM (R215). -/
def FuncImage.biasBad (i : FuncImage) : Bool :=
  let bias (p : Nat) : Option (Nat × Nat) :=
    (i.map.find? fun r => decide (r.vpn ≤ p ∧ p < r.vpn + r.npage)).map fun r => (r.tier, r.bias)
  let ring := (List.range (ceilDiv (2 ^ i.job.ledgerLog2 * 64) pageSize)).map fun k => i.job.ledgerVpn + k
  let pages (p : Bool) : List Nat := i.experts.flatMap fun l => l.experts.flatMap fun x =>
    if x.parked == p then (List.range x.npage).map fun k => x.homeVpn + k else []
  let homes := pages true ++ i.heads.flatMap fun l => ((i.expertLayer l.layer).map fun e =>
    (List.range e.experts.length).filter (i.expertParked l.layer)).getD [] |>.flatMap fun x =>
      (i.parkedState l x).flatMap fun r => pagesOf r.1 r.2
  let offs := i.xfers.flatMap fun l => l.xfers.flatMap fun x => if x.dstSp = 1 then pagesOf x.dst x.dstBytes else []
  ring.any (fun p => bias p != some (1, 1)) || ((homes ++ offs).any fun p => bias p != some (1, 0)) ||
    (pages false).any fun p => (bias p).any fun x => x.1 != 0

/-- Program faults of one function. -/
def State.funcPrograms (s : State) (b : List Byte) (fn : Nat) : List Place :=
  let base := s.checkBase b
  let m := base.member
  let members := base.x * base.y * base.z
  let i := funcOf b fn m
  let j := i.job
  let at_ (p : Bool) (ty mm o : Nat) : List Place := if p then [imgPlace b ty fn mm o] else []
  let xo := groupOffs b tyXfer fn m xferListStep
  let xl := (groupRecs (secData b (imgDir b) tyXfer fn m) xferListStep).1
  let (ub, missing) := updProgram j.updPlate i.updprog
  let topo := groupOffs b tyTrees fn 0xFFFF treeStep
  at_ (!j.cutsOk base.x base.y base.z || i.chunkIdsClash || i.biasBad) tyJob 0xFFFF 0 ++
    at_ (j.fillOf != 0xFF && !bitOf (imgHdr b).funcMask j.fillOf) tyJob 0xFFFF 80 ++
    at_ (!i.layers.isEmpty && (cvtReserved j.cvtM || cvtFmt j.cvtM != 5 || cvtSdesc j.cvtM != 2 || cvtRnd j.cvtM == 1)) tyJob 0xFFFF 44 ++
    (if j.nvar = j.variants.length ∧ j.variants.all (fun v => v.1 ≠ 0 ∧ (j.mode = 0 ∨ v.1 = 2 ^ Nat.log2 v.1)) then [] else [imgPlace b tyJob fn 0xFFFF 96]) ++
    ((i.layers.zipIdx.filter fun (l, _) => i.layerBad l).map fun (_, k) => imgPlace b tyLayers fn 0xFFFF (32 * k)) ++
    ((i.experts.zip (groupOffs b tyExperts fn 0xFFFF expertStep)).filter fun (l, _) => !i.dispatchOk l).map
      (fun (_, o) => imgPlace b tyExperts fn 0xFFFF o) ++
    ((i.precond.zipIdx.filter fun (g, _) => i.groupFault g).map fun (_, k) => imgPlace b tyPrecond fn 0xFFFF (48 * k)) ++
    (ub.map fun k => imgPlace b tyUpdprog fn 0xFFFF (32 + 32 * k)) ++ at_ (!i.layers.isEmpty && missing) tyUpdprog 0xFFFF 0 ++
    at_ (!i.layers.isEmpty && updOutside base i) tyJob 0xFFFF 18 ++
    (i.progs.zipIdx.flatMap fun (g, n) =>
      (((i.tiles.filter fun sh => decide (g.tfirst ≤ sh.tile ∧ sh.tile < g.tfirst + g.tcount)).flatMap fun sh =>
        sectionForm i sh g) ++ intSplits i g).map (fun k => instrPlace b fn m n k) ++
      (g.instrs.zipIdx.filter fun (ws, _) => !opcodeKnown (opcodeOf ws) || !openingOk i ws ||
        (decide (0x60 ≤ opcodeOf ws) && !vecFormOk (opcodeOf ws) (vopOf ws))).map fun (_, k) => instrPlace b fn m n k) ++
    (xl.flatMap fun (o, l) => (l.2.filter fun (_, x) => s.xferBad base x ||
        (x.srcSp == 4 && !s.senderOk b base fn x)).map fun (k, _) => imgPlace b tyXfer fn m (o + k)) ++
    ((i.xfers.zip xo).zipIdx.filter fun ((l, _), k) => (i.xfers.take k).any fun q => q.index % 65536 == l.index % 65536 &&
        l.xfers.any fun x => x.dstSp == 4 && q.xfers.any fun y => y.dstSp == 4 && y.port == x.port).map
      (fun ((_, o), _) => imgPlace b tyXfer fn m o) ++
    (i.steps.zipIdx.flatMap fun (p, v) =>
      ((tileFinds base i p).flatMap fun (_, xs) => xs.flatMap fun (_, g, f) => f.shape.map fun k => instrPlace b fn m g k) ++
        ((p.entries.zipIdx.filter fun (e, _) => e.op == 2 && (i.xferList e.arg).isNone).map fun (_, k) => entryPlace b fn m v k) ++
        (i.trees.zip topo).flatMap fun (t, o) => treePlaces b fn o false (badOpens t (openings b fn members p.var))) ++
    (i.trees.zip topo).flatMap fun (t, o) => treePlaces b fn o
      (treeBad i t || !(i.steps.any fun p => (openings b fn members p.var).any fun x => x.1 == t.tree)) (badParts t)

/-- Consecutive times at which a class is open: (start, length) of each run. -/
def openRuns (c : Nat) (es : List GateEntry) : List (Nat × Nat) :=
  (es.foldl (fun (a : List (Nat × Nat) × Option (Nat × Nat) × Nat) e =>
    let (done, cur, t) := a
    if bitOf e.gates c then
      match cur with
      | some (b, n) => (done, some (b, n + e.interval), t + e.interval)
      | none => (done, some (t, e.interval), t + e.interval)
    else (done ++ cur.toList, none, t + e.interval)) ([], none, 0)) |> fun a => a.1 ++ a.2.1.toList

/-- A GATES record's faults: intervals on any port, and on a herd port the classes of R358. -/
def gatesBad (herd : Bool) (g : GateList) : Bool :=
  let t7 := openRuns 7 g.entries
  let t6 := openRuns 6 g.entries
  g.entries.any (fun e => e.interval == 0 || e.interval % 8 != 0) ||
    (g.entries.foldl (fun n e => n + e.interval) 0) != 1024 ||
    (herd && (t7.length != 2 || t7.any (fun r => decide (r.2 < 32 ∨ 560 < r.1 + r.2)) ||
      (match t7 with
       | [a, c] => decide (c.1 < a.1 + a.2 + 128)
       | _ => false) || !(t6.any fun r => decide (32 ≤ r.2)) ||
      g.entries.any fun e => (bitOf e.gates 7 || bitOf e.gates 6) && e.window != 0xFF))

/-- The register page that holds LWL_FSTATn (R324, R343). -/
def fstatPage : Nat := regBase + 0x610000

/-- Program faults of a base image: gate lists (R358), and functions whose PAGES grants do not begin with their LWL_FSTATn
page (R324). `fstat` gives that page of a function. -/
def State.basePrograms (s : State) (b : List Byte) (fstat : Nat → Nat) : List Place :=
  let x := s.checkBase b
  let m := x.member
  let offs := groupOffs b tyGates 0xFF m gateStep
  (((x.gates.zip offs).filter fun (g, _) => gatesBad (s.isHerdPort g.port) g).map fun (_, o) => imgPlace b tyGates 0xFF m o) ++
    (funcIds.flatMap fun n =>
      match x.pages.zipIdx.find? fun (r, _) => r.func == n with
      | some (r, k) => if r.page = fstat n then [] else [imgPlace b tyPages 0xFF 0xFFFF (16 * k)]
      | none => [])

/-! ### Stage 5: deadlines (R278 to R280, R284) -/

/-- Entry i of a die's factory table: 16-bit entries that do not decrease with i (R284). -/
def factoryRate (d i : Nat) : Nat := (List.range (i + 1)).foldl (fun m k => max m (Config.speedTable d k % 65536)) 0

/-- The factory table's entry at a supply of `vmv` mV (R284). -/
def tableRate (d vmv : Nat) : Nat := factoryRate d ((vmv - 600) / 10)

/-- Beats in a slot at a die's assumed rate (R278). -/
def BaseImage.beatsPerSlot (b : BaseImage) (d : Nat) : Nat :=
  ((b.speed.find? fun r => r.die == d).map SpeedRec.rate).getD 0 * 1024 / 1000

/-- D_s and H (R255). -/
def herdReach (x y z : Nat) : Nat := if x * y * z = 1 then 0 else (x + 1) / 2 + (y + 1) / 2 + (z + 1) / 2
def herdH (x y z : Nat) : Nat := herdReach x y z + 1

/-- Bytes the Larwa links move in a slot at the recorded rate and width, one link per hub die (R237, R279). -/
def Job.lwlSlot (j : Job) (hubs : Nat) : Nat := hubs * (128 * 1024 * j.lwlGts * j.lwlWidth / 1024)

/-- Whether an item meets its deadline (R279). -/
def State.itemOk (s : State) (base : BaseImage) (i : FuncImage) (fn : Nat) (p : StepProg)
    (finds : List (Nat × List (Nat × Nat × ProgFind))) (hbmStacks : List (Nat × Nat)) (k : Nat) (e : StepEntry) : Bool :=
  let g := base.granted fn e
  if e.op = 1 then
    let ts := base.groupTiles e.group
    let beats := finds.flatMap fun (_, xs) => (xs.filter fun x => x.1 == k).map fun (_, _, f) => f.beats
    let slow := ((ts.map fun t => base.beatsPerSlot (t / 128)).min?).getD 0
    decide (beats.foldl max 0 ≤ g * slow)
  else if e.op = 2 then
    match i.xferList e.arg with
    | none => false
    | some l =>
      let peers := (p.entries.zipIdx.filter fun (f, n) => f.op == 2 && n != k && decide (e.start < f.due ∧ f.start < e.due)).filterMap
        fun (f, _) => (i.xferList f.arg).map (s.listPaths hbmStacks)
      let share (q : Path) : Nat := 1 + (peers.filter fun ps => ps.contains q).length
      decide (s.listTime base i hbmStacks share l ≤ (g * 1024 : Nat)) && s.windowsFit base e.group g l
  else if e.op = 3 then decide (1 ≤ g)
  else if e.op = 4 then decide (herdH base.x base.y base.z ≤ e.due - e.start)
  else if e.op = 5 then
    let pages := ((i.expertLayer e.arg).map fun l => (l.experts.filter ExpertRec.parked).foldl (fun n x => max n x.npage) 0).getD 0
    decide (i.job.demandMax * ceilDiv (pageSize * pages) (max 1 (i.job.lwlSlot s.code.hubs)) ≤ e.due - e.start)
  else e.start % max 1 base.grantG == 0

/-! #### Refreshes (R212) -/

/-- Tile-beats that a member must budget for the refreshes of a step whose applied count is `a` (R212): five attempts of KMAX
iterations for each side of each group it owns that is due. -/
def FuncImage.refreshBeats (i : FuncImage) (members m a : Nat) : Nat :=
  let own (g : PreGroup) : Bool := (i.job.ownedShards members m).contains g.lshard &&
    (i.layer g.layer).any fun l => i.job.ownsStage members m l.stage
  let products (p : Nat) : Nat := if p = 1 then 2 else if p = 2 then 3 else 4
  let side (g : PreGroup) (left : Bool) : Nat :=
    if g.has left then 5 * g.kmax * ceilDiv (products (if left then g.pL else g.pR) * g.order left ^ 3) 512 else 0
  ((i.precond.filter fun g => own g && (a + g.offset) % max 1 g.n == 0).map fun g => side g true + side g false).sum

/-- Matrix-engine beats that a step program leaves a function for its sweep: those granted to it on its tiles from the update
command to the end of the step, less what TILE items take there. -/
def sweepBeats (base : BaseImage) (i : FuncImage) (fn : Nat) (p : StepProg)
    (finds : List (Nat × List (Nat × Nat × ProgFind))) : Nat :=
  let from_ := ((p.entries.find? fun e => e.op == 3).map StepEntry.start).getD 0
  let until_ := ((p.entries.getLast?).map StepEntry.start).getD 0
  let mine (t : Nat) : Bool := i.tiles.any fun sh => sh.tile == t
  let granted := ((List.range (until_ - from_)).map fun k =>
    (((base.groups.filter fun g => g.gkind == 0 && base.grants (from_ + k) g.group fn).flatMap fun g =>
      (List.range g.count).map fun t => g.first + t).eraseDups.filter mine).map (fun t => base.beatsPerSlot (t / 128)) |>.sum).sum
  let items := finds.flatMap fun (_, xs) => xs.filterMap fun (k, _, f) =>
    if (p.entries[k]?).any fun e => decide (from_ ≤ e.start) then some f.beats else none
  granted - items.sum

/-- Whether a step program budgets every refresh at its worst case (R212), whatever the applied count. -/
def FuncImage.refreshFits (i : FuncImage) (members m beats : Nat) : Bool :=
  let period := i.precond.foldl (fun n g => Nat.lcm n (max 1 g.n)) 1
  (List.range period).all fun a => decide (i.refreshBeats members m a ≤ beats)

/-! #### Commit copies (R154) -/

/-- The copy of a chunk's entry to its home, as transfers (R199). -/
def FuncImage.copyXfers (i : FuncImage) (l : Layer) (c : Chunk) : List Xfer :=
  let j := i.job
  let copy (parked : Bool) (r : Nat × Nat) : Xfer :=
    { srcSp := 0, dstSp := if parked then 1 else 0, port := 0, tc := 0, cvt := 0, mule := 0
      src := j.journalVa + slotOff j.nslot 0, dst := r.1, bytes := r.2, sfmt := 0, ssdesc := 0, cast := none }
  let matrix (gi : Nat) (left root : Bool) : List Xfer :=
    match i.precond[gi]? with
    | none => []
    | some g => [copy false (i.matrixVa gi left root + 4 * (c.first * g.order left), 4 * (c.num * g.order left))]
  match c.kind with
  | .stats gi left => matrix gi left false
  | .root gi left => matrix gi left true
  | .param => ([0, 1, 2] ++ if l.corr then [4] else []).map fun k =>
      copy (c.expert.any (i.expertParked l.layer)) (i.homeRun k l c)

/-- The first item of a program that reads the home weights of a layer on this member: its entry index and START. -/
def FuncImage.firstGather (i : FuncImage) (members m : Nat) (p : StepProg) (l : Layer) : Option (Nat × Nat) :=
  let homes := (i.job.ownedShards members m).flatMap fun j => i.home 0 l j
  let reads (e : StepEntry) : Bool := e.op == 2 && ((i.xferList e.arg).any fun xl => xl.xfers.any fun x =>
    decide (x.srcSp ≤ 1) && homes.any fun r => overlap x.src x.bytes r.1 r.2)
  (p.entries.zipIdx.find? fun (e, _) => reads e).map fun (e, k) => (k, e.start)

/-- Items that gather a layer before its commit copies can end (R154): the copies run layer by layer in the order of the first
gathers, from the end of the vote on, at the assumed rates. -/
def State.lateGathers (s : State) (base : BaseImage) (i : FuncImage) (hbmStacks : List (Nat × Nat)) (p : StepProg) : List Nat :=
  let members := base.x * base.y * base.z
  let m := base.member
  let vote := ((p.entries.find? fun e => e.op == 4).map StepEntry.due).getD 0
  let len := ((p.entries.getLast?).map StepEntry.start).getD 0
  let gathers := ((i.heads.filter fun l => i.job.ownsStage members m l.stage).filterMap fun l =>
    (i.firstGather members m p l).map fun g => (g.2, g.1, l)).mergeSort fun a b => decide (a.1 ≤ b.1)
  (gathers.foldl (fun (a : List Nat × Rat) (start, k, l) =>
    let cs := i.chunks.filter fun c => c.layer == l.layer && i.ownsChunk members m c
    let t := a.2 + s.listTime base i hbmStacks (fun _ => 1) { index := 0, xfers := cs.flatMap (i.copyXfers l) }
    (if t ≤ ((len - vote + start) * 1024 : Nat) then a.1 else a.1 ++ [k], t)) ([], 0)).1

/-- Deadline faults of one function. -/
def State.funcDeadlines (s : State) (b : List Byte) (fn : Nat) : List Place :=
  let base := s.checkBase b
  let m := base.member
  let i := funcOf b fn m
  let hbmStacks := i.stackMap s.stackList
  (i.steps.zipIdx.flatMap fun (p, v) =>
    let fs := tileFinds base i p
    let refresh := if i.precond.isEmpty || i.refreshFits (base.x * base.y * base.z) m (sweepBeats base i fn p fs) then []
      else [((p.entries.zipIdx.find? fun x => x.1.op == 3).map Prod.snd).getD 0]
    ((p.entries.zipIdx.filter fun (e, k) => !s.itemOk base i fn p fs hbmStacks k e).map Prod.snd ++ refresh ++
      s.lateGathers base i hbmStacks p).map fun k => entryPlace b fn m v k) ++
    (i.inputs.zipIdx.filter fun (r, _) =>
      let due := ((stepsOf b fn r.pmember).find? fun p => p.var == r.var).bind fun p => (p.entries[r.producer]?).map StepEntry.due
      let start := (i.steps.find? fun p => p.var == r.var).bind fun p => (p.entries[r.item]?).map StepEntry.start
      match due, start with
      | some d, some t => decide (t < d)
      | _, _ => true).map fun (_, k) => imgPlace b tyInputs fn m (12 * k)

/-- Speed records against the factory tables (R284). -/
def State.speedBad (s : State) (b : List Byte) : List Place :=
  let x := s.checkBase b
  let m := x.member
  ((x.speed.zipIdx.filter fun (r, _) => decide (r.vmv < 700 ∨ 900 < r.vmv) || r.vmv % 10 != 0 || !s.dieFitted r.die ||
      decide (tableRate r.die r.vmv < r.rate)).map fun (_, k) => imgPlace b tySpeed 0xFF m (8 * k)) ++
    (if (List.range s.code.dies).all fun d => x.speed.any fun r => r.die == d then [] else [imgPlace b tySpeed 0xFF m 0])

/-! ### The check as a whole (R277) -/

/-- What the check of an image comes to: the stage that fails (0 none), its outcome, and the place. -/
structure Verdict where
  stage : Nat
  outcome : Nat
  at_ : Place
  deriving DecidableEq, Repr, Inhabited

def accepted : Verdict := { stage := 0, outcome := 0, at_ := (none, 0) }

/-- HUB_IMGSTAT for a verdict (R293). -/
def Verdict.stat (v : Verdict) : ImgStat :=
  { offset := v.at_.2, section_ := v.at_.1.elim 0xFF fun n => min n 0xFF, stage := v.stage, outcome := v.outcome }

/-- The offset in the LWL_ block of LWL_FSTATn's page. -/
def fstatOf (n : Nat) : Nat := fstatPage + n * 0x1000

/-- Run the stages in order and stop at the first failure (R277). -/
def State.checkImage (s : State) (b : List Byte) : Verdict :=
  let base := (imgHdr b).kind == 0
  let fns := maskFuncs (imgHdr b).funcMask
  match firstPlace (s.stage1 b) with
  | some p => { stage := 1, outcome := 1, at_ := p }
  | none => match firstPlace (s.stage2 b) with
    | some p => { stage := 2, outcome := 3, at_ := p }
    | none => match firstPlace (s.stage3 b) with
      | some p => { stage := 3, outcome := 2, at_ := p }
      | none => match firstPlace (if base then s.basePrograms b fstatOf else fns.flatMap (s.funcPrograms b)) with
        | some p => { stage := 4, outcome := 3, at_ := p }
        | none => match firstPlace (if base then s.speedBad b else fns.flatMap (s.funcDeadlines b)) with
          | some p => { stage := 5, outcome := 4, at_ := p }
          | none => accepted

end Sys2Proof.Machine
end

