-- ==== Sys2Proof/Machine/Power.lean ====
section
/-! DEFINITION. Power and thermal management (R374, R393 to R407): the PMG_ writes, the control period, compensation, thermal
trips and supply faults, and what a loss of power leaves (R409). -/
namespace Sys2Proof.Machine

/-! ### Floors and limits (R285, R396 to R399) -/

/-- A die's floor in mV (R285). -/
def State.floor (s : State) (d : Nat) : Nat :=
  match s.base.bind fun b => b.speed.find? fun r => r.die == d with
  | some r => r.vmv
  | none => s.power.vfloorDef.toNat

/-- The RATE that the accepted base image assumes for a die, or 0 (PMG_BEATd.ASSUMED). -/
def State.assumed (s : State) (d : Nat) : Nat :=
  ((s.base.bind fun b => b.speed.find? fun r => r.die == d).map SpeedRec.rate).getD 0

/-- The index of the SPEED record at which the running sum of R398 first exceeds a limit. -/
def overPower (c : Code) (limit : Nat) (rs : List SpeedRec) : Option Nat :=
  (List.range rs.length).find? fun k => decide (limit <
    (rs.take (k + 1)).foldl (fun n r => if r.die < c.dies then n + Config.powerTable r.die ((r.vmv - 600) / 10) else n) c.uncore)

/-- A write of PMG_PLIMIT (R399): CFGERR is cleared by a 1; a LIMIT that fails R398 is ignored and sets CFGERR. -/
def State.writePlimit (s : State) (v : W32) : State :=
  let p := s.power
  let err := p.cfgerr && !v.getLsbD 12
  let limit := v.toNat % 4096
  if ((s.base.map BaseImage.speed).bind (overPower s.code limit)).isSome then
    { s with power := { p with cfgerr := true } }
  else { s with power := { p with cfgerr := err, limit := BitVec.ofNat 12 limit } }

/-- A write of PMG_TLIMIT: outside 70 to 105 it is ignored and sets CFGERR. -/
def State.writeTlimit (s : State) (v : W32) : State :=
  let t := v.toNat % 256
  if 70 ≤ t ∧ t ≤ 105 then { s with power := { s.power with tlimit := BitVec.ofNat 8 t } }
  else { s with power := { s.power with cfgerr := true } }

/-- A write of PMG_VCFG: with a field outside 600 to 900 mV it is ignored and sets CFGERR. -/
def State.writeVcfg (s : State) (v : W32) : State :=
  let f := bits v.toNat 25 16
  let t := bits v.toNat 9 0
  if 600 ≤ f ∧ f ≤ 900 ∧ 600 ≤ t ∧ t ≤ 900 then
    { s with power := { s.power with vfloorDef := BitVec.ofNat 10 f, vtarget := BitVec.ofNat 10 t } }
  else { s with power := { s.power with cfgerr := true } }

/-- PLIMIT_WRITE (R399). -/
def execPlimitWrite (value : W32) (s : State) : Answer := .next (s.writePlimit value)
/-- TLIMIT_WRITE (R399). -/
def execTlimitWrite (value : W32) (s : State) : Answer := .next (s.writeTlimit value)
/-- VCFG_WRITE (R399). -/
def execVcfgWrite (value : W32) (s : State) : Answer := .next (s.writeVcfg value)

/-! ### The control period (R394 to R396, R401) -/

/-- The compute dies fitted. -/
def State.dieIds (s : State) : List Nat := List.range s.code.dies

/-- The hottest of a list, with the lowest index that shows it. -/
def hottest (ts : List Nat) : Nat × Nat :=
  let m := ts.foldl max 0
  (m, (ts.findIdx? fun t => t == m).getD 0)

/-- Take the telemetry of one die. -/
def DiePower.sample (p : DiePower) (t : DieTelemetry) : DiePower :=
  if t.arrived then
    let (m, k) := hottest t.temps
    { p with tmax := m, tpoint := k, vmeas := t.vmeas, idd := t.idd, rate := t.rate, lost := false }
  else p

/-- hot(d) of R396: the die's points, and the stacks on it less 10 °C. -/
def State.hot (s : State) (d : Nat) : Nat :=
  ((s.power.hbmTemps.zipIdx.filter fun x => x.2 / 3 == d && s.stackFitted x.2).map fun x => x.1 - 10).foldl max
    (s.diePower d).tmax

/-- The setpoint that R396 chooses for a die. -/
def State.chooseVset (s : State) (d : Nat) : Nat :=
  let p := s.power
  let x := s.diePower d
  let limit := p.limit.toNat
  let capped := decide (4600 ≤ p.vin ∧ p.vin < 4800 ∧ 4500 < p.iin)
  if x.lost then s.floor d
  else
    let h := s.hot d
    let v := if limit < p.pavg ∨ capped ∨ p.tlimit.toNat < h then x.vset - 10
             else if p.pavg * 100 ≤ limit * 98 ∧ h + 2 ≤ p.tlimit.toNat then min (x.vset + 5) p.vtarget.toNat
             else x.vset
    min (max v (max (s.floor d) x.comp)) 900

/-- Judge a die at its floor (R401). -/
def State.judgeHeat (s : State) (d : Nat) : State :=
  let x := s.diePower d
  let out := decide (x.vset = s.floor d ∧ 105 < x.tmax)
  let s := s.setDiePower d { x with outside := out }
  if out && !x.outside then
    s.report { code := eThermal, cls := clsNotice, unit := d, a := pair x.tpoint x.tmax }
  else s

/-- Whether SMB_ALERT_N is held low (R374, R401). -/
def State.alertHeld (s : State) : Bool :=
  s.power.inhi || s.power.inlo || s.dieIds.any fun d => (s.diePower d).outside

/-- Keep SMB_ALERT_N at its level; a new assertion leaves the module. -/
def State.settleAlert (s : State) : State :=
  let low := s.alertHeld
  let s1 := { s with boot := { s.boot with smbLow := low } }
  if low && !s.boot.smbLow then s1.emit .smbAlert else s1

/-- Take the module-wide telemetry of a period. -/
def State.samplePower (s : State) (t : Telemetry) : State :=
  let p := s.power
  let plim := decide (p.limit.toNat < t.pavg)
  let inhi := decide (5400 < t.vin ∧ t.vin ≤ 5600)
  let inlo := decide (4600 ≤ t.vin ∧ t.vin < 4800)
  let fitted := (t.stackTemps.zipIdx.map fun x => if s.stackFitted x.2 then x.1 else 0)
  let (hm, hk) := hottest fitted
  let s1 := { s with power := { p with
    vin := t.vin, iin := t.iin, pavg := t.pavg, pmax := max p.pmax t.pavg, plim := plim, inhi := inhi, inlo := inlo
    pthrot := if plim && !p.plim then satAdd 16 p.pthrot 1 else p.pthrot
    droop := satAdd 16 p.droop t.droops, hbmStack := hk, hbmTmax := hm, hbmTemps := t.stackTemps } }
  let s2 := t.dies.zipIdx.foldl (fun (s : State) x => s.setDiePower x.2 ((s.diePower x.2).sample x.1)) s1
  if (inhi && !p.inhi) || (inlo && !p.inlo) then s2.report { code := eInput, cls := clsNotice, a := t.vin } else s2

/-- Mark the dies above TLIMIT, and count a period begun above it after one within it. -/
def State.markHot (s : State) : State :=
  let now (d : Nat) : Bool := decide (s.power.tlimit.toNat < s.hot d)
  let was := s.dieIds.any fun d => (s.diePower d).tOver
  let s1 := s.dieIds.foldl (fun (q : State) d => q.setDiePower d { q.diePower d with tOver := now d }) s
  if s.dieIds.any now && !was then { s1 with power := { s1.power with tthrot := satAdd 16 s1.power.tthrot 1 } } else s1

/-- Whether core supplies are on: from the settings stage until the supplies go off (R410). -/
def State.coreOn (s : State) : Bool := s.boot.supply == .running && s.boot.pgood

/-- PMG_CONTROL_PERIOD (R396). -/
def execPmgControlPeriod (t : Telemetry) (s : State) : Answer :=
  if !s.coreOn then s.noEvent "R393: the core supplies are off"
  else if t.dies.length ≠ s.code.dies ∨ t.dies.any (fun d => decide (d.temps.length ≠ 64)) ∨ 12 < t.stackTemps.length then
    s.noEvent "R394: telemetry of every fitted die, with 64 points each"
  else
    let s := (s.samplePower t).markHot
    let s := s.dieIds.foldl (fun (q : State) d => q.setDiePower d { q.diePower d with vset := q.chooseVset d }) s
    .next (s.dieIds.foldl State.judgeHeat s).settleAlert

/-- TELEMETRY_LOSS (R395). -/
def execTelemetryLoss (die : Nat) (s : State) : Answer :=
  if !s.dieFitted die then .fault (.absent "compute die" die)
  else if !s.coreOn || (s.diePower die).lost then s.noEvent "R395: no telemetry was arriving"
  else .next ((s.setDiePower die { s.diePower die with lost := true, vset := s.floor die }).report
    { code := eTelemetry, cls := clsNotice, unit := die })

/-! ### Speed shortfalls (R400) -/

/-- SPEED_SHORTFALL (R400): compensation starts 10 mV above the setpoint. -/
def execSpeedShortfall (die rate : Nat) (s : State) : Answer :=
  if !s.dieFitted die then .fault (.absent "compute die" die)
  else
    let x := s.diePower die
    if !s.coreOn || s.base.isNone || x.short || decide (s.assumed die ≤ rate ∨ x.vset < s.floor die ∨ 105 < x.tmax) then
      s.noEvent "R400: no shortfall against an assumed RATE at or above VMV and at most 105 °C"
    else
      let s := s.setDiePower die { x with short := true, rate := rate, comp := min (x.vset + 10) 900 }
      let s := { s with power := { s.power with shortfall := satAdd 16 s.power.shortfall 1 } }
      .next (s.report { code := eShortfall, cls := clsNotice, unit := die, a := rate, b := s.assumed die })

/-- COMPENSATION_RAISE (R400): 10 mV more, until the measured rate meets RATE, 0.90 V is reached or power reaches PLIMIT. -/
def execCompensationRaise (die rate : Nat) (s : State) : Answer :=
  if !s.dieFitted die then .fault (.absent "compute die" die)
  else
    let x := s.diePower die
    if !s.coreOn || !x.short then s.noEvent "R400: no compensation is rising"
    else if s.assumed die ≤ rate then .next (s.setDiePower die { x with short := false, rate := rate })
    else if 900 ≤ x.comp ∨ s.power.limit.toNat ≤ s.power.pavg then .next (s.setDiePower die { x with rate := rate })
    else .next (s.setDiePower die { x with rate := rate, comp := min (x.comp + 10) 900 })

/-- End any compensation: a base image was replaced or withdrawn (R285, R400). -/
def State.endComp (s : State) : State :=
  s.dieIds.foldl (fun (q : State) d => q.setDiePower d { q.diePower d with comp := 0, short := false }) s

/-! ### Loss of power (R374, R402, R403, R408, R409) -/

/-- What survives a loss of power or a module reset: NV storage, the assembly, the host's memory, and what the model keeps
for itself. The management logic of hub die 0 keeps the pins, a latched trip and the cause while input is present. -/
def State.powerLost (s : State) (cause : Nat) (supply : Supply) : State :=
  let keep := decide (supply ≠ .unpowered)
  { State.reset with
    asm := s.asm, badRings := s.badRings, out := s.out, draws := s.draws, pending := s.pending
    mem := s.mem.filter fun e => decide (companionBase ≤ e.1)
    poison := s.poison.filter fun a => decide (companionBase ≤ a)
    nv := { s.nv with listErr := false, found := false, fwActiveB := false, setActiveB := false, rejected := [] }
    sec := { draws := s.sec.draws + 1, signs := s.sec.signs }
    power := { limit := BitVec.ofNat 12 s.code.power, vin := if keep then s.power.vin else 0, iin := if keep then s.power.iin else 0 }
    boot := { supply := supply, cause := cause, present := s.boot.present, pwrEn := s.boot.pwrEn
              trip := if keep then s.boot.trip else {}, thermtrip := keep && s.boot.thermtrip
              riseIgnored := keep && s.boot.riseIgnored } }

/-- INPUT_HIGH_TRIP (R374). -/
def execInputHighTrip (s : State) : Answer :=
  if s.boot.supply = .unpowered then s.noEvent "R374: no input is present"
  else .next (s.powerLost 5 .unpowered)

/-- INPUT_LOW_TRIP (R374). -/
def execInputLowTrip (s : State) : Answer :=
  if s.boot.supply = .unpowered then s.noEvent "R374: no input is present"
  else .next (s.powerLost 5 .unpowered)

/-- Whether HUB_TRIPLOG.DIE names a die or stack that is fitted, and the trip temperature of R397. -/
def State.tripLimit (s : State) (die stack : Nat) : Option Nat :=
  if s.dieFitted die then some 115
  else if 8 ≤ die ∧ s.hubFitted (die - 8) then some 115
  else if die = 12 ∧ s.stackFitted stack then some 105
  else none

/-- THERMTRIP (R402). -/
def execThermtrip (die point temp stack : Nat) (s : State) : Answer :=
  match s.tripLimit die stack with
  | none => .fault (.absent "die or stack" die)
  | some limit =>
    if s.boot.supply ≠ .running then s.noEvent "R402: the module is not running"
    else if temp < limit ∨ 255 < temp ∨ 63 < point then s.noEvent "R397: the point is below its trip temperature"
    else
      let s := s.powerLost 3 .standby
      .next ({ s with boot := { s.boot with
        thermtrip := true
        trip := { valid := true, die := die, point := point, temp := temp, stack := if die = 12 then stack else 0 } } }.emit .smbAlert)

/-- SUPPLY_FAULT (R403): firmware reports it before the supplies go off. -/
def execSupplyFault (die vmeas : Nat) (s : State) : Answer :=
  if !s.dieFitted die then .fault (.absent "compute die" die)
  else if !s.coreOn then s.noEvent "R403: the core supplies are off"
  else
    let s := (s.report { code := eSupply, cls := clsModule, unit := die, a := pair (s.diePower die).vset vmeas }).moduleLoss
    let s := (List.range s.errs.held.length).foldl (fun (q : State) _ => q.writeErr) s
    .next (s.powerLost 4 .standby)

end Sys2Proof.Machine
end

