-- ==== Sys2Proof/Machine/Settings.lean ====
section
/-! DEFINITION. Settings images and firmware images (R286, R287, R413 to R421): their layout, the register fields that
settings supply, and the choice of copies at power-up. -/
namespace Sys2Proof.Machine

/-! ### Register fields whose Reset column reads "Image" (R286) -/

inductive ImgReg where
  | etype (hub : Nat)
  | portcfg (port : Nat)
  | macLo (port : Nat)
  | macHi (port : Nat)
  | vlan (port entry : Nat)
  | plimit
  | tlimit
  | vcfg
  | fwfloor
  | okeyctl
  | okey (i : Nat)
  deriving DecidableEq, Repr, Inhabited

/-- The register or half register at a device physical address, with the mask of its Image fields. -/
def State.imgReg (s : State) (a : Nat) : Option (ImgReg × Nat) :=
  let o := a - regBase
  let h := o / 0x10000000
  let r := o % 0x10000000
  if a < regBase ∨ !s.hubFitted h ∨ a % 4 ≠ 0 then none
  else if 0x700000 ≤ r ∧ r < 0x800000 then
    let e := r - 0x700000
    let isPort (j : Nat) : Bool := (s.role (16 * h + j)).isSome
    if e = 0 then some (.etype h, 0xFFFF)
    else if 0x100 ≤ e ∧ e < 0x500 then
      let j := (e - 0x100) / 0x40
      let k := (e - 0x100) % 0x40
      if !isPort j then none
      else if k = 0 then some (.portcfg (16 * h + j), 0x83)
      else if k = 0x20 then some (.macLo (16 * h + j), 0xFFFFFFFF)
      else if k = 0x24 then some (.macHi (16 * h + j), 0xFFFF)
      else none
    else if 0x2000 ≤ e ∧ e < 0x2800 then
      let j := (e - 0x2000) / 0x80
      let f := (e - 0x2000) % 0x80 / 4
      if s.isSwitched (16 * h + j) ∧ f ≤ 16 then some (.vlan (16 * h + j) f, 0x18FFF) else none
    else none
  else if h ≠ 0 then none
  else if r = 0x200004 then some (.plimit, 0xFFF)
  else if r = 0x200008 then some (.tlimit, 0xFF)
  else if r = 0x20000C then some (.vcfg, 0x3FF03FF)
  else if r = 0x100040 then some (.fwfloor, 0xFFFF)
  else if r = 0x100044 then some (.okeyctl, 0xF)
  else if 0x100100 ≤ r ∧ r < 0x100280 then some (.okey ((r - 0x100100) / 4), 0xFFFFFFFF)
  else none

/-- The SHA-384 hash of the identity public key (R418). -/
def idHash : List Byte := sha384 Config.identityKey

/-- The factory MAC address of a port, byte 0 in [47:40] (R369). -/
def factoryMac (port : Nat) : BitVec 48 := BitVec.ofNat 48 (beNat ([0x02#8] ++ idHash.take 4 ++ [BitVec.ofNat 8 port]))

/-- ETH_MACj. -/
def State.macOf (s : State) (p : Nat) : BitVec 48 := (s.port p).mac.getD (factoryMac p)

/-- The address a port uses: that in force when it last trained (R369). -/
def State.macUsed (s : State) (p : Nat) : BitVec 48 := (s.port p).macInUse.getD (s.macOf p)

/-- ETH_VLANj_f as a value. -/
def VlanEntry.value (v : VlanEntry) : Nat := fieldAt 16 (b2n v.strip) + fieldAt 15 (b2n v.insert) + v.vid.toNat

/-- A write of ETH_VLANj_f. -/
def State.setVlan (s : State) (p f v : Nat) : State :=
  let x := s.port p
  s.setPort p { x with vlan := tset {} x.vlan f { strip := bitOf v 16, insert := bitOf v 15, vid := BitVec.ofNat 12 v } }

/-- The present value of an Image register. -/
def State.imgOld (s : State) : ImgReg → Nat
  | .etype h => (s.hub h).etypeNext.toNat
  | .portcfg p => fieldAt 7 (b2n (s.port p).enable) + (s.port p).rate.toNat
  | .macLo p => (s.macOf p).toNat % 2 ^ 32
  | .macHi p => (s.macOf p).toNat / 2 ^ 32
  | .vlan p f => (tget {} (s.port p).vlan f).value
  | .plimit => s.power.limit.toNat
  | .tlimit => s.power.tlimit.toNat
  | .vcfg => fieldAt 16 s.power.vfloorDef.toNat + s.power.vtarget.toNat
  | .fwfloor => s.sec.fwFloor
  | .okeyctl => s.sec.okeyEn.toNat
  | .okey i => (tget 0 s.sec.okeys i).toNat

/-- Put a value in an Image register at power-up. -/
def State.imgPut (s : State) (v : Nat) : ImgReg → State
  | .etype h => s.setHub h { s.hub h with etype := BitVec.ofNat 16 v, etypeNext := BitVec.ofNat 16 v }
  | .portcfg p => s.setPort p { s.port p with enable := bitOf v 7, rate := BitVec.ofNat 2 v }
  | .macLo p => s.setPort p { s.port p with mac := some (BitVec.ofNat 48 ((s.macOf p).toNat / 2 ^ 32 * 2 ^ 32 + v)) }
  | .macHi p => s.setPort p { s.port p with mac := some (BitVec.ofNat 48 (v * 2 ^ 32 + (s.macOf p).toNat % 2 ^ 32)) }
  | .vlan p f => s.setVlan p f v
  | .plimit => s.writePlimit (BitVec.ofNat 32 v)
  | .tlimit => s.writeTlimit (BitVec.ofNat 32 v)
  | .vcfg => s.writeVcfg (BitVec.ofNat 32 v)
  | .fwfloor => { s with sec := { s.sec with fwFloor := v } }
  | .okeyctl => { s with sec := { s.sec with okeyEn := BitVec.ofNat 4 v } }
  | .okey i => { s with sec := { s.sec with okeys := tset 0 s.sec.okeys i (BitVec.ofNat 32 v) } }

/-! ### Settings images (R286) -/

structure SetRec where
  addr : Nat
  mask : Nat
  value : Nat
  deriving DecidableEq, Repr, Inhabited

def setMagic : Nat := 0x53444541
def fwMagic : Nat := 0x57465A42

/-- The records of a settings image. -/
def setRecs (b : List Byte) : List SetRec :=
  (List.range (leAt b 4 4)).map fun i => { addr := leAt b (64 + 16 * i) 8, mask := leAt b (72 + 16 * i) 4, value := leAt b (76 + 16 * i) 4 }

/-- AUTOLOAD_BASE, and the function entries after the records. -/
def setAuto (b : List Byte) : List Nat :=
  let base := leAt b 8 4
  (if base = 0xFFFFFFFF then [] else [base]) ++
    (List.range (leAt b 12 4)).map fun i => leAt b (64 + 16 * leAt b 4 4 + 4 * i) 4

/-- Whether header and length agree. -/
def setForm (b : List Byte) : Bool :=
  leAt b 0 4 == setMagic && decide (leAt b 4 4 ≤ 65264 ∧ leAt b 12 4 ≤ 16) &&
    b.length == 64 + 16 * leAt b 4 4 + 4 * leAt b 12 4 + 128 && leNat (slice b 16 48) == 0 && !sigBad b

/-- Apply records in order (R287). -/
def State.applyRecords (s : State) (rs : List SetRec) : State :=
  rs.foldl (fun (s : State) r =>
    match s.imgReg r.addr with
    | some (g, _) =>
      let old := s.imgOld g
      s.imgPut ((BitVec.ofNat 32 old &&& ~~~(BitVec.ofNat 32 r.mask)) ||| (BitVec.ofNat 32 r.value &&& BitVec.ofNat 32 r.mask)).toNat g
    | none => s) s

/-- Whether a record is refused: it covers a bit outside the Image fields, or holds a port rate that the code refuses (R345). -/
def State.recBad (s : State) (r : SetRec) : Bool :=
  match s.imgReg r.addr with
  | none => r.mask != 0
  | some (g, m) =>
    (BitVec.ofNat 32 r.mask &&& ~~~(BitVec.ofNat 32 m)) != 0#32 ||
      (match g with
       | .portcfg _ => r.mask % 4 == 3 && r.value % 4 == 3 && s.code.hubs == 1
       | _ => false)

/-- The security block with nothing but the records of a settings image applied. -/
def State.enrolled (s : State) (b : List Byte) : State :=
  { State.reset with asm := s.asm }.applyRecords (setRecs b)

/-- Whether a settings copy is valid at power-up (R420). -/
def State.settingsValid (s : State) (b : List Byte) : Bool :=
  setForm b && !((setRecs b).any s.recBad) && signatureOk (s.enrolled b).ownerKeys b

/-- What a STORE of settings comes to (R286, R421): an outcome of HUB_IMGSTAT, 0 where it is accepted. -/
def State.settingsOutcome (s : State) (b : List Byte) : Nat :=
  if !setForm b then 3
  else if (s.enrolled b).ownerKeys.isEmpty then 3
  else if !signatureOk (if s.sec.owned then s.ownerKeys else (s.enrolled b).ownerKeys) b then 1
  else if (setRecs b).any s.recBad then 3
  else 0

/-! ### Firmware images (R413, R414) -/

/-- VKEY of a firmware image. -/
def fwKeyOf (b : List Byte) : List Byte := slice b 16 96
def fwSvnOf (b : List Byte) : Nat := leAt b 8 2

/-- Whether a firmware image is acceptable but for its SVN. -/
def fwSigned (b : List Byte) : Bool :=
  leAt b 0 4 == fwMagic && leAt b 12 4 == b.length && decide (256 ≤ b.length) && sha384 (fwKeyOf b) == Config.vendorHash &&
    signedBy [fwKeyOf b] (signedContent b) (b.drop (b.length - 128))

/-- Whether a firmware copy is acceptable under an SVN floor. -/
def fwAcceptable (floor : Nat) (b : List Byte) : Bool := fwSigned b && decide (floor ≤ fwSvnOf b)

/-- What a STORE of firmware comes to (R414): 1 REFUSED_SIGNATURE, 3 REFUSED_SHAPE where the only fault is the SVN. -/
def State.firmwareOutcome (s : State) (b : List Byte) : Nat :=
  if !fwSigned b then 1 else if fwSvnOf b < s.sec.fwFloor then 3 else 0

/-! ### The copies in use (R287, R290, R414) -/

/-- The settings slots that power-up treats as invalid (R287). -/
def State.badSettings (s : State) : List Nat :=
  (Nv.pairOrder { s.nv with rejected := [] } 3).filterMap fun c => if s.settingsValid c.2 then none else some c.1

/-- The settings copy the boot ROM uses, with its slot. -/
def State.pickSettings (s : State) : Option (Nat × List Byte) :=
  (Nv.pairOrder { s.nv with rejected := [] } 3).find? fun c => s.settingsValid c.2

/-- The SVN floor that a settings copy sets (R414). -/
def State.floorOf (s : State) (c : Option (Nat × List Byte)) : Nat := (c.map fun x => (s.enrolled x.2).sec.fwFloor).getD 0

/-- The firmware copy the boot ROM runs, with its slot. -/
def State.pickFirmware (s : State) : Option (Nat × List Byte) :=
  (s.nv.pairOrder 1).find? fun c => fwAcceptable (s.floorOf s.pickSettings) c.2

end Sys2Proof.Machine
end

