-- ==== Sys2Proof/Machine/Link.lean ====
section
/-! DEFINITION. Herd links: herd frames (R348 to R351), link-level retransmission (R361, R363), failed links (R256, R266), and
the states of membership (R263). -/
namespace Sys2Proof.Machine

/-! ### The herd header (R350) -/

structure HerdHdr where
  ver : Nat := 1
  kind : Nat
  nak : Bool := false
  retx : Bool := false
  fn : Nat := 0
  src : Nat := 0
  seq : W32 := 0
  ack : W32 := 0
  list : Nat := 0
  xid : Nat := 0
  deriving DecidableEq, Repr, Inhabited

def kDATA : Nat := 0
def kCTRL : Nat := 1
def kSTREAM : Nat := 2
def kSTREAM_ACK : Nat := 3

def HerdHdr.bytes (h : HerdHdr) : List Byte :=
  beBytes 1 (fieldAt 4 h.ver + h.kind) ++ beBytes 1 (fieldAt 7 (b2n h.nak) + fieldAt 6 (b2n h.retx) + h.fn) ++ beBytes 2 h.src ++
    beBytes 4 h.seq.toNat ++ beBytes 4 h.ack.toNat ++ beBytes 2 h.list ++ beBytes 2 h.xid

def herdHdr (b : List Byte) : HerdHdr :=
  let b0 := beAt b 0 1
  let b1 := beAt b 1 1
  { ver := b0 / 16, kind := b0 % 16, nak := bitOf b1 7, retx := bitOf b1 6, fn := b1 % 16, src := beAt b 2 2 % 512
    seq := BitVec.ofNat 32 (beAt b 4 4), ack := BitVec.ofNat 32 (beAt b 8 4), list := beAt b 12 2, xid := beAt b 14 2 }

/-- Whether the header's reserved values make a frame an error frame (R351). -/
def hdrReserved (b : List Byte) : Bool :=
  decide (b.length < 16) || beAt b 0 1 / 16 != 1 || decide (3 < beAt b 0 1 % 16) || bits (beAt b 1 1) 5 4 != 0 ||
    beAt b 2 2 / 512 != 0

/-- A herd frame's bytes from the header on, the payload padded to 30 bytes (R349). -/
def herdFrame (h : HerdHdr) (payload : List Byte) : List Byte := h.bytes ++ payload ++ zeros (30 - payload.length)

/-- This module's member id in a header: 0 for a solo module. -/
def State.srcId (s : State) : Nat := if s.herd.state = .idle then 0 else s.herd.member

/-! ### Frames that arrive (R348, R351) -/

inductive FrameFate where
  | drop                     -- counted in NOMATCH
  | error                    -- counted in ERRFRM
  | take (h : HerdHdr)
  deriving DecidableEq, Repr, Inhabited

/-- The gPTP group address 01-80-C2-00-00-0E. -/
def gptpGroup : BitVec 48 := 0x0180C200000E#48

/-- What a herd port does with a frame before its kind matters. -/
def State.frameFate (s : State) (p : Nat) (f : Frame) : FrameFate :=
  if !f.fcsOk then .error
  else if f.vid.isSome ∨ f.etype ≠ (s.hub (p / 16)).etype ∨ (f.dst ≠ s.macUsed p ∧ f.dst ≠ gptpGroup) then .drop
  else if hdrReserved f.body then .error
  else .take (herdHdr f.body)

def State.countNoMatch (s : State) (p : Nat) : State := s.setPort p { s.port p with noMatchCnt := satAdd 12 (s.port p).noMatchCnt 1 }
def State.countErrFrame (s : State) (p : Nat) : State := s.setPort p { s.port p with errfrm := satAdd 12 (s.port p).errfrm 1 }

/-! ### Sending and resending (R361, R363) -/

/-- Bytes in a port's replay buffer. -/
def Port.replaySize (p : Port) : Nat := p.replay.foldl (fun n f => n + f.bytes.length) 0

/-- Whether a frame fits the 1 MiB replay buffer. -/
def Port.fits (p : Port) (f : SentFrame) : Bool := decide (p.replaySize + f.bytes.length ≤ 1048576)

/-- A frame's bytes with the ACK, NAK and RETX of the moment it is sent. -/
def Port.stamp (p : Port) (retx : Bool) (b : List Byte) : List Byte :=
  b.take 1 ++ [BitVec.ofNat 8 (fieldAt 7 (b2n p.nak) + fieldAt 6 (b2n retx) + beAt b 1 1 % 16)] ++ slice b 2 6 ++
    beBytes 4 p.rxSeq.toNat ++ b.drop 12

/-- Hand one frame to the wire; a NAK asked for goes with it. -/
def State.sendRaw (s : State) (p kind tc : Nat) (retx : Bool) (b : List Byte) : State :=
  let x := s.port p
  (s.setPort p { x with nak := false }).emit (.frame p kind tc (x.stamp retx b))

/-- Send frames that waited while the replay buffer has room. -/
def State.pump (s : State) (p : Nat) : State :=
  (List.range (s.port p).unsent.length).foldl (fun (s : State) _ =>
    let x := s.port p
    match x.unsent with
    | [] => s
    | f :: rest =>
      if x.state = .up ∧ x.fits f then
        (s.setPort p { x with unsent := rest, replay := x.replay ++ [f] }).sendRaw p kDATA f.tc false f.bytes
      else s) s

/-- Queue a DATA frame of a transfer on a herd port. -/
def State.sendData (s : State) (p tc fn list xid : Nat) (payload : List Byte) : State :=
  let x := s.port p
  let h : HerdHdr := { kind := kDATA, fn := fn, src := s.srcId, seq := x.txSeq, list := list % 65536, xid := xid }
  (s.setPort p { x with
    txSeq := x.txSeq + 1, unsent := x.unsent ++ [{ seq := x.txSeq, tc := tc, bytes := herdFrame h payload }] }).pump p

/-- The SEQ of the first frame not yet sent. -/
def Port.nextSeq (x : Port) : W32 := x.txSeq - BitVec.ofNat 32 x.unsent.length

/-- Resend every unacknowledged frame in SEQ order (R361). -/
def State.resend (s : State) (p : Nat) : State :=
  let x := s.port p
  if x.replay.isEmpty then s
  else
    let n := (x.episode.map Prod.fst).getD 0 + BitVec.ofNat 32 x.replay.length
    let s := s.setPort p { x with resent := satAdd 32 x.resent x.replay.length, episode := some (n, x.nextSeq) }
    x.replay.foldl (fun (s : State) f => s.sendRaw p kDATA f.tc true f.bytes) s

/-- An ACK frees the frames before it; an episode ends when every frame sent before it has been acknowledged (R363). -/
def State.acked (s : State) (p : Nat) (ack : W32) : State :=
  let x := s.port p
  if (ack - x.nextSeq).toNat ≠ 0 ∧ serialBefore x.nextSeq ack then s      -- acknowledges what was not sent
  else
    let x := { x with replay := x.replay.filter fun f => serialLe ack f.seq }
    match x.episode with
    | some (n, limit) =>
      if serialLe limit ack then
        ((s.setPort p { x with episode := none, episodes := satAdd 8 x.episodes 1 }).report
          { code := eRetx, cls := clsRecovered, unit := p, a := n.toNat }).pump p
      else (s.setPort p x).pump p
    | none => (s.setPort p x).pump p

/-- What the ACK and NAK of a received frame do. -/
def State.takeAck (s : State) (p : Nat) (h : HerdHdr) : State :=
  let s := s.acked p h.ack
  if h.nak then s.resend p else s

/-! ### Neighbours and membership (R239, R263, R266) -/

def State.nbr (s : State) (p : Nat) : Neighbour := tget {} s.herd.nbrs p
def State.setNbr (s : State) (p : Nat) (n : Neighbour) : State :=
  { s with herd := { s.herd with nbrs := tset {} s.herd.nbrs p n } }

/-- The herd ports that the accepted base image uses on this member. -/
def State.usedPorts (s : State) : List Nat := (s.base.map s.herdPorts).getD []

/-- The member that a used herd port reaches. -/
def State.peer (s : State) (p : Nat) : Nat :=
  match s.base, s.role p with
  | some b, some r => peerOf b.x b.y b.z b.member r
  | _, _ => 0

/-- A herd link fails (R256, R360, R363, R364): every herd job stops, the member behind it is lost where no other link
reaches it, and a member whose every herd link has failed is lost itself (R266). -/
def State.failLink (s : State) (p : Nat) : State :=
  if (s.nbr p).failed then s
  else
    let m := s.peer p
    let s := s.setNbr p { s.nbr p with failed := true }
    let s := s.setPort p { s.port p with state := .failed }
    let s := s.report { code := eHerdLink, cls := clsFunction, unit := p, a := m }
    let cut := s.usedPorts.all fun q => s.peer q != m || (s.nbr q).failed
    let s := if cut then s.report { code := eMemberLost, cls := clsFunction, a := m } else s
    let s := s.stopJobs m
    if s.usedPorts.all fun q => (s.nbr q).failed then s.loseHerd else s

/-- Leave LINKING once every neighbour is verified (R263). The time root is locked to itself. -/
def State.settleLinking (s : State) : State :=
  if s.herd.state = .linking ∧ s.usedPorts.all fun p => (s.nbr p).verified then
    let root := (s.base.map BaseImage.root).getD 0
    { s with herd := { s.herd with
      state := .syncing, lock := s.herd.member == root, orVec := 0xFFFF, goodSyncs := 0, causes := [], missed := false } }
  else s

/-- A port as a herd forms anew: its SEQ spaces start at 0 (R361). -/
def Port.fresh (x : Port) (state : PortState) : Port :=
  { x with state := state, txSeq := 0, rxSeq := 0, replay := [], unsent := [], nak := false, episode := none }

/-- What of the herd block outlives a herd: time, the hold counts of HERD_HOLDSTAT, and the ERT latch. -/
def Herd.keep (h : Herd) : Herd :=
  { time := h.time, slot := h.slot, holds := h.holds, faultSlots := h.faultSlots, ertIdx := h.ertIdx, ertLatch := h.ertLatch }

/-- The herd that an accepted base image names, from LINKING on. -/
def State.formHerd (s : State) (b : BaseImage) : State :=
  let s := { s with
    base := some b, images := []
    herd := { s.herd.keep with
              state := .linking, member := b.member
              x := b.x, y := b.y, z := b.z, h := herdH b.x b.y b.z } }
  let s := s.usedPorts.foldl (fun (s : State) p =>
    s.setPort p ((s.port p).fresh (if (s.port p).enable then .training else .down))) s
  s.settleLinking

/-- The herd after its base image is withdrawn. -/
def State.leaveHerd (s : State) : State :=
  { s with base := none, images := [], herd := s.herd.keep }

end Sys2Proof.Machine
end

