-- ==== Sys2Proof/Machine/ImageCmd.lean ====
section
/-! DEFINITION. The image commands (R276, R282, R283, R290 to R292): CHECK, LOAD with its acceptance, STORE, REMOVE, UNLOAD, and
the autoload of R287. -/
namespace Sys2Proof.Machine

/-! ### Reports (R282, R293) -/

/-- HUB_IMGSTAT. -/
def ImgStat.value (x : ImgStat) : Nat :=
  fieldAt 32 (x.offset % 2 ^ 32) + fieldAt 24 (x.section_ % 256) + fieldAt 20 (x.stage % 16) + x.outcome % 16

/-- Complete an image command, if one waits. -/
def State.answer (s : State) (c : Option Cmd) (status : Nat) (result : List Byte) : State :=
  match c with
  | some c => s.complete c status result
  | none => s

/-- Record a verdict and answer with it. -/
def State.refuseImage (s : State) (c : Option Cmd) (v : Verdict) : State :=
  { s with imgStat := v.stat }.answer c stRefused (leBytes 8 v.stat.value)

/-! ### Sources -/

inductive Source where
  | bad                        -- BAD_COMMAND
  | wait                       -- the link to the image is not UP
  | lost                       -- HOST_ACCESS
  | wrong                      -- the operand is no answer to the read
  | content (b : List Byte)
  deriving DecidableEq, Repr, Inhabited

/-- The bytes an image command names. `lib` says whether SRC = 0 names a library entry. -/
def State.imageSource (s : State) (lib : Bool) (c : Cmd) (d : HostData) : Source :=
  let src := c.arg 8 8
  let n := c.arg 16 4
  if src = 0 then
    if !lib then .bad
    else match s.nv.entry (c.arg 20 4) with
      | some e => if recEntry e.record = retId then .bad else .content e.content
      | none => .bad
  else if src % 4096 ≠ 0 ∨ n = 0 ∨ 268435456 < n ∨ 2 ^ 47 < src + n then .bad
  else if s.hostRangeUp src n = false then .wait
  else match d with
    | .ok b => if b.length = n then .content b else .wrong
    | _ => .lost

/-- Run an image command on its source. -/
def State.withImage (s : State) (lib : Bool) (c : Cmd) (d : HostData) (f : List Byte → Answer) : Answer :=
  if s.imgWait.isSome then .next s
  else match s.imageSource lib c d with
    | .bad => s.finish c stBadCommand
    | .wait => .next s
    | .lost => s.finish c stHostAccess
    | .wrong => s.noEvent "R336: SRC names LENGTH bytes"
    | .content b => f b

/-- CHECK (R277). -/
def execCheck (q : Nat) (image : HostData) (s : State) : Answer :=
  s.withCmd q 0x01 fun c => s.withImage true c image fun b =>
    let v := s.checkImage b
    if v.stage ≠ 0 then .next (s.refuseImage (some c) v)
    else { s with imgStat := v.stat }.finish c stSuccess (leBytes 8 v.stat.value)

/-! ### LOAD and acceptance (R283, R287) -/

/-- HUB_IMGSTAT while a check runs. -/
def checkRunning : ImgStat := { outcome := 0xE }

/-- Run the check of an image to be loaded; what passes waits for IMAGE_ACCEPT. The second value says whether it waits. -/
def State.startLoad (s : State) (c : Option Cmd) (b : List Byte) (store : Bool) (rest : List Nat) : State × Bool :=
  let v := s.checkImage b
  if v.stage ≠ 0 then (s.refuseImage c v, false)
  else ({ s with
    imgStat := checkRunning
    imgWait := some { cmd := c, image := b, funcs := maskFuncs (imgHdr b).funcMask, store := store, autoRest := rest } }, true)

/-- LOAD (R283). -/
def execLoad (q : Nat) (image : HostData) (s : State) : Answer :=
  s.withCmd q 0x02 fun c =>
    if s.boot.stage = .prepared then s.finish c stState
    else s.withImage true c image fun b => .next (s.startLoad (some c) b (c.arg 24 1 == 1) []).1

/-- Load the entries of an autoload in order: the first that passes its check waits, a refused one is passed over (R287). -/
def State.autoload : List Nat → State → State
  | [], s => s
  | id :: rest, s =>
    match (s.nv.entry id).filter fun e => recEntry e.record != retId with
    | none => State.autoload rest s
    | some e =>
      let (s1, waits) := s.startLoad none e.content false rest
      if waits then s1 else State.autoload rest s1

/-- The items whose windows no longer fit at the present port rates (R357). -/
def State.windowsBad (s : State) (b : List Byte) : List Place :=
  let base := s.checkBase b
  (maskFuncs (imgHdr b).funcMask).flatMap fun fn =>
    let i := funcOf b fn base.member
    i.steps.zipIdx.flatMap fun (p, v) =>
      (p.entries.zipIdx.filter fun (e, _) => e.op == 2 && (match i.xferList e.arg with
        | some l => !s.windowsFit base e.group (base.granted fn e) l
        | none => true)).map fun (_, k) => entryPlace b fn base.member v k

/-- What the acceptance step finds (R283): resources again, floors within the power limit, windows at the present rates. -/
def State.acceptCheck (s : State) (b : List Byte) : Verdict :=
  let base := s.checkBase b
  match firstPlace (s.stage3 b) with
  | some p => { stage := 3, outcome := 2, at_ := p }
  | none =>
    if (imgHdr b).kind = 0 then
      match overPower s.code s.power.limit.toNat base.speed with
      | some k => { stage := 5, outcome := 4, at_ := imgPlace b tySpeed 0xFF base.member (8 * k) }
      | none => accepted
    else match firstPlace (s.windowsBad b) with
      | some p => { stage := 5, outcome := 4, at_ := p }
      | none => accepted

/-- The die-to-die links that a function's MULE items cross, with the rate counted (R378). -/
def State.imageLinks (s : State) (i : FuncImage) : List (Nat × Nat) :=
  let st := i.stackMap s.stackList
  let ps := (i.xfers.flatMap (s.listPaths st)).eraseDups
  ps.filterMap fun p => match p with
    | .d2d l => some (l, s.linkRate l)
    | _ => none

/-- An accepted image comes into force (R269, R283, R285). -/
def State.install (s : State) (b : List Byte) : State :=
  if (imgHdr b).kind = 0 then
    let m := s.readMember b
    let base := baseOf b m
    let rates := (s.herdPorts base).map fun p => (p, (s.port p).rate.toNat)
    let s := s.endComp.formHerd { base with rates := rates }
    s.dieIds.foldl (fun (s : State) d => s.setDiePower d { s.diePower d with vset := max (s.diePower d).vset (s.floor d) }) s
  else
    let m := s.readMember b
    (maskFuncs (imgHdr b).funcMask).foldl (fun (s : State) fn =>
      let i := funcOf b fn m
      { s with images := tset {} s.images fn { i with links := s.imageLinks i } }) s

/-- Write content to the library as a new entry: the state, and the id it has; none where there is no room, or no id or SEQ is
left (R288, R290). A write that fails is reported (R292). -/
def State.storeEntry (s : State) (b : List Byte) (how : NvEnd) : Option (State × Nat) :=
  if 0xFFFFFFFE < s.nv.nextId then none
  else (s.nv.writeEntry s.nv.nextId b how).map fun (v, k) =>
    match how with
    | .done => ({ s with nv := { v with nextId := s.nv.nextId + 1 } }, s.nv.nextId)
    | .fails => ({ s with nv := v }.nvError 5 (blockOffset k), 0)
    | .cut => ({ s with nv := v }, 0)

/-- Complete an accepted LOAD, written to the library if it asks for that: the completion carries the entry's id, 0 where there
is no room. A write that fails completes with NV_ERROR, and one cut short not at all. -/
def State.endLoad (s : State) (w : ImageWait) (how : NvEnd) : State :=
  let ok (s : State) (id : Nat) : State :=
    State.autoload w.autoRest (s.answer w.cmd stSuccess (leBytes 8 accepted.stat.value ++ leBytes 4 id))
  match (if w.store then s.storeEntry w.image how else none), how with
  | none, _ => ok s 0
  | some (s, id), .done => ok s id
  | some (s, _), .fails => State.autoload w.autoRest (s.answer w.cmd stNvError (zeros 12))
  | some (s, _), .cut => s

/-- IMAGE_ACCEPT (R283): every die has reached its floor; the image comes into force and the LOAD completes. How its library
write ends, if it asks for one, is a free value. -/
def execImageAccept (s : State) : Answer :=
  match s.imgWait with
  | none => s.noEvent "R283: no image waits for acceptance"
  | some w =>
    let s := { s with imgWait := none }
    let v := s.acceptCheck w.image
    if v.stage ≠ 0 then .next (State.autoload w.autoRest (s.refuseImage w.cmd v))
    else
      let s := { s.install w.image with imgStat := accepted.stat }
      if w.store then
        let (s, nv) := s.drawEnd
        .next (s.endLoad w nv)
      else .next (s.endLoad w .done)

/-! ### STORE, REMOVE and UNLOAD (R276, R290 to R292, R414, R421) -/

/-- A refusal of STORE or REMOVE with an outcome of HUB_IMGSTAT. -/
def State.refuseStore (s : State) (c : Cmd) (outcome : Nat) : Answer :=
  let x : ImgStat := { stage := if outcome = 1 then 1 else if outcome = 2 then 3 else 2, outcome := outcome }
  { s with imgStat := x }.finish c stRefused (leBytes 4 outcome)

/-- How a STORE or REMOVE completes, once its outcome is recorded; one cut short by a loss of power or a reset does not (R291,
R292). -/
def State.endNv (s : State) (c : Cmd) (how : NvEnd) (slot off : Nat) (result : List Byte) : Answer :=
  match how with
  | .done => { s with imgStat := accepted.stat }.finish c stSuccess result
  | .fails => (s.nvError slot off).finish c stNvError
  | .cut => .next s

/-- Write firmware (slot 1) or settings (slot 3) to its pair. -/
def State.storePair (s : State) (c : Cmd) (pair : Nat) (how : NvEnd) (b : List Byte) : Answer :=
  let limit := if pair = 3 then 1020 * 1024 else 32764 * 1024
  let seq := s.nv.pairSeq pair
  if limit < b.length ∨ seq = 0xFFFFFFFF then s.refuseStore c 2
  else
    let k := s.nv.pairTarget pair
    { s with nv := s.nv.writeCopy k seq b how }.endNv c how k (slotOffset k) (zeros 12)

/-- Write an image to the library. -/
def State.storeImage (s : State) (c : Cmd) (how : NvEnd) (b : List Byte) : Answer :=
  match firstPlace (s.stage1 b) with
  | some p => .next (s.refuseImage (some c) { stage := 1, outcome := 1, at_ := p })
  | none =>
    match s.storeEntry b how with
    | none => s.refuseStore c 2
    | some (t, id) =>
      match how with
      | .done => { t with imgStat := accepted.stat }.finish c stSuccess (zeros 8 ++ leBytes 4 id)
      | .fails => t.finish c stNvError
      | .cut => .next t

/-- STORE (R276, R290, R308, R414, R421). -/
def execStore (q : Nat) (image : HostData) (nv : NvEnd) (s : State) : Answer :=
  s.withCmd q 0x03 fun c =>
    if c.arg 20 4 = retId then s.refuseStore c 3
    else s.withImage false c image fun b =>
      if leAt b 0 4 = fwMagic then
        let o := s.firmwareOutcome b
        if o ≠ 0 then s.refuseStore c o else s.storePair c 1 nv b
      else if leAt b 0 4 = setMagic then
        let o := s.settingsOutcome b
        if o ≠ 0 then s.refuseStore c o else s.storePair c 3 nv b
      else s.storeImage c nv b

/-- REMOVE (R290 to R292, R308): a deletion erases the commit record first; how it ends is a free value, and one that fails or is
cut short leaves the entry valid or not (assumption 76). -/
def execRemove (q : Nat) (s : State) : Answer :=
  s.withCmd q 0x04 fun c =>
    let id := c.arg 20 4
    if s.imgWait.isSome then .next s
    else if id = retId then s.refuseStore c 3
    else match s.nv.entry id with
      | none => s.finish c stBadCommand
      | some e =>
        let (s, nv) := s.drawEnd
        let (s, k) := s.draw
        let gone := { s with nv := s.nv.remove id }
        (if nv = .done ∨ Config.removeErased k = true then gone else s).endNv c nv 5 (blockOffset e.block) []

/-- UNLOAD (R276, R285). -/
def execUnload (q : Nat) (s : State) : Answer :=
  s.withCmd q 0x05 fun c =>
    let fs := maskFuncs (c.arg 8 2)
    let whole := c.arg 10 1 == 1
    if s.imgWait.isSome then .next s
    else if (if whole then funcIds else fs).any fun n => (s.func n).state != .off then s.finish c stState
    else if whole then { s.endComp.leaveHerd with imgStat := accepted.stat }.finish c stSuccess
    else { s with images := s.images.filter fun e => !fs.contains e.1, imgStat := accepted.stat }.finish c stSuccess

end Sys2Proof.Machine
end

