-- ==== Sys2Proof/Machine/Herd.lean ====
section
/-! DEFINITION. The herd's schedule (R243 to R259): slots, holds and the control exchange, the issue of step program entries,
START, STOP and RESUME (R264), and the step boundary (R172, R194, R231, R258). -/
namespace Sys2Proof.Machine

/-! ### Step programs and their items (R248, R249) -/

def opTILE : Nat := 1
def opMULE : Nat := 2
def opUCMD : Nat := 3
def opVOTE : Nat := 4
def opDEMAND : Nat := 5
def opSTEPEND : Nat := 6

/-- The entries of the step program of a variant. -/
def FuncImage.program (i : FuncImage) (var : Nat) : List StepEntry :=
  ((i.steps.find? fun p => p.var == var).map StepProg.entries).getD []

/-- The step program of the step under way (R248): the variant that was in force at its boundary. -/
def State.program (s : State) (fn : Nat) : List StepEntry := (s.image fn).program (s.func fn).progVar

/-- An item number below this is an entry of the step under way. `k × runBase + e` is entry `e` of the k-th step program before
it: the next step begins at STEPEND's START whatever is late, so late items of earlier steps run on beside it (R250). -/
def runBase : Nat := 2 ^ 32

/-- The step program run that an item belongs to. -/
def Func.runAt (f : Func) (k : Nat) : StepRun :=
  if k < runBase then { first := f.stepFirst, step := f.progStep, var := f.progVar }
  else f.older.getD (k / runBase - 1) { first := f.stepFirst, step := f.progStep, var := f.progVar }

/-- The entry of an item. -/
def State.entry (s : State) (fn k : Nat) : Option StepEntry :=
  ((s.image fn).program ((s.func fn).runAt k).var)[k % runBase]?

/-- The state of item `k`. Of an earlier step only the items that are not complete are held. -/
def Func.item (f : Func) (k : Nat) : ItemSt :=
  if k < runBase ∨ (tkeys f.items).contains k then tget .waiting f.items k else .complete
def Func.setItem (f : Func) (k : Nat) (v : ItemSt) : Func := { f with items := tset .waiting f.items k v }

/-- The SCHED at an offset of the step (R245). -/
def Func.position (f : Func) (off : Nat) : W32 := f.stepFirst + BitVec.ofNat 32 off

/-- Whether an incomplete item's DUE has come. -/
def Func.late (f : Func) (sched : W32) (k : Nat) (e : StepEntry) : Bool :=
  f.item k != .complete && serialLe ((f.runAt k).first + BitVec.ofNat 32 e.due) sched

/-- Whether a function has a late item. -/
def State.lateFn (s : State) (n : Nat) : Bool :=
  let f := s.func n
  let older := (tkeys f.items).filter fun k => decide (runBase ≤ k)
  f.run && ((s.program n).zipIdx.any (fun (e, k) => f.late s.herd.sched k e) ||
    older.any fun k => (s.entry n k).any fun e => f.late s.herd.sched k e)

/-- The functions with a late item (R253). -/
def State.lateFns (s : State) : List Nat := funcIds.filter s.lateFn

/-- Issue every entry with START at most SCHED that has not yet issued (R255). -/
def State.issueDue (s : State) (fn : Nat) : State :=
  let f := s.func fn
  if f.run then
    s.setFunc fn ((s.program fn).zipIdx.foldl (fun (f : Func) (e, k) =>
      if f.item k = .waiting ∧ serialLe (f.position e.start) s.herd.sched then f.setItem k .issued else f) f)
  else s

/-- Dispatch headers whose micro-batch has ended become those of the previous micro-batch of their layers (R232). -/
def State.endBatch (s : State) (fn : Nat) (ended : DispatchSeen → Bool) : State :=
  let i := s.image fn
  s.onFunc fn fun f =>
    let old := f.dispatch.filter ended
    let key (y : DispatchSeen) : Nat := (i.ertOf y.layer y.expert).getD 0
    let cleared := old.foldl (fun (m : Table Nat) y => tset 0 m (key y) 0) f.routedPrev
    { f with
      dispatch := f.dispatch.filter fun y => !ended y
      routedPrev := old.foldl (fun (m : Table Nat) y => tset 0 m (key y) (tget 0 m (key y) + y.routed)) cleared }

/-- The items that are not complete, as items of an earlier step. -/
def Func.keepItems (f : Func) : Func :=
  let left := f.items.filter fun e => e.2 == .issued || e.2 == .started
  let up (k : Nat) : Nat := k + runBase
  { f with items := left.map fun e => (up e.1, e.2)
           muleNext := (f.muleNext.filter fun e => (tkeys left).contains e.1).map fun e => (up e.1, e.2)
           older := ({ first := f.stepFirst, step := f.progStep, var := f.progVar } :: f.older).take
             (left.foldl (fun n e => max n (up e.1 / runBase)) 0) }

/-- A step begins at SCHED `first`: its registers and lists are cleared, TILE_SR_STEPn is written (R70), and the entries due
are issued. Vote bits that came too late for the last step's vote stay for this one's. -/
def State.beginStep (s : State) (fn : Nat) (first : W32) : State :=
  let s := s.endBatch fn fun _ => true
  let s := s.onFunc fn fun f => { f.keepItems with
    stepFirst := first, progStep := f.step, progVar := f.mbvar, stepSlots := 0, jstep0 := f.jhead, voteOr := 0
    voteCast := false, voteOpen := false, voteLeft := 0, voteKept := none, gnorm := {}, mbnorm := 0, mbSums := [], stats := []
    shards := [], parts := [], micros := [], buckets := [], bucketsSent := [], groups := [], checked := [] }
  let step := BitVec.ofNat 20 (s.func fn).step.toNat
  let s := s.onTiles fun _ x => { x with
    step := (List.range 4).foldl (fun m e => if x.owns fn e then tset 0 m e step else m) x.step }
  s.issueDue fn

/-- How far a receiving transfer has come: the bytes of it that have arrived. -/
def Func.arrived (f : Func) (x : Xfer) : Nat :=
  ((f.rx.find? fun r => r.port == x.port && r.list == x.src % 65536 && r.xid == bits x.src 47 32).map RxState.count).getD 0

/-! ### Stops and starts (R264) -/

/-- The stop requests of a function. -/
def Func.stops (f : Func) : List StopReq := f.stop.toList ++ f.stopMore

/-- A stop takes effect: the job ends, its STOPs complete with the global step, and a job stopped inside a step awaits
recovery (R202). -/
def State.takeStop (s : State) (fn : Nat) (interrupted : Bool) : State :=
  (s.endJob fn stSuccess).onFunc fn fun f => { f with interrupted := f.interrupted || interrupted }

/-- Stops at a slot boundary: MODE 0 once SCHED has reached its position; MODE 1 of a job halted at a step boundary. -/
def State.slotStops (s : State) (fn : Nat) : State :=
  let f := s.func fn
  if f.stops.any fun r => (r.immediate || f.halted) && serialLe r.sched s.herd.sched then s.takeStop fn f.run else s

/-- A step boundary at a position meets a stop of MODE 1. -/
def Func.stopsAt (f : Func) (at_ : W32) : Bool := f.stops.any fun r => !r.immediate && serialLe r.sched at_

/-- SCHED reaches S0: FUNCRUN sets and step 0 begins. -/
def State.startDue (s : State) (fn : Nat) : State :=
  let f := s.func fn
  if f.armed && !f.interrupted && !f.halted && serialLe f.s0 s.herd.sched then
    if f.stopsAt f.s0 then s.takeStop fn false
    else (s.setFunc fn { f with run := true, armed := false }).beginStep fn f.s0
  else s

/-! ### Step boundaries (R172, R194, R231, R248, R258, R313) -/

/-- HEAT at a step boundary (R231). -/
def heatNext (heat routed : Nat) : Nat := min (heat - heat / 8 + min routed 0x1FFF) 0xFFFF

/-- Age HEAT of a function's entries and begin a new ROUTED_s. -/
def State.heatUpdate (s : State) (fn : Nat) : State :=
  let f := s.func fn
  let s := (s.entriesOf fn).foldl (fun (s : State) e =>
    s.setErt e.1 { e.2 with heat := heatNext e.2.heat (tget 0 f.routedStep e.1) }) s
  s.onFunc fn fun f => { f with routedStep := [] }

/-- The step's length and the index of its STEPEND. -/
def stepEndOf (prog : List StepEntry) : Option (Nat × Nat) :=
  (prog.zipIdx.find? fun (e, _) => e.op == opSTEPEND).map fun (e, k) => (k, e.start)

/-- Halt a function whose step's OR has SKEW set (R172, R194). -/
def State.haltSkew (s : State) (fn : Nat) : State :=
  (s.clearSteps fn).onFunc fn fun f => { f with
    run := false, halted := true, interrupted := true, jstate := 6, items := [], older := [] }

/-- What ends or halts the job at a step boundary, in order: hold cap, SKIP_LIMIT, a stop as for a module-loss fault, SKEW, a
STOP; none where the next step begins. -/
def State.boundaryStop (s : State) (fn : Nat) (at_ : W32) : Option State :=
  let f := s.func fn
  let j := (s.image fn).job
  let voted := (s.program fn).any fun e => e.op == opVOTE
  let skew := voted && bitOf f.voteOut.toNat 2
  let mark (s : State) : State := if skew then s.onFunc fn fun f => { f with interrupted := true } else s
  if f.stopAtBoundary = 1 then
    let (s, k) := s.draw
    some (mark ((s.report { code := eHoldCap, cls := clsJob, func := some fn, a := f.stepSlots
                            b := (Config.holdCapCause k).toNat }).endJob fn stCancelled))
  else if voted ∧ j.skipLimit ≠ 0 ∧ j.skipLimit ≤ f.skiprun then
    some (mark ((s.report { code := eSkipLimit, cls := clsJob, func := some fn, a := f.voteOut.toNat }).endJob fn stCancelled))
  else if f.stopAtBoundary = 3 then some (s.drain fn)
  else if f.stopsAt at_ then some (mark (s.takeStop fn false))
  else if skew then some (s.haltSkew fn)
  else none

/-- Whether the step's boundary has come: STEPEND has issued, and no vote of the step is undecided, since the whole next step
depends on its outcome (R171, R250). -/
def State.stepOver (s : State) (fn : Nat) : Option Nat :=
  let f := s.func fn
  let prog := s.program fn
  match stepEndOf prog with
  | none => none
  | some (k, len) =>
    if f.run && f.item k == .issued && prog.zipIdx.all fun (e, i) => e.op != opVOTE || f.item i == .complete then some len else none

/-- The step boundary at STEPEND's START: what ends or halts the job, else the next step begins there (R248, R249). -/
def State.stepBoundary (s : State) (fn len : Nat) : State :=
  let s := s.heatUpdate fn
  let s := s.onFunc fn fun f => { f with
    biasAsked := (f.biasAsked ++ f.flipped).eraseDups
    items := f.items.filter fun e => (s.entry fn e.1).any fun x => x.op != opSTEPEND }
  let at_ := (s.func fn).position len
  match s.boundaryStop fn at_ with
  | some s => s.onFunc fn fun f => { f with stepSlots := 0 }
  | none => s.beginStep fn at_

/-- Every step boundary that SCHED has reached; a member that catches up may pass several. -/
def State.settleSteps (fn : Nat) : Nat → State → State
  | 0, s => s
  | n + 1, s => match s.stepOver fn with
    | none => s
    | some len => State.settleSteps fn n (s.stepBoundary fn len)

/-- What a slot boundary does with each function: stops, starts, and, where SCHED advanced, the entries now due, those of a
next step that begins there among them (R255). -/
def State.boundaryFunc (advanced : Bool) (s : State) (fn : Nat) : State :=
  let s := (s.slotStops fn).startDue fn
  if advanced then State.settleSteps fn 16 (s.issueDue fn) else s

/-! ### The control exchange (R169, R170, R254, R350) -/

/-- FUNCRUN. -/
def State.funcrun (s : State) : Nat := funcIds.foldl (fun m n => if (s.func n).run then m + 2 ^ n else m) 0

/-- The control record (R254). -/
def State.controlRecord (s : State) : List Byte :=
  let h := s.herd
  let b := beBytes 2 h.member ++ beBytes 6 h.slot ++ beBytes 4 h.sched.toNat ++ beBytes 2 h.orVec.toNat ++
    beBytes 2 s.funcrun ++ beBytes 2 (fieldAt 1 (b2n h.held) + b2n h.lock) ++ zeros 10
  b ++ beBytes 4 (crc32c b).toNat

/-- A vote record (R169). -/
def voteRecord (fn member : Nat) (step gen : W32) (vote : BitVec 8) : List Byte :=
  let b := beBytes 1 fn ++ beBytes 1 vote.toNat ++ beBytes 2 member ++ beBytes 4 step.toNat ++ beBytes 4 gen.toNat
  b ++ beBytes 4 (crc32c b).toNat

/-- The stage of a vote exchange (R170): 0 to 2 along x, y and z, of ceil(extent / 2) slots each, and 3 the decision slot. A
solo herd has only that. -/
def Herd.voteStage (h : Herd) (left : Nat) : Nat :=
  let past := h.h - left
  let (cx, cy, cz) := ((h.x + 1) / 2, (h.y + 1) / 2, (h.z + 1) / 2)
  if left ≤ 1 then 3 else if past < cx then 0 else if past < cx + cy then 1 else if past < cx + cy + cz then 2 else 3

/-- The axis of a herd port: 0 to 2 for x, y and z (R344). -/
def State.axis (s : State) (p : Nat) : Nat := ((s.role p).getD 0) / 2

/-- The vote records of a CTRL frame on a port: votes cast in an exchange that has reached the stage of the port's axis, and
votes decided in the present step. DEDUCED (assumption 84): those of the stages before go on being sent, since a neighbour that
missed one takes it from a later slot (R170). -/
def State.voteRecords (s : State) (p : Nat) : List (List Byte) :=
  funcIds.filterMap fun n =>
    let f := s.func n
    if f.voteOpen && f.voteCast then
      if s.axis p ≤ s.herd.voteStage f.voteLeft then some (voteRecord n s.herd.member f.step f.gen f.voteOr) else none
    else f.voteKept.map fun (step, gen, v) => voteRecord n s.herd.member step gen v

/-- The used herd ports whose links have not failed. -/
def State.livePorts (s : State) : List Nat := s.usedPorts.filter fun p => !(s.nbr p).failed

/-- Send the CTRL frame twice on every live herd port (R362). -/
def State.sendCtrl (s : State) : State :=
  s.livePorts.foldl (fun (s : State) p =>
    let vs := s.voteRecords p
    let h : HerdHdr := { kind := kCTRL, src := s.srcId, seq := BitVec.ofNat 32 s.herd.slot, xid := vs.length }
    let b := herdFrame h (s.controlRecord ++ vs.flatten)
    if (s.port p).state = .up then (s.sendRaw p kCTRL 7 false b).sendRaw p kCTRL 7 false b else s) s

/-- The waves that a neighbour's record of the present slot still enters: those of its last D_s slots, LATEVEC bits 0 to
D_s − 1 (R255). -/
def Herd.open_ (h : Herd) : BitVec 16 := BitVec.ofNat 16 (2 ^ (h.h - 1) - 1)

/-- A control miss on a port (R256). Misses count from FORMED on; before it a missing record only keeps the waves at 1. -/
def State.missPort (s : State) (p : Nat) : State :=
  let n := s.nbr p
  let formed := s.herd.state == .formed
  let s := { s with herd := { s.herd with
    orVec := s.herd.orVec ||| s.herd.open_, missed := true, misses := if formed then satAdd 32 s.herd.misses 1 else s.herd.misses } }
  let s := s.setNbr p { n with counted := true, misses := if formed then n.misses + 1 else 0 }
  if formed ∧ 3 ≤ n.misses + 1 then s.failLink p else s

/-- Whether a slot's records of a neighbour are all good: its control record, and every vote record that came (R170). -/
def Neighbour.whole (n : Neighbour) : Bool := n.heard && n.torn &&& ~~~n.votes == 0

/-- Ports on which some record of the slot has neither arrived good nor been counted as missed. -/
def State.unheard (s : State) : List Nat := s.livePorts.filter fun p => !(s.nbr p).whole && !(s.nbr p).counted

/-- Whether the control exchange runs. -/
def State.exchanging (s : State) : Bool := s.herd.state == .syncing || s.herd.state == .formed

/-- CONTROL_MISS (R170, R256): the slot passes with no good copy of a neighbour's control record or vote record. -/
def execControlMiss (port : Nat) (s : State) : Answer :=
  if !s.isHerdPort port then .fault (.absent "herd port" port)
  else if s.exchanging && s.unheard.contains port then .next (s.missPort port)
  else s.noEvent "R256: no control record is outstanding on the port"

/-! ### Slots and waves (R244, R253 to R257) -/

/-- Attribute a held slot to the causes of the member's own sample (R257, R258). -/
def State.attribute (s : State) (cs : List (Nat × HoldKind)) : State :=
  if cs.any fun c => c.2 == .fault then
    { s with herd := { s.herd with faultSlots := satAdd 32 s.herd.faultSlots 1 } }
  else if cs.any fun c => c.2 == .environment then s
  else (cs.map Prod.fst).eraseDups.foldl (fun (s : State) n =>
    let f := s.func n
    let cap := (s.image n).job.holdCap
    s.setFunc n { f with
      stepSlots := satAdd 32 f.stepSlots 1, totalSlots := satAdd 32 f.totalSlots 1
      stopAtBoundary := if f.stopAtBoundary = 0 ∧ cap ≠ 0 ∧ cap < f.stepSlots + 1 then 1 else f.stopAtBoundary }) s

/-- The largest SCHED among the member's own and its neighbours' records of the slot that ends (R255). -/
def State.maxSched (s : State) : W32 :=
  s.livePorts.foldl (fun m p => if (s.nbr p).heard then serialMax m (s.nbr p).sched else m) s.herd.sched

/-- The decision at a slot boundary (R255): the wave H slots back holds SCHED, or SCHED advances; the first wave with OR = 0
forms the herd (R263). The second value says whether SCHED advanced. -/
def State.decideWave (s : State) : State × Bool :=
  let h := s.herd
  if bitOf h.orVec.toNat (h.h - 1) then
    let s := { s with herd := { h with
      held := true, holds := if h.state = .formed ∧ !h.held then satAdd 32 h.holds 1 else h.holds } }
    (if h.state = .formed then s.attribute ((h.causes[h.h - 1]?).getD []) else s, false)
  else if h.state = .syncing then
    ({ s with herd := { h with state := .formed, sched := 0, held := false, misses := 0 } }, true)
  else ({ s with herd := { h with held := false, sched := s.maxSched + 1 } }, true)

/-- A slot of the vote exchange passes (R170): it counts when the vote records of both neighbours on the stage's line arrived
in it; the decision slot needs none. -/
def State.voteSlot (s : State) (fn : Nat) : State :=
  let f := s.func fn
  let stage := s.herd.voteStage f.voteLeft
  if f.voteOpen && f.voteCast && s.livePorts.all fun p => s.axis p != stage || bitOf (s.nbr p).votes.toNat fn then
    s.setFunc fn { f with voteLeft := f.voteLeft - 1 }
  else s

/-- The neighbours' records of a new slot are still to come; a slot without a miss ends a row of misses. -/
def State.newSlot (s : State) : State :=
  s.livePorts.foldl (fun (s : State) p => s.setNbr p { s.nbr p with
    heard := false, counted := false, votes := 0, torn := 0
    misses := if (s.nbr p).counted then (s.nbr p).misses else 0 }) s

/-- The member's own LATE sample (R253). -/
def State.lateNow (s : State) : Bool := !s.lateFns.isEmpty || !s.herd.lock || s.herd.missed

/-- The causes of the member's own sample (R257): the fault and environment conditions present, a lost time lock among them, and
each function with a late item. A sample that is not LATE has none. -/
def State.sampleCauses (s : State) (cs : List (Nat × HoldKind)) : List (Nat × HoldKind) :=
  if s.lateNow then
    cs.filter (fun c => c.2 != .data) ++ (if s.herd.lock then [] else [(0, .fault)]) ++ s.lateFns.map fun n => (n, .data)
  else []

/-- Sample LATE for the wave of the new slot (R253). -/
def State.sampleLate (s : State) (cs : List (Nat × HoldKind)) : State :=
  let l := s.lateNow
  { s with herd := { s.herd with
    late := l, missed := false, orVec := s.herd.orVec <<< 1 ||| (if l then 1 else 0)
    causes := (s.sampleCauses cs :: s.herd.causes).take 16 } }

/-- Everything a slot boundary does before the sample: the misses of the slot that ends, the decision, and each function's
stops, starts and issues. -/
def State.turnSlot (s : State) : State :=
  let s := s.unheard.foldl (fun (s : State) p => s.missPort p) s
  if s.exchanging then
    let (s, adv) := s.decideWave
    let s := funcIds.foldl State.voteSlot s
    (funcIds.foldl (State.boundaryFunc adv) s).newSlot
  else s

/-- Herd time reaches the next slot (R244): the 64-bit count of R243 comes to a multiple of 1,024 ns. -/
def State.tickSlot (s : State) : State :=
  let t := BitVec.ofNat 64 (1024 * (s.herd.time.toNat / 1024 + 1))
  { s with herd := { s.herd with slot := t.toNat / 1024 % 2 ^ 48, time := t } }

/-- HERD_SLOT_BOUNDARY (R244, R253 to R255). Outside SYNCING and FORMED only time passes. `causes` are the fault and environment
conditions that the module meets at this boundary (R257). -/
def execHerdSlotBoundary (causes : List (Nat × HoldKind)) (s : State) : Answer :=
  if s.exchanging then
    let s := s.tickSlot.turnSlot
    .next (if s.exchanging then (s.sampleLate causes).sendCtrl else s)
  else .next s.tickSlot

/-! ### CTRL frames (R254 to R256, R264) -/

/-- A vote record of a neighbour (R169, R170): ORed into the step's vote, whether or not this member's exchange is open yet;
another STEP or GEN raises SKEW once it is. -/
def State.takeVote (s : State) (p : Nat) (b : List Byte) : State :=
  let fn := beAt b 0 1
  let n := s.nbr p
  let bit := BitVec.ofNat 16 (2 ^ fn)
  if beAt b 12 4 ≠ (crc32c (slice b 0 12)).toNat then s.setNbr p { n with torn := n.torn ||| bit }
  else
    let s := s.setNbr p { n with votes := n.votes ||| bit }
    let f := s.func fn
    if f.run ∧ beAt b 4 4 = f.step.toNat ∧ beAt b 8 4 = f.gen.toNat then
      s.setFunc fn { f with voteOr := f.voteOr ||| BitVec.ofNat 8 (beAt b 1 1) }
    else if f.voteOpen then s.setFunc fn { f with voteBits := f.voteBits ||| 4, voteOr := f.voteOr ||| 4 }
    else s.setNbr p n

/-- A start mismatch (R264): the job stops and its FUNCRUN bit clears. DEDUCED (assumption 85): where the job has run on both
members at once, the neighbour's bit cleared because the job stopped or a member was lost, and the function moves to DRAINING
(R266); where it has not, the START itself failed and the function stays ON for another. -/
def State.startMismatch (s : State) (member fn : Nat) (agreed : Bool) : State :=
  let s := s.report { code := eStartMismatch, cls := clsJob, func := some fn, a := member }
  if agreed then s.drain fn else s.endJob fn stCancelled

/-- A neighbour's good control record of the slot. -/
def State.takeControl (s : State) (p : Nat) (b : List Byte) : State :=
  let n := s.nbr p
  let own := BitVec.ofNat 16 s.funcrun
  let diff := BitVec.ofNat 16 (beAt b 14 2) ^^^ own
  let s := { s with herd := { s.herd with orVec := s.herd.orVec ||| (BitVec.ofNat 16 (beAt b 12 2) &&& s.herd.open_) } }
  let s := s.setNbr p { n with
    heard := true, lastSlot := s.herd.slot, sched := BitVec.ofNat 32 (beAt b 8 4)
    funcrun := BitVec.ofNat 16 (beAt b 14 2), mismatch := diff
    agreed := own &&& (n.agreed ||| BitVec.ofNat 16 (beAt b 14 2)) }
  (funcIds.filter fun k => bitOf (diff &&& n.mismatch).toNat k && (s.func k).run).foldl
    (fun (s : State) k => s.startMismatch (s.peer p) k (bitOf n.agreed.toNat k)) s

/-- Reserved values of a CTRL frame's payload (R351). -/
def ctrlReserved (b : List Byte) (xid : Nat) : Bool :=
  decide (16 < xid ∨ b.length < 16 + 32 + 16 * xid) || beAt b 32 2 / 4 != 0 || beAt b 34 10 != 0 ||
    (List.range xid).any fun k => decide (16 ≤ beAt b (48 + 16 * k) 1)

/-- The control record and the vote records of a CTRL frame of the present slot. -/
def State.takeCtrl (s : State) (p : Nat) (b : List Byte) (xid : Nat) : State :=
  let r := slice b 16 32
  let good := decide (beAt r 28 4 = (crc32c (slice r 0 28)).toNat ∧ beAt r 2 6 = s.herd.slot ∧ beAt r 0 2 = s.peer p)
  let s := if good && !(s.nbr p).heard && !(s.nbr p).counted then s.takeControl p r else s
  (List.range xid).foldl (fun (s : State) k => s.takeVote p (slice b (48 + 16 * k) 16)) s

/-- CTRL_FRAME_RECEIVE (R254, R255). -/
def execCtrlFrameReceive (port : Nat) (frame : Frame) (s : State) : Answer :=
  if !s.isHerdPort port then .fault (.absent "herd port" port)
  else if (s.port port).state ≠ .up then s.noEvent "R346: the port is not up"
  else match s.frameFate port frame with
    | .drop => .next (s.countNoMatch port)
    | .error => .next (s.countErrFrame port)
    | .take h =>
      if h.kind ≠ kCTRL then s.noEvent "R350: the frame is no CTRL frame"
      else if ctrlReserved frame.body h.xid then .next (s.countErrFrame port)
      else
        let s := s.takeAck port h
        .next (if s.exchanging && s.livePorts.contains port then s.takeCtrl port frame.body h.xid else s)

/-! ### Stalled items (R259) -/

/-- HOLD_TIMEOUT (R259): an item that has been late for HOLD_TIMEOUT of herd time stops every job of its function. -/
def execHoldTimeout (fn idx : Nat) (s : State) : Answer :=
  if 16 ≤ fn then .fault (.absent "function" fn)
  else
    let f := s.func fn
    match s.entry fn idx with
    | none => s.noEvent "R248: the step program has no such entry"
    | some e =>
      if f.run && f.late s.herd.sched idx e then
        let due := s.herd.time - BitVec.ofNat 64 ((s.image fn).job.holdTimeout * 1000000)
        .next ((s.report { code := eItemStall, cls := clsFunction, func := some fn, a := triple e.op e.group e.start
                           b := due.toNat }).drain fn)
      else s.noEvent "R259: the item is not late"

/-! ### START, STOP and RESUME (R264) -/

/-- The unit for which a START is refused with REFUSED_RESOURCE: a herd port whose RATE differs from the checked one (R357)
or that is narrowed (R365), a Larwa link below the recorded rate or width (R175), a die-to-die link below the rate that the
check counted (R378). -/
def State.startUnit (s : State) (b : BaseImage) (i : FuncImage) : Option Nat :=
  let ports := s.usedPorts.find? fun p =>
    b.rates.any (fun r => r.1 == p && r.2 != (s.port p).rate.toNat) || decide ((s.port p).width < Code.lanes s.code)
  let lwl := (List.range s.code.hubs).find? fun h =>
    let l := s.lwl h
    l.state != .up || decide (16 * 2 ^ l.rate < i.job.lwlGts ∨ l.width < i.job.lwlWidth)
  let d2d := (i.links.find? fun r => decide (s.linkRate r.1 < r.2)).map Prod.fst
  ports <|> lwl <|> d2d

/-- Whether the refusal is the Larwa link's, which firmware reports (R175). -/
def State.lwlShort (s : State) (i : FuncImage) : Option Nat :=
  (List.range s.code.hubs).find? fun h =>
    let l := s.lwl h
    l.state != .up || decide (16 * 2 ^ l.rate < i.job.lwlGts ∨ l.width < i.job.lwlWidth)

/-- Rate and width of a Larwa link as error records give them (R439). -/
def LwlLink.rateWidth (l : LwlLink) : Nat := pair l.rate l.width

/-- START (R264). -/
def execStart (q : Nat) (s : State) : Answer :=
  s.withCmd q 0x40 fun c =>
    let fn := s.cmdFunc c
    let f := s.func fn
    let i := s.image fn
    let s0 := BitVec.ofNat 32 (c.arg 8 4)
    match s.base with
    | none => s.finish c stState
    | some b =>
      if s0.toNat % max 1 b.grantG ≠ 0 then s.finish c stBadCommand
      else if s.boot.stage = .prepared ∨ s.boot.dead ∨ f.state ≠ .on ∨ s.herd.state ≠ .formed ∨ f.run ∨ f.armed ∨ f.halted ∨
          serialBefore s.herd.sched s0 = false then s.finish c stState
      else match s.startUnit b i with
        | some u =>
          let s := match s.lwlShort i with
            | some h => s.report { code := eNarrowed, cls := clsNotice, unit := h, a := (s.lwl h).rateWidth }
            | none => s
          s.finish c stRefused (leBytes 4 2 ++ zeros 4 ++ leBytes 1 u)
        | none =>
          let f := { f with s0 := s0, armed := true }
          let f := if f.interrupted then f else { f with startStep := f.step, committedSince := 0, routedPrev := [], dispatch := [] }
          (s.setFunc fn f).finish c stSuccess

/-- The position of a stop as it reads when its command arrives (R245, R264): one that SCHED has reached or passed, or that lies
2^31 or more ahead, takes effect at once. -/
def Herd.stopPosition (h : Herd) (at_ : W32) : W32 := if serialBefore h.sched at_ then at_ else h.sched

/-- STOP (R264): it completes when the stop has taken effect; without a job that is at once. -/
def execStop (q : Nat) (s : State) : Answer :=
  s.withCmd q 0x41 fun c =>
    let fn := s.cmdFunc c
    let f := s.func fn
    if 1 < c.arg 8 1 then s.finish c stBadCommand
    else if f.stops.any fun r => r.cmd == some c then .next s
    else if f.state ≠ .on then s.finish c stState
    else if f.run || f.armed || f.halted then
      let r : StopReq := { cmd := some c, immediate := c.arg 8 1 == 0, sched := s.herd.stopPosition (BitVec.ofNat 32 (c.arg 12 4)) }
      .next (s.setFunc fn (if f.stop.isNone then { f with stop := some r } else { f with stopMore := f.stopMore ++ [r] }))
    else s.finish c stSuccess (leBytes 4 f.step.toNat)

/-- RESUME (R264): a halted function resumes by recovery, at whose end the command completes. -/
def execResume (q : Nat) (s : State) : Answer :=
  s.withCmd q 0x42 fun c =>
    let fn := s.cmdFunc c
    let f := s.func fn
    if f.resumeCmd = some c then .next s
    else if f.state ≠ .on ∨ !f.halted ∨ f.resumeCmd.isSome ∨ s.boot.stage = .prepared ∨ s.boot.dead then s.finish c stState
    else .next (s.setFunc fn { f with resumeCmd := some c })

/-! ### STEPEND and the items that act at once -/

/-- STEPEND (R248, R249): the step boundary. It comes at the slot boundary whose SCHED is STEPEND's START (R255); where the
step's vote was then undecided, it comes with this command once the vote is decided. -/
def execStepend (fn : Nat) (s : State) : Answer :=
  if 16 ≤ fn then .fault (.absent "function" fn)
  else match s.stepOver fn with
    | none => s.noEvent "R248: the step's last entry has not issued, or the step's vote is undecided"
    | some len => .next (s.stepBoundary fn len)

/-- Whether the resource group of an item is granted to its function in the present slot (R247). -/
def State.groupGranted (s : State) (fn : Nat) (e : StepEntry) : Bool :=
  if e.op ≤ opUCMD then
    match s.base with
    | some b => b.grants s.herd.sched.toNat e.group fn
    | none => true
  else true

/-- Whether the frames of the producer of another member have arrived (R250, R350): every receiving transfer that a list of its
INDEX fills over a link to that member is whole, or its own list is complete. DEDUCED (assumption 86): the producer's list is the
one that its entry names in this image's step program. -/
def State.remoteReady (s : State) (fn member var run producer : Nat) : Bool :=
  let i := s.image fn
  let f := s.func fn
  let prog := i.program var
  match prog[producer]? with
  | none => true
  | some e => i.xfers.all fun l =>
    (prog.zipIdx.any fun (y, k) => y.op == opMULE && y.arg == l.index && f.item (run * runBase + k) == .complete) ||
      l.xfers.all fun x => !(x.srcSp == 4 && s.peer x.port == member && x.src % 65536 == e.arg % 65536) ||
        decide (x.bytes ≤ f.arrived x)

/-- Whether every input of an item has arrived (R250). -/
def State.inputsReady (s : State) (fn idx : Nat) : Bool :=
  let f := s.func fn
  let run := idx / runBase
  let var := (f.runAt idx).var
  ((s.image fn).inputs.filter fun r => r.var == var && r.item == idx % runBase).all fun r =>
    if r.pmember = s.herd.member then f.item (run * runBase + r.producer) == .complete
    else s.remoteReady fn r.pmember var run r.producer

/-- Run `act` on an item if it has operation `op` and stands where `want` says. An item that has issued begins only in a slot
granted to its function, and with every input there (R247, R250); until then it waits. -/
def State.withItem (s : State) (fn idx op : Nat) (want : ItemSt) (act : Func → StepEntry → Answer) : Answer :=
  if 16 ≤ fn then .fault (.absent "function" fn)
  else
    let f := s.func fn
    match s.entry fn idx with
    | none => s.noEvent "R248: the step program has no such entry"
    | some e =>
      if e.op ≠ op then s.noEvent "R249: the entry has another operation"
      else if !f.run || f.item idx != want then s.noEvent "R255: the item has not issued"
      else if want == .issued && !(s.groupGranted fn e && s.inputsReady fn idx) then .next s
      else act f e

/-- VOTE (R170): the vote exchange opens; it runs once the member's vote is cast. -/
def execVote (fn idx : Nat) (s : State) : Answer :=
  s.withItem fn idx opVOTE .issued fun f _ =>
    .next (s.setFunc fn { f.setItem idx .started with voteOpen := true, voteLeft := s.herd.h, voteOr := f.voteOr ||| f.voteBits })

end Sys2Proof.Machine
end

