-- ==== Sys2Proof/Machine/Sweep.lean ====
section
/-! DEFINITION. The parameter update (07_parameter_update): the second-moment sketch (R185), the update command (R186, R187),
the sweep of one chunk (R189 to R193), and the preconditioners (R207 to R211). -/
namespace Sys2Proof.Machine

/-! ### FP32 helpers -/

def one32 : W32 := 0x3F800000
def addF (a b : W32) : W32 := (fpAdd a b).1
def subF (a b : W32) : W32 := (fpSub a b).1
def mulF (a b : W32) : W32 := (fpMul a b).1
def divF (a b : W32) : W32 := (fpDiv a b).1
def sqrtF (a : W32) : W32 := (fpSqrt a).1
/-- A number converted to FP32 with RNE. -/
def natF (n : Nat) : W32 := rne32 (XVal.ofInt n 0)

/-- a > b on FP32 values; false where either is a NaN. -/
def gtF (a b : W32) : Bool := !isNan32 a && !isNan32 b && decide (fpKey b < fpKey a)
/-- a ≥ b. -/
def geF (a b : W32) : Bool := !isNan32 a && !isNan32 b && !gtF b a

/-! Events (R60, R129). The sweep's fixed sequences count as the instructions they are made of: a load, a store and each
arithmetic operation of R185, R193 and R207 to R211 counts what R129 gives it, against the partition entry of the tile. -/

/-- The results of a list of operations, and their events added up. -/
def counted {α : Type} (l : List (α × Ev)) : List α × Ev := (l.map Prod.fst, sumEv (l.map Prod.snd))

/-- The events of the non-finite values among those that an instruction reads, one for each. -/
def inputEv (vs : List W32) : Ev := { nonfin := (vs.filter nonfinite).length }

/-- An output of a reduction read as FP32 with RNE (R84), with the events of its lift and of a second overflow (R83). -/
def readOutput (n : Node) (again : Bool) : W32 × Ev :=
  let (w, e) := n.read .rne false
  (w, (liftEv n.x again).plus e)

/-- VRED SUM, SUMSQ or DOT of lists, in shape 1 or 2 (R133, R134). -/
def reduceF (sub : Nat) (va vb : List W32) : W32 × Ev :=
  let (w, e) := readOutput (treeOf (sumSpans sub va vb)).1 (sumAgain sub va vb)
  (w, (inputEv va).plus e)

/-- VRED SUM of a list, read as FP32 with RNE (R133, R84). -/
def sumF (vs : List W32) : W32 := (reduceF 0 vs vs).1

/-- VRED SUMSQ of a list, as the node it leaves (R133). -/
def sumSq (vs : List W32) : Node := (treeOf (sumSpans 1 vs vs)).1

/-- The events of VRED STATS over a list (R133, R136). -/
def statsEv (vs : List W32) : Ev := (inputEv vs).plus (liftEv (sumSq vs).x (sumAgain 1 vs vs))

/-- A node read as FP32 with RNE (R84). -/
def Node.fp32 (n : Node) : W32 := (n.read .rne false).1

/-- A value tree over leaves taken as they stand (R163); no leaf gives +0. -/
def valueTree (ns : List Node) : Node := if ns.isEmpty then {} else (treeOf ns).1

/-- Largest magnitude and non-finite count (R58, R133). -/
def maxAbs (vs : List W32) : W32 := plainReduce .f32 5 vs none
def nfCount (vs : List W32) : Nat := (plainReduce .f32 6 vs none).toNat

/-! ### Stored values (R183, R185) -/

/-- Elements of width `w` bytes loaded into F32: FP32 or BF16, exact, a NaN as the one NaN of R57. -/
def plainVals (w n : Nat) (bs : List Byte) : List W32 × Ev :=
  counted ((List.range n).map fun i =>
    let v := if w = 4 then fmtFP32.decode (leAt bs (4 * i) 4) else fmtBF16.decode (leAt bs (2 * i) 2)
    let (c, e) := fmtFP32.encode .rne false v
    (BitVec.ofNat 32 c, e))

/-- A row-major MX tensor with blocks of 32 along rows after its elements, loaded into F32. DESIGN CHOICE (assumption 81): no
conversion word is given for these loads; a value past F32's range follows R64 with RND = RNE and SAT = 0 (R66). -/
def mxVals (fmt rows cols : Nat) (bs : List Byte) : List W32 × Ev :=
  let n := rows * cols
  let sc := bs.drop (packedBytes (fmtWidth fmt) n)
  counted ((List.range n).map fun i =>
    let v := scaled (sc.getD (scaleIndex cols 32 i) 0).toNat (elemValue fmt (unpackAt (fmtWidth fmt) bs i))
    let (c, e) := fmtFP32.encode .rne false v
    (BitVec.ofNat 32 c, e))

/-- The same tensor stored: elements, then scales, with each element's rounding. -/
def mxBytes (fmt : Nat) (ceil sat : Bool) (cols : Nat) (xs : List (W32 × Rnd)) : List Byte × Ev :=
  let vs := xs.map fun (x, m) => (f32 x, m)
  let rs := (mxBlocks cols 32 xs.length).map fun (i, k) => quantiseBlock fmt ceil sat ((vs.drop i).take k)
  (packElems (fmtWidth fmt) (rs.flatMap fun r => r.2.1) ++ rs.map fun r => BitVec.ofNat 8 r.1, sumEv (rs.map fun r => r.2.2))

/-- rne32(r_i × c_j) / S, or 0 where S is 0. -/
def sketchT (s r c : W32) : W32 × Ev :=
  let (t, e) := fpMul r c
  if s.toNat % 2 ^ 31 = 0 then (0, e)
  else
    let (q, d) := fpDiv t s
    (q, e.plus d)

/-- The reconstructed second moment (R185). -/
def reconstruct (cols : Nat) (rs cs ds : List W32) : List W32 × Ev :=
  let (s, se) := reduceF 0 rs rs
  let (vs, ve) := counted ((List.range (rs.length * cols)).map fun i =>
    let (t, te) := sketchT s (rs.getD (i / cols) 0) (cs.getD (i % cols) 0)
    let (a, ae) := fpAdd t (ds.getD i 0)
    let (v, me) := fpPick fpMax a 0
    (v, (te.plus ae).plus me))
  (vs, se.plus ve)

/-- Row and column factors of new second moments, and what the correction holds (R185). -/
def refactor (rows cols : Nat) (v : List W32) : (List W32 × List W32 × List W32) × Ev :=
  let (rs, re) := counted ((List.range rows).map fun i => let r := (v.drop (i * cols)).take cols; reduceF 0 r r)
  let (cs, ce) := counted ((List.range cols).map fun j =>
    let c := (List.range rows).map fun i => v.getD (i * cols + j) 0
    reduceF 0 c c)
  let (s, se) := reduceF 0 rs rs
  let (ds, de) := counted ((List.range (rows * cols)).map fun i =>
    let (t, te) := sketchT s (rs.getD (i / cols) 0) (cs.getD (i % cols) 0)
    let (d, e) := fpSub (v.getD i 0) t
    (d, te.plus e))
  ((rs, cs, ds), (re.plus ce).plus (se.plus de))

/-! ### The update command (R186, R187) -/

/-- powf of R187. -/
def powF (beta : W32) (a : W32) : W32 :=
  ((List.range 32).map fun i => 31 - i).foldl (fun r i =>
    let r := mulF r r
    if a.getLsbD i then mulF r beta else r) one32

/-- The learning rate at a (R187). -/
def lrAt (table : List (Nat × W32)) (a : Nat) : W32 :=
  match table.head?, table.getLast? with
  | some lo, some hi =>
    if a ≤ lo.1 then lo.2
    else if hi.1 ≤ a then hi.2
    else match (table.zip (table.drop 1)).find? fun (p, q) => decide (p.1 ≤ a ∧ a < q.1) with
      | some (p, q) =>
        -- the differences are exact and then converted (R187)
        addF p.2 (mulF (subF q.2 p.2) (divF (natF (a - p.1)) (natF (q.1 - p.1))))
      | none => lo.2
  | _, _ => 0

/-- The values of an update command. -/
structure UpdCmd where
  step : W32
  gen : W32
  applied : W32
  tokens : Nat
  lr : W32
  bc1 : W32
  bc2 : W32
  deriving DecidableEq, Repr, Inhabited

/-- The command of step `step` of a function whose applied-step count becomes `a` (R186, R187). -/
def FuncImage.updCmd (i : FuncImage) (var : Nat) (step gen a : W32) : UpdCmd :=
  let j := i.job
  { step := step, gen := gen, applied := a, tokens := ((j.variants[var]?).map Prod.snd).getD 0
    lr := lrAt i.lrate a.toNat, bc1 := subF one32 (powF j.beta1 a), bc2 := subF one32 (powF j.beta2 a) }

/-- Its 32 bytes. -/
def UpdCmd.bytes (u : UpdCmd) : List Byte :=
  let b := leBytes 4 u.step.toNat ++ leBytes 4 u.gen.toNat ++ leBytes 4 u.applied.toNat ++ leBytes 4 u.tokens ++
    leBytes 4 u.lr.toNat ++ leBytes 4 u.bc1.toNat ++ leBytes 4 u.bc2.toNat
  b ++ leBytes 4 (crc32c b).toNat

/-- A command as a tile holds it. -/
def updCmdOf (b : List Byte) : UpdCmd :=
  let w (o : Nat) : W32 := BitVec.ofNat 32 (leAt b o 4)
  { step := w 0, gen := w 4, applied := w 8, tokens := leAt b 12 4, lr := w 16, bc1 := w 20, bc2 := w 24 }

def updCmdGood (b : List Byte) : Bool := decide (leAt b 28 4 = (crc32c (slice b 0 28)).toNat)

/-- The command of a function's present step. -/
def State.updCmd (s : State) (fn : Nat) : UpdCmd :=
  let f := s.func fn
  (s.image fn).updCmd f.progVar f.progStep f.gen (f.applied + 1)

/-- The tiles of a group on which a function has a share, with its partition entry. -/
def State.shareTiles (s : State) (fn group : Nat) : List (Nat × Nat) :=
  match s.base with
  | none => []
  | some b => (b.groupTiles group).filterMap fun t => ((s.tile t).entryOf fn).map fun e => (t, e)

/-- The address of the update command on a tile. -/
def State.cmdAddr (s : State) (fn : Nat) (te : Nat × Nat) : Nat :=
  (tget {} (s.tile te.1).part te.2).sram te.1 (s.image fn).job.cmdOff

/-- UCMD (R186): the update command is written into every tile of the group that takes part. -/
def execUcmd (fn idx : Nat) (s : State) : Answer :=
  s.withItem fn idx opUCMD .issued fun f e =>
    let b := (s.updCmd fn).bytes
    let s := s.setFunc fn (f.setItem idx .complete)
    .next ((s.shareTiles fn e.group).foldl (fun (s : State) te => s.write (s.cmdAddr fn te) b) s)

/-! ### Gradient buffers (R161, R200, R275) -/

/-- The VA of a step's gradient buffer. -/
def Job.gbufVa (j : Job) (step : W32) : Nat := (if step.toNat % 2 = 0 then j.gbuf0Vpn else j.gbuf1Vpn) * pageSize

/-- The VA of the gradient root of block `pos` of a shard of a layer. -/
def State.gradVa (s : State) (fn : Nat) (step : W32) (layer shard pos : Nat) : Nat :=
  let i := s.image fn
  let all := i.ownedBlocks s.herd.count s.herd.member
  let before := all.takeWhile fun (l, j, _) => !(l.layer == layer && j == shard)
  let mine := (all.filter fun (l, j, _) => l.layer == layer && j == shard).take pos
  i.job.gbufVa step + (before ++ mine).foldl (fun n (x : Layer × Nat × Block) =>
    n + x.2.2.rows * x.2.2.cols * i.job.gradBytes) 0

/-- The gradient of block `pos`, loaded into F32. -/
def State.gradBlock (s : State) (fn : Nat) (step : W32) (layer shard pos : Nat) (b : Block) : List W32 × Ev :=
  let w := (s.image fn).job.gradBytes
  plainVals w (b.rows * b.cols) (s.readVA fn (s.gradVa fn step layer shard pos) (b.rows * b.cols * w))

/-! ### Matrices (R208 to R210) -/

abbrev Mat := List (List W32)

def matGet (m : Mat) (i j : Nat) : W32 := (m.getD i []).getD j 0
def matOf (rows cols : Nat) (f : Nat → Nat → W32) : Mat := (List.range rows).map fun i => (List.range cols).map (f i)
def matT (rows cols : Nat) (m : Mat) : Mat := matOf cols rows fun i j => matGet m j i
def matMap (f : W32 → W32) (m : Mat) : Mat := m.map fun r => r.map f

/-- Element-wise results of an n × m matrix, with their events. -/
def matEv (rows cols : Nat) (f : Nat → Nat → W32 × Ev) : Mat × Ev :=
  let rs := (List.range rows).map fun i => counted ((List.range cols).map (f i))
  (rs.map Prod.fst, sumEv (rs.map Prod.snd))

/-- a · bᵀ as FP32 dot products with W = 32, lifted values rounded per R84 (R77, R208). Each element loaded counts once where it
is not finite, whatever tiles the product is cut into (assumption 81). -/
def matMulT (a bt : Mat) : Mat × Ev :=
  let rs := a.map fun ra => counted (bt.map fun rb => readOutput (treeOf (sumSpans 2 ra rb)).1 (sumAgain 2 ra rb))
  (rs.map Prod.fst, (inputEv (a.flatten ++ bt.flatten)).plus (sumEv (rs.map Prod.snd)))

/-- a · b, where b has `k` rows and `n` columns. -/
def matMul (k n : Nat) (a b : Mat) : Mat × Ev := matMulT a (matT k n b)

/-- The identity's element. -/
def eyeAt (i j : Nat) : W32 := if i = j then one32 else 0

/-- Element (i, j) of c × I. -/
def scaledEye (c : W32) (i j : Nat) : W32 × Ev := fpMul c (eyeAt i j)

/-- The Frobenius norm (R210): VSQRT of the value tree of the rows' VRED SUMSQ values. -/
def frobenius (m : Mat) : W32 × Ev :=
  let (rows, re) := counted (m.map fun r => reduceF 1 r r)
  let (n, te) := if rows.isEmpty then (({} : Node), evNone) else treeOf (rows.map fun v => ({ v := v } : Node))
  let (v, ve) := readOutput n (te.ovf != 0)
  let (q, qe) := fpSqrt v
  (q, (re.plus (inputEv rows)).plus (ve.plus qe))

/-- A matrix of n × n FP32 from bytes, and back. -/
def matBytes (m : Mat) : List Byte := m.flatMap fun r => r.flatMap fun w => leBytes 4 w.toNat
def matRead (n : Nat) (bs : List Byte) : Mat :=
  let vs := (plainVals 4 (n * n) bs).1
  matOf n n fun i j => vs.getD (i * n + j) 0

/-- 1/c, 1/sqrt(c) or 1/sqrt(sqrt(c)): g(c) of R210. -/
def rootScale (p : Nat) (c : W32) : W32 × Ev :=
  let (r, e) := if p = 1 then (c, evNone)
    else
      let (a, ae) := fpSqrt c
      if p = 2 then (a, ae)
      else
        let (b, be) := fpSqrt a
        (b, ae.plus be)
  let (q, qe) := fpDiv one32 r
  (q, e.plus qe)

/-- T^p · M. -/
def powTimes (n p : Nat) (t m : Mat) : Mat × Ev :=
  if p = 1 then matMul n n t m
  else
    let (t2, e2) := matMul n n t t
    if p = 2 then
      let (x, e) := matMul n n t2 m
      (x, e2.plus e)
    else
      let (t4, e4) := matMul n n t2 t2
      let (x, e) := matMul n n t4 m
      (x, (e2.plus e4).plus e)

/-- The iterations of inv_root from M, X and r_prev on: the root where it reached TOL (R210), and the events met. -/
def newtonSchulz (n p : Nat) (tol : W32) : Nat → Mat → Mat → W32 → Ev → Option Mat × Ev
  | 0, _, _, _, ev => (none, ev)
  | k + 1, m, x, prev, ev =>
    let (t, e1) := matEv n n fun i j =>
      let (a, ae) := scaledEye (natF (p + 1)) i j
      let (d, de) := fpSub a (matGet m i j)
      let (q, qe) := fpDiv d (natF p)
      (q, (ae.plus de).plus qe)
    let (x, e2) := matMul n n x t
    let (m, e3) := powTimes n p t m
    let (d, e4) := matEv n n fun i j => fpSub (matGet m i j) (eyeAt i j)
    let (r, e5) := frobenius d
    let ev := sumEv [ev, e1, e2, e3, e4, e5]
    if nonfinite r ∨ gtF r prev then (none, ev)
    else if geF tol r then (some x, ev)
    else newtonSchulz n p tol k m x r ev

/-- inv_root (R210): none for GROWTH and STAGNATION. -/
def invRoot (n p kmax : Nat) (tol : W32) (a : Mat) (lambda : W32) : Option Mat × Ev :=
  let (c, ce) := frobenius a
  if c.toNat % 2 ^ 31 = 0 then (some (matOf n n eyeAt), ce)
  else
    let (m, me) := matEv n n fun i j =>
      let (q, qe) := fpDiv (matGet a i j) c
      let (l, le) := scaledEye lambda i j
      let (v, ve) := fpAdd q l
      (v, (qe.plus le).plus ve)
    match newtonSchulz n p tol kmax m (matOf n n eyeAt) 0x7F800000 (ce.plus me) with
    | (none, ev) => (none, ev)
    | (some x, ev) =>
      let (g, ge) := rootScale p c
      let (y, ye) := matEv n n fun i j => fpMul (matGet x i j) g
      (some y, (ev.plus ge).plus ye)

/-- The diagonal fall-back (R211). -/
def diagRoot (n p : Nat) (a : Mat) (lambda : W32) : Mat × Ev :=
  let (c, ce) := frobenius a
  let (gc, ge) := rootScale p c
  let (m, me) := matEv n n fun i j =>
    if i ≠ j then (0, evNone)
    else
      let (d, de) := fpDiv (matGet a i i) c
      let (v, ve) := fpAdd d lambda
      let (r, re) := rootScale p v
      let (q, qe) := fpMul r gc
      (if nonfinite q then one32 else q, (de.plus ve).plus (re.plus qe))
  (m, (ce.plus ge).plus me)

/-- A refresh with damping retries: the root, retries used, whether it fell back, and the events (R211). -/
def refreshRoot (n p kmax : Nat) (tol : W32) (a : Mat) : Nat → Nat → W32 → Ev → Mat × Nat × Bool × Ev
  | 0, used, lambda, ev => let (d, e) := diagRoot n p a lambda; (d, used, true, ev.plus e)
  | left + 1, used, lambda, ev =>
    match invRoot n p kmax tol a lambda with
    | (some x, e) => (x, used, false, ev.plus e)
    | (none, e) =>
      if left = 0 then let (d, f) := diagRoot n p a lambda; (d, used, true, (ev.plus e).plus f)
      else refreshRoot n p kmax tol a left (used + 1) (mulF lambda (natF 10)) (ev.plus e)

/-! ### Preconditioner groups -/

/-- Whether a block lies in a group. -/
def PreGroup.holds (g : PreGroup) (b : Block) : Bool :=
  decide (g.brow ≤ b.brow ∧ b.brow < g.brow + g.a ∧ g.bcol ≤ b.bcol ∧ b.bcol < g.bcol + g.b)

/-- The group of a block of a shard, with its index. -/
def FuncImage.groupOf (i : FuncImage) (layer shard : Nat) (b : Block) : Option (Nat × PreGroup) :=
  (i.groupsOf layer shard).find? fun x => x.2.holds b

/-- The gradient of a group, n_L × n_R; elements outside the layer are +0. -/
def State.groupGrad (s : State) (fn : Nat) (step : W32) (l : Layer) (g : PreGroup) : Mat × Ev :=
  let bs := ((s.image fn).shardBlocks l g.lshard).zipIdx
  let blocks := bs.filterMap fun (b, k) =>
    if g.holds b then some (b, s.gradBlock fn step l.layer g.lshard k b) else none
  (matOf g.nl g.nr fun i j =>
    match blocks.find? fun (b, _) => b.brow == g.brow + i / 64 && b.bcol == g.bcol + j / 128 with
    | some (b, vs, _) => if i % 64 < b.rows ∧ j % 128 < b.cols then vs.getD (i % 64 * b.cols + j % 128) 0 else 0
    | none => 0,
   sumEv (blocks.map fun x => x.2.2))

/-- A matrix of a group at home. -/
def State.homeMatrix (s : State) (fn gi : Nat) (g : PreGroup) (left root : Bool) : Mat :=
  let n := g.order left
  matRead n (s.readVA fn ((s.image fn).matrixVa gi left root) (4 * (n * n)))

/-- The preconditioned gradient of a group (R209). -/
def State.precondition (s : State) (fn : Nat) (step : W32) (l : Layer) (gi : Nat) (g : PreGroup) : Mat × Ev :=
  let (m, e0) := s.groupGrad fn step l g
  let (m, e1) := if g.has true then matMul g.nl g.nr (s.homeMatrix fn gi g true true) m else (m, evNone)
  let (m, e2) := if g.has false then matMul g.nr g.nr m (s.homeMatrix fn gi g false true) else (m, evNone)
  (m, (e0.plus e1).plus e2)

/-- The new statistics of one side (R208). -/
def State.newStats (s : State) (fn : Nat) (step : W32) (l : Layer) (gi : Nat) (g : PreGroup) (left : Bool) : Mat × Ev :=
  let (m, e0) := s.groupGrad fn step l g
  let n := g.order left
  let rows := if left then m else matT g.nl g.nr m
  let (prod, e1) := matMulT rows rows
  let a := s.homeMatrix fn gi g left false
  let (x, e2) := matEv n n fun i j => fpFma g.betaP (matGet a i j) (matGet prod i j)
  (x, (e0.plus e1).plus e2)

/-- Whether a step of applied count `a` refreshes a group's roots (R209). -/
def PreGroup.due (g : PreGroup) (a : W32) : Bool := (a.toNat + g.offset) % max 1 g.n == 0

/-- The refreshed root of one side, with retries, fall-back and events. -/
def State.newRoot (s : State) (fn : Nat) (step : W32) (l : Layer) (gi : Nat) (g : PreGroup) (left : Bool) :
    Mat × Nat × Bool × Ev :=
  refreshRoot (g.order left) (if left then g.pL else g.pR) g.kmax g.tol (s.newStats fn step l gi g left).1 5 0 g.lambda0 evNone

/-- The 16-byte group state (R207). DESIGN CHOICE (assumption 83): the spec names its fields and no positions; FALLBACK_L and
FALLBACK_R are bits 0 and 1 of byte 0, the last retry counts bytes 1 and 2. -/
def groupBytes (g : GroupState) : List Byte :=
  leBytes 1 (b2n g.fallL + 2 * b2n g.fallR) ++ leBytes 1 g.retryL ++ leBytes 1 g.retryR ++ zeros 13

def groupOfBytes (b : List Byte) : GroupState :=
  { fallL := bitOf (leAt b 0 1) 0, fallR := bitOf (leAt b 0 1) 1, retryL := leAt b 1 1, retryR := leAt b 2 1 }

/-- A group's state as the step leaves it: that of its refresh, else the one at home. -/
def State.groupState (s : State) (fn gi : Nat) : GroupState :=
  match ((s.func fn).groups ++ (s.func fn).groupsDue).find? fun e => e.1 == gi with
  | some e => e.2
  | none => groupOfBytes (s.readVA fn ((s.image fn).groupStateVa gi) 16)

/-- Note the result of a refresh of a step in its group states: those of a step already committed go home with its copies. -/
def State.noteRefresh (s : State) (fn : Nat) (step : W32) (gi : Nat) (left : Bool) (retries : Nat) (fell : Bool) : State :=
  let g := s.groupState fn gi
  let g := if left then { g with fallL := fell, retryL := retries } else { g with fallR := fell, retryR := retries }
  s.onFunc fn fun f => if f.gen = step then { f with groupsDue := tput f.groupsDue gi g }
    else { f with groups := tput f.groups gi g }

/-! ### The sweep of one block (R189 to R193) -/

/-- What the sweep makes of one block. -/
structure BlockOut where
  weights : List Byte
  moments : List Byte
  factors : List Byte
  corr : List Byte
  stat : BlockStat
  deriving DecidableEq, Repr, Inhabited

/-- Run the update program on a tile's plates for `n` elements, with the five inputs and six scalars in place: the values of
runs 5 to 7 and the tile afterwards. The program runs in a copy of the state, so that nothing but the tile's plates, scalars
and event counts can change. -/
def State.runUpdate (s : State) (te : Nat × Nat) (base n : Nat) (prog : List (List W32)) (inputs : List (List W32))
    (scalars : List W32) : List (List W32) × Tile :=
  let (t, e) := te
  let x := s.tile t
  let p := tget {} x.part e
  let run (k : Nat) : Nat := p.plateBase.toNat * 8192 + (base + 4 * k) * 2048
  let x := inputs.zipIdx.foldl (fun (x : Tile) (vs, k) => x.setElems (run k) vs) x
  let x := scalars.zipIdx.foldl (fun (x : Tile) (v, k) => x.setScalar e k v) x
  let sc : State := { s with dbg := {} }
  let sc := sc.setTile t { x with seqs := [], stalled := false, outOfService := false, platePoison := [] }
  let sc := prog.foldl (fun (sc : State) ws =>
    match vectorOp (opcodeOf ws) with
    | none => sc
    | some f =>
      -- COUNT is the block's element count, and 1 in VSETS, whose COUNT must be 1 (R127)
      match f { tile := t, entry := e } { vopOf ws with count := BitVec.ofNat 15 (if opcodeOf ws = 0x78 then 1 else n) } sc with
      | .next r => r
      | _ => sc) sc
  let y := sc.tile t
  ([5, 6, 7].map fun k => y.elems (run k) n, { s.tile t with plates := y.plates, scalars := y.scalars, events := y.events })

/-- The rounding of element F of a layer under a tag base (R192), from the seed and step registers of the tile's partition
entry (R69, R70). -/
def Tile.srAt (x : Tile) (e tag full : Nat) : Rnd :=
  .sr (rnd (tget 0 x.seed e) (streamOf (tget 0 x.step e).toNat (tag + full / 2 ^ 32)) (BitVec.ofNat 32 full)).toNat

/-- The full index of element i of a block (R192); `size` is the elements of one expert's matrices. -/
def Block.fullIndex (b : Block) (size i : Nat) : Nat :=
  b.expert.getD 0 * size + b.origin + (64 * b.brow + i / b.cols) * b.wide + 128 * b.bcol + i % b.cols

/-- The sweep of one block in the step program's step: `pos` is its place in the shard's list, `pg` the preconditioned gradient
where it has a group. -/
def State.sweepBlock (s : State) (fn : Nat) (step : W32) (u : UpdCmd) (l : Layer) (c : Chunk) (te : Nat × Nat) (pos : Nat)
    (b : Block) (pg : Option (List W32)) : State × BlockOut :=
  let i := s.image fn
  let j := i.job
  let n := b.rows * b.cols
  let size := matsSize (i.mats l)
  let at_ (kind : Nat) : List Byte :=
    let (va, _) := i.homeRun kind l { c with first := pos, num := 1 }
    s.readVA fn va (b.size kind)
  let (w, we) := plainVals 2 n (at_ 0)
  let (m, me) := mxVals 5 b.rows b.cols (at_ 1)
  let fb := at_ 2
  let (rs, re) := plainVals 4 b.rows fb
  let (cs, ce) := plainVals 4 b.cols (fb.drop (4 * b.rows))
  let (ds, de) := if l.corr then mxVals 0xA b.rows b.cols (at_ 4) else (List.replicate n 0, evNone)
  let (v, ve) := reconstruct b.cols rs cs ds
  let (g, ge) := s.gradBlock fn step l.layer c.lshard pos b
  let (inv, ie) := fpDiv one32 (natF u.tokens)
  let x := s.tile te.1
  let (out, y) := s.runUpdate te j.updPlate n i.updprog [w, m, v, g, pg.getD g] [u.lr, u.bc1, u.bc2, inv, u.step, u.applied]
  let w' := out.getD 0 []
  let m' := out.getD 1 []
  let v' := out.getD 2 []
  let guard := (List.range n).map fun k => nonfinite (w'.getD k 0) || nonfinite (m'.getD k 0) || nonfinite (v'.getD k 0)
  let pick (a old : List W32) : List W32 := (List.range n).map fun k => if guard.getD k false then old.getD k 0 else a.getD k 0
  let w' := pick w' w
  let m' := pick m' m
  let v' := pick v' v
  let (wc, wce) := counted ((List.range n).map fun k =>
    encodePlain 1 (x.srAt te.2 l.wtag (b.fullIndex size k)) true (f32 (w'.getD k 0)))
  let ms := (List.range n).map fun k =>
    (m'.getD k 0, if cvtRnd j.cvtM = 2 then x.srAt te.2 l.mtag (b.fullIndex size k) else cvtMode j.cvtM 0)
  let (mb, mbe) := mxBytes 5 (cvtCeil j.cvtM) (cvtSat j.cvtM) b.cols ms
  let ((r2, c2, d2), fe) := refactor b.rows b.cols v'
  let (cb, cbe) := if l.corr then mxBytes 0xA true true b.cols (d2.map fun x => (x, .rne)) else ([], evNone)
  let (du, due) := counted ((List.range n).map fun k => fpSub (BitVec.ofNat 32 (wc.getD k 0 * 65536)) (w.getD k 0))
  let ev := sumEv [we, me, re, ce, de, ve, ge, ie, wce, mbe, fe, inputEv (r2 ++ c2), cbe, due, statsEv w, statsEv du]
  (s.setTile te.1 (y.countEv te.2 ev),
   { weights := wc.flatMap fun k => leBytes 2 k
     moments := mb
     factors := (r2 ++ c2).flatMap fun x => leBytes 4 x.toNat
     corr := cb
     stat := { layer := l.layer, lshard := c.lshard, block := pos, gSq := {}, gMax := 0, gNf := 0, wSq := sumSq w
               wMax := maxAbs w, uSq := sumSq du, uMax := maxAbs du, uNf := (guard.filter id).length } })

/-- Keep a block's weight and update statistics beside its gradient's (R193). -/
def Func.noteStat (f : Func) (x : BlockStat) : Func :=
  let same (y : BlockStat) : Bool := y.layer == x.layer && y.lshard == x.lshard && y.block == x.block
  match f.stats.find? same with
  | some y => { f with stats := f.stats.map fun z => if same z then
      { x with gSq := y.gSq, gMax := y.gMax, gNf := y.gNf, root := y.root } else z }
  | none => { f with stats := f.stats ++ [x] }

/-! ### The sweep of one chunk -/

/-- The first block of a group in its shard, whose chunk counts the events of the group's preconditioning. -/
def PreGroup.leads (g : PreGroup) (bs : List (Block × Nat)) : Bool := bs.any fun (b, _) => b.brow == g.brow && b.bcol == g.bcol

/-- A chunk's payload as the sweep computes it in the step program's step (R189, R196, R208, R209), with the state after the
tile's work. What a group's matrices need is counted once: in the chunk of the matrix's first rows, or of the group's first
block (assumption 81). -/
def State.chunkPayload (s : State) (fn : Nat) (step : W32) (u : UpdCmd) (te : Nat × Nat) (c : Chunk) : State × List Byte :=
  let i := s.image fn
  let count (s : State) (ev : Ev) : State := s.onTile te.1 fun x => x.countEv te.2 ev
  match i.layer c.layer with
  | none => (s, [])
  | some l =>
    match c.kind with
    | .stats gi left =>
      match i.precond[gi]? with
      | none => (s, [])
      | some g =>
        let (a, ev) := s.newStats fn step l gi g left
        (if c.first = 0 then count s ev else s, matBytes ((a.drop c.first).take c.num))
    | .root gi left =>
      match i.precond[gi]? with
      | none => (s, [])
      | some g =>
        let (q, retries, fell, ev) := s.newRoot fn step l gi g left
        ((if c.first = 0 then count s ev else s).noteRefresh fn step gi left retries fell, matBytes ((q.drop c.first).take c.num))
    | .param =>
      let bs := (((i.shardBlocks l c.lshard).zipIdx).drop c.first).take c.num
      let groups := ((bs.filterMap fun (b, _) => (i.groupOf c.layer c.lshard b)).eraseDups).map fun (gi, g) =>
        (g, s.precondition fn step l gi g)
      let s := count s (sumEv ((groups.filter fun (g, _) => g.leads bs).map fun (_, _, ev) => ev))
      let s0 := s
      let (s, outs) := bs.foldl (fun (acc : State × List BlockOut) (b, pos) =>
        let pg := (groups.find? fun (g, _) => g.holds b).map fun (g, m, _) =>
          (List.range (b.rows * b.cols)).map fun k =>
            matGet m ((b.brow - g.brow) * 64 + k / b.cols) ((b.bcol - g.bcol) * 128 + k % b.cols)
        -- inputs at home do not change during the sweep, so only the tile passes from block to block
        let (s, o) := ({ s0 with tiles := acc.1.tiles }).sweepBlock fn step u l c te pos b pg
        (s, acc.2 ++ [o])) (s, [])
      let s := outs.foldl (fun (s : State) o => s.onFunc fn fun f => f.noteStat o.stat) s
      (s, outs.flatMap BlockOut.weights ++ outs.flatMap BlockOut.moments ++ outs.flatMap BlockOut.factors ++
        outs.flatMap BlockOut.corr)

/-- ETYPE and FIRST of an entry header (R196): FIRST counts a layer's or expert matrix's blocks, or matrix rows. -/
def FuncImage.entryFields (i : FuncImage) (c : Chunk) : Nat × Nat :=
  match c.kind with
  | .stats _ _ => (1, c.first)
  | .root _ _ => (2, c.first)
  | .param =>
    let b := ((i.layer c.layer).bind fun l => (i.shardBlocks l c.lshard)[c.first]?)
    (0, match b with
        | some b => b.num
        | none => c.first)

/-- The 64-byte header of an entry (R196). -/
def FuncImage.entryHeader (i : FuncImage) (fn : Nat) (step : W32) (c : Chunk) (payload : List Byte) : List Byte :=
  let (ety, first) := i.entryFields c
  let b := leBytes 4 step.toNat ++ leBytes 4 c.id ++ leBytes 1 ety ++ leBytes 1 fn ++ leBytes 2 c.layer ++
    leBytes 2 c.lshard ++ zeros 2 ++ leBytes 4 first ++ leBytes 4 c.num ++ leBytes 4 payload.length ++
    leBytes 4 (crc32c payload).toNat ++ zeros 28
  b ++ leBytes 4 (crc32c b).toNat

/-- Write an entry into the slot that HEAD names: payload first, then the header (R195, R196). -/
def State.writeEntry (s : State) (fn : Nat) (step : W32) (c : Chunk) (payload : List Byte) : State :=
  let i := s.image fn
  let j := i.job
  let f := s.func fn
  let slot := f.jhead.toNat % j.nslot
  let s := s.writeVA fn (j.journalVa + slotOff j.nslot slot) payload
  let s := s.writeVA fn (j.journalVa + headerOff slot) (i.entryHeader fn step c payload)
  s.onFunc fn fun f => { f with
    jhead := f.jhead + 1
    jslots := f.jslots ++ [{ count := f.jhead, chunk := c.id, step := step, committed := false, copied := false }] }

/-- Whether a chunk gets a journal entry in a step of applied count `a`: a root chunk only where its group is refreshed
(R199, R209). -/
def FuncImage.sweeps (i : FuncImage) (c : Chunk) (a : W32) : Bool :=
  match c.kind with
  | .root gi _ => ((i.precond[gi]?).map fun g => g.due a).getD false
  | _ => true

/-- A failure of the update command's CRC on a tile, handled as a shard CRC failure (R153, R186). -/
def State.cmdCrc (s : State) (fn : Nat) (c : Chunk) : State :=
  let again := repeated (s.func fn) 0 c.layer c.lshard
  let s := s.report { code := eCrcFailure, cls := clsStep, func := some fn, a := pair c.layer c.lshard, b := s.srcId }
  let s := s.onFunc fn fun f => (f.raise voteFault).noteFail 0 c.layer c.lshard
  if again then s.drain fn else s

/-- The VA ranges that the sweep of a chunk reads: home state, gradients and preconditioner matrices. -/
def State.sweepReads (s : State) (fn : Nat) (step : W32) (c : Chunk) : List (Nat × Nat) :=
  let i := s.image fn
  match i.layer c.layer with
  | none => []
  | some l =>
    let bs := (i.shardBlocks l c.lshard).zipIdx
    let grad (b : Block) (k : Nat) : Nat × Nat :=
      (s.gradVa fn step l.layer c.lshard k, b.rows * b.cols * i.job.gradBytes)
    let matrix (gi : Nat) (g : PreGroup) (left root : Bool) : Nat × Nat :=
      (i.matrixVa gi left root, 4 * (g.order left * g.order left))
    let group (gi : Nat) (left : Bool) : List (Nat × Nat) :=
      match i.precond[gi]? with
      | none => []
      | some g => matrix gi g left false :: bs.filterMap fun (b, k) => if g.holds b then some (grad b k) else none
    match c.kind with
    | .stats gi left => group gi left
    | .root gi left => group gi left
    | .param =>
      let run := (bs.drop c.first).take c.num
      let roots := (run.filterMap fun (b, _) => i.groupOf c.layer c.lshard b).eraseDups.flatMap fun (gi, g) =>
        [true, false].filterMap fun left => if g.has left then some (matrix gi g left true) else none
      ([0, 1, 2] ++ if l.corr then [4] else []).map (fun k => i.homeRun k l c) ++ run.map (fun (b, k) => grad b k) ++ roots

/-- Deal with the poison that a mule's read of VA ranges meets (R305, R310). -/
def State.readPoison (s : State) (fn : Nat) (ranges : List (Nat × Nat)) : State :=
  if s.poison = [] then s
  else ((ranges.flatMap fun r => s.rangesVA fn r.1 r.2).flatMap fun r => s.poisonsIn r.1 r.2).eraseDups.foldl
    (fun (s : State) a => if (s.func fn).state = .on then s.muleMeets fn a else s) s

/-- Deal with the poison that writes of VA ranges meet in lines they cover only in part, and so read first (R302). -/
def State.writePoison (s : State) (fn : Nat) (ranges : List (Nat × Nat)) : State :=
  if s.poison = [] ∨ (s.func fn).state ≠ .on then s else s.meetEdges fn (ranges.flatMap fun r => s.rangesVA fn r.1 r.2)

/-- Bytes of a chunk's payload (R196). -/
def FuncImage.payloadSize (i : FuncImage) (c : Chunk) : Nat :=
  match i.layer c.layer, c.kind with
  | some l, .param => (([0, 1, 2] ++ if l.corr then [4] else []).map fun k => (i.homeRun k l c).2).sum
  | _, .stats gi left => ((i.precond[gi]?).map fun g => 4 * (c.num * g.order left)).getD 0
  | _, .root gi left => ((i.precond[gi]?).map fun g => 4 * (c.num * g.order left)).getD 0
  | none, .param => 0

/-- Whether the gradient roots that a chunk's sweep reads are in (R199, event 1): those of its blocks and of their groups. -/
def State.rootsIn (s : State) (fn : Nat) (c : Chunk) : Bool :=
  let i := s.image fn
  match i.layer c.layer with
  | none => true
  | some l =>
    let bs := (i.shardBlocks l c.lshard).zipIdx
    let run := (bs.drop c.first).take c.num
    let needs (y : Block × Nat) : Bool := match c.kind with
      | .stats gi _ => (i.precond[gi]?).any fun g => g.holds y.1
      | .root gi _ => (i.precond[gi]?).any fun g => g.holds y.1
      | .param => run.contains y || (run.any fun z => (i.groupOf c.layer c.lshard z.1).any fun g => g.2.holds y.1)
    bs.all fun y => !needs y || (s.func fn).stats.any fun x =>
      x.layer == c.layer && x.lshard == c.lshard && x.block == y.2 && x.root

/-- The sweep of one chunk of a TILE item on a tile, in the step `step` of the item's program. A root chunk that the step does
not refresh has no entry; nor has a chunk of a step that the vote has meanwhile skipped, whose entries are discarded (R199). -/
def State.sweepChunk (s : State) (fn : Nat) (step : W32) (te : Nat × Nat) (c : Chunk) : State :=
  let i := s.image fn
  let b := s.read (s.cmdAddr fn te) 32
  let s := if updCmdGood b then s else s.cmdCrc fn c
  let u := updCmdOf b
  let f := s.func fn
  let swept := f.jslots.any fun x => x.chunk == c.id && x.step == step
  let skipped := f.step != step && f.gen != step
  let slot := (i.job.journalVa + slotOff i.job.nslot (f.jhead.toNat % i.job.nslot), i.payloadSize c)
  let s := if i.sweeps c u.applied && !swept && !skipped then
    (s.readPoison fn (s.sweepReads fn step c)).writePoison fn [slot] else s
  let f := s.func fn
  if f.state ≠ .on ∨ i.sweeps c u.applied = false ∨ swept ∨ skipped then s
  else
    let (s, payload) := s.chunkPayload fn step u te c
    (s.writeEntry fn step c payload).onFunc fn fun f => { f with jstate := if f.step = step then 1 else f.jstate }

/-! ### TILE items (R249, R250) -/

/-- Start the section at ARG on a tile. -/
def State.startSection (s : State) (fn arg : Nat) (te : Nat × Nat) : State :=
  match (s.image fn).sectionAt te.1 arg with
  | none => s
  | some (_, g) => s.onTile te.1 fun x =>
    let q := tget {} x.seqs te.2
    { x with seqs := tset {} x.seqs te.2 { q with active := true, iaddr := BitVec.ofNat 32 g.offset, left := g.instrs.length } }

/-- The tile of the k-th of `n` chunks dealt to `m` tiles: each tile takes a run of them of a power of two, so that its blocks
form one node of a tree keyed by block index (R150, assumption 82). -/
def tileOfChunk (n m k : Nat) : Nat := k / 2 ^ clog2 (ceilDiv n (max 1 m))

/-- TILE (R249): the section at ARG starts on every tile of the group, and the chunks of `sweep` are swept, each on one tile
of the group. A sweep waits for the gradient roots that it reads (R199, R250). -/
def execTile (fn idx : Nat) (sweep : List Nat) (s : State) : Answer :=
  s.withItem fn idx opTILE .issued fun f e =>
    let ts := s.shareTiles fn e.group
    let owned := s.ownedChunks fn
    let cs := sweep.filterMap fun k => owned.find? fun c => c.id == k
    let step := (f.runAt idx).step
    if cs.length ≠ sweep.length then s.noEvent "R189: the sweep takes chunks that the member owns"
    else if ts.isEmpty ∧ !cs.isEmpty then s.noEvent "R189: the group has no tile of the function"
    else if idx < runBase ∧ !(cs.all fun c => s.rootsIn fn c) then .next s
    else
      let s := s.setFunc fn (f.setItem idx .started)
      let s := ts.foldl (fun (s : State) te => s.startSection fn e.arg te) s
      .next (cs.zipIdx.foldl (fun (s : State) (c, k) =>
        s.sweepChunk fn step (ts.getD (tileOfChunk cs.length ts.length k) (0, 0)) c) s)

/-- TILE_SECTION_END (R249): every tile of the item has issued its section's instructions; the item is complete. -/
def execTileSectionEnd (fn idx : Nat) (s : State) : Answer :=
  s.withItem fn idx opTILE .started fun f e =>
    let ts := s.shareTiles fn e.group
    if ts.any fun te => let q := tget {} (s.tile te.1).seqs te.2; q.active && (q.left != 0 || q.stopped || q.halted) then .next s
    else
      let s := ts.foldl (fun (s : State) te => s.onTile te.1 fun x =>
        { x with seqs := tset {} x.seqs te.2 { tget {} x.seqs te.2 with active := false } }) s
      .next (s.setFunc fn (f.setItem idx .complete))

end Sys2Proof.Machine
end

