-- ==== Sys2Proof/Machine/Ledger.lean ====
section
/-! DEFINITION. What follows a decided step: the norm ledger (R163 to R167), the noise estimate (R158), and the counters of
R171. -/
namespace Sys2Proof.Machine

/-! ### Ledger records (R165, R166) -/

/-- c and T of a variant. -/
def Job.variant (j : Job) (var : Nat) : Nat × Nat := (j.variants[var]?).getD (1, 0)

/-- The statistics of the blocks of a (LAYER, LSHARD), in rising block order. -/
def Func.shardStats (f : Func) (layer shard n : Nat) : List BlockStat :=
  (List.range n).map fun k =>
    (f.stats.find? fun x => x.layer == layer && x.lshard == shard && x.block == k).getD
      { layer := layer, lshard := shard, block := k, gSq := {}, gMax := 0, gNf := 0, wSq := {}, wMax := 0, uSq := {}, uMax := 0
        uNf := 0 }

/-- Largest magnitude of a list of them (R58). -/
def maxF (vs : List W32) : W32 := vs.foldl fpMax 0

/-- The damping retries and fall-back flag of a (LAYER, LSHARD) (R211). -/
def State.shardFlags (s : State) (fn layer shard : Nat) : Nat × Bool :=
  let gs := (s.image fn).groupsOf layer shard
  let retries := gs.foldl (fun m (gi, _) =>
    match (s.func fn).groups.find? fun e => e.1 == gi with
    | some e => max m (max e.2.retryL e.2.retryR)
    | none => m) 0
  (retries, gs.any fun (gi, _) => let g := s.groupState fn gi; g.fallL || g.fallR)

/-- MB_SUMSQ of a record (R157): 0 in mode A; in mode B the sum that the vote was formed with. -/
def State.mbSumsq (s : State) (fn layer shard : Nat) : W32 :=
  if (s.image fn).job.mode = 0 then 0
  else (((s.func fn).mbSums.find? fun x => x.1 == layer && x.2.1 == shard).map fun x => x.2.2).getD 0

/-- The 64 bytes of one ledger record (R165). -/
def State.ledgerRecord (s : State) (fn : Nat) (step : W32) (outcome : Nat) (l : Layer) (shard : Nat) : List Byte :=
  let i := s.image fn
  let xs := (s.func fn).shardStats l.layer shard (i.shardBlocks l shard).length
  let w := valueTree (xs.map BlockStat.wSq)
  let g := valueTree (xs.map BlockStat.gSq)
  let u := valueTree (xs.map BlockStat.uSq)
  let sat (ns : List Nat) : Nat := min ns.sum (2 ^ 32 - 1)
  let (retries, diag) := s.shardFlags fn l.layer shard
  let flags := b2n (w.x || g.x || u.x) + 2 * b2n diag + 4 * retries + 32 * b2n (i.job.path == 1)
  let b := leBytes 4 step.toNat ++ leBytes 2 l.layer ++ leBytes 2 shard ++ leBytes 4 w.fp32.toNat ++ leBytes 4 g.fp32.toNat ++
    leBytes 4 u.fp32.toNat ++ leBytes 4 (s.mbSumsq fn l.layer shard).toNat ++ leBytes 4 (maxF (xs.map BlockStat.wMax)).toNat ++
    leBytes 4 (maxF (xs.map BlockStat.gMax)).toNat ++ leBytes 4 (maxF (xs.map BlockStat.uMax)).toNat ++
    leBytes 4 (sat (xs.map BlockStat.gNf)) ++ leBytes 4 (sat (xs.map BlockStat.uNf)) ++ leBytes 2 flags ++ leBytes 1 outcome ++
    zeros 13
  b ++ leBytes 4 (crc32c b).toNat

/-- The (layer, logical shard) pairs whose ledger records the member writes, in rising (LAYER, LSHARD) order. -/
def State.ledgerPairs (s : State) (fn : Nat) : List (Layer × Nat) :=
  let i := s.image fn
  let shards := i.job.ownedShards s.herd.count s.herd.member
  (i.heads.filter fun l => i.job.ownsStage s.herd.count s.herd.member l.stage).flatMap fun l => shards.map fun j => (l, j)

/-- G_NONFIN of the member's own records, added up. -/
def State.ownNonfin (s : State) (fn : Nat) : Nat :=
  ((s.ledgerPairs fn).map fun (l, j) =>
    (((s.func fn).shardStats l.layer j ((s.image fn).shardBlocks l j).length).map BlockStat.gNf).sum).sum

/-- The step record (R166): `var` is the variant of the step, `f` the function after it. -/
def stepRecord (j : Job) (f : Func) (step : W32) (var outcome vote : Nat) : List Byte :=
  let (c, t) := j.variant var
  let b := leBytes 4 step.toNat ++ leBytes 2 0xFFFF ++ leBytes 2 c ++ leBytes 4 f.gnorm.fp32.toNat ++ leBytes 4 f.mbnorm.toNat ++
    leBytes 4 j.ceilSq.toNat ++ leBytes 4 f.ema.toNat ++ leBytes 4 f.gen.toNat ++ leBytes 4 t ++ leBytes 1 vote ++
    leBytes 1 outcome ++ zeros 26
  b ++ leBytes 4 (crc32c b).toNat

/-- Append a step's group of records to the ledger ring, or drop it (R167, R322, R342). A group waits while a link that it
travels on retrains (R321), and behind one that waits. -/
def State.appendLedger (s : State) (fn : Nat) (recs : List (List Byte)) : State :=
  let j := (s.image fn).job
  let f := s.func fn
  let size := 2 ^ j.ledgerLog2
  let at_ (k : Nat) : Nat := j.ledgerVpn * pageSize + (f.ledWr.toNat + k) % size * 64
  let links := (List.range recs.length).map fun k => (s.lwl (s.linkOf (at_ k))).state
  let out := links.any fun l => l == .out || l == .down
  -- R342: after a host reset a function's ledger groups are dropped until it is enabled again
  if size < (f.ledWr - f.ledRd).toNat + recs.length ∨ out ∨ f.epoch ≠ s.larwa.epoch then
    s.setFunc fn { f with ledLost := satAdd 32 f.ledLost 1 }
  else if !f.ledgerWait.isEmpty || links.any fun l => l != .up then s.setFunc fn { f with ledgerWait := f.ledgerWait ++ [recs] }
  else
    let s := recs.zipIdx.foldl (fun (s : State) (r, k) => s.writeVA fn (at_ k) r) s
    s.onFunc fn fun f => { f with ledWr := f.ledWr + BitVec.ofNat 32 recs.length }

/-- Groups that waited for a link are appended or dropped, in order. -/
def State.flushLedger (s : State) (fn : Nat) : State :=
  let waiting := (s.func fn).ledgerWait
  waiting.foldl (fun (s : State) g => s.appendLedger fn g) (s.onFunc fn fun f => { f with ledgerWait := [] })

/-- The groups of every function that waited for a link. -/
def State.flushLedgers (s : State) : State := funcIds.foldl State.flushLedger s

/-! ### The noise estimate (R158) -/

/-- g2 and tr of R158. -/
def noiseTerms (l c t : Nat) (mbnorm gnorm : W32) : W32 × W32 × W32 :=
  let (lf, cf, tf) := (natF l, natF c, natF t)
  let b := divF tf (mulF lf cf)
  let small := divF mbnorm (mulF (mulF (mulF lf cf) b) b)
  let big := divF gnorm (mulF tf tf)
  let g2 := divF (subF (mulF tf big) (mulF b small)) (subF tf b)
  let tr := divF (subF small big) (subF (divF one32 b) (divF one32 tf))
  (b, g2, tr)

/-- The next larger or smaller variant count towards a target. -/
def nextCount (cs : List Nat) (c target : Nat) : Nat :=
  if c < target then ((cs.filter fun v => decide (c < v)).min?).getD c
  else if target < c then ((cs.filter fun v => decide (v < c)).max?).getD c
  else c

/-- NOISE_UPDATE: ema and the next step's variant after a COMMITTED step in mode B. -/
def Func.noiseUpdate (f : Func) (j : Job) : Func :=
  if j.mode ≠ 1 then f
  else
    let (c, t) := j.variant f.mbvar
    let (b, g2, tr) := noiseTerms j.shards c t f.mbnorm f.gnorm.fp32
    let ema := if gtF g2 0 && gtF tr 0 && !nonfinite g2 && !nonfinite tr then
      addF f.ema (divF (subF (divF tr g2) f.ema) (natF 16)) else f.ema
    let cs := j.variants.map Prod.fst
    let fits := cs.filter fun v => geF (mulF (mulF (natF v) (natF j.shards)) b) ema
    let target := (fits.min?).getD ((cs.max?).getD c)
    let next := nextCount cs c target
    { f with ema := ema, mbvar := (cs.findIdx? fun v => v == next).getD f.mbvar }

/-! ### The decision (R171, R188, R199) -/

/-- The outcome of an OR of votes, by the first matching row of R171. -/
def outcomeOf (or_ : BitVec 8) : Nat :=
  if bitOf or_.toNat 0 then 1
  else if bitOf or_.toNat 1 then 2
  else if bits or_.toNat 4 2 ≠ 0 then 3
  else 0

/-- A decided step, as decision words hold it (R198). -/
structure Decision where
  step : W32
  outcome : Nat
  vote : Nat
  gen : W32
  applied : W32
  deriving DecidableEq, Repr, Inhabited

/-- What a manifest of the last committed generation gives. -/
def Func.snapMeta (f : Func) : SnapMeta := { gen := f.gen, applied := f.applied, step := f.step, mbvar := f.mbvar, ema := f.ema }

/-- Counters of R171, the noise estimate and the function's snapshot count after a decided step. -/
def Func.decided (f : Func) (j : Job) (d : Decision) : Func :=
  let f := { f with
    stepVar := f.progVar, step := d.step + 1, gen := d.gen, applied := d.applied, outcome := d.outcome
    voteOut := BitVec.ofNat 5 d.vote, skiprun := if d.outcome = 0 then 0 else satAdd 16 f.skiprun 1 }
  if d.outcome = 0 then
    let n := f.committedSince + 1
    let f := f.noiseUpdate j
    let wanted : Bool := j.snapEvery != 0 && n % max 1 j.snapEvery == 0
    { f with committedSince := n, snapWanted := f.snapWanted ++ if wanted then [f.snapMeta] else [] }
  else f

/-- Apply a decided step: the counters, the step's records and the ledger, and the group states of its refreshes. -/
def State.takeDecision (s : State) (fn : Nat) (d : Decision) : State :=
  let j := (s.image fn).job
  let var := (s.func fn).progVar
  let recs := (s.ledgerPairs fn).map fun (l, x) => s.ledgerRecord fn d.step d.outcome l x
  let s := s.onFunc fn fun f => f.decided j d
  s.appendLedger fn (stepRecord j (s.func fn) d.step var d.outcome d.vote :: recs)

/-- LEDGER_RD_WRITE (R167): entries consumed; a write beyond WR, or that leaves more than the ring's size, is ignored. -/
def execLedgerRdWrite (fn : Nat) (rd : W32) (s : State) : Answer :=
  if 16 ≤ fn then .fault (.absent "function" fn)
  else
    let f := s.func fn
    .next (if (f.ledWr - rd).toNat ≤ 2 ^ (s.image fn).job.ledgerLog2 then s.setFunc fn { f with ledRd := rd } else s)

end Sys2Proof.Machine
end

