-- ==== Sys2Proof/Machine/Snapshot.lean ====
section
/-! DEFINITION. Snapshots and restores (R178 to R182, R267): what a member ships, the manifest, the two paths (R328, R367,
R368), and what a restore writes. -/
namespace Sys2Proof.Machine

/-! ### Regions (R178, R183) -/

/-- Where the state of one kind of a (LAYER, LSHARD) lies, in order: kinds 0 to 3. The weights of experts lie at their
homes. -/
def FuncImage.shipPieces (i : FuncImage) (kind : Nat) (l : Layer) (shard : Nat) : List (Nat × Nat) :=
  if kind < 3 then i.home kind l shard
  else
    let gs := i.groupsOf l.layer shard
    if gs.isEmpty then [] else [(Config.homePlace i.digest 3 l.layer shard, gs.foldl (fun n x => n + x.2.size) 0)]

/-- The ERT entries of the experts of a (LAYER, LSHARD), rising. -/
def FuncImage.shardErt (i : FuncImage) (l : Layer) (shard : Nat) : List Nat :=
  match i.expertLayer l.layer with
  | some e => (e.ofShard shard).map fun x => e.ertBase + x
  | none => []

/-- Bytes of a region. -/
def FuncImage.shipSize (i : FuncImage) (kind : Nat) (l : Layer) (shard : Nat) : Nat :=
  if kind = 4 then 4 * (i.shardErt l shard).length else (i.shipPieces kind l shard).foldl (fun n p => n + p.2) 0

/-- The content of a region as it stands at home. -/
def State.shipRegion (s : State) (fn kind : Nat) (l : Layer) (shard : Nat) : List Byte :=
  let i := s.image fn
  if kind = 4 then (i.shardErt l shard).flatMap fun x => leBytes 4 (s.ertEntry x).gen.toNat
  else (i.shipPieces kind l shard).flatMap fun p => s.readVA fn p.1 p.2

/-- Write bytes into a region from an offset on. -/
def State.writeRegion (s : State) (fn : Nat) (pieces : List (Nat × Nat)) (off : Nat) (bs : List Byte) : State :=
  (pieces.foldl (fun (acc : State × Nat) p =>
    let (s, at_) := acc
    let lo := max off at_
    let hi := min (off + bs.length) (at_ + p.2)
    (if lo < hi then s.writeVA fn (p.1 + (lo - at_)) ((bs.drop (lo - off)).take (hi - lo)) else s, at_ + p.2)) (s, 0)).1

/-- The device physical ranges that a snapshot of a function reads. -/
def State.shipRanges (s : State) (fn : Nat) : List (Nat × Nat) :=
  let i := s.image fn
  (s.ledgerPairs fn).flatMap fun (l, j) => [0, 1, 2, 3].flatMap fun k => i.shipPieces k l j

/-! ### Chunks and manifests (R179, R180) -/

/-- The header of a shipped chunk (R179). -/
def shipHeader (g : W32) (kind fn layer shard off : Nat) (payload : List Byte) : List Byte :=
  let b := leBytes 4 g.toNat ++ leBytes 1 kind ++ leBytes 1 fn ++ leBytes 2 layer ++ leBytes 2 shard ++ zeros 2 ++
    leBytes 8 off ++ leBytes 4 payload.length ++ leBytes 4 (crc32c payload).toNat ++ zeros 32
  b ++ leBytes 4 (crc32c b).toNat

/-- The chunks of a snapshot in order, as (logical shard, header, payload). -/
def State.shipChunks (s : State) (fn : Nat) (g : W32) : List (Nat × List Byte × List Byte) :=
  (s.ledgerPairs fn).flatMap fun (l, j) => [0, 1, 2, 3, 4].flatMap fun k =>
    let bs := s.shipRegion fn k l j
    (chunksOf pageSize bs.length bs).zipIdx.map fun (p, n) => (j, shipHeader g k fn l.layer j (n * pageSize) p, p)

/-- A manifest (R180; its layout is the model's, assumption 30): GEN, the applied-step count, the global step, MBVAR, c, ema,
the number of logical shards, the CRC over the chunk headers, and each logical shard with its chunk count. -/
def State.manifest (s : State) (fn : Nat) (m : SnapMeta) (cs : List (Nat × List Byte × List Byte)) : List Byte :=
  let j := (s.image fn).job
  let shards := j.ownedShards s.herd.count s.herd.member
  leBytes 4 m.gen.toNat ++ leBytes 4 m.applied.toNat ++ leBytes 4 m.step.toNat ++ leBytes 4 m.mbvar ++
    leBytes 4 (j.variant m.mbvar).1 ++ leBytes 4 m.ema.toNat ++ leBytes 4 shards.length ++ zeros 32 ++
    leBytes 4 (crc32c (cs.flatMap fun c => c.2.1)).toNat ++
    shards.flatMap fun k => leBytes 4 k ++ leBytes 4 (cs.filter fun c => c.1 == k).length

/-! ### Targets (R328, R354, R367) -/

/-- Where a shipment goes or comes from. -/
structure ShipTarget where
  overEthernet : Bool
  port : Nat
  dmac : BitVec 48
  stream : Nat
  tc : Nat
  addr : Nat
  deriving DecidableEq, Repr, Inhabited

/-- Whether a destination descriptor is well formed. -/
def targetBad (t : List Byte) : Bool := decide (7 < leAt t 8 1 ∨ 15 < leAt t 7 1) || leAt t 9 1 != 0 || leAt t 12 4 != 0

/-- The VLAN entry of a function on a switched port. -/
def Port.entry (x : Port) (f : Nat) : VlanEntry := tget {} x.vlan f

/-- Whether another entry of a port holds the same VID and inserts it (R354). -/
def Port.sharesVid (x : Port) (f : Nat) : Bool :=
  (List.range 17).any fun k => k != f && (x.entry k).insert && (x.entry k).vid == (x.entry f).vid

/-- The target of a SNAPSHOT or RESTORE, with the STATUS that refuses it. -/
def State.shipTarget (s : State) (fn path port : Nat) (t : List Byte) : ShipTarget × Option Nat :=
  let x := s.port port
  let vid := leAt t 6 2 % 4096
  ({ overEthernet := path == 1, port := port, dmac := BitVec.ofNat 48 (beAt t 0 6), stream := leAt t 10 2, tc := leAt t 8 1
     addr := leAt t 0 8 },
   if path = 0 then
     if !s.hubFitted port then some stBadCommand
     else if (s.hub port).bus.gen = 0 then some stPortError else none
   else if path ≠ 1 ∨ !s.isSwitched port ∨ targetBad t ∨ (vid ≠ 0 ∧ vid ≠ (x.entry fn).vid.toNat) then some stBadCommand
   else if x.sharesVid fn ∨ x.state ≠ .up then some stPortError
   else none)

/-- RESULT of a PORT_ERROR: the port and the generation (R335). -/
def portResult (port : Nat) (g : W32) : List Byte := leBytes 1 port ++ zeros 3 ++ leBytes 4 g.toNat

/-- Count a peer-to-peer transfer that was rejected or timed out (R328). -/
def State.countP2p (s : State) (h : Nat) : State :=
  s.setHub h { s.hub h with bus := { (s.hub h).bus with p2perr := satAdd 16 (s.hub h).bus.p2perr 1 } }

/-! ### Streams (R368) -/

/-- Send frame `k` of a shipment. -/
def State.sendStream (s : State) (fn : Nat) (h : Shipment) (k : Nat) (retx : Bool) : State :=
  s.emit (.frame h.port kSTREAM h.tc (herdFrame
    { kind := kSTREAM, retx := retx, fn := fn, src := s.srcId, seq := BitVec.ofNat 32 k, list := h.stream } (h.frames.getD k [])))

/-- Frames of 4,096 bytes that make 1 MiB unacknowledged. -/
def shipWindow : Nat := 256

/-- Whether a shipment may send on its port now: the port is up and the class is not paused (R366). -/
def State.shipOpen (s : State) (h : Shipment) : Bool :=
  (s.port h.port).state == .up && !bitOf (s.port h.port).paused.toNat h.tc

/-- Send what the window allows of a function's snapshot. -/
def State.pumpShip (s : State) (fn : Nat) : State :=
  match (s.func fn).snap with
  | none => s
  | some h =>
    if !h.overEthernet || h.restore || !s.shipOpen h then s
    else
      let lim := min h.frames.length (h.acked + shipWindow)
      let s := (List.range (lim - h.sent)).foldl (fun (s : State) k => s.sendStream fn h (h.sent + k) false) s
      s.onFunc fn fun f => { f with snap := some { h with sent := max h.sent lim } }

/-- Resend everything unacknowledged of a function's snapshot, from the oldest frame on. -/
def State.resendShip (s : State) (fn : Nat) (h : Shipment) : State :=
  if s.shipOpen h then
    (List.range (h.sent - h.acked)).foldl (fun (s : State) k => s.sendStream fn h (h.acked + k) true) s
  else s

/-- A shipment fails (R182, R368): a snapshot is reported, and the command completes with PORT_ERROR. -/
def State.failShip (s : State) (fn : Nat) : State :=
  match (s.func fn).snap with
  | none => s
  | some h =>
    let s := s.onFunc fn fun f => { f with snap := none }
    let s := if h.overEthernet then s else s.countP2p h.port
    let s := if h.restore then s else
      s.report { code := eSnapshot, cls := clsCommand, func := some fn, unit := h.port, a := h.gen.toNat }
    s.completeAll h.cmd.toList stPortError (portResult h.port h.gen)

/-- Shipments over a switched port that goes down fail. -/
def State.failShips (s : State) (port : Nat) : State :=
  funcIds.foldl (fun (s : State) n =>
    match (s.func n).snap with
    | some h => if h.overEthernet ∧ h.port = port then s.failShip n else s
    | none => s) s

/-! ### SNAPSHOT (R178, R181) -/

/-- Whether commit copies of generation `g` are outstanding. -/
def Func.copying (f : Func) (g : W32) : Bool :=
  f.jslots.any (fun x => x.step == g && !x.copied) || (f.gen == g && (!f.commitDue.isEmpty || !f.pendingRoots.isEmpty))

/-- Read a function's home state and start to ship it. Over the bus port the chunks are written at once and the manifest
waits for SNAPSHOT_COMPLETE; over Ethernet all of it is a stream. A poisoned home stops the job (R305). -/
def State.startShip (s : State) (fn : Nat) (cmd : Option Cmd) (m : SnapMeta) (t : ShipTarget) : State :=
  let s := s.readPoison fn (s.shipRanges fn)
  if (s.func fn).state ≠ .on then s.completeAll cmd.toList stCancelled []
  else
    let g := m.gen
    let cs := s.shipChunks fn g
    let body := cs.flatMap fun c => c.2.1 ++ c.2.2
    let m := s.manifest fn m cs
    let h : Shipment := {
      cmd := cmd, gen := g, overEthernet := t.overEthernet, port := t.port, dmac := t.dmac, stream := t.stream, tc := t.tc
      restore := false, frames := if t.overEthernet then chunksOf 4096 (body ++ m).length (body ++ m) else [m]
      sent := if t.overEthernet then 0 else t.addr + body.length, acked := 0, timeouts := 0 }
    let s := s.onFunc fn fun f => { f with snap := some h }
    if t.overEthernet then s.pumpShip fn
    else (chunksOf 4096 body.length body).zipIdx.foldl (fun (s : State) (b, k) => s.emit (.peerWrite (t.addr + 4096 * k) b)) s

/-- Whether a function's home state of generation `g` can be read now: no commit copy of it is outstanding and its links are
UP. -/
def State.shipReady (s : State) (fn : Nat) (g : W32) : Bool :=
  !(s.func fn).copying g && s.reachable ((s.shipRanges fn).flatMap fun p => s.rangesVA fn p.1 p.2)

/-- SNAPSHOT (R178): the command releases its queue once the home state of the last committed step has been read. -/
def execSnapshot (q : Nat) (s : State) : Answer :=
  s.withCmd q 0x43 fun c =>
    let fn := s.cmdFunc c
    let f := s.func fn
    let t := slice c.bytes 16 16
    let (target, bad) := s.shipTarget fn (c.arg 8 1) (c.arg 9 1) t
    if f.state ≠ .on ∨ s.base.isNone ∨ f.snap.isSome then s.finish c stState
    else match bad with
      | some st =>
        if st = stPortError then
          let s := if target.overEthernet then s else s.countP2p target.port
          (s.report { code := eSnapshot, cls := clsCommand, func := some fn, unit := target.port, a := f.gen.toNat }).finish c st
            (portResult target.port f.gen)
        else s.finish c st
      | none =>
        if !s.shipReady fn f.gen then .next s
        else
          let s := s.setFunc fn { f with snapTo := some (target.overEthernet, target.port, t) }
          .next ((s.release c).startShip fn (some c) f.snapMeta target)

/-- The oldest snapshot that SNAP_EVERY asks for and that is not yet read (R178), to the target of the function's last SNAPSHOT
(assumption 31). -/
def State.autoShip (s : State) (fn : Nat) : State :=
  let f := s.func fn
  match f.snapWanted with
  | [] => s
  | m :: rest =>
    if f.state ≠ .on ∨ f.snap.isSome ∨ f.copying m.gen then s
    else
      let done := s.setFunc fn { f with snapWanted := rest }
      match f.snapTo with
      | none => done
      | some (eth, port, t) =>
        let (target, bad) := s.shipTarget fn (b2n eth) port t
        if bad.isSome then
          done.report { code := eSnapshot, cls := clsCommand, func := some fn, unit := port, a := m.gen.toNat }
        else if s.shipReady fn m.gen then done.startShip fn none m target else s

/-- Whether a commit copy of the last committed step must wait for the read of an older generation (R181). -/
def Func.copyHeld (f : Func) : Bool := f.snapWanted.any fun m => m.gen != f.gen

/-- SNAPSHOT_COMPLETE (R180, R182): everything has been taken by the target, the manifest last; or the shipment fails. -/
def execSnapshotComplete (fn : Nat) (failed : Bool) (s : State) : Answer :=
  if 16 ≤ fn then .fault (.absent "function" fn)
  else match (s.func fn).snap with
    | none => s.noEvent "R180: no snapshot is under way"
    | some h =>
      if h.restore then s.noEvent "R180: no snapshot is under way"
      else if failed then .next (s.failShip fn)
      else if h.overEthernet ∧ h.acked < h.frames.length then .next s
      else
        let s := if h.overEthernet then s else
          h.frames.foldl (fun (s : State) b => s.emit (.peerWrite h.sent b)) s
        let s := s.onFunc fn fun f => { f with snap := none }
        .next ((s.completeAll h.cmd.toList stSuccess (leBytes 4 h.gen.toNat)).autoShip fn)

/-! ### What a restore has received -/

/-- A chunk as it arrived. -/
structure ShipChunk where
  kind : Nat
  layer : Nat
  shard : Nat
  off : Nat
  payload : List Byte
  deriving DecidableEq, Repr, Inhabited

/-- What a received stream comes to: still short, wrong (with the kind, layer and logical shard of the fault), or whole, with
the chunks and the last manifest. -/
inductive Received where
  | more
  | bad (kind layer shard : Nat)
  | whole (chunks : List ShipChunk) (manifest : List Byte)

/-- The (shard, count) records of a manifest. -/
def manifestShards (m : List Byte) : List (Nat × Nat) :=
  (List.range (leAt m 24 4)).map fun k => (leAt m (64 + 8 * k) 4, leAt m (68 + 8 * k) 4)

/-- Read a stream from its front: `seg` holds the headers and chunks since the last manifest, `all` every chunk before it, and
`need` the logical shards that no manifest has covered. -/
def readShip (g : W32) : Nat → List Byte → List (List Byte) → List ShipChunk → List ShipChunk → List Nat → Received
  | 0, _, _, _, _, _ => .more
  | k + 1, bs, hs, seg, all, need =>
    if bs.length < 64 then .more
    else
      let h := bs.take 64
      if leAt h 60 4 = (crc32c (h.take 60)).toNat ∧ leAt h 4 1 < 5 then
        let n := leAt h 20 4
        let c : ShipChunk := { kind := leAt h 4 1, layer := leAt h 6 2, shard := leAt h 8 2, off := leAt h 12 8
                               payload := (bs.drop 64).take n }
        if leAt h 0 4 ≠ g.toNat ∨ pageSize < n then .bad c.kind c.layer c.shard
        else if bs.length < 64 + n then .more
        else if leAt h 24 4 ≠ (crc32c c.payload).toNat then .bad c.kind c.layer c.shard
        else readShip g k (bs.drop (64 + n)) (hs ++ [h]) (seg ++ [c]) all need
      else
        let size := 64 + 8 * leAt h 24 4
        if leAt h 0 4 ≠ g.toNat ∨ 0x10000 < leAt h 24 4 then .bad 0xFF 0xFFFF 0xFFFF
        else if bs.length < size then .more
        else
          let m := bs.take size
          let covers := manifestShards m
          match covers.find? fun (x, n) => (seg.filter fun c => c.shard == x).length != n with
          | some (x, _) => .bad 0xFF 0xFFFF x
          | none =>
            if leAt m 60 4 ≠ (crc32c hs.flatten).toNat then .bad 0xFF 0xFFFF 0xFFFF
            else
              let need := need.filter fun x => !covers.any fun c => c.1 == x
              if need.isEmpty then .whole (all ++ seg) m
              else readShip g k (bs.drop size) [] [] (all ++ seg) need

/-- The first owned region that the chunks do not fill. -/
def State.shipGap (s : State) (fn : Nat) (g : W32) (cs : List ShipChunk) : Option (Nat × Nat × Nat) :=
  let i := s.image fn
  ((s.ledgerPairs fn).flatMap fun (l, j) => [0, 1, 2, 3, 4].map fun k => (k, l, j)).findSome? fun (k, l, j) =>
    let mine := cs.filter fun c => c.kind == k && c.layer == l.layer && c.shard == j
    let size := i.shipSize k l j
    -- R207: a generation-0 snapshot may hold no kind 3
    if k = 3 ∧ g = 0 ∧ mine.isEmpty then none
    else if mine.foldl (fun n c => n + c.payload.length) 0 = size ∧ mine.all fun c => decide (c.off + c.payload.length ≤ size) then none
    else some (k, l.layer, j)

/-- Write one restored chunk. -/
def State.restoreChunk (fn : Nat) (s : State) (c : ShipChunk) : State :=
  let i := s.image fn
  match (s.ledgerPairs fn).find? fun (l, j) => l.layer == c.layer && j == c.shard with
  | none => s
  | some (l, j) =>
    if c.kind = 4 then
      (i.shardErt l j).zipIdx.foldl (fun (s : State) (x, k) =>
        if c.off ≤ 4 * k ∧ 4 * k + 4 ≤ c.off + c.payload.length then
          s.setErt x { s.ertEntry x with gen := BitVec.ofNat 32 (leAt c.payload (4 * k - c.off) 4) }
        else s) s
    else s.writeRegion fn (i.shipPieces c.kind l j) c.off c.payload

/-- The preconditioner state of a job whose generation-0 snapshot gives none (R207): A = 0, Q = I, and no fall-back. -/
def State.initGroups (s : State) (fn : Nat) (l : Layer) (shard : Nat) : State :=
  let i := s.image fn
  (i.groupsOf l.layer shard).foldl (fun (s : State) (gi, g) =>
    let s := g.matrices.foldl (fun (s : State) (left, root) =>
      let n := g.order left
      s.writeVA fn (i.matrixVa gi left root) (matBytes (matOf n n fun a b => if root then eyeAt a b else 0))) s
    s.writeVA fn (i.groupStateVa gi) (zeros 16)) s

/-- The effect of a restore of generation `g` (R267, steps 3 and 4): homes, chunk state words and counters. -/
def State.restore (s : State) (fn : Nat) (g : W32) (cs : List ShipChunk) (m : List Byte) : State :=
  let i := s.image fn
  let s := cs.foldl (State.restoreChunk fn) s
  let s := if g = 0 then (s.ledgerPairs fn).foldl (fun (s : State) (l, j) =>
    if cs.any fun c => c.kind == 3 && c.layer == l.layer && c.shard == j then s else s.initGroups fn l j) s else s
  let applied := leAt m 4 4
  let s := s.writePoison fn ((s.ownedChunks fn).map fun c => (i.stateVa c.id, 16))
  let s := (s.ownedChunks fn).foldl (fun (s : State) c => s.writeVA fn (i.stateVa c.id) (stateWord g.toNat applied c.id)) s
  s.onFunc fn fun f => { f with
    gen := g, step := g + 1, applied := BitVec.ofNat 32 applied, mbvar := leAt m 12 4, ema := BitVec.ofNat 32 (leAt m 20 4)
    jhead := f.jtail, jslots := [], commitDue := [], gradKept := [], pendingRoots := [], copyWrite := [], groups := [], groupsDue := []
    jstate := 0, interrupted := false, fails := [] }

/-- RESULT of a failed restore: GEN, then the kind, layer and logical shard at fault (assumption 32). -/
def restoreResult (g : W32) (kind layer shard : Nat) : List Byte :=
  leBytes 4 g.toNat ++ leBytes 1 kind ++ zeros 1 ++ leBytes 2 layer ++ leBytes 2 shard

/-- Judge the bytes received for a restore of generation `g`: none while they are short; else the state after it, the STATUS
and the RESULT. -/
def State.judgeRestore (s : State) (fn : Nat) (g : W32) (bs : List Byte) : Option (State × Nat × List Byte) :=
  let need := (s.image fn).job.ownedShards s.herd.count s.herd.member
  match readShip g (bs.length / 64 + 1) bs [] [] [] need with
  | .more => none
  | .bad k l j => some (s, stDataError, restoreResult g k l j)
  | .whole cs m =>
    match s.shipGap fn g cs with
    | some (k, l, j) => some (s, stDataError, restoreResult g k l j)
    | none => some (s.restore fn g cs m, stSuccess, leBytes 4 g.toNat)

/-- RESTORE (R267): over the bus port the mules read the snapshot, `peer` being what the peer answers; over Ethernet the
command releases its queue and the target's stream follows. -/
def execRestore (q : Nat) (peer : HostData) (s : State) : Answer :=
  s.withCmd q 0x44 fun c =>
    let fn := s.cmdFunc c
    let f := s.func fn
    let g := BitVec.ofNat 32 (c.arg 12 4)
    let (t, bad) := s.shipTarget fn (c.arg 8 1) (c.arg 9 1) (slice c.bytes 16 16)
    if f.state ≠ .on ∨ s.base.isNone ∨ f.snap.isSome ∨ f.run ∨ f.armed ∨ f.halted then s.finish c stState
    else match bad with
      | some st =>
        (if st = stPortError ∧ !t.overEthernet then s.countP2p t.port else s).finish c st
          (if st = stPortError then portResult t.port g else [])
      | none =>
        if t.overEthernet then
          .next ((s.release c).onFunc fn fun f => { f with snap := some {
            cmd := some c, gen := g, overEthernet := true, port := t.port, dmac := t.dmac, stream := t.stream, tc := t.tc
            restore := true, frames := [], sent := 0, acked := 0, timeouts := 0 } })
        else match peer with
          | .ok bs =>
            match s.judgeRestore fn g bs with
            | some (s, st, r) => s.finish c st r
            | none => s.finish c stDataError (restoreResult g 0xFF 0xFFFF 0xFFFF)
          | _ => (s.countP2p t.port).finish c stPortError (portResult t.port g)

end Sys2Proof.Machine
end

