-- ==== Sys2Proof/Machine/Gradient.lean ====
section
/-! DEFINITION. The gradient exchange (R159 to R162): the parts of a weight-gradient tree that a member combines in each of the
three stages, the buckets it forms and closes, and the roots it stores. -/
namespace Sys2Proof.Machine

/-! ### Who holds what (R146, R149, R159) -/

/-- The member that owns a logical shard of a layer (R146). -/
def FuncImage.ownerOf (i : FuncImage) (members layer shard : Nat) : Nat :=
  let j := i.job
  let r := shard / max 1 (j.shards / max 1 (j.md members))
  let p := ((i.layer layer).map fun l => l.stage % max 1 j.p).getD 0
  j.q * j.t * (r + j.md members * p)

/-- The logical shards for whose tokens a member contributes to a layer's gradient: none outside the layer's stage. -/
def FuncImage.tokenShards (i : FuncImage) (members m : Nat) (l : Layer) : List Nat :=
  let j := i.job
  let (_, _, r, _) := j.coords members m
  let per := j.shards / max 1 (j.md members)
  if j.ownsStage members m l.stage then (List.range per).map fun k => r * per + k else []

/-- A member's coordinate along an axis. -/
def Herd.coord (h : Herd) (m axis : Nat) : Nat :=
  let (a, b, c) := coordOf h.x h.y m
  if axis = 0 then a else if axis = 1 then b else c

/-- The member at another one's coordinates but for one axis. -/
def Herd.along (h : Herd) (m axis v : Nat) : Nat :=
  let (a, b, c) := coordOf h.x h.y m
  let (a, b, c) := if axis = 0 then (v, b, c) else if axis = 1 then (a, v, c) else (a, b, v)
  a + h.x * (b + h.y * c)

/-- The stage in which a member sends its part of a block that `owner` owns: along the first axis on which they differ; 3 where it
is the owner. -/
def Herd.stageTo (h : Herd) (m owner : Nat) : Nat :=
  if h.coord m 0 ≠ h.coord owner 0 then 0 else if h.coord m 1 ≠ h.coord owner 1 then 1
  else if h.coord m 2 ≠ h.coord owner 2 then 2 else 3

/-- The members whose contributions a member has combined before stage `k`: itself, its x line, its xy plane, the herd. -/
def Herd.box (h : Herd) (m k : Nat) : List Nat :=
  (List.range h.count).filter fun o => [0, 1, 2].all fun a => decide (a < k) || h.coord m a == h.coord o a

/-- The spans of a logical shard's tokens in a tree of `n` spans (R149). -/
def Job.shardSpans (j : Job) (n shard : Nat) : Nat × Nat := (shard * n / max 1 j.shards, (shard + 1) * n / max 1 j.shards)

/-- The node over spans [lo, hi) of a tree of `n` spans, if they form one. -/
def nodeOver (n lo hi : Nat) : Option (Nat × Nat) :=
  (List.range (clog2 n + 1)).findSome? fun l => if nodeSpan n l (lo / 2 ^ l) = (lo, hi) then some (l, lo / 2 ^ l) else none

/-! ### Parts (R91, R92) -/

/-- The bytes of a part as a record. -/
def TreePart.bytes (p : TreePart) : List Byte :=
  recordBytes { tree := p.tree, level := BitVec.ofNat 5 p.level, pos := BitVec.ofNat 27 p.pos, wcode := BitVec.ofNat 3 p.wcode
                nspanM1 := BitVec.ofNat 27 p.nspanM1 } p.rows p.cols p.nodes

/-- Parts of one tree combined into a node by VCOMB (R92, R137), with the events of R129. -/
def combineParts (p : TreePart) (parts : List TreePart) (level pos : Nat) : TreePart × Ev :=
  let n := p.nspanM1 + 1
  let out := (List.range (p.rows * p.cols)).map fun k =>
    let (o, e) := combineNode n parts k level pos
    let old := parts.any fun r => (r.nodes.getD k {}).x
    (o, (liftEv (o.x && !old) (decide (e.ovf ≠ 0))).plus
      { nonfin := b2n (parts.any fun r => nonfinite (r.nodes.getD k {}).v) })
  ({ p with level := level, pos := pos, nodes := out.map Prod.fst }, sumEv (out.map Prod.snd))

/-- Count events of the exchange's combines and stores. DESIGN CHOICE (assumption 81): they count against the function's entry on
its lowest tile, the spec naming no tile that runs them. -/
def State.countOwn (s : State) (fn : Nat) (ev : Ev) : State :=
  match (tkeys s.tiles).findSome? fun t => ((s.tile t).entryOf fn).map fun e => (t, e) with
  | some (t, e) => s.onTile t fun x => x.countEv e ev
  | none => s

/-! ### Roots (R161, R163, R164, R200) -/

/-- Keep a block's gradient statistics (R163, R164). -/
def Func.noteGrad (f : Func) (layer shard pos : Nat) (vs : List W32) : Func :=
  let same (y : BlockStat) : Bool := y.layer == layer && y.lshard == shard && y.block == pos
  let put (y : BlockStat) : BlockStat := { y with gSq := sumSq vs, gMax := maxAbs vs, gNf := nfCount vs, root := true }
  match f.stats.find? same with
  | some _ => { f with stats := f.stats.map fun y => if same y then put y else y }
  | none => { f with stats := f.stats ++ [put
      { layer := layer, lshard := shard, block := pos, gSq := {}, gMax := 0, gNf := 0, wSq := {}, wMax := 0, uSq := {}, uMax := 0
        uNf := 0 }] }

/-- Store the root of an owned block: BF16 with RNE and SAT = 1 on the main path, FP32 on the fall-back path (R161). The step's
gradient is kept from here on (R200). -/
def State.storeRoot (s : State) (fn : Nat) (l : Layer) (shard pos : Nat) (ns : List Node) : State :=
  let j := (s.image fn).job
  let step := (s.func fn).progStep
  let (bs, ev) := if j.path = 0 then counted (ns.map fun n => let (c, e) := encodePlain 1 .rne true n.value; (leBytes 2 c, e))
    else counted (ns.map fun n => let (w, e) := n.read .rne false; (leBytes 4 w.toNat, e))
  let vs := ns.map Node.fp32
  let s := (s.writePoison fn [(s.gradVa fn step l.layer shard pos, bs.flatten.length)]).countOwn fn (ev.plus (statsEv vs))
  (s.writeVA fn (s.gradVa fn step l.layer shard pos) bs.flatten).onFunc fn fun f =>
    { f.noteGrad l.layer shard pos vs with gradKept := if f.gradKept.contains step then f.gradKept else step :: f.gradKept }

/-- Whether the step's gradient buffer still holds the gradient of an earlier step (R200). -/
def Func.gradBusy (f : Func) : Bool := f.gradKept.any fun x => x != f.progStep && x.toNat % 2 == f.progStep.toNat % 2

/-- Whether the member owns a logical shard of a layer. -/
def State.ownsBlock (s : State) (fn : Nat) (l : Layer) (shard : Nat) : Bool :=
  let j := (s.image fn).job
  (j.ownedShards s.herd.count s.herd.member).contains shard && j.ownsStage s.herd.count s.herd.member l.stage

/-- A tree mismatch among received records (R94): nothing of the tree is combined and the FAULT bit is set. Its block counts as
come, so that the step's vote is formed. -/
def State.bucketMismatch (s : State) (fn : Nat) (tree : W32) (m : Mismatch) : State :=
  let again := repeated (s.func fn) 3 tree.toNat 0
  let s := s.report { code := eTreeMismatch, cls := clsStep, func := some fn, a := tree.toNat, b := pair m.1 m.2 }
  let s := s.onFunc fn fun f =>
    let f := (f.raise voteFault).noteFail 3 tree.toNat 0
    { f with parts := f.parts.filter fun q => q.tree != tree }
  let s := match (s.image fn).treeBlock tree.toNat with
    | some (l, shard, pos, _) =>
      if s.ownsBlock fn l shard then s.onFunc fn fun f => f.noteGrad l.layer shard pos [] else s
    | none => s
  if again then s.drain fn else s

/-! ### Buckets (R160) -/

/-- A bucket's bytes: its header and its records in rising (LAYER, TREE) order. -/
def bucketBytes (step : W32) (index stage path src dst : Nat) (recs : List (Nat × List Byte)) : List Byte :=
  let rs := recs.flatMap Prod.snd
  let layers := recs.map Prod.fst
  let b := leBytes 4 step.toNat ++ leBytes 2 index ++ leBytes 1 stage ++ leBytes 1 path ++ leBytes 2 src ++ leBytes 2 dst ++
    leBytes 4 recs.length ++ leBytes 4 rs.length ++ leBytes 2 ((layers.min?).getD 0) ++ leBytes 2 ((layers.max?).getD 0) ++
    leBytes 4 (crc32c rs).toNat ++ zeros 32
  b ++ leBytes 4 (crc32c b).toNat ++ rs

/-- Whether a record goes before another in a bucket: by LAYER, then TREE. -/
def recordBefore (a b : Nat × List Byte) : Bool :=
  if a.1 ≠ b.1 then decide (a.1 < b.1) else decide (leAt a.2 8 4 < leAt b.2 8 4)

/-- Put a record into a bucket in its place. -/
def insertRecord (r : Nat × List Byte) : List (Nat × List Byte) → List (Nat × List Byte)
  | [] => [r]
  | x :: xs => if recordBefore r x then r :: x :: xs else x :: insertRecord r xs

/-- Records that a member sends to another in a stage, of all layers or of one: one for each block whose owner's sub-line the
receiver leads. -/
def State.recordsDue (s : State) (fn stage dst : Nat) (layer : Option Nat) : Nat :=
  let i := s.image fn
  let h := s.herd
  let ls := i.heads.filter fun l => i.job.ownsStage h.count h.member l.stage && layer.all fun k => l.layer == k
  (ls.map fun l => ((i.layerBlocks l).filter fun (j, _, _) =>
    let o := i.ownerOf h.count l.layer j
    h.stageTo h.member o == stage && h.along h.member stage (h.coord o stage) == dst).length).sum

/-- Close a bucket (R160): it is handed to the mules, and its records are counted as sent. -/
def State.closeBucket (s : State) (fn : Nat) (b : OutBucket) : State :=
  let f := s.func fn
  let index := tget 0 f.bucketsSent b.stage
  let same (x : OutBucket) : Bool := x.stage == b.stage && x.dst == b.dst && x.layer == b.layer
  let s := s.setFunc fn { f with
    bucketsSent := tset 0 f.bucketsSent b.stage (index + 1)
    buckets := f.buckets.filter (fun x => !same x) ++ [{ b with sent := b.sent + b.recs.length, recs := [] }] }
  s.emit (.bucket fn b.dst
    (bucketBytes f.progStep index b.stage (s.image fn).job.path s.herd.member b.dst b.recs))

/-- Put a record into the bucket of a stage and receiver (R160): a bucket closes when the next record would not fit, and with its
last record, which is the end of the backward pass, or on the fall-back path of the layer's (R161). -/
def State.putRecord (s : State) (fn stage dst layer : Nat) (bytes : List Byte) : State :=
  let j := (s.image fn).job
  let key : Option Nat := if j.path = 0 then none else some layer
  let same (x : OutBucket) : Bool := x.stage == stage && x.dst == dst && x.layer == key
  let get (f : Func) : OutBucket := (f.buckets.find? same).getD { stage := stage, dst := dst, layer := key, sent := 0, recs := [] }
  let b := get (s.func fn)
  let full := j.path = 0 ∧ 2 ^ j.bucketLog2 < 64 + (b.recs.map fun r => r.2.length).sum + bytes.length
  let s := if full then s.closeBucket fn b else s
  let b := get (s.func fn)
  let b := { b with recs := insertRecord (layer, bytes) b.recs }
  if s.recordsDue fn stage dst key ≤ b.sent + b.recs.length then s.closeBucket fn b
  else s.onFunc fn fun f => { f with buckets := f.buckets.filter (fun x => !same x) ++ [b] }

/-! ### The stages (R159) -/

/-- Combine what is here of a tree, if every part is that the member combines before it sends them on or, as the owner, stores
the root. A root waits while its buffer holds an earlier gradient (R200). -/
def State.settleTree (s : State) (fn : Nat) (tree : W32) : State :=
  let i := s.image fn
  let f := s.func fn
  let h := s.herd
  let parts := f.parts.filter fun q => q.tree == tree
  match i.treeBlock tree.toNat, parts with
  | some (l, shard, pos, _), p :: _ =>
    let n := p.nspanM1 + 1
    let owner := i.ownerOf h.count l.layer shard
    let k := h.stageTo h.member owner
    let spans := ((h.box h.member k).flatMap fun m => i.tokenShards h.count m l).eraseDups.map fun j => i.job.shardSpans n j
    let lo := ((spans.map Prod.fst).min?).getD 0
    let hi := ((spans.map Prod.snd).max?).getD 0
    if spans.isEmpty ∨ (spans.any fun r => (uncovered n r.1 r.2 parts).isSome) then s
    else
      let done := s.setFunc fn { f with parts := f.parts.filter fun q => q.tree != tree }
      if k = 3 then
        if (uncovered n 0 n parts).isSome ∨ f.gradBusy then s
        else
          let (r, ev) := combineParts p parts (clog2 n) 0
          (done.countOwn fn ev).storeRoot fn l shard pos r.nodes
      else
        let dst := h.along h.member k (h.coord owner k)
        match nodeOver n lo hi with
        | some (level, at_) =>
          let (r, ev) := combineParts p parts level at_
          (done.countOwn fn ev).putRecord fn k dst l.layer r.bytes
        | none => parts.foldl (fun (s : State) q => s.putRecord fn k dst l.layer q.bytes) done
  | _, _ => s

/-- Take one record into the exchange (R159): it is checked beside those of its tree (R94), and what is then complete is
combined. -/
def State.takePart (s : State) (fn : Nat) (p : TreePart) : State :=
  let i := s.image fn
  let n := p.nspanM1 + 1
  let f := s.func fn
  let parts := (f.parts.filter fun q => q.tree == p.tree) ++ [p]
  match i.treeBlock p.tree.toNat, offending (parts.headD p) n 0 n [] parts with
  | none, _ => s.bucketMismatch fn p.tree (p.level, p.pos)
  | _, some m => s.bucketMismatch fn p.tree m
  | some (_, _, _, b), none =>
    if p.rows ≠ b.rows ∨ p.cols ≠ b.cols then s.bucketMismatch fn p.tree (p.level, p.pos)
    else (s.setFunc fn { f with parts := f.parts ++ [p] }).settleTree fn p.tree

/-- Trees that waited for a gradient buffer are settled once it is released (R199, event 4; R200). -/
def State.storeReady (s : State) (fn : Nat) : State :=
  ((s.func fn).parts.map TreePart.tree).eraseDups.foldl (fun (s : State) t => s.settleTree fn t) s

/-- Trees of owned blocks whose root is not in when the exchange has ended: spans that no part covers (R94). -/
def State.missingRoots (s : State) (fn : Nat) : List (W32 × Nat) :=
  let i := s.image fn
  let f := s.func fn
  (i.trees.filter fun t => t.role == 1).filterMap fun t =>
    match i.treeBlock t.tree with
    | some (l, shard, pos, _) =>
      let tree := BitVec.ofNat 32 t.tree
      let parts := f.parts.filter fun q => q.tree == tree
      let n := ((parts.head?).map fun p => p.nspanM1 + 1).getD 1
      if s.ownsBlock fn l shard && !(f.stats.any fun x => x.layer == l.layer && x.lshard == shard && x.block == pos && x.root) then
        (uncovered n 0 n parts).map fun sp => (tree, sp)
      else none
    | none => none

/-! ### The squared norms of mode B (R157) -/

/-- Keep the squared norm of one block of a (logical shard, micro-batch) contribution: an own record over exactly that node. -/
def State.noteMicro (s : State) (fn : Nat) (p : TreePart) : State :=
  let i := s.image fn
  let f := s.func fn
  let (c, _) := i.job.variant f.progVar
  let n := p.nspanM1 + 1
  let units := i.job.shards * c
  match i.treeBlock p.tree.toNat with
  | some (l, shard, pos, _) =>
    let (lo, hi) := nodeSpan n p.level p.pos
    let u := lo * units / n
    if i.job.mode = 1 ∧ (u * n / max 1 units, (u + 1) * n / max 1 units) = (lo, hi) then
      s.setFunc fn { f with micros := f.micros ++ [{ layer := l.layer, lshard := u / max 1 c, batch := u % max 1 c
                                                     block := (shard, pos), sq := sumSq (p.nodes.map Node.fp32) }] }
    else s
  | none => s

/-- MB_SUMSQ of a logical shard of a layer: VRED SUM in rising micro-batch of the value trees over the layer's blocks. -/
def State.microSum (s : State) (fn : Nat) (l : Layer) (shard : Nat) : W32 :=
  let i := s.image fn
  let f := s.func fn
  let (c, _) := i.job.variant f.progVar
  let blocks := (i.layerBlocks l).map fun (j, k, _) => (j, k)
  sumF ((List.range c).map fun b => (valueTree (blocks.map fun y =>
    ((f.micros.find? fun x => x.layer == l.layer && x.lshard == shard && x.batch == b && x.block == y).map MicroNorm.sq).getD {})).fp32)

/-- The records of a bucket: at most `k` whole ones. -/
def bucketRecords : Nat → List Byte → List TreePart
  | 0, _ => []
  | k + 1, bs =>
    if bs.length < 16 then []
    else
      let n := recordSize (leAt bs 12 2) (leAt bs 14 2)
      if bs.length < n then []
      else parseRecord (bs.take n) :: bucketRecords k (bs.drop n)

end Sys2Proof.Machine
end

