-- ==== Sys2Proof/Machine/Journal.lean ====
section
/-! DEFINITION. The update journal (R194 to R206): decision words, commit records, commit copies, slot release, the step-counter
check, and recovery. -/
namespace Sys2Proof.Machine

/-! ### Decision words (R198) -/

/-- The 32 bytes of a decision word. -/
def Decision.bytes (d : Decision) : List Byte :=
  let b := leBytes 4 d.step.toNat ++ leBytes 1 d.outcome ++ leBytes 1 d.vote ++ zeros 2 ++ leBytes 4 d.gen.toNat ++
    leBytes 4 d.applied.toNat ++ zeros 12
  b ++ leBytes 4 (crc32c b).toNat

/-- A decision word with a good CRC. -/
def decisionOf (b : List Byte) : Option Decision :=
  if leAt b 28 4 = (crc32c (slice b 0 28)).toNat then
    some { step := BitVec.ofNat 32 (leAt b 0 4), outcome := leAt b 4 1, vote := leAt b 5 1
           gen := BitVec.ofNat 32 (leAt b 8 4), applied := BitVec.ofNat 32 (leAt b 12 4) }
  else none

/-- The two copies in a function's control page. -/
def State.decisions (s : State) (fn : Nat) : List Decision :=
  let va := (s.image fn).job.journalVa
  [0, 1].filterMap fun k => decisionOf (s.readVA fn (va + 32 * k) 32)

/-- Write a decision word at 32 × (STEP mod 2), reading the rest of its line first (R302). -/
def State.writeDecision (s : State) (fn : Nat) (d : Decision) : State :=
  let va := (s.image fn).job.journalVa + 32 * (d.step.toNat % 2)
  (s.writePoison fn [(va, 32)]).writeVA fn va d.bytes

/-! ### Commit records (R197, R199) -/

/-- The commit record of the entry in a slot. -/
def commitRecord (header : List Byte) (slot : Nat) : List Byte :=
  let b := slice header 0 8 ++ leBytes 4 slot ++ slice header 28 4 ++ zeros 12
  b ++ leBytes 4 (crc32c b).toNat

/-- The header of the entry in a slot, and the line part of its commit record. -/
def FuncImage.headerRange (i : FuncImage) (slot : Nat) : Nat × Nat := (i.job.journalVa + headerOff slot, 64)
def FuncImage.commitRange (i : FuncImage) (slot : Nat) : Nat × Nat := (i.job.journalVa + commitOff i.job.nslot slot, 32)

/-- Write the commit record of a slot. -/
def State.writeCommit (s : State) (fn slot : Nat) : State :=
  let j := (s.image fn).job
  s.writeVA fn (j.journalVa + commitOff j.nslot slot) (commitRecord (s.readVA fn (j.journalVa + headerOff slot) 64) slot)

/-- HERD_JSTATn.STATE from what is left of the decided step: 3 while commit records are due, 4 while copies are, else 0. The
gradient of a committed step is released once every chunk of it has a commit record (R199, event 4; R200). -/
def Func.settleJournal (f : Func) : Func :=
  let mine := f.jslots.filter fun x => x.step == f.gen
  let f := if f.commitDue.isEmpty then { f with gradKept := f.gradKept.filter fun x => x != f.gen } else f
  { f with jstate :=
      if f.jstate = 1 ∨ f.jstate = 2 ∨ f.jstate = 5 ∨ f.jstate = 6 then f.jstate
      else if !f.commitDue.isEmpty || mine.any fun x => !x.committed then 3
      else if mine.any (fun x => !x.copied) || !f.pendingRoots.isEmpty then 4 else 0 }

/-- The slot whose commit record is next: the first of the decided, committed step without one. -/
def Func.nextCommit (f : Func) : Option JSlot := f.jslots.find? fun x => x.step == f.gen && !x.committed

/-- COMMIT_RECORD_WRITE (R199, event 3a). -/
def execCommitRecordWrite (fn : Nat) (s : State) : Answer :=
  if 16 ≤ fn then .fault (.absent "function" fn)
  else
    let f := s.func fn
    match f.nextCommit with
    | none => s.noEvent "R199: no committed step has an entry without its commit record"
    | some x =>
      if f.state ≠ .on then s.noEvent "R199: the function is not ON"
      else
        let slot := x.count.toNat % (s.image fn).job.nslot
        let s := (s.readPoison fn [(s.image fn).headerRange slot]).writePoison fn [(s.image fn).commitRange slot]
        if (s.func fn).state ≠ .on then .next s
        else
          let s := s.writeCommit fn slot
          let s := s.onFunc fn fun f => Func.settleJournal { f with
            commitDue := f.commitDue.filter fun k => k != x.chunk
            jslots := f.jslots.map fun y => if y.count = x.count then { y with committed := true } else y }
          .next (if (s.func fn).commitDue.isEmpty then s.storeReady fn else s)

/-! ### What a decision leaves (R199) -/

/-- The root chunks that a committed step leaves without an entry: only their state words are written (R199). -/
def State.rootsLeft (s : State) (fn : Nat) (a : W32) : List Nat :=
  let i := s.image fn
  ((s.ownedChunks fn).filter fun c => !i.sweeps c a).map Chunk.id

/-- Discard a skipped step's own entries (R199, event 3b), and its gradient (event 4). -/
def Func.discardStep (f : Func) (step : W32) : Func :=
  { f with jhead := ((f.jslots.find? fun x => x.step == step).map JSlot.count).getD f.jhead
           jslots := f.jslots.filter fun x => x.step != step
           gradKept := f.gradKept.filter fun x => x != step, groups := [] }

/-- The group states of the step's refreshes are those of a committed step: they go home with its copies (assumption 83). -/
def Func.dueGroups (f : Func) : Func :=
  { f with groupsDue := f.groups.foldl (fun m e => tput m e.1 e.2) f.groupsDue }

/-- What the decision leaves to the journal: every chunk that the sweep of a committed step updates is due a commit record
(events 3a and 3b), and trees that waited for the buffer of a skipped step are settled (event 4). -/
def State.decideJournal (s : State) (fn : Nat) (d : Decision) : State :=
  if d.outcome = 0 then
    let i := s.image fn
    let due := ((s.ownedChunks fn).filter fun c => i.sweeps c d.applied).map Chunk.id
    let roots := s.rootsLeft fn d.applied
    let copies := ((s.entriesOf fn).filter fun e => e.2.copy == 2).map Prod.fst
    s.onFunc fn fun f => Func.settleJournal { f.dueGroups with
      commitDue := due, pendingRoots := roots, copyWrite := copies, groups := [], jstate := 3 }
  else (s.onFunc fn fun f => Func.settleJournal { f.discardStep d.step with jstate := 3 }).storeReady fn

/-! ### Commit copies (R199, R228) -/

/-- Write a chunk's state word (R184). -/
def State.writeStateWord (s : State) (fn chunk : Nat) (step applied : W32) : State :=
  s.writeVA fn ((s.image fn).stateVa chunk) (stateWord step.toNat applied.toNat chunk)

/-- The bytes of the expert's home weights before a chunk. -/
def FuncImage.expertOffset (i : FuncImage) (l : Layer) (c : Chunk) (x : Nat) : Nat :=
  (i.homeRun 0 l c).1 - (i.expertHome l.layer x).getD 0

/-- Write a payload to its home locations, and the weights of a parked expert to its copy in the pool. -/
def State.copyHome (s : State) (fn : Nat) (c : Chunk) (payload : List Byte) : State :=
  let i := s.image fn
  match i.layer c.layer with
  | none => s
  | some l =>
    match c.kind with
    | .stats gi left =>
      let n := ((i.precond[gi]?).map fun g => g.order left).getD 0
      s.writeVA fn (i.matrixVa gi left false + 4 * (c.first * n)) payload
    | .root gi left =>
      let n := ((i.precond[gi]?).map fun g => g.order left).getD 0
      let s := s.writeVA fn (i.matrixVa gi left true + 4 * (c.first * n)) payload
      -- DESIGN CHOICE (assumption 83): the group state goes home with the roots of its refresh
      match (s.func fn).groupsDue.find? fun e => e.1 == gi with
      | some e => s.writeVA fn (i.groupStateVa gi) (groupBytes e.2)
      | none => s
    | .param =>
      let kinds := [0, 1, 2] ++ if l.corr then [4] else []
      let (s, _) := kinds.foldl (fun (acc : State × Nat) k =>
        let (va, n) := i.homeRun k l c
        (acc.1.writeVA fn va ((payload.drop acc.2).take n), acc.2 + n)) (s, 0)
      match c.expert.bind fun x => (i.ertOf l.layer x).map fun e => (x, e) with
      | none => s
      | some (x, e) =>
        let y := s.ertEntry e
        if y.parked ∧ y.copy = 2 ∧ (s.func fn).copyWrite.contains e then
          s.writeVA fn (s.slotVa fn y.slot + i.expertOffset l c x) (payload.take (i.homeRun 0 l c).2)
        else s

/-- Whether every chunk of an expert has LASTGEN = `step`. -/
def State.expertDone (s : State) (fn layer x : Nat) (step : W32) : Bool :=
  let i := s.image fn
  (i.chunks.filter fun c => c.layer == layer && c.expert == some x).all fun c =>
    let w := s.readVA fn (i.stateVa c.id) 16
    stateWordOk w && leAt w 0 4 == step.toNat

/-- Once the commit copy of an expert's last chunk is complete, GEN becomes the step, and COPY_GEN where the copy was
written (R228). -/
def State.settleExpert (s : State) (fn : Nat) (c : Chunk) (step : W32) : State :=
  match c.expert.bind fun x => ((s.image fn).ertOf c.layer x).map fun e => (x, e) with
  | none => s
  | some (x, e) =>
    if s.expertDone fn c.layer x step then
      let y := s.ertEntry e
      let wrote := y.parked && y.copy == 2 && (s.func fn).copyWrite.contains e
      s.setErt e { y with gen := step, copyGen := if wrote then step else y.copyGen }
    else s

/-- The payload of the entry in a slot. -/
def State.slotPayload (s : State) (fn slot : Nat) : List Byte :=
  let j := (s.image fn).job
  s.readVA fn (j.journalVa + slotOff j.nslot slot) (min (leAt (s.readVA fn (j.journalVa + headerOff slot) 64) 24 4) pageSize)

/-- The VA ranges that the copy of a chunk from a slot reads, and those it writes. -/
def FuncImage.copyReads (i : FuncImage) (c : Chunk) (slot : Nat) : List (Nat × Nat) :=
  [i.headerRange slot, (i.job.journalVa + slotOff i.job.nslot slot, i.payloadSize c)]
def FuncImage.copyWrites (i : FuncImage) (c : Chunk) : List (Nat × Nat) :=
  (i.stateVa c.id, 16) :: match i.layer c.layer, c.kind with
    | some l, .param => ([0, 1, 2] ++ if l.corr then [4] else []).map fun k => i.homeRun k l c
    | _, .root gi _ => [(i.groupStateVa gi, 16)]
    | _, _ => []

/-- Copy the entry in a slot home, its state word last (R199, event 5). -/
def State.copySlot (s : State) (fn : Nat) (c : Chunk) (slot : Nat) (step applied : W32) : State :=
  ((s.copyHome fn c (s.slotPayload fn slot)).writeStateWord fn c.id step applied).settleExpert fn c step

/-- COMMIT_COPY (R199, event 5): a committed chunk is copied home, or, for a root chunk without an entry, only its state
word is written. -/
def execCommitCopy (fn chunk : Nat) (s : State) : Answer :=
  if 16 ≤ fn then .fault (.absent "function" fn)
  else
    let f := s.func fn
    match (s.ownedChunks fn).find? fun c => c.id == chunk with
    | none => s.noEvent "R199: the member does not own the chunk"
    | some c =>
      if f.state ≠ .on then s.noEvent "R199: the function is not ON"
      else if f.copyHeld then .next (s.autoShip fn)      -- R181: an older generation is still to be read
      else if f.pendingRoots.contains chunk then
        let s := s.writePoison fn [((s.image fn).stateVa chunk, 16)]
        if (s.func fn).state ≠ .on then .next s
        else .next (((s.writeStateWord fn chunk f.gen f.applied).onFunc fn fun f =>
          Func.settleJournal { f with pendingRoots := f.pendingRoots.filter fun k => k != chunk }).autoShip fn)
      else match f.jslots.find? fun x => x.step == f.gen && x.chunk == chunk && x.committed && !x.copied with
        | none => s.noEvent "R199: the chunk has no commit record that waits for its copy"
        | some x =>
          let i := s.image fn
          let slot := x.count.toNat % i.job.nslot
          let s := (s.readPoison fn (i.copyReads c slot)).writePoison fn (i.copyWrites c)
          if (s.func fn).state ≠ .on then .next s
          else
          let s := s.copySlot fn c slot f.gen f.applied
          .next ((s.onFunc fn fun f => Func.settleJournal { f with
            jslots := f.jslots.map fun y => if y.count = x.count then { y with copied := true } else y }).autoShip fn)

/-- SLOT_RELEASE (R199, event 6): TAIL advances past the oldest slot once its copy is done. -/
def execSlotRelease (fn : Nat) (s : State) : Answer :=
  if 16 ≤ fn then .fault (.absent "function" fn)
  else
    let f := s.func fn
    match f.jslots with
    | x :: rest =>
      if x.copied then .next (s.setFunc fn (Func.settleJournal { f with jtail := x.count + 1, jslots := rest }))
      else s.noEvent "R199: the oldest slot's copy is not done"
    | [] => s.noEvent "R199: no slot is in use"

/-! ### The step-counter check (R194) -/

/-- LASTGEN and APPLIED_H of a chunk, and whether its state word agrees with the counters. -/
def State.chunkAgrees (s : State) (fn chunk : Nat) : Nat × Nat × Bool :=
  let f := s.func fn
  let w := s.readVA fn ((s.image fn).stateVa chunk) 16
  (leAt w 0 4, leAt w 4 4, stateWordOk w && leAt w 0 4 == f.gen.toNat && leAt w 4 4 == f.applied.toNat)

/-- CHUNK_STATE_CHECK (R194): the read waits until the commit copy of the previous step has written the word. -/
def execChunkStateCheck (fn chunk : Nat) (s : State) : Answer :=
  if 16 ≤ fn then .fault (.absent "function" fn)
  else
    let f := s.func fn
    if !((s.ownedChunks fn).any fun c => c.id == chunk) then s.noEvent "R194: the member does not own the chunk"
    else if !f.run then s.noEvent "R194: the function runs no step"
    else if f.pendingRoots.contains chunk || f.commitDue.contains chunk ||
        f.jslots.any (fun x => x.step == f.gen && x.chunk == chunk && !x.copied) then .next s
    else
      let s := s.readPoison fn [((s.image fn).stateVa chunk, 16)]
      if (s.func fn).state ≠ .on then .next s
      else
      let s := s.onFunc fn fun f => { f with checked := (chunk :: f.checked).eraseDups }
      let (g, a, ok) := s.chunkAgrees fn chunk
      if ok then .next s
      else .next ((s.report { code := eStepSkew, cls := clsStep, func := some fn, a := chunk
                              b := pair f.gen.toNat f.applied.toNat, c := pair g a }).voteBit fn voteSkew)

/-! ### Recovery (R202 to R206, R230, R264) -/

/-- The slot that holds an entry of a chunk for a step, of those allocated and not released. -/
def Func.slotFor (f : Func) (chunk : Nat) (step : W32) : Option JSlot :=
  f.jslots.find? fun x => x.chunk == chunk && x.step == step

/-- Whether some unit of the step's gradient buffer is poisoned. -/
def State.gradPoisoned (s : State) (fn : Nat) (step : W32) : Bool :=
  let i := s.image fn
  (s.rangesVA fn (i.job.gbufVa step) (i.gradSize s.herd.count s.herd.member)).any fun r => (s.poisonedIn r.1 r.2).isSome

/-- What recovery came to so far: the state, and the chunk and slot of a failure. -/
abbrev Recovery := State × Option (Nat × Nat)

/-- Compute a chunk's payload of step d again (R203): the sweep runs on a tile of the function, whose step register holds d
meanwhile (R70). -/
def State.sweepAgain (s : State) (fn : Nat) (d : Decision) (c : Chunk) : State × List Byte :=
  let i := s.image fn
  let f := s.func fn
  let te := ((i.tiles.find? fun t => decide (i.job.updPlate + 32 ≤ t.plateCount * 4)).bind fun t =>
    ((s.tile t.tile).entryOf fn).map fun e => (t.tile, e)).getD (0, 0)
  let u := i.updCmd (if f.step = d.step then f.progVar else f.stepVar) d.step f.gen d.applied
  let s := s.onTile te.1 fun x => { x with step := tset 0 x.step te.2 (BitVec.ofNat 20 d.step.toNat) }
  let (s, payload) := s.chunkPayload fn d.step u te c
  (s.onTile te.1 fun x => { x with step := tset 0 x.step te.2 0 }, payload)

/-- Copy a chunk home whose commit record is valid, or fail on its payload (R203, R206). -/
def State.copyAgain (s : State) (fn : Nat) (d : Decision) (c : Chunk) (k : Nat) : Recovery :=
  let i := s.image fn
  let s := (s.readPoison fn (i.copyReads c k)).writePoison fn (i.copyWrites c)
  if (s.func fn).state ≠ .on then (s, none)
  else if leAt (s.readVA fn (i.job.journalVa + headerOff k) 64) 28 4 = (crc32c (s.slotPayload fn k)).toNat then
    (s.copySlot fn c k d.step d.applied, none)
  else (s, some (c.id, k))

/-- Recompute, commit and copy a chunk whose entry or commit record is missing (R203). -/
def State.commitAgain (s : State) (fn : Nat) (d : Decision) (c : Chunk) : Recovery :=
  let i := s.image fn
  let k := (s.func fn).jhead.toNat % i.job.nslot
  let slot := (i.job.journalVa + slotOff i.job.nslot k, i.payloadSize c)
  let s := (s.readPoison fn (s.sweepReads fn d.step c)).writePoison fn (slot :: i.commitRange k :: i.copyWrites c)
  if (s.func fn).state ≠ .on then (s, none)
  else
    let (s, payload) := s.sweepAgain fn d c
    let s := ((s.writeEntry fn d.step c payload).writeCommit fn k).onFunc fn Func.dueGroups
    (s.copySlot fn c k d.step d.applied, none)

/-- Recover one chunk of the committed step d (R203). A read that meets an uncorrectable error outside the gradient buffer takes
its row of R305; one that stops the job ends the recovery. -/
def State.recoverChunk (fn : Nat) (d : Decision) (r : Recovery) (c : Chunk) : Recovery :=
  match r with
  | (s, some x) => (s, some x)
  | (s, none) =>
    let i := s.image fn
    let word := (i.stateVa c.id, 16)
    let s := s.readPoison fn [word]
    let f := s.func fn
    let w := s.readVA fn word.1 16
    let slot := (f.slotFor c.id d.step).map fun x => x.count.toNat % i.job.nslot
    if f.state ≠ .on ∨ stateWordOk w ∧ leAt w 0 4 = d.step.toNat then (s, none)
    else if i.sweeps c d.applied = false then (s.writeStateWord fn c.id d.step d.applied, none)
    else match slot.filter fun k => s.commitValid fn k with
      | some k => s.copyAgain fn d c k
      | none =>
        if s.gradPoisoned fn d.step then (s, some (c.id, f.jhead.toNat % i.job.nslot)) else s.commitAgain fn d c

/-- Every GEN is rebuilt from the chunk state words, and every copy is given up (R230). -/
def State.rebuildErt (s : State) (fn : Nat) : State :=
  let i := s.image fn
  let s := (s.entriesOf fn).foldl (fun (s : State) (k, e) =>
    let c := i.chunks.find? fun c => c.layer == e.layer && c.expert == some e.expert
    let g := match c with
      | some c => BitVec.ofNat 32 (leAt (s.readVA fn (i.stateVa c.id) 16) 0 4)
      | none => e.gen
    s.setErt k { e with gen := g, copy := 0, slot := 0xFFFF }) s
  s.onFunc fn fun f => { f with prefetches := [], fetches := [] }

/-- The first multiple of G not below the largest SCHED plus 4 × H (R264). -/
def resumeAt (g h : Nat) (scheds : List W32) : W32 :=
  let m := scheds.foldl serialMax (scheds.headD 0) + BitVec.ofNat 32 (4 * h)
  m + BitVec.ofNat 32 ((g - m.toNat % g) % g)

/-- The latest decision that any member holds for steps since the job started. -/
def State.lastDecision (s : State) (fn : Nat) (members : List MemberRecovery) : Option Decision :=
  let all := s.decisions fn ++ members.flatMap fun m => m.words.filterMap decisionOf
  (all.filter fun d => decide ((s.func fn).startStep.toNat ≤ d.step.toNat)).foldl (fun (b : Option Decision) d =>
    match b with
    | none => some d
    | some x => if x.step.toNat < d.step.toNat then some d else b) none

/-- Finish or discard the last decided step (R203): the state, and the chunk and slot of a failure (R206). -/
def State.recoverSteps (s : State) (fn : Nat) (members : List MemberRecovery) : Recovery :=
  match s.lastDecision fn members with
  | none => (s, none)
  | some d =>
    let s := if d.outcome = 0 ∧ (s.func fn).step = d.step then s.onFunc fn Func.dueGroups else s
    let (s, bad) := if d.outcome = 0 then (s.ownedChunks fn).foldl (State.recoverChunk fn d) (s, none) else (s, none)
    if bad.isSome ∨ (s.func fn).state ≠ .on then (s, bad)
    else
      let s := if (s.decisions fn).any fun x => x.step == d.step then s else s.writeDecision fn d
      let s := if (s.func fn).step = d.step then s.takeDecision fn d else s
      (if d.outcome = 0 then s else s.onFunc fn fun f => f.discardStep d.step, none)

/-- Release every slot: entries of an undecided step are discarded, those of the decided step are home. Nothing is left of the
step that was interrupted, which runs again from its start. -/
def Func.releaseAll (f : Func) : Func :=
  let head := ((f.jslots.find? fun x => x.step == f.step).map JSlot.count).getD f.jhead
  { f with jhead := head, jtail := head, jslots := [], commitDue := [], gradKept := [], pendingRoots := [], copyWrite := []
           groups := [], parts := [], items := [], older := [], jstate := 0
           recovered := satAdd 16 f.recovered 1, interrupted := false }

/-- Resume a halted function at the next step (R194, R264); a RESUME command then completes. -/
def State.resumeHalted (s : State) (fn : Nat) (s0 : W32) : State :=
  let f := s.func fn
  let s := s.setFunc fn { f with halted := false, armed := true, s0 := s0, resumeCmd := none }
  s.completeAll f.resumeCmd.toList stSuccess []

/-- JOURNAL_RECOVERY (R203): `members` is what the other members of the herd hold. -/
def execJournalRecovery (fn : Nat) (members : List MemberRecovery) (s : State) : Answer :=
  if 16 ≤ fn then .fault (.absent "function" fn)
  else
    let f := s.func fn
    match s.base with
    | none => s.noEvent "R203: the function has no herd"
    | some b =>
      if f.state ≠ .on ∨ !f.interrupted ∨ f.run then s.noEvent "R202: no interruption awaits recovery"
      else if s.herd.state ≠ .formed ∨ members.length + 1 ≠ s.herd.count then
        s.noEvent "R203: every member of the job must take part"
      else
        let skew := f.halted && f.jstate == 6
        let (s, bad) := (s.onFunc fn fun f => { f with jstate := 5 }).recoverSteps fn members
        match bad with
        | some (chunk, slot) =>
          .next ((s.report { code := eJournal, cls := clsFunction, func := some fn, a := chunk, b := slot, loss := true }).drain fn)
        | none =>
          if (s.func fn).state ≠ .on then .next s
          else
          let s := (s.onFunc fn Func.releaseAll).rebuildErt fn
          if skew ∧ (s.ownedChunks fn).any fun c => !(s.chunkAgrees fn c.id).2.2 then .next (s.drain fn)
          else if f.halted then
            .next (s.resumeHalted fn (resumeAt (max 1 b.grantG) s.herd.h (s.herd.sched :: members.map MemberRecovery.sched)))
          else .next s

end Sys2Proof.Machine
end

