-- ==== Sys2Proof/Machine/Train.lean ====
section
/-! DEFINITION. The training step: gathered shards (R151 to R155), gradient buckets (R159 to R164), the skip vote and its
decision (R168 to R171), and dispatch records (R222, R223). -/
namespace Sys2Proof.Machine

/-! ### Shares that data is placed in -/

/-- Whether a DPA range lies in the staging or tile SRAM shares of a function (R31, R32). -/
def State.ownSram (s : State) (fn a n : Nat) : Bool :=
  match s.region a with
  | .staging d off =>
    let (b, m) := s.stagingShare fn d
    decide (b ≤ off ∧ off + n ≤ b + m)
  | .tileSram t off =>
    match (s.tile t).entryOf fn with
    | some e =>
      let p := tget {} (s.tile t).part e
      decide (p.sramBase.toNat * 65536 ≤ off) && p.sramOk (off - p.sramBase.toNat * 65536) n
    | none => false
  | _ => false

/-! ### Failures of a step (R153, R162) -/

/-- A CRC failure of a step (R153, R162): the FAULT bit, the record, and, where the same failed in the step before, a stop as
for a module-loss fault. -/
def State.crcFailure (s : State) (fn kind a b fieldA sender : Nat) : State :=
  let again := repeated (s.func fn) kind a b
  let s := s.report { code := eCrcFailure, cls := clsStep, func := some fn, a := fieldA, b := sender }
  let s := s.onFunc fn fun f => (f.raise voteFault).noteFail kind a b
  if again then s.drain fn else s

/-- A GEN_MISMATCH (R153, R155, R227). -/
def State.genMismatch (s : State) (fn kind a b : Nat) (expected received : W32) : State :=
  let again := repeated (s.func fn) kind a b
  let s := s.report { code := eGenMismatch, cls := clsStep, func := some fn, a := pair a b, b := expected.toNat
                      c := received.toNat }
  let s := s.onFunc fn fun f => (f.raise voteGen).noteFail kind a b
  if again then s.drain fn else s

/-! ### Gathered shards (R151 to R155) -/

/-- The shard header that goes before a payload of stored BF16 weights (R152). -/
def shardHeader (layer lshard : Nat) (gen step : W32) (first num : Nat) (payload : List Byte) : List Byte :=
  let b := leBytes 2 layer ++ leBytes 2 lshard ++ leBytes 4 gen.toNat ++ leBytes 4 step.toNat ++ leBytes 1 1 ++ leBytes 1 0 ++
    zeros 2 ++ leBytes 4 first ++ leBytes 4 num ++ leBytes 4 payload.length
  b ++ leBytes 4 (crc32c (b ++ payload)).toNat

/-- The owned layer and logical shard whose home weights a range of VAs lies in, with the blocks that it meets. -/
def State.gatherOf (s : State) (fn va n : Nat) : Option (Layer × Nat × List Block) :=
  let i := s.image fn
  (s.ledgerPairs fn).findSome? fun (l, j) =>
    let bs := (i.shardBlocks l j).zipIdx.filter fun (b, k) =>
      let (at_, m) := i.homeRun 0 l { id := 0, layer := l.layer, lshard := j, kind := .param, expert := b.expert, first := k, num := 1 }
      decide (at_ < va + n ∧ va < at_ + m)
    if bs.isEmpty then none else some (l, j, bs.map Prod.fst)

/-- The header of a gather (R151): an owner's mule that sends blocks of a layer from their home puts it before them. -/
def State.sendShard (s : State) (fn dst : Nat) (step : W32) (va : Nat) (payload : List Byte) : State :=
  match s.gatherOf fn va payload.length with
  | some (l, j, bs) => s.emit (.shard fn dst
      (shardHeader l.layer j (s.func fn).gen step ((bs.map Block.num).headD 0) bs.length payload))
  | none => s

/-- Whether a shard header is well formed for its payload (R152): a format code as stored, reserved bits 0 and the payload's
LENGTH. DEDUCED (assumption 88): one that is not is taken as a header that fails its CRC. -/
def shardFormed (header payload : List Byte) : Bool :=
  let fmt := leAt header 12 1
  !fmtReserved fmt && leAt header 14 2 == 0 && leAt header 24 4 == payload.length

/-- What the herd block keeps of a shard header (R155). -/
def shardSeen (h : List Byte) : ShardSeen :=
  { layer := leAt h 0 2, lshard := leAt h 2 2, gen := BitVec.ofNat 32 (leAt h 4 4), firstBlock := leAt h 16 4
    nblock := leAt h 20 4, crc := BitVec.ofNat 32 (leAt h 28 4) }

/-- SHARD_RECEIVE (R151 to R155): a gathered shard is placed at `dst` as received, after its header is judged. -/
def execShardReceive (fn : Nat) (pass : Pass) (header payload : List Byte) (dst : Nat) (s : State) : Answer :=
  if 16 ≤ fn then .fault (.absent "function" fn)
  else
    let f := s.func fn
    if !f.run then s.noEvent "R151: the function runs no step"
    else if header.length ≠ 32 then s.noEvent "R152: a shard header is 32 bytes"
    else if !s.ownSram fn dst payload.length then
      s.noEvent "R151: a gathered copy lives in the function's staging or tile SRAM"
    else
      let h := shardSeen header
      let fwd := f.shards.find? fun x => x.layer == h.layer && x.lshard == h.lshard
      let differs := pass ≠ .forward ∧ (fwd.any fun x => x != h)
      let stale := decide (h.gen ≠ f.gen ∨ leAt header 8 4 ≠ f.progStep.toNat ∨ differs)
      let torn := !shardFormed header payload || h.crc != crc32c (slice header 0 28 ++ payload)
      let s := s.write dst payload
      let s := if pass = .forward then s.setFunc fn { f with
        shards := h :: f.shards.filter fun x => !(x.layer == h.layer && x.lshard == h.lshard) } else s
      let s := if stale then s.genMismatch fn 0 h.layer h.lshard f.gen h.gen else s
      .next (if torn then s.crcFailure fn 0 h.layer h.lshard (pair h.layer h.lshard)
          ((s.image fn).ownerOf s.herd.count h.layer h.lshard) else s)

/-! ### Gradient buckets (R159 to R164) -/

/-- Take a record of a bucket (R157, R159): an own contribution, in a bucket from the member itself, also gives its squared
norm. -/
def State.takeRecord (s : State) (fn src : Nat) (p : TreePart) : State :=
  (if src = s.herd.member then s.noteMicro fn p else s).takePart fn p

/-- BUCKET_RECEIVE (R159 to R162): the bucket is judged, and combined as received. The member's own contributions enter in
the same way, as records of SRC = its member id (assumption 87). -/
def execBucketReceive (fn : Nat) (bytes : List Byte) (s : State) : Answer :=
  if 16 ≤ fn then .fault (.absent "function" fn)
  else
    if !(s.func fn).run then s.noEvent "R159: the function runs no step"
    else if bytes.length < 64 then s.noEvent "R160: a bucket begins with a header of 64 bytes"
    else
      let recs := bytes.drop 64
      let good := decide (leAt bytes 60 4 = (crc32c (slice bytes 0 60)).toNat ∧ leAt bytes 24 4 = (crc32c recs).toNat)
      let src := leAt bytes 8 2
      let stage := leAt bytes 6 1
      let bucket := leAt bytes 4 2
      let s := if good then s else s.crcFailure fn 2 src (pair stage bucket) (pair stage bucket) src
      .next ((bucketRecords (min (leAt bytes 12 4) (recs.length / 16)) recs).foldl (fun (s : State) p => s.takeRecord fn src p) s)

/-! ### The norm exchange (R157, R164) -/

/-- The squared norm and MB_SUMSQ of a logical shard of a layer: the member's own from its statistics, an empty shard's +0, and
another member's from the norm records. -/
def State.shardNorm (s : State) (fn : Nat) (norms : List ShardNorm) (l : Layer) (shard : Nat) : Option (Node × Node) :=
  let i := s.image fn
  let f := s.func fn
  let bs := i.shardBlocks l shard
  if s.ownsBlock fn l shard then
    some (valueTree ((f.shardStats l.layer shard bs.length).map BlockStat.gSq),
      { v := if i.job.mode = 1 then s.microSum fn l shard else 0 })
  else
    let got := (norms.find? fun x => x.layer == l.layer && x.lshard == shard).map fun x =>
      (({ v := x.sq, x := x.lifted } : Node), ({ v := x.mb } : Node))
    if bs.isEmpty then some ({}, (got.map Prod.snd).getD {}) else got

/-- The layer level: a value tree over the L shards. -/
def State.layerNorm (s : State) (fn : Nat) (norms : List ShardNorm) (l : Layer) : Option (Node × Node) :=
  ((List.range (s.image fn).job.shards).mapM fun j => s.shardNorm fn norms l j).map fun xs =>
    (valueTree (xs.map Prod.fst), valueTree (xs.map Prod.snd))

/-- The step level: VRED SUM over the layer values in rising LAYER order, as the node it leaves. -/
def sumNode (vs : List W32) : Node := if vs.isEmpty then {} else (treeOf (sumSpans 0 vs vs)).1

/-- GNORM_SQ and MBNORM_SQ, once every shard's values are here. The step sum of MB_SUMSQ goes by the same three levels
(assumption 87). -/
def State.stepNorms (s : State) (fn : Nat) (norms : List ShardNorm) : Option (Node × W32) :=
  ((s.image fn).heads.mapM fun l => s.layerNorm fn norms l).map fun xs =>
    (sumNode (xs.map fun x => x.1.fp32), (sumNode (xs.map fun x => x.2.fp32)).fp32)

/-! ### The skip vote (R168 to R171) -/

/-- a × 2^16 where lifted, above b: finite values and infinities; a NaN is above nothing. -/
def nodeAbove (a : Node) (b : W32) : Bool :=
  match (a.value.add (f32 b).neg) with
  | .nan => isInf32 a.v && !bitOf a.v.toNat 31 && !isNan32 b && !isInf32 b
  | .inf n => !n
  | .fin n m _ => !n && decide (0 < m)

/-- The vote that a member forms from the step's norms (R168). -/
def State.formVote (s : State) (fn : Nat) (g : Node) (mb : W32) : State :=
  let i := s.image fn
  let sums := if i.job.mode = 1 then (s.ledgerPairs fn).map fun (l, j) => (l.layer, j, s.microSum fn l j) else []
  let nonfin := s.ownNonfin fn
  s.onFunc fn fun f =>
    let f := if nonfin ≠ 0 then f.raise voteNonfin else f
    let f := if nodeAbove g i.job.ceilSq then f.raise voteNorm else f
    { f with gnorm := g, mbnorm := mb, mbSums := sums, voteCast := true, voteOr := f.voteOr ||| f.voteBits
             jstate := if f.jstate = 1 then 2 else f.jstate }

/-- Whether a member's vote can be formed (R168, R194): every owned chunk's state word has been checked, and every root that has
come is stored. -/
def State.voteReady (s : State) (fn : Nat) : Bool :=
  let f := s.func fn
  ((s.ownedChunks fn).all fun c => f.checked.contains c.id) && (!f.gradBusy || f.parts.isEmpty)

/-- VOTE_FORM (R164, R168): the last bucket has come and the norm exchange is over; its three stages brought the norms of other
members' shards along x, y and z. Spans that the exchange left uncovered are a tree mismatch (R94). -/
def execVoteForm (fn : Nat) (xNorms yNorms zNorms : List ShardNorm) (s : State) : Answer :=
  let norms := xNorms ++ yNorms ++ zNorms
  if 16 ≤ fn then .fault (.absent "function" fn)
  else
    let f := s.func fn
    if !f.run ∨ f.voteCast ∨ f.step ≠ f.progStep then s.noEvent "R168: the member has no vote to form"
    else if (s.stepNorms fn norms).isNone then s.noEvent "R164: the norm exchange has not brought every shard's value"
    else if !s.voteReady fn then .next s
    else
      let s := (s.missingRoots fn).foldl (fun (s : State) (t, span) => s.bucketMismatch fn t (0, span)) s
      match s.stepNorms fn norms with
      | some (g, mb) => if (s.func fn).run then .next (s.formVote fn g mb) else .next s
      | none => .next s

/-- VOTE_DECISION (R171): the decision slot of the exchange. Every member decides on the same OR (R170), so a bit raised after
the member's vote went out is left to the next step's vote. -/
def execVoteDecision (fn : Nat) (s : State) : Answer :=
  if 16 ≤ fn then .fault (.absent "function" fn)
  else
    let f := s.func fn
    let item := (s.program fn).zipIdx.find? fun (e, k) => e.op == opVOTE && f.item k == .started
    match item with
    | none => s.noEvent "R170: no vote exchange runs"
    | some (_, k) =>
      if !f.run ∨ !f.voteOpen ∨ !f.voteCast ∨ f.voteLeft ≠ 0 then s.noEvent "R170: the exchange has not ended"
      else
        let or_ := f.voteOr
        let o := outcomeOf or_
        let d : Decision := { step := f.step, outcome := o, vote := or_.toNat, gen := if o = 0 then f.step else f.gen
                              applied := if o = 0 then f.applied + 1 else f.applied }
        let s := s.setFunc fn { f.setItem k .complete with
          voteOpen := false, voteBits := f.voteBits &&& ~~~or_, voteKept := some (f.step, f.gen, or_) }
        let s := s.writeDecision fn d
        .next (if (s.func fn).state = .on then ((s.takeDecision fn d).decideJournal fn d).autoShip fn else s)

/-! ### Dispatch records (R220 to R223) -/

/-- A dispatch or return record (R222): its header and rows. -/
def dispatchRecord (layer x unit kept routed : Nat) (rows : List Byte) : List Byte :=
  let b := beBytes 2 layer ++ beBytes 2 x ++ beBytes 4 unit ++ beBytes 2 kept ++ beBytes 2 routed
  b ++ beBytes 4 (crc32c (b ++ rows)).toNat ++ rows

/-- The experts of a layer that a member computes, rising (R214). -/
def FuncImage.expertsOn (i : FuncImage) (members m : Nat) (el : ExpertLayer) : List Nat :=
  (List.range el.experts.length).filter fun x =>
    i.ownerOf members el.layer (((el.experts[x]?).map ExpertRec.lshard).getD 0) == m

/-- Rows of a path per unit (R222): min(E_o × CAP, D × k), with E_o the experts on the owner's side. -/
def FuncImage.rowBudget (i : FuncImage) (members m : Nat) (el : ExpertLayer) : Nat :=
  min ((i.expertsOn members m el).length * el.cap) (el.d * el.k)

/-- Whether the records of a unit can be sent as they stand (R221, R222): one for each expert of the owner's side, KEPT within
CAP and ROUTED, the rows in the function's own SRAM, and all of them within the budget of the path. -/
def State.dispatchFits (s : State) (fn : Nat) (d : DispatchSend) (el : ExpertLayer) : Bool :=
  let i := s.image fn
  let owner := if d.back then s.herd.member else d.dst
  d.recs.map RowRun.expert == i.expertsOn s.herd.count owner el && d.recs.all (fun r =>
    decide (r.kept ≤ el.cap ∧ r.kept ≤ r.routed) && s.ownSram fn r.src (r.kept * d.rowBytes)) &&
    decide ((d.recs.map RowRun.kept).sum ≤ i.rowBudget s.herd.count owner el)

/-- Form and send the records of one unit to one member (R222): a record for each expert, even with KEPT = 0, and +0 up to the
fixed budget of rows. DEDUCED (assumption 88): what fills the budget comes after the records. -/
def State.sendDispatch (fn : Nat) (s : State) (d : DispatchSend) : State :=
  let i := s.image fn
  match i.expertLayer d.layer with
  | none => s
  | some el =>
    if s.dispatchFits fn d el then
      let owner := if d.back then s.herd.member else d.dst
      let recs := d.recs.flatMap fun r =>
        dispatchRecord d.layer r.expert d.unit r.kept r.routed (s.read r.src (r.kept * d.rowBytes))
      let fill := i.rowBudget s.herd.count owner el - (d.recs.map RowRun.kept).sum
      s.emit (.dispatch fn d.dst (recs ++ zeros (fill * d.rowBytes)))
    else s

/-- The micro-batch of a unit of a layer (R220). -/
def FuncImage.batchOf (i : FuncImage) (var layer unit : Nat) : Nat :=
  let (c, t) := i.job.variant var
  let d := max 1 (((i.expertLayer layer).map ExpertLayer.d).getD 1)
  let per := t / max 1 i.job.shards / d
  unit % max 1 per / max 1 (per / max 1 c)

/-- Keep a dispatch header (R222, R231, R232): one of another micro-batch ends the last one of its layer. -/
def State.noteDispatch (s : State) (fn : Nat) (x : DispatchSeen) (ert : Nat) : State :=
  let i := s.image fn
  let batch := i.batchOf (s.func fn).progVar x.layer
  let s := s.endBatch fn fun y => y.layer == x.layer && batch y.unit != batch x.unit
  s.onFunc fn fun f => { f with
    dispatch := f.dispatch ++ [x]
    routedStep := tset 0 f.routedStep ert (tget 0 f.routedStep ert + x.routed)
    xDropped := satAdd 32 f.xDropped (x.routed - x.kept) }

/-- DISPATCH_RECORD_RECEIVE (R222, R223): `rowBytes` is the size of a row in the activation format; the owner's slots from
KEPT to CAP − 1 are filled with +0. -/
def execDispatchRecordReceive (fn : Nat) (toOwner : Bool) (sender : Nat) (bytes : List Byte) (rowBytes dst : Nat) (s : State) :
    Answer :=
  if 16 ≤ fn then .fault (.absent "function" fn)
  else
    let i := s.image fn
    let layer := beAt bytes 0 2
    let x := beAt bytes 2 2
    let kept := beAt bytes 8 2
    match i.expertLayer layer, i.ertOf layer x with
    | some el, some e =>
      let shard := ((el.experts[x]?).map ExpertRec.lshard).getD 0
      let own := i.ownerOf s.herd.count layer shard == s.herd.member
      let rows := bytes.drop 16
      let fill := if toOwner then zeros ((el.cap - kept) * rowBytes) else []
      if !(s.func fn).run then s.noEvent "R222: the function runs no step"
      else if bytes.length ≠ 16 + kept * rowBytes ∨ el.experts.length ≤ x ∨ el.cap < kept ∨ (toOwner && !own) ∨
          !s.ownSram fn dst (rows ++ fill).length then
        s.noEvent "R222: KEPT rows of the expert's owner, placed in the function's own SRAM"
      else
        let good := decide (beAt bytes 12 4 = (crc32c (slice bytes 0 12 ++ rows)).toNat)
        let s := s.write dst (rows ++ fill)
        let s := if toOwner then s.noteDispatch fn
          { layer := layer, expert := x, unit := beAt bytes 4 4, kept := kept, routed := beAt bytes 10 2 } e else s
        .next (if good then s else s.crcFailure fn 2 sender (pair layer shard) (pair layer shard) sender)
    | _, _ => s.noEvent "R222: the record names no expert of the function"

end Sys2Proof.Machine
end

