-- ==== Sys2Proof/Machine/Experts.lean ====
section
/-! DEFINITION. Paging of parked experts (08_sparse_experts): prefetches and their promotion (R232, R233), demand fetches and
their window (R234, R235), and the end of a fetch (R229, R236). -/
namespace Sys2Proof.Machine

/-! ### Copying memory -/

/-- Copy `n` bytes of memory from `src` to `dst`; the two ranges do not overlap. -/
def State.copyBytes (s : State) (src dst n : Nat) : State :=
  let cells := s.mem.filter fun e => decide (src ≤ e.1 ∧ e.1 < src + n)
  let s := s.zero dst (dst + n)
  { s with mem := cells.foldl (fun (m : Table Byte) e => tset 0 m (dst + (e.1 - src)) e.2) s.mem }

/-- Copy `n` pages of a function's virtual memory. -/
def State.copyPages (s : State) (fn src dst n : Nat) : State :=
  (List.range n).foldl (fun (s : State) k =>
    match s.translate fn ((src + k) * pageSize), s.translate fn ((dst + k) * pageSize) with
    | some a, some b => s.copyBytes a b pageSize
    | _, _ => s) s

/-- The lowest poisoned unit of an expert's home pages. -/
def State.homePoison (s : State) (fn : Nat) (e : ErtEntry) : Option Nat :=
  (s.rangesVA fn (e.homeVpn * pageSize) (e.npage * pageSize)).findSome? fun r => s.poisonedIn r.1 r.2

/-- Whether the links that an expert's home pages travel on are UP (R323). -/
def State.homeUp (s : State) (fn : Nat) (e : ErtEntry) : Bool :=
  (s.rangesVA fn (e.homeVpn * pageSize) (e.npage * pageSize)).all fun r =>
    match s.region r.1 with
    | .companion hpa => s.hpaUp hpa
    | _ => true

/-- LASTGEN of an expert's first chunk. -/
def State.lastgenOf (s : State) (fn layer x : Nat) : W32 :=
  let i := s.image fn
  match i.chunks.find? fun c => c.layer == layer && c.expert == some x with
  | some c => BitVec.ofNat 32 (leAt (s.readVA fn (i.stateVa c.id) 16) 0 4)
  | none => 0

/-! ### Prefetches (R232, R233) -/

/-- The expert layer whose micro-batch runs: the last one whose dispatch headers came. -/
def Func.currentLayer (f : Func) : Option Nat := (f.dispatch.getLast?).map DispatchSeen.layer

/-- Whether expert layer `layer` comes next after the one that runs, in the forward order, which begins again with the next
micro-batch, or in the backward one (R232). At a step's start the first layer is next. -/
def FuncImage.comesNext (i : FuncImage) (current : Option Nat) (layer : Nat) : Bool :=
  let ls := i.experts.map ExpertLayer.layer
  match current with
  | none => ls.head? == some layer
  | some c =>
    let (a, b) := (ls.idxOf c, ls.idxOf layer)
    decide (b < ls.length) && (a == b || a + 1 == b || b + 1 == a || (a + 1 == ls.length && b == 0))

/-- ROUTED of an expert in the micro-batch before `batch` of its layer (R232). The headers held are of that micro-batch until
the first of `batch` comes. -/
def State.routedBefore (s : State) (fn layer batch : Nat) (x : Nat × ErtEntry) : Nat :=
  let f := s.func fn
  let mine := f.dispatch.filter fun d => d.layer == layer
  if mine.isEmpty || mine.any fun d => (s.image fn).batchOf f.progVar layer d.unit == batch then tget 0 f.routedPrev x.1
  else ((mine.filter fun d => d.expert == x.2.expert).map DispatchSeen.routed).sum

/-- Whether candidate `a` ranks before `b` (R232): ROUTED of the previous micro-batch, HEAT, entry index. -/
def ranksBefore (routed : Nat × ErtEntry → Nat) (a b : Nat × ErtEntry) : Bool :=
  if routed a ≠ routed b then decide (routed b < routed a)
  else if a.2.heat ≠ b.2.heat then decide (b.2.heat < a.2.heat)
  else decide (a.1 < b.1)

/-- Insert a candidate in rank order. -/
def rankIn (routed : Nat × ErtEntry → Nat) (x : Nat × ErtEntry) : List (Nat × ErtEntry) → List (Nat × ErtEntry)
  | [] => [x]
  | y :: ys => if ranksBefore routed x y then x :: y :: ys else y :: rankIn routed x ys

/-- Parked experts of a layer without a copy or a prefetch, in rank order for micro-batch `batch`. -/
def State.candidates (s : State) (fn layer batch : Nat) : List (Nat × ErtEntry) :=
  let f := s.func fn
  ((s.entriesOf fn).filter fun e => e.2.layer == layer && e.2.parked && e.2.copy == 0 &&
    !f.prefetches.any fun p => p.entry == e.1).foldl (fun l x => rankIn (s.routedBefore fn layer batch) x l) []

/-- Start one prefetch, if a slot can be had and the home is in step (R229). -/
def State.prefetchOne (fn : Nat) (s : State) (x : Nat × ErtEntry) : State :=
  let f := s.func fn
  let need (y : Nat) : Bool := match f.currentLayer with
    | some l => s.needed fn l y
    | none => false
  if s.lastgenOf fn x.2.layer x.2.expert ≠ f.gen then s
  else match s.takeSlot fn need with
    | none => s
    | some (k, s) => s.onFunc fn fun f => { f with
        xIssued := satAdd 24 f.xIssued 1
        prefetches := f.prefetches ++ [{ entry := x.1, slot := k, lastgen := f.gen, complete := false }] }

/-- Prefetch parked experts of a layer for a micro-batch, at most PREF_MAX in all (R232). -/
def State.prefetchLayer (s : State) (fn layer batch : Nat) : State :=
  let f := s.func fn
  let under := (f.prefetches.filter fun p => (s.ertEntry p.entry).layer == layer).length
  ((s.candidates fn layer batch).take ((s.image fn).job.prefMax - under)).foldl (State.prefetchOne fn) s

/-- The copy of an entry once every page of it has arrived (R229): VALID only while its LASTGEN is still GEN. -/
def ErtEntry.arrived (e : ErtEntry) (slot : Nat) (lastgen : W32) : ErtEntry :=
  if lastgen = e.gen then { e with copy := 2, slot := slot, copyGen := lastgen } else { e with copy := 0, slot := slot }

/-- Promote a prefetch whose expert has a kept row (R233). -/
def State.promote (fn : Nat) (s : State) (p : Prefetch) : State :=
  let e := s.ertEntry p.entry
  let s := s.onFunc fn fun f => { f with xPromoted := satAdd 24 f.xPromoted 1 }
  if p.complete then s.setErt p.entry (e.arrived p.slot p.lastgen)
  else (s.setErt p.entry { e with copy := 1, slot := p.slot }).onFunc fn fun f => { f with
    fetches := f.fetches ++ [{ entry := p.entry, slot := p.slot, lastgen := p.lastgen, demand := false }] }

/-- The parked entries of a layer with a kept row and no copy, in rising EXPERT (R234). -/
def State.demanded (s : State) (fn layer : Nat) : List Nat :=
  (s.entriesOf fn).filterMap fun e =>
    if e.2.layer == layer && e.2.parked && e.2.copy == 0 && s.keptRow fn e.1 then some e.1 else none

/-- DISPATCH_HEADERS_ARRIVE (R233, R234): the headers of a layer's micro-batch are all here. Prefetches of the layer are
promoted or cancelled, and what is still missing is fetched on demand. -/
def execDispatchHeadersArrive (fn layer : Nat) (s : State) : Answer :=
  if 16 ≤ fn then .fault (.absent "function" fn)
  else
    let f := s.func fn
    match (s.image fn).expertLayer layer with
    | none => s.noEvent "R233: the layer is no expert layer of the function"
    | some _ =>
      if !f.run then s.noEvent "R233: the function runs no step"
      else
        let mine := f.prefetches.filter fun p => (s.ertEntry p.entry).layer == layer
        let s := s.setFunc fn { f with prefetches := f.prefetches.filter fun p => (s.ertEntry p.entry).layer != layer }
        let s := (mine.filter fun p => s.keptRow fn p.entry).foldl (State.promote fn) s
        .next ((s.demanded fn layer).foldl (fun (s : State) x => s.demandFetch fn x) s)

/-! ### The demand window and the end of a fetch -/

/-- Whether a fetch of a layer is outstanding. -/
def State.fetchOpen (s : State) (fn layer : Nat) : Bool :=
  (s.func fn).fetches.any fun x => (s.ertEntry x.entry).layer == layer

/-- Complete every DEMAND item of a layer that runs, once no fetch of it is outstanding. -/
def State.settleDemand (s : State) (fn layer : Nat) : State :=
  if s.fetchOpen fn layer then s
  else
    let f := s.func fn
    let open_ := (tkeys f.items).filter fun k => f.item k == .started &&
      (s.entry fn k).any fun e => e.op == opDEMAND && e.arg == layer
    s.setFunc fn (open_.foldl (fun (f : Func) k => { f.setItem k .complete with demandOpen := none }) f)

/-- DEMAND (R234): the demand-fetch window of a layer opens; the item completes once no fetch of the layer is outstanding. -/
def execDemand (fn idx : Nat) (s : State) : Answer :=
  s.withItem fn idx opDEMAND .issued fun f e =>
    .next ((s.setFunc fn { f.setItem idx .started with demandOpen := some e.arg }).settleDemand fn e.arg)

/-- End a fetch of an entry: its copy as R229 leaves it, and the count of R235. -/
def State.endFetch (s : State) (fn : Nat) (x : Fetch) (late : Bool) : State :=
  let e := s.ertEntry x.entry
  let s := s.copyPages fn e.homeVpn (s.slotVa fn x.slot / pageSize) e.npage
  let s := s.setErt x.entry (e.arrived x.slot x.lastgen)
  s.onFunc fn fun f => { f with
    fetches := f.fetches.filter fun y => y != x
    xOver := if late && x.demand then satAdd 32 f.xOver 1 else f.xOver }

/-- A fetch meets an uncorrectable error in the home of a parked expert (R236): the copy is NONE and the home lost. -/
def State.failFetch (s : State) (fn : Nat) (x : Fetch) (a : Nat) : State :=
  let e := s.ertEntry x.entry
  let s := s.setErt x.entry { e with copy := 0 }
  let s := s.onFunc fn fun f => { f with fetches := f.fetches.filter fun y => y != x }
  s.companionUE a (some (e.layer, e.expert))

/-- EXPERT_FETCH_COMPLETE (R229): the last page of a fetch or prefetch of an entry arrives. `overBudget` says whether a demand
fetch ends after its window (R235), `upset` what its reads of the home met. -/
def execExpertFetchComplete (fn entry : Nat) (overBudget : Bool) (upset : Upset) (s : State) : Answer :=
  if 16 ≤ fn then .fault (.absent "function" fn)
  else
    let f := s.func fn
    let e := s.ertEntry entry
    -- R229: the pages are read only once every chunk's state word shows LASTGEN = GEN_C
    let ready := s.homeUp fn e && s.expertDone fn e.layer e.expert f.gen
    let homeAt (a : Nat) : Bool := inRanges a (s.rangesVA fn (e.homeVpn * pageSize) (e.npage * pageSize))
    let met : Option (Option Nat) := match upset with
      | .none => some (s.homePoison fn e)
      | .companionUE a => if homeAt a then some (some a) else none
      | _ => none
    match met with
    | none => s.noEvent "R236: the fetch reads only the expert's home pages in companion memory"
    | some bad =>
      match f.fetches.find? fun x => x.entry == entry with
      | some x =>
        if !ready then .next s
        else match bad with
          | some a => .next ((s.failFetch fn x a).settleDemand fn e.layer)
          | none => .next ((s.endFetch fn x overBudget).settleDemand fn e.layer)
      | none =>
        match f.prefetches.find? fun p => p.entry == entry && !p.complete with
        | none => s.noEvent "R229: no fetch of the expert is under way"
        | some p =>
          if !ready then .next s
          else match bad with
            | some _ => .next (s.setFunc fn { f with
                prefetches := f.prefetches.filter fun q => q != p, xErr := satAdd 16 f.xErr 1 })
            | none => .next ((s.copyPages fn e.homeVpn (s.slotVa fn p.slot / pageSize) e.npage).onFunc fn fun f => { f with
                prefetches := f.prefetches.map fun q => if q = p then { q with complete := true } else q })

end Sys2Proof.Machine
end

