-- ==== Sys2Proof/Machine/Mule.lean ====
section
/-! DEFINITION. MULE items (R249, R250, R274): the transfers of a descriptor list, their casts (R458), the check of an expert
before its weights are read (R223, R227), and the errors that mules meet (R35, R305, R443, R444). -/
namespace Sys2Proof.Machine

/-! ### Casts (R458) -/

/-- The source elements of a cast. -/
def Xfer.castSource (x : Xfer) (c : CastExt) (bs : List Byte) : List XVal :=
  let w := fmtWidth x.sfmt
  let scales := bs.drop (packedBytes w c.nelem)
  (List.range c.nelem).map fun i =>
    let v := elemValue x.sfmt (unpackAt w bs i)
    if fmtIsMX x.sfmt then scaled (scales.getD (scaleIndex c.rlen (sdBlock x.ssdesc) i) 0).toNat v else v

/-- The MX blocks of a cast's target, as (first element, elements). -/
def Xfer.castBlocks (x : Xfer) (c : CastExt) : List (Nat × Nat) := mxBlocks c.rlen (sdBlock (cvtSdesc x.cvt)) c.nelem

/-- Elements [lo, hi) of a cast, whole rows of an MX target: the packed elements, the scale bytes and the events. -/
def Xfer.castPart (x : Xfer) (c : CastExt) (seed : W32) (step : Nat) (bs : List Byte) (lo hi : Nat) : List Byte × List Byte × Ev :=
  let f := cvtFmt x.cvt
  let mode (i : Nat) : Rnd :=
    cvtMode x.cvt (rnd seed (streamOf step c.tag) (BitVec.ofNat 32 (c.ibase + i / c.rlen * c.rstride + i % c.rlen))).toNat
  let vs := (((x.castSource c bs).zipIdx.drop lo).take (hi - lo)).map fun (v, i) => (v, mode i)
  if fmtIsMX f then
    let rs := ((x.castBlocks c).filter fun b => decide (lo ≤ b.1 ∧ b.1 < hi)).map fun (i, k) =>
      quantiseBlock f (cvtCeil x.cvt) (cvtSat x.cvt) ((vs.drop (i - lo)).take k)
    (packElems (fmtWidth f) (rs.flatMap fun r => r.2.1), rs.map fun r => BitVec.ofNat 8 r.1,
      rs.foldl (fun (a : Ev) r => a.plus r.2.2) evNone)
  else
    let rs := vs.map fun (v, m) => encodePlain f m (cvtSat x.cvt) v
    (packElems (fmtWidth f) (rs.map Prod.fst), [], rs.foldl (fun (a : Ev) r => a.plus r.2) evNone)

/-- The bytes that a transfer writes for the source bytes it reads, and the events it counts. -/
def Xfer.convert (x : Xfer) (seed : W32) (step : Nat) (bs : List Byte) : List Byte × Ev :=
  match x.cast with
  | none => (bs, evNone)
  | some c =>
    let (es, scales, ev) := x.castPart c seed step bs 0 c.nelem
    (es ++ scales, ev)

/-- The elements of a receiving cast that can be converted once `n` source bytes are here: whole groups of four, so that they
pack into whole bytes, and whole rows of an MX target; of an MX source, whose scale bytes come last, all or none. -/
def Xfer.castReady (x : Xfer) (c : CastExt) (n : Nat) : Nat :=
  let m := if fmtIsMX x.sfmt then 0 else n * 8 / max 1 (fmtWidth x.sfmt)
  let g := if fmtIsMX (cvtFmt x.cvt) then 4 * c.rlen else 4
  if x.bytes ≤ n then c.nelem else m / max 1 g * g

/-! ### The ends of a transfer (R34, R35) -/

/-- The device physical ranges of an end in memory, in order; none where it names something outside the function's share. -/
def State.endRanges (s : State) (fn sp v n : Nat) : Option (List (Nat × Nat)) :=
  if sp ≤ 1 then
    let rs := s.rangesVA fn v n
    if s.mapped fn v n && rs.all fun r => s.isMemory r.1 then some rs else none
  else if sp = 2 then
    let (b, m) := s.stagingShare fn (endUnit v)
    if s.dieFitted (endUnit v) && decide (endOff v + n ≤ m) then
      some [(stagingBase + endUnit v * 0x2000000 + b + endOff v, n)] else none
  else if sp = 3 then
    match s.tileFitted (endUnit v), (s.tile (endUnit v)).entryOf fn with
    | true, some e =>
      let p := tget {} (s.tile (endUnit v)).part e
      if p.sramOk (endOff v) n then some [(p.sram (endUnit v) (endOff v), n)] else none
    | _, _ => none
  else some []

/-- Bytes of a list of ranges. -/
def State.readRanges (s : State) (rs : List (Nat × Nat)) : List Byte := rs.flatMap fun r => s.read r.1 r.2

/-- Write bytes over a list of ranges. -/
def State.writeRanges (s : State) (rs : List (Nat × Nat)) (bs : List Byte) : State :=
  (rs.foldl (fun (acc : State × List Byte) r => (acc.1.write r.1 (acc.2.take r.2), acc.2.drop r.2)) (s, bs)).1

/-- Whether an access reaches a companion page of a function enabled in an older link epoch: it is never made (R341). -/
def State.olderEpoch (s : State) (fn : Nat) (rs : List (Nat × Nat)) : Bool :=
  (s.func fn).epoch != s.larwa.epoch && rs.any fun r => match s.region r.1 with
    | .companion _ => true
    | _ => false

/-- Units that a write of a list of ranges covers only in part, and so reads first (R302, R440). -/
def State.edges (s : State) (rs : List (Nat × Nat)) : List Nat :=
  rs.flatMap fun r => (s.poisonsIn r.1 r.2).filter fun p => !decide (r.1 ≤ p ∧ p + poisonUnit p ≤ r.1 + r.2)

/-! ### One transfer -/

/-- How a transfer of a list ends: done, waiting with what it has begun, or with the list stopped. -/
inductive Moved where
  | done (s : State)
  | wait (s : State)
  | stop (s : State)

/-- A partition fault of a mule (R35). -/
def State.mulePartition (s : State) (fn list : Nat) (x : Xfer) (name : Nat) : State :=
  (s.report { code := ePartition, cls := clsFunction, func := some fn, unit := x.mule, a := list, b := name }).drain fn

/-- A reserved value that reaches a mule at run time (R444). -/
def State.muleSequence (s : State) (fn list : Nat) (x : Xfer) : State :=
  (s.report { code := eSequence, cls := clsFunction, func := some fn, unit := x.mule, a := list }).drain fn

/-- Whether a transfer reads what a receiving transfer of its list has not yet placed whole (R250). -/
def Func.dependsOpen (f : Func) (l : XferList) (x : Xfer) : Bool :=
  l.xfers.any fun y => y.srcSp == 4 && decide (f.arrived y < y.bytes) &&
    (endTouch x.srcSp x.src x.bytes false).any fun a => (y.touches.any fun b => a.meets b)

/-- The expert whose home weights a VA lies in. -/
def State.expertAt (s : State) (fn va : Nat) : Option (Nat × ErtEntry) :=
  (s.entriesOf fn).find? fun e => decide (e.2.homeVpn * pageSize ≤ va ∧ va < (e.2.homeVpn + e.2.npage) * pageSize)

/-- What the check of R227 and R223 gives a read of an expert's weights. -/
inductive ExpertUse where
  | at_ (s : State) (va : Nat)     -- the weights are read there
  | zero                           -- no kept row: +0 is written in their place
  | wait (s : State)
  | stop (s : State)

/-- Check an expert before its weights are read at home address `va` (R223, R227). -/
def State.checkExpert (s : State) (fn x : Nat) (va : Nat) : ExpertUse :=
  let f := s.func fn
  let e := s.ertEntry x
  if !f.dispatch.any (fun d => d.layer == e.layer && d.expert == e.expert) then .wait s
  else if !s.keptRow fn x then .zero
  else
    let inCopy := s.slotVa fn e.slot + (va - e.homeVpn * pageSize)
    if e.gen ≠ f.gen then
      let s := s.genMismatch fn 4 e.layer e.expert f.gen e.gen
      if (s.func fn).state ≠ .on then .stop s
      else .at_ s (if e.parked ∧ e.copy = 2 then inCopy else va)
    else if !e.parked then .at_ s va
    else if e.copy = 1 then .wait s
    else if e.copy = 2 ∧ e.copyGen = f.gen then .at_ (s.setErt x { e with lastUse := f.step }) inCopy
    else
      let s := s.setErt x { e with copy := 0 }
      .wait ((s.onFunc fn fun f => { f with xStale := satAdd 32 f.xStale 1 }).demandFetch fn x)

/-- Deal with the poison that a transfer meets: whether the copy pool was among it, in which case the copy is fetched anew
(R305). -/
def State.xferPoison (s : State) (fn : Nat) (us : List Nat) : State × Bool :=
  us.foldl (fun (acc : State × Bool) a =>
    let (s, again) := acc
    if (s.func fn).state ≠ .on then acc
    else
      let pool := match s.mapping (a / pageSize) with
        | some (_, v) => s.ueRow fn (v * pageSize) == 1
        | none => false
      (s.muleMeets fn a, again || pool)) (s, false)

/-- Move the bytes of one transfer whose source lies in `src` (or is +0 where `zero`), in a step program of step `step`, counting
its cast's events. Blocks that leave their home for another member go under a shard header (R151). -/
def State.moveBytes (s : State) (fn list k : Nat) (step : W32) (x : Xfer) (src dst : List (Nat × Nat)) (zero : Bool) : State :=
  let f := s.func fn
  let bs := if zero then zeros x.bytes else s.readRanges src
  let (out, ev) := x.convert (s.image fn).job.seed step.toNat bs
  let s := if x.cast.isSome then s.setFunc fn { f with mevt := f.mevt.bump ev } else s
  if x.dstSp = 4 then
    let s := if x.srcSp ≤ 1 ∧ x.cast.isNone then s.sendShard fn (s.peer x.port) step x.src bs else s
    (chunksOf 4096 out.length out).foldl (fun (s : State) p => s.sendData x.port x.tc fn list k p) s
  else s.writeRanges dst out

/-- Whether a chunk's commit copy is still to be made over some of a range of VAs: a member never gathers a home location that is
part-way through its copy (R154). -/
def State.copyPending (s : State) (fn va n : Nat) : Bool :=
  let i := s.image fn
  let f := s.func fn
  let due := f.commitDue ++ (f.jslots.filter fun x => x.step == f.gen && !x.copied).map JSlot.chunk
  !due.isEmpty && (s.ownedChunks fn).any fun c => due.contains c.id &&
    (i.copyWrites c).any fun r => decide (r.1 < va + n ∧ va < r.1 + r.2)

/-- Run one transfer whose source address is `src`, after any expert check. -/
def State.moveOne (s : State) (fn list k : Nat) (step : W32) (x : Xfer) (srcVa : Nat) (zero : Bool) : Moved :=
  let src := if zero then some [] else s.endRanges fn x.srcSp srcVa x.bytes
  match src, s.endRanges fn x.dstSp x.dst x.dstBytes with
  | none, _ => .stop (s.mulePartition fn list x x.src)
  | _, none => .stop (s.mulePartition fn list x x.dst)
  | some src, some dst =>
    if !s.reachable src || !s.reachable dst || s.olderEpoch fn (src ++ dst) ||
        (decide (x.srcSp ≤ 1) && !zero && s.copyPending fn x.src x.bytes) then .wait s
    else
      let (s, again) := s.xferPoison fn ((src.flatMap fun r => s.poisonsIn r.1 r.2) ++ s.edges dst).eraseDups
      if (s.func fn).state ≠ .on then .stop s
      else if again then .wait s
      else .done ((s.moveBytes fn list k step x src dst zero).watch fn (if x.mule < 16 then 3 else 2) x.mule src dst)

/-- Run one transfer of a list (R34, R250, R274). A receiving transfer is filled as its frames arrive (R350). -/
def State.runXfer (s : State) (fn : Nat) (step : W32) (l : XferList) (k : Nat) (x : Xfer) : Moved :=
  let bad := match s.base with
    | some b => decide (4 < x.srcSp ∨ 4 < x.dstSp) || s.xferBad b x
    | none => true
  if bad then .stop (s.muleSequence fn l.index x)
  else if x.srcSp = 4 then .done s
  else if (s.func fn).dependsOpen l x then .wait s
  else match if x.srcSp ≤ 1 then s.expertAt fn x.src else none with
    | none => s.moveOne fn l.index k step x x.src false
    | some (e, _) =>
      match s.checkExpert fn e x.src with
      | .wait s => .wait s
      | .stop s => .stop s
      | .zero => s.moveOne fn l.index k step x x.src true
      | .at_ s va => s.moveOne fn l.index k step x va false

/-! ### Upsets -/

/-- Whether an upset at `a` lies where its kind says. -/
def State.upsetFits (s : State) (u : Upset) : Bool :=
  match u with
  | .hbmCE a => match s.region a with | .hbm _ => true | _ => false
  | .hbmUE a => match s.region a with | .hbm _ => true | _ => false
  | .companionUE a => match s.region a with | .companion _ => true | _ => false
  | .sramCE a => match s.region a with | .staging _ _ => true | .tileSram _ _ => true | _ => false
  | .sramUE a => match s.region a with | .staging _ _ => true | .tileSram _ _ => true | _ => false
  | _ => true

/-- The address of an upset in memory that a mule can meet. -/
def upsetAddr : Upset → Option Nat
  | .hbmCE a => some a
  | .hbmUE a => some a
  | .companionUE a => some a
  | .sramCE a => some a
  | .sramUE a => some a
  | _ => none

/-- What an upset does to the memory that a transfer is about to read. -/
def State.upsetMemory (s : State) : Upset → State
  | .hbmCE a => s.hbmCE a
  | .sramCE a => s.sramCE a
  | .hbmUE a => s.addPoison a
  | .companionUE a => s.addPoison a
  | .sramUE a => s.addPoison a
  | _ => s

/-- The device physical ranges that a transfer would read now. -/
def State.xferSource (s : State) (fn : Nat) (x : Xfer) : List (Nat × Nat) :=
  if x.srcSp = 4 then []
  else
    let va := match if x.srcSp ≤ 1 then s.expertAt fn x.src else none with
      | some (e, y) => match s.checkExpert fn e x.src with
        | .at_ _ va => some va
        | _ => if y.parked then none else some x.src
      | none => some x.src
    ((va.bind fun v => s.endRanges fn x.srcSp v x.bytes).getD [])

/-- Whether a write of ranges covers the line or word of `a` only in part, and so reads it first (R302). -/
def edgeAt (rs : List (Nat × Nat)) (a : Nat) : Bool :=
  let p := a / poisonUnit a * poisonUnit a
  rs.any fun r => decide (p < r.1 + r.2 ∧ r.1 < p + poisonUnit a) && !decide (r.1 ≤ p ∧ p + poisonUnit a ≤ r.1 + r.2)

/-- Whether a transfer would meet an upset at `a`: in its source, or in a line that its write covers in part. -/
def State.xferMeets (s : State) (fn : Nat) (x : Xfer) (a : Nat) : Bool :=
  inRanges a (s.xferSource fn x) || (decide (x.srcSp ≠ 4) && edgeAt ((s.endRanges fn x.dstSp x.dst x.dstBytes).getD []) a)

/-! ### The list -/

/-- A list under way: the state, the upset still to be met, and whether the list goes on. -/
structure MuleRun where
  s : State
  upset : Upset
  live : Bool

/-- Run the next transfer of a list. -/
def MuleRun.next (fn idx : Nat) (l : XferList) (r : MuleRun) (y : Xfer × Nat) : MuleRun :=
  if !r.live then r
  else
    let (x, k) := y
    let hit := (upsetAddr r.upset).any fun a => r.s.xferMeets fn x a
    let s := if hit then r.s.upsetMemory r.upset else r.s
    let u := if hit then .none else r.upset
    match s.runXfer fn (s.func fn |>.runAt idx).step l k x with
    | .done s => { s := s.onFunc fn fun f => { f with muleNext := tset 0 f.muleNext idx (k + 1) }, upset := u, live := true }
    | .wait s => { s := s, upset := u, live := false }
    | .stop s => { s := s, upset := u, live := false }

/-- Run a list from where it stands until it ends or must wait. -/
def State.runList (s : State) (fn idx : Nat) (l : XferList) (u : Upset) : MuleRun :=
  ((l.xfers.zipIdx).drop (tget 0 (s.func fn).muleNext idx)).foldl (MuleRun.next fn idx l) { s := s, upset := u, live := true }

/-- What a list's mules do beside its transfers: prefetch experts of the layer that comes next (R232), and form the dispatch
records of the units that the tiles have laid out (R222). -/
def State.besideList (s : State) (fn : Nat) (b : MuleBeside) : State :=
  let s := match b.prefetch with
    | some (l, b) => if (s.image fn).comesNext (s.func fn).currentLayer l then s.prefetchLayer fn l b else s
    | none => s
  b.sends.foldl (State.sendDispatch fn) s

/-- MULE (R249): the list at ARG starts, or goes on from where it waited, in slots granted to the function (R247). `beside` names
the expert layer and micro-batch whose experts the hub mules prefetch meanwhile (R232), and the dispatch records that they form
(R222). A function whose mules are halted starts no new list (R451). An upset of another place than the list reads is not met. -/
def execMule (fn idx : Nat) (beside : MuleBeside) (upset : Upset) (s : State) : Answer :=
  let want : ItemSt := if (s.func fn).item idx = .started then .started else .issued
  s.withItem fn idx opMULE want fun f e =>
    match (s.image fn).xferList e.arg with
    | none => s.noEvent "R274: no list has the INDEX"
    | some l =>
      if !s.groupGranted fn e then .next s
      else if want = .issued ∧ (s.dbg.muleHalt.contains fn || s.dbg.haltAsked.contains (fn, none)) then .next s
      else
        let s := (s.setFunc fn (f.setItem idx .started)).besideList fn beside
        match upset with
        | .ertUE x =>
          let s := if (s.ertEntry x).valid && (s.ertEntry x).func == fn then s.ertUE x else s
          if (s.func fn).run then .next (s.runList fn idx l .none).s else .next s
        | u => .next (s.runList fn idx l (if s.upsetFits u then u else .none)).s

/-- Whether a frame of a list still waits to be sent or acknowledged. -/
def State.listUnacked (s : State) (fn list : Nat) : Bool :=
  s.usedPorts.any fun p =>
    let x := s.port p
    (x.replay ++ x.unsent).any fun g => let h := herdHdr g.bytes; h.fn == fn && h.list == list % 65536

/-- Take a complete receiving transfer's bytes: what arrives next belongs to its next use. -/
def Func.takeArrived (f : Func) (x : Xfer) : Func :=
  { f with rx := f.rx.filterMap fun r =>
      if r.port == x.port && r.list == x.src % 65536 && r.xid == bits x.src 47 32 then
        if r.count ≤ x.bytes then none else some { r with count := r.count - x.bytes }
      else some r }

/-- MULE_LIST_COMPLETE (R249): every transfer has been made, every frame sent acknowledged and every receiving transfer filled;
the item is complete. -/
def execMuleListComplete (fn idx : Nat) (s : State) : Answer :=
  s.withItem fn idx opMULE .started fun f e =>
    match (s.image fn).xferList e.arg with
    | none => s.noEvent "R274: no list has the INDEX"
    | some l =>
      let rx := l.xfers.filter fun x => x.srcSp == 4
      if tget 0 f.muleNext idx < l.xfers.length || s.listUnacked fn l.index || rx.any (fun x => decide (f.arrived x < x.bytes)) then
        .next s
      else
        .next (s.setFunc fn (rx.foldl Func.takeArrived (f.setItem idx .complete)))

end Sys2Proof.Machine
end

