-- ==== Sys2Proof/Machine/Ethernet.lean ====
section
/-! DEFINITION. Ethernet ports (13_ethernet_ports): training (R346, R347), time on herd links (R243, R246, R359, R360), DATA
frames and their resending (R350, R361, R363), shed lanes (R364), and streams on switched ports (R353, R366 to R368). -/
namespace Sys2Proof.Machine

/-- Whether a port id is one of the module's ports. -/
def State.isPort (s : State) (p : Nat) : Bool := (s.role p).isSome

/-- Lanes of a port. -/
def State.portLanes (s : State) : Nat := Code.lanes s.code

/-! ### ETH_PORTCFGj and training (R346, R347) -/

/-- Take a port down. On a formed herd's port that is a failed herd link; shipments over a switched port fail (R182). -/
def State.portDown (s : State) (p : Nat) (st : PortState) : State :=
  let s := s.setPort p { s.port p with state := st, width := 0 }
  if s.isSwitched p then s.failShips p
  else if s.usedPorts.contains p && s.exchanging then
    let s := s.failLink p
    s.setPort p { s.port p with state := st }
  else s.setNbr p { s.nbr p with verified := false }

/-- A write of ETH_PORTCFGj (R345, R347). -/
def State.writePortcfg (s : State) (p : Nat) (v : W32) : State :=
  let x := s.port p
  let en := bitOf v.toNat 7
  let rate : BitVec 2 := BitVec.ofNat 2 v.toNat
  let barred := decide (rate = 3#2 ∧ s.code.hubs = 1)
  let s :=
    if rate = x.rate ∨ barred then s
    else if x.enable then s.setPort p { x with cfgerr := true }
    else s.setPort p { x with rate := rate }
  let s := s.setPort p { s.port p with enable := en }
  if x.enable && !en then s.portDown p .down
  else if !x.enable && en then s.setPort p { s.port p with state := .training }
  else s

/-- PORTCFG_WRITE (R347). -/
def execPortcfgWrite (port : Nat) (value : W32) (s : State) : Answer :=
  if s.isPort port then .next (s.writePortcfg port value) else .fault (.absent "port" port)

/-- A wiring error (R263, R360). -/
def State.wiring (s : State) (p : Nat) (peer : Peer) : State :=
  s.report { code := eWiring, cls := clsNotice, unit := p, a := peer.member, b := beAt peer.digest 0 8, c := peer.mpd }

/-- Judge what a used herd port shows while the herd is LINKING (R263, R360). -/
def State.verifyPeer (s : State) (b : BaseImage) (p : Nat) (peer : Peer) : State :=
  if peer.herdId = b.herdId ∧ peer.member = s.peer p ∧ peer.digest = b.digest.take 16 ∧ peer.mpd ≤ 400 then
    (s.setNbr p { s.nbr p with verified := true, member := peer.member }).settleLinking
  else s.wiring p peer

/-- PORT_TRAIN (R346): `up` says whether link training succeeds, `peer` what the far end shows in the first exchange. -/
def execPortTrain (port : Nat) (up : Bool) (peer : Peer) (s : State) : Answer :=
  if !s.isPort port then .fault (.absent "port" port)
  else
    let x := s.port port
    if s.boot.supply ≠ .running ∨ !x.enable ∨ x.state = .up ∨ x.state = .failed then
      s.noEvent "R346: the port is not training"
    else if !up then .next (s.setPort port { x with state := .training })
    else
      let trained : Port := { x with
        state := .up, width := s.portLanes, failedLanes := 0, macInUse := some (s.macOf port), peerMac := peer.mac, mpd := peer.mpd }
      if s.isSwitched port then .next (s.setPort port { trained with mpd := 0 })
      else
        let linking := s.herd.state == .linking && s.usedPorts.contains port
        if !peer.s9Herd ∨ peer.rate ≠ x.rate then
          let s := s.setPort port { x with state := .training }
          .next (if linking then s.wiring port peer else s)
        else if peer.etype ≠ (s.hub (port / 16)).etype then .next (s.setPort port { x with state := .training })
        else
          let s := s.setPort port trained
          match s.base with
          | some b => .next (if linking then s.verifyPeer b port peer else s)
          | none => .next s

/-! ### Time (R243, R246, R359, R360) -/

/-- PTP_SYNC_INTERVAL (R243): every herd port that is up sends its Sync and delay messages. -/
def execPtpSyncInterval (s : State) : Answer :=
  .next ((Code.ports s.code).foldl (fun (s : State) p =>
    if s.isHerdPort p && (s.port p).state == .up then s.emit (.ptp p) else s) s)

/-- The role of the port towards a coordinate `dest` from `from_` on an axis of extent `e`: the shorter way, + on a tie. -/
def towards (axis e from_ dest : Nat) : Nat :=
  let plus := (dest + e - from_) % e
  if plus ≤ e - plus then 2 * axis else 2 * axis + 1

/-- The port towards the parent (R243); none on the time root. -/
def State.parentPort (s : State) : Option Nat :=
  match s.base with
  | none => none
  | some b =>
    let (x, y, z) := coordOf b.x b.y b.member
    let (rx, ry, rz) := coordOf b.x b.y b.root
    let role := if z ≠ rz then some (towards 2 b.z z rz) else if y ≠ ry then some (towards 1 b.y y ry)
      else if x ≠ rx then some (towards 0 b.x x rx) else none
    role.bind fun r => (Code.ports s.code)[r]?

/-- Herd time corrected by a measured offset; the herd slot is the one that covers it (R244). -/
def Herd.correct (h : Herd) (offset : Int) : Herd :=
  let t := h.time - BitVec.ofInt 64 offset
  { h with time := t, slot := t.toNat / 1024 % 2 ^ 48 }

/-- A Sync message that measures the offset to the parent (R243, R246). -/
def State.takeOffset (s : State) (p : Nat) (offset : Int) : State :=
  let s := s.setPort p { s.port p with offset := BitVec.ofInt 16 offset }
  let h := s.herd
  let good := decide (offset.natAbs ≤ 20)
  let h1 := if good then h else h.correct offset
  if h.lock then
    if good then s
    else
      let s := { s with herd := { h1 with lock := false, offTime := true, goodSyncs := 0 } }
      let s := s.report { code := eTimeFault, cls := clsRecovered, unit := p, a := (BitVec.ofInt 64 offset).toNat }
      if 1024 < offset.natAbs then s.loseHerd else s
  else if h.offTime && decide (1024 < offset.natAbs) then ({ s with herd := h1 } : State).loseHerd
  else if good then
    let n := h.goodSyncs + 1
    let locked := decide ((if h.offTime then 2 else 64) ≤ n)
    { s with herd := { h with goodSyncs := min n 64, lock := locked, offTime := h.offTime && !locked } }
  else { s with herd := { h1 with goodSyncs := 0 } }

/-- A measured path delay (R360). -/
def State.takeMpd (s : State) (p mpd : Nat) : State :=
  let s := s.setPort p { s.port p with mpd := min mpd 0xFFFF }
  if mpd ≤ 400 ∨ !s.usedPorts.contains p then s
  else if s.exchanging then s.failLink p
  else if s.herd.state = .linking ∧ (s.nbr p).verified then
    (s.setNbr p { s.nbr p with verified := false }).report
      { code := eWiring, cls := clsNotice, unit := p, a := (s.nbr p).member, c := mpd
        b := (s.base.map fun b => beAt b.digest 0 8).getD 0 }
  else s

/-- PTP_MESSAGE_RECEIVE (R246): the port's path delay and, towards the parent, the member's offset. -/
def execPtpMessageReceive (port : Nat) (mpd : Nat) (offset : Int) (s : State) : Answer :=
  if !s.isHerdPort port then .fault (.absent "herd port" port)
  else if (s.port port).state ≠ .up then s.noEvent "R346: the port is not up"
  else
    let s := s.takeMpd port mpd
    .next (if s.exchanging && s.parentPort == some port && (s.port port).state == .up then s.takeOffset port offset else s)

/-! ### DATA frames (R350, R361, R363) -/

/-- The receiving transfer that a header names on a port, with its list. -/
def FuncImage.receiver (i : FuncImage) (port list xid : Nat) : Option (XferList × Xfer) :=
  i.xfers.findSome? fun l =>
    (l.xfers.find? fun x => x.srcSp == 4 && x.port == port && x.src % 65536 == list && bits x.src 47 32 == xid).map fun x => (l, x)

/-- The part [off, off + n) of a list of ranges. -/
def subRanges : List (Nat × Nat) → Nat → Nat → List (Nat × Nat)
  | [], _, _ => []
  | (a, m) :: rs, off, n =>
    if m ≤ off then subRanges rs (off - m) n
    else
      let k := min n (m - off)
      (if k = 0 then [] else [(a + off, k)]) ++ subRanges rs 0 (n - k)

/-- Place bytes of a receiving transfer at `pos` of its destination. -/
def State.placeBytes (s : State) (fn : Nat) (l : XferList) (x : Xfer) (pos : Nat) (bs : List Byte) : State :=
  match s.endRanges fn x.dstSp x.dst x.dstBytes with
  | none => s.mulePartition fn l.index x x.dst
  | some rs =>
    let rs := subRanges rs pos bs.length
    let (s, _) := s.xferPoison fn (s.edges rs)
    if (s.func fn).state ≠ .on then s
    else (s.writeRanges rs bs).watch fn (if x.mule < 16 then 3 else 2) x.mule [] rs

/-- Take the next frame of a receiving cast: what can be converted is (R458), under the step that was latched when the transfer
started (R71). -/
def State.takeCast (s : State) (fn : Nat) (l : XferList) (x : Xfer) (c : CastExt) (r : RxState) (keep : RxState → Func) : State :=
  let hi := x.castReady c r.held.length
  let (es, scales, ev) := x.castPart c (s.image fn).job.seed r.step.toNat r.held r.done hi
  let w := fmtWidth (cvtFmt x.cvt)
  let before := ((x.castBlocks c).filter fun b => decide (b.1 < r.done)).length
  let f := keep (if x.bytes ≤ r.held.length then { r with held := [], done := 0 } else { r with done := hi })
  let s := s.setFunc fn { f with mevt := f.mevt.bump ev }
  let s := if es.isEmpty then s else s.placeBytes fn l x (packedBytes w r.done) es
  if scales.isEmpty then s else s.placeBytes fn l x (packedBytes w c.nelem + before) scales

/-- Take the payload of an accepted DATA frame: placed, or converted, as it arrives (R350, R458). -/
def State.takeData (s : State) (fn : Nat) (l : XferList) (x : Xfer) (payload : List Byte) : State :=
  let f := s.func fn
  let list := x.src % 65536
  let xid := bits x.src 47 32
  let same (r : RxState) : Bool := r.port == x.port && r.list == list && r.xid == xid
  let r := (f.rx.find? same).getD { port := x.port, list := list, xid := xid, count := 0, held := [], step := 0, done := 0 }
  let pos := r.count % max 1 x.bytes
  let r := { r with count := r.count + payload.length, step := if pos = 0 then f.progStep else r.step }
  let keep (r : RxState) : Func := { f with rx := (f.rx.filter fun y => !same y) ++ [r] }
  match x.cast with
  | none => (s.setFunc fn (keep r)).placeBytes fn l x pos payload
  | some c => s.takeCast fn l x c { r with held := r.held ++ payload } keep

/-- The bytes that the next frame of a receiving transfer carries. -/
def Func.nextFrame (f : Func) (x : Xfer) : Nat := min 4096 (x.bytes - f.arrived x % max 1 x.bytes)

def State.setNak (s : State) (p : Nat) : State := s.setPort p { s.port p with nak := true }

/-- DATA_FRAME_RECEIVE (R350, R361). -/
def execDataFrameReceive (port : Nat) (frame : Frame) (s : State) : Answer :=
  if !s.isHerdPort port then .fault (.absent "herd port" port)
  else if (s.port port).state ≠ .up then s.noEvent "R346: the port is not up"
  else match s.frameFate port frame with
    | .drop => .next (s.countNoMatch port)
    | .error => .next ((s.countErrFrame port).setNak port)
    | .take h =>
      if h.kind ≠ kDATA then s.noEvent "R350: the frame is no DATA frame"
      else
        let s := s.takeAck port h
        if h.seq ≠ (s.port port).rxSeq then .next (s.setNak port)
        else match (s.image h.fn).receiver port h.list h.xid with
          | none => .next ((s.countErrFrame port).setNak port)
          | some (l, x) =>
            let n := (s.func h.fn).nextFrame x
            if frame.body.length < 16 + n then .next ((s.countErrFrame port).setNak port)   -- R351: too short for its transfer's next part
            else
              let s := s.setPort port { s.port port with rxSeq := h.seq + 1 }
              .next (if (s.func h.fn).state = .on then s.takeData h.fn l x ((frame.body.drop 16).take n) else s)

/-- RETRANSMIT_TIMEOUT (R361): a frame has waited 4 µs for its acknowledgement. -/
def execRetransmitTimeout (port : Nat) (s : State) : Answer :=
  if !s.isHerdPort port then .fault (.absent "herd port" port)
  else if (s.port port).replay.isEmpty ∨ (s.port port).state ≠ .up then
    s.noEvent "R361: no frame waits for an acknowledgement"
  else .next (s.resend port)

/-- RETX_EPISODE_TIMEOUT (R363): an episode has lasted 400 µs. -/
def execRetxEpisodeTimeout (port : Nat) (s : State) : Answer :=
  if !s.isHerdPort port then .fault (.absent "herd port" port)
  else if (s.port port).episode.isNone ∨ (s.port port).state ≠ .up then
    s.noEvent "R363: no retransmission episode runs"
  else .next (s.failLink port)

/-! ### Shed lanes (R364) -/

/-- The lowest aligned group of `w` lanes without a failed one, of a port with `n` lanes. -/
def cleanGroup (n w : Nat) (failed : BitVec 4) : Option Nat :=
  (List.range (n / max 1 w)).find? fun g => (List.range w).all fun k => !bitOf failed.toNat (g * w + k)

/-- LANE_SHED (R364): a lane in use fails. -/
def execLaneShed (port lane : Nat) (s : State) : Answer :=
  if !s.isPort port then .fault (.absent "port" port)
  else
    let x := s.port port
    let n := s.portLanes
    let inUse := match cleanGroup n x.width x.failedLanes with
      | some g => decide (g * x.width ≤ lane ∧ lane < (g + 1) * x.width)
      | none => false
    if x.state ≠ .up ∨ !inUse then s.noEvent "R364: the port does not use the lane"
    else
      let failed := x.failedLanes ||| BitVec.ofNat 4 (2 ^ lane)
      if s.isSwitched port then
        .next ((s.setPort port { x with failedLanes := failed }).portDown port .training)
      else
        let w := max 1 (x.width / 2)
        match cleanGroup n w failed with
        | none => .next ((s.setPort port { x with failedLanes := failed, width := 0 }).failLink port)
        | some _ =>
          .next ((s.setPort port { x with failedLanes := failed, width := w, sheds := satAdd 16 x.sheds 1 }).report
            { code := eLaneShed, cls := clsRecovered, unit := port, a := w, b := failed.toNat })

/-! ### Streams on switched ports (R353, R366 to R368) -/

/-- The entry that a received frame goes to (R353). -/
def Port.entryFor (x : Port) (vid : Option (BitVec 12)) : Option Nat :=
  match vid with
  | some v => (List.range 17).find? fun k => (x.entry k).insert && (x.entry k).vid == v
  | none => if (x.entry 16).insert then none else some 16

/-- Whether a stream of function `fn` belongs to an entry: the function's own; untagged streams share entry 16. -/
def Port.streamOn (x : Port) (entry fn : Nat) : Bool := entry == fn || (entry == 16 && !(x.entry fn).insert)

/-- What a switched port does with a frame before its kind matters. -/
def State.switchedFate (s : State) (p : Nat) (f : Frame) : FrameFate :=
  if !f.fcsOk then .error
  else if f.etype ≠ (s.hub (p / 16)).etype ∨ f.dst ≠ s.macUsed p ∨ ((s.port p).entryFor f.vid).isNone then .drop
  else if hdrReserved f.body then .error
  else .take (herdHdr f.body)

/-- The function whose shipment a stream frame belongs to, and the shipment. -/
def State.streamOf (s : State) (p : Nat) (f : Frame) (h : HerdHdr) (restore : Bool) : Option (Nat × Shipment) :=
  let x := s.port p
  match x.entryFor f.vid with
  | none => none
  | some e =>
    funcIds.findSome? fun n =>
      match (s.func n).snap with
      | some sh => if sh.overEthernet && sh.port == p && sh.restore == restore && sh.stream == h.list && sh.dmac == f.src &&
          x.streamOn e n && h.fn == n then some (n, sh) else none
      | none => none

/-- Run `act` on a stream frame of kind `kind` that arrives on a switched port. -/
def State.withStream (s : State) (port : Nat) (frame : Frame) (kind : Nat) (restore : Bool)
    (act : Nat → Shipment → HerdHdr → State) : Answer :=
  if !s.isSwitched port then .fault (.absent "switched port" port)
  else if (s.port port).state ≠ .up then s.noEvent "R346: the port is not up"
  else match s.switchedFate port frame with
    | .drop => .next (s.countNoMatch port)
    | .error => .next (s.countErrFrame port)
    | .take h =>
      if h.kind ≠ kind then s.noEvent "R350: the frame has another kind"
      else match s.streamOf port frame h restore with
        | none => .next (s.countNoMatch port)
        | some (fn, sh) => .next (act fn sh h)

/-- Acknowledge a restore stream: the next SEQ expected. -/
def State.sendStreamAck (s : State) (fn : Nat) (sh : Shipment) (nak : Bool) : State :=
  s.emit (.frame sh.port kSTREAM_ACK sh.tc (herdFrame
    { kind := kSTREAM_ACK, nak := nak, fn := fn, src := s.srcId, seq := 0, ack := BitVec.ofNat 32 sh.acked, list := sh.stream } []))

/-- PFC for the class of a restore stream whose receive buffer holds `fill` bytes (R366). -/
def State.restorePfc (s : State) (port tc fill : Nat) : State :=
  let x := s.port port
  let bit : BitVec 8 := BitVec.ofNat 8 (2 ^ tc)
  if 786432 < fill ∧ x.pfcSent &&& bit = 0 then
    (s.setPort port { x with pfcSent := x.pfcSent ||| bit }).emit (.pfc port bit bit)
  else if fill < 262144 ∧ x.pfcSent &&& bit ≠ 0 then
    (s.setPort port { x with pfcSent := x.pfcSent &&& ~~~bit }).emit (.pfc port bit 0)
  else s

/-- The restore ends: its command completes. -/
def State.endRestore (s : State) (fn : Nat) (sh : Shipment) (st : Nat) (r : List Byte) : State :=
  (s.onFunc fn fun f => { f with snap := none }).completeAll sh.cmd.toList st r

/-- Take a STREAM frame of a restore. -/
def State.takeStream (s : State) (port : Nat) (frame : Frame) (fill fn : Nat) (sh : Shipment) (h : HerdHdr) : State :=
  if h.seq.toNat ≠ sh.acked % 2 ^ 32 then s.sendStreamAck fn sh (!serialBefore h.seq (BitVec.ofNat 32 sh.acked))
  else
    let sh := { sh with acked := sh.acked + 1, timeouts := 0, frames := sh.frames ++ [(frame.body.drop 16).take 4096] }
    let s := s.onFunc fn fun f => { f with snap := some sh }
    let s := (s.sendStreamAck fn sh false).restorePfc port sh.tc fill
    match s.judgeRestore fn sh.gen sh.frames.flatten with
    | none => s
    | some (s, st, r) => s.endRestore fn sh st r

/-- STREAM_FRAME_RECEIVE (R366, R368): `fill` is what the stream's receive buffer then holds. -/
def execStreamFrameReceive (port : Nat) (frame : Frame) (fill : Nat) (s : State) : Answer :=
  if 1048576 < fill then s.noEvent "R366: the receive buffer of a stream is 1 MiB"
  else s.withStream port frame kSTREAM true (s.takeStream port frame fill)

/-- Take a STREAM_ACK of a snapshot. -/
def State.takeStreamAck (s : State) (fn : Nat) (sh : Shipment) (h : HerdHdr) : State :=
  let ack := h.ack.toNat
  let good := decide (sh.acked < ack ∧ ack ≤ sh.sent)
  let sh := if good then { sh with acked := ack, timeouts := 0 } else sh
  let s := s.onFunc fn fun f => { f with snap := some sh }
  let s := if h.nak then s.resendShip fn sh else s
  s.pumpShip fn

/-- STREAM_ACK_RECEIVE (R368). -/
def execStreamAckReceive (port : Nat) (frame : Frame) (s : State) : Answer :=
  s.withStream port frame kSTREAM_ACK false s.takeStreamAck

/-- STREAM_TIMEOUT (R368): 100 µs without progress of a stream on a port; the sixteenth in a row fails it. -/
def execStreamTimeout (port stream : Nat) (s : State) : Answer :=
  if !s.isSwitched port then .fault (.absent "switched port" port)
  else
    let hit := funcIds.findSome? fun n =>
      match (s.func n).snap with
      | some sh => if sh.overEthernet && sh.port == port && sh.stream == stream then some (n, sh) else none
      | none => none
    match hit with
    | none => s.noEvent "R368: no stream of that id runs on the port"
    | some (fn, sh) =>
      if !sh.restore ∧ sh.sent = sh.acked ∧ sh.acked = sh.frames.length then
        s.noEvent "R368: every frame of the stream is acknowledged"
      else if 16 ≤ sh.timeouts + 1 then .next (s.failShip fn)
      else
        let sh := { sh with timeouts := sh.timeouts + 1 }
        let s := s.onFunc fn fun f => { f with snap := some sh }
        .next (if sh.restore then s else s.resendShip fn sh)

/-- PFC_RECEIVE (R366): classes paused or released on a switched port; herd ports drop pause frames and count them (R348). -/
def execPfcReceive (port : Nat) (classes pause : BitVec 8) (s : State) : Answer :=
  if !s.isPort port then .fault (.absent "port" port)
  else if (s.port port).state ≠ .up then s.noEvent "R346: the port is not up"
  else if s.isHerdPort port then .next (s.countNoMatch port)
  else
    let x := s.port port
    let s := s.setPort port { x with paused := (x.paused &&& ~~~classes) ||| (pause &&& classes) }
    .next (funcIds.foldl (fun (s : State) n =>
      match (s.func n).snap with
      | some sh => if sh.overEthernet ∧ sh.port = port then s.pumpShip n else s
      | none => s) s)

end Sys2Proof.Machine
end

