-- ==== Sys2Proof/Machine/Larwa.lean ====
section
/-! DEFINITION. The Larwa links and the bus ports (12_larwa_link_and_queues): training (R320), retrains and outages (R321,
R322), host resets and link epochs (R341, R342), and the bus port's reset, training and configuration (R327, R373, R410). -/
namespace Sys2Proof.Machine

def State.setLwl (s : State) (h : Nat) (l : LwlLink) : State := s.setHub h { s.hub h with link := l }

/-! ### Training (R320) -/

/-- What training at one rate comes to: width, LANES, and whether a data lane carries control. -/
structure Trained where
  rate : Nat
  width : Nat
  lanes : Nat
  ctlsub : Bool
  deriving DecidableEq, Repr, Inhabited

/-- Whether lanes [lo, lo + n) all pass. -/
def lanesPass (t : LaneTest) (lo n : Nat) : Bool := (List.range n).all fun k => bitOf t.lanes.toNat (lo + k)

/-- Whether control works beside lanes of half `half`, and whether by the highest lane of the other half. -/
def ctlLane (t : LaneTest) (half : Nat) : Option Bool :=
  if t.control then some false
  else if bitOf t.lanes.toNat (if half = 0 then 15 else 7) then some true else none

/-- The widest width that a rate allows. -/
def bestWidth (t : LaneTest) (rate : Nat) : Option Trained :=
  let at_ (width k half : Nat) : Option Trained :=
    if lanesPass t (k * width) width then (ctlLane t half).map fun c => { rate := rate, width := width, lanes := k, ctlsub := c } else none
  if !t.supported then none
  else if lanesPass t 0 16 ∧ t.control then some { rate := rate, width := 16, lanes := 0, ctlsub := false }
  else at_ 8 0 0 <|> at_ 8 1 1 <|> at_ 4 0 0 <|> at_ 4 1 0 <|> at_ 4 2 1 <|> at_ 4 3 1

/-- The result of training: the highest rate at which some width passes. -/
def trainLanes (t64 t32 t16 : LaneTest) : Option Trained := bestWidth t64 2 <|> bestWidth t32 1 <|> bestWidth t16 0

/-- A trained link. -/
def LwlLink.train (l : LwlLink) (t : Trained) : LwlLink :=
  { l with state := .up, rate := t.rate, width := t.width, lanes := t.lanes, ctlsub := t.ctlsub }

/-- What waited for a link goes on once it is UP: completion records, and ledger groups (R321). -/
def State.flushAll (s : State) : State :=
  ((tkeys s.queues).foldl (fun (s : State) q => (s.flushQueue q).settleDestroy q) s).flushLedgers

/-! ### Host resets (R341, R342) -/

/-- A function that holds device-bias companion pages. -/
def Func.deviceBias (f : Func) : Bool := f.table.any fun e => e.2.valid && e.2.companion && !e.2.bias

/-- What a host reset does to a queue. -/
def Queue.hostReset (q : Queue) : Queue :=
  if q.state = .idle then q
  else { q with
    state := .haltedHost, waiting := [], destroying := none, disarming := false, stale := false, rereads := 0
    running := q.running.filter fun c => !c.needsHost }

/-- A host reset with its cause (R341, R342). -/
def State.hostReset (s : State) (cause : Nat) : State :=
  let old := s.larwa.epoch
  let s := { s with larwa := { s.larwa with epoch := old + 1 }, errs := { s.errs with arm := false } }
  let s := (s.dropCmds fun _ => true).onQueues fun _ q => q.hostReset
  let s := funcIds.foldl (fun (s : State) n => s.onFunc n fun f => { f with pending := none, pendingCmds := [] }) s
  let lost := funcIds.filter fun n => (s.func n).state == .enabling || ((s.func n).state == .on && (s.func n).deviceBias)
  let jobs := lost.any fun n => (s.func n).run || (s.func n).armed
  let s := (lost.foldl (fun (s : State) n => s.drain n) s).flushLedgers
  s.report { code := eLinkEpoch, cls := if jobs then clsFunction else clsNotice, a := pair old.toNat (old + 1).toNat, b := cause
             c := (lost.map fun n => 2 ^ n).sum }

/-- HOST_RESET (R342). -/
def execHostReset (cause : Nat) (s : State) : Answer :=
  if cause < 3 then .next (s.hostReset cause) else s.noEvent "R341: a host reset has cause 0, 1 or 2"

/-- A training presents the companion's host epoch, common to both links (R323, R341). -/
def State.seeEpoch (s : State) (epoch : Nat) : State :=
  let changed := s.larwa.hostEpoch.any fun e => e != epoch
  let s := { s with larwa := { s.larwa with hostEpoch := some epoch } }
  if changed then s.hostReset 1 else s

/-- LWL_TRAIN (R320). -/
def execLwlTrain (hub : Nat) (t64 t32 t16 : LaneTest) (hostEpoch : Nat) (s : State) : Answer :=
  if !s.hubFitted hub then .fault (.absent "hub die" hub)
  else
    let l := s.lwl hub
    if s.boot.supply ≠ .running ∨ (l.state ≠ .down ∧ l.state ≠ .training) then
      s.noEvent "R320: the link is not training"
    else match trainLanes t64 t32 t16 with
      | none => .next (s.setLwl hub { l with state := .down, width := 0 })
      | some t => .next ((s.setLwl hub (l.train t)).seeEpoch hostEpoch).flushAll

/-! ### Retrains and outages (R321, R322) -/

/-- LWL_RETRAIN (R321). -/
def execLwlRetrain (hub : Nat) (s : State) : Answer :=
  if !s.hubFitted hub then .fault (.absent "hub die" hub)
  else
    let l := s.lwl hub
    if l.state = .up then .next (s.setLwl hub { l with state := .retrain })
    else s.noEvent "R321: the link is not UP"

/-- Whether a job's step program moves companion data over a link (R322): by a transfer of its lists, or by the paging and the
sweep of its parked experts. -/
def State.jobOn (s : State) (hub fn : Nat) : Bool :=
  let i := s.image fn
  let lists := (s.program fn).filterMap fun e => if e.op = opMULE then i.xferList e.arg else none
  (lists.any fun l => l.xfers.any fun x =>
    (x.srcSp == 1 && s.onLink hub x.src x.bytes) || (x.dstSp == 1 && s.onLink hub x.dst x.dstBytes)) ||
  (s.entriesOf fn).any fun e => e.2.parked && s.onLink hub (e.2.homeVpn * pageSize) (e.2.npage * pageSize)

/-- Take a link out (R322): its queues halt, the jobs that move data over it stop, halted ones too, and ledger groups that waited
for it are dropped. -/
def State.linkOut (s : State) (hub : Nat) : State :=
  let s := s.setLwl hub { s.lwl hub with state := .out }
  let s := (tkeys s.queues).foldl (fun (s : State) n =>
    let q := s.queue n
    if q.state = .active ∧ s.ringOn hub q then s.setQueue n { q with state := .haltedLink } else s) s
  (funcIds.foldl (fun (s : State) n =>
    if ((s.func n).run || (s.func n).armed || (s.func n).halted) && s.jobOn hub n then s.drain n else s) s).flushLedgers

/-- LWL_OUT (R322): 400 µs have passed since the link left UP. -/
def execLwlOut (hub : Nat) (s : State) : Answer :=
  if !s.hubFitted hub then .fault (.absent "hub die" hub)
  else if (s.lwl hub).state = .retrain then .next (s.linkOut hub)
  else s.noEvent "R322: the link is not retraining"

/-- Queues in HALTED_LINK return to ACTIVE once no ring of theirs travels on a link that is out (R322). -/
def State.resumeLink (s : State) : State :=
  (tkeys s.queues).foldl (fun (s : State) n =>
    let q := s.queue n
    if q.state = .haltedLink then s.setQueue n { q with state := s.activeState q } else s) s

/-- The report of an outage (R322). -/
def State.reportOut (s : State) (hub us : Nat) : State :=
  s.report { code := eLwlOut, cls := clsFunction, unit := hub, a := us }

/-- LWL_RETRAIN_COMPLETE (R321, R322): the link returns to UP; `outUs` is how long it was away, where it was out. -/
def execLwlRetrainComplete (hub : Nat) (t64 t32 t16 : LaneTest) (hostEpoch : Nat) (outUs : Nat) (s : State) : Answer :=
  if !s.hubFitted hub then .fault (.absent "hub die" hub)
  else
    let l := s.lwl hub
    if l.state ≠ .retrain ∧ l.state ≠ .out then s.noEvent "R321: the link is not retraining"
    else if l.state = .out ∧ (outUs < 400 ∨ 100000 < outUs) then
      s.noEvent "R322: an outage lasts from 400 µs to 100 ms"
    else match trainLanes t64 t32 t16 with
      | none => .next s
      | some t =>
        let same := s.larwa.hostEpoch == some hostEpoch
        let absorbed := l.state == .retrain && same
        let l1 := l.train t
        let l1 := if absorbed then { l1 with retrains := satAdd 16 l1.retrains 1 } else l1
        let s := s.setLwl hub l1
        let s := if absorbed then
          s.report { code := eLwlRetrain, cls := clsRecovered, unit := hub, a := l1.rateWidth } else s
        let s := if t.rate < l.rate ∨ t.width < l.width then
          s.report { code := eNarrowed, cls := clsNotice, unit := hub, a := l1.rateWidth } else s
        let s := if l.state = .out then s.reportOut hub outUs else s
        .next ((s.seeEpoch hostEpoch).resumeLink).flushAll

/-- LINK_OUT_HOST_RESET (R341): a link has been out for 100 ms; the host reset ends the outage's rule, and the link trains
anew. -/
def execLinkOutHostReset (hub : Nat) (s : State) : Answer :=
  if !s.hubFitted hub then .fault (.absent "hub die" hub)
  else if (s.lwl hub).state = .out then
    .next (((s.setLwl hub { s.lwl hub with state := .training, width := 0 }).reportOut hub 100000).hostReset 2)
  else s.noEvent "R341: the link is not out"

/-- LWL_RST_N (R373): the link's reset input is asserted for at least 1 µs. The host reset ends an outage; how long
that lasted, between the retrain's 400 µs and the 100 ms of R341, is a free value (R322). -/
def execLwlRstN (hub : Nat) (s : State) : Answer :=
  if !s.hubFitted hub then .fault (.absent "hub die" hub)
  else if s.boot.supply ≠ .running then s.noEvent "R373: the module is not running"
  else
    let s := if (s.lwl hub).state = .out then
        let (s, k) := s.draw
        s.reportOut hub (400 + Config.outTime k % 99601)
      else s
    .next ((s.setLwl hub { s.lwl hub with state := .training, width := 0 }).hostReset 0)

/-! ### The bus port (R327, R328, R373, R410) -/

/-- BUS_PORT_RESET (R373): peer-to-peer transfers in flight fail. -/
def execBusPortReset (hub : Nat) (s : State) : Answer :=
  if !s.hubFitted hub then .fault (.absent "hub die" hub)
  else
    let s := s.setHub hub { s.hub hub with bus := { (s.hub hub).bus with gen := 0, width := 0 } }
    .next (funcIds.foldl (fun (s : State) n =>
      match (s.func n).snap with
      | some h => if !h.overEthernet ∧ h.port = hub then s.failShip n else s
      | none => s) s)

/-- BUS_PORT_TRAIN (R327): GEN 4, 5 or 6 and x8, x4, x2 or x1, or down. -/
def execBusPortTrain (hub gen width : Nat) (s : State) : Answer :=
  if !s.hubFitted hub then .fault (.absent "hub die" hub)
  else
    let b := (s.hub hub).bus
    let ok := (gen == 0 && width == 0) || (decide (4 ≤ gen ∧ gen ≤ 6) && [1, 2, 4, 8].contains width)
    if !ok then s.noEvent "R327: GEN is 4, 5 or 6 and the width 1, 2, 4 or 8"
    else if s.boot.supply ≠ .running ∨ b.gen ≠ 0 then s.noEvent "R327: the bus port is not training"
    else .next (s.setHub hub { s.hub hub with bus := { b with gen := gen, width := width } })

/-- PCIE_CONFIGURATION_REQUEST (R410). -/
def execPcieConfigurationRequest (hub : Nat) (s : State) : Answer :=
  if !s.hubFitted hub then .fault (.absent "hub die" hub)
  else if (s.hub hub).bus.gen = 0 then s.noEvent "R327: the bus port is down"
  else .next (s.emit (if s.boot.stage = .ready ∨ s.boot.stage = .prepared then .configNormal hub else .configRetry hub))

end Sys2Proof.Machine
end

