-- ==== Sys2Proof/Machine/Package.lean ====
section
/-! DEFINITION. The package (14_package_and_dies): die-to-die links (R377 to R379), the third-party chiplet and the hub
firewall (R381 to R387), and clock-domain crossings (R389 to R391). -/
namespace Sys2Proof.Machine

/-! ### Die-to-die links (R377 to R379) -/

/-- The dies that a link joins, coded as CD_D2Dk.PEER codes them: a compute die by its number, hub die h as 0x80 + h. -/
def State.linkDies (s : State) (l : Nat) : Nat × Nat :=
  if l = 0 then (0, 1) else if l = 1 then (2, 3) else if l = 2 then (0, 2) else if l = 3 then (1, 3)
  else (l - 4, 0x80 + (if s.code.hubs = 2 then (l - 4) / 2 else 0))

/-- UNIT of a record about a die pair: the first die in [15:8], the second in [7:0] (assumption 33). -/
def State.pairUnit (s : State) (l : Nat) : Nat := (s.linkDies l).1 * 256 + (s.linkDies l).2

/-- D2D_RETRAIN (R377). -/
def execD2dRetrain (link : Nat) (s : State) : Answer :=
  if !s.linkFitted link then .fault (.absent "die-to-die link" link)
  else if (s.link link).state = .up then .next (s.setLink link { s.link link with state := .retrain })
  else s.noEvent "R377: the link is not UP"

/-- D2D_RETRAIN_COMPLETE (R377, R378): the link returns on `mods` UCIe modules, having held the herd for `holdUs`. -/
def execD2dRetrainComplete (link mods : Nat) (holdUs : Nat) (s : State) : Answer :=
  if !s.linkFitted link then .fault (.absent "die-to-die link" link)
  else
    let l := s.link link
    if l.state ≠ .retrain then s.noEvent "R377: the link is not retraining"
    else if mods < 1 ∨ linkMods link < mods ∨ 25 < holdUs then
      s.noEvent "R377: the link returns on 1 to all of its modules, with holds of at most 25 µs"
    else
      let s := s.setLink link { l with state := .up, mods := mods, retrains := satAdd 16 l.retrains 1 }
      let s := s.report { code := eD2dRetrain, cls := clsRecovered, unit := s.pairUnit link, hold := holdUs }
      .next (if mods < linkMods link then
        s.report { code := eNarrowed, cls := clsNotice, unit := s.pairUnit link, a := mods } else s)

/-- D2D_FAILED (R379): every function moves to DRAINING and none starts again. -/
def execD2dFailed (link : Nat) (s : State) : Answer :=
  if !s.linkFitted link then .fault (.absent "die-to-die link" link)
  else
    let l := s.link link
    if l.state ≠ .up ∧ l.state ≠ .retrain then s.noEvent "R379: the link is not in operation"
    else
      let s := s.setLink link { l with state := .failed, mods := 0 }
      let s := s.report { code := eD2dFailed, cls := clsModule, unit := s.pairUnit link }
      .next (funcIds.foldl (fun (s : State) n => s.drain n) s.moduleLoss)

/-! ### Firewall windows (R382, R385, R386) -/

/-- A write of HUB_FWWINw (R385). -/
def State.writeFwwin (s : State) (h w : Nat) (v : W64) : State :=
  let x := v.toNat
  let fn := bits x 60 57
  let npage := x % 2 ^ 20
  if npage = 0 ∨ 524288 < npage ∨ (bitOf x 63 ∧ (s.func fn).state ≠ .on) then s.setHub h { s.hub h with cfgerr := true }
  else
    let hub := s.hub h
    s.setHub h { hub with windows := tset {} hub.windows w { tget {} hub.windows w with
      valid := bitOf x 63, wr := bitOf x 62, rd := bitOf x 61, func := BitVec.ofNat 4 fn, vpn := BitVec.ofNat 27 (bits x 46 20)
      npage := BitVec.ofNat 20 npage } }

/-- FWWIN_WRITE (R385). -/
def execFwwinWrite (hub w : Nat) (value : W64) (s : State) : Answer :=
  if !s.hubFitted hub then .fault (.absent "hub die" hub)
  else if 16 ≤ w then .fault (.absent "firewall window" w)
  else .next (s.writeFwwin hub w value)

def State.window (s : State) (h w : Nat) : Window := tget {} (s.hub h).windows w
def State.setWindow (s : State) (h w : Nat) (v : Window) : State :=
  s.setHub h { s.hub h with windows := tset {} (s.hub h).windows w v }

/-! ### Chiplet requests (R382 to R384) -/

/-- The window that a request selects, and its offset in it. -/
def reqWin (r : ChipletReq) : Nat := bits r.addr.toNat 43 40
def reqOff (r : ChipletReq) : Nat := r.addr.toNat % 2 ^ 40

/-- A well-formed request: a Memory Read or Write of 64 bytes to 4 KiB, 64-byte aligned, within one 4 KiB block. -/
def reqFormed (r : ChipletReq) : Bool :=
  r.wellFormedTlp && decide (64 ≤ r.len ∧ r.len ≤ 4096) && r.len % 64 == 0 && r.addr.toNat % 64 == 0 &&
    decide (r.addr.toNat % 4096 + r.len ≤ 4096)

/-- The VA that a request reaches through its window. -/
def Window.va (w : Window) (r : ChipletReq) : Nat := w.vpn.toNat * pageSize + reqOff r

/-- The KIND of a request's violation (HUB_FWLOG), or none. -/
def State.violation (s : State) (h : Nat) (r : ChipletReq) : Option Nat :=
  let w := s.window h (reqWin r)
  let fn := w.func.toNat
  let va := w.va r
  if !reqFormed r then some 6
  else if r.addr.toNat / 2 ^ 44 ≠ 0 then some 1
  else if !w.valid ∨ (s.func fn).state ≠ .on then some 3
  else if w.npage.toNat * pageSize < reqOff r + r.len then some 1
  else if (if r.write then w.wr else w.rd) = false then some 2
  else
    let hbm := match s.translate fn va with
      | some a => match s.region a with
        | .hbm _ => true
        | _ => false
      | none => false
    if !hbm then some 5
    else if r.write ∧ s.closedRange fn va r.len then some 4 else none

/-- Refuse a request (R384). -/
def State.violate (s : State) (h kind : Nat) (r : ChipletReq) : State :=
  let hub := s.hub h
  let s := s.setHub h { hub with
    viol := satAdd 16 hub.viol 1, fwValid := true
    fwKind := if hub.fwValid then hub.fwKind else kind
    fwWin := if hub.fwValid then hub.fwWin else reqWin r
    fwAddr := if hub.fwValid then hub.fwAddr else r.addr }
  if r.write then s else s.emit (.chiplet h true false [])

/-- Perform a permitted request. A UE that a read meets gives a poisoned completion and advances its page (R383). -/
def State.serve (s : State) (h : Nat) (r : ChipletReq) : State :=
  let w := s.window h (reqWin r)
  let fn := w.func.toNat
  let va := w.va r
  if r.write then
    -- a line that the write covers in part is read first (R302)
    let bad := (s.edges (s.rangesVA fn va r.len)).eraseDups
    (bad.foldl (fun (s : State) a => (s.countUE a false).advancePage (a / pageSize)) s).writeVA fn va (slice r.data 0 r.len)
  else
    let bad := (s.rangesVA fn va r.len).flatMap fun x => s.poisonsIn x.1 x.2
    let data := s.readVA fn va r.len
    let s := bad.foldl (fun (s : State) a => (s.countUE a false).advancePage (a / pageSize)) s
    s.emit (.chiplet h false (!bad.isEmpty) (if bad.isEmpty then data else []))

/-- Whether a window's bucket lets a request proceed. -/
def Window.covers (w : Window) (r : ChipletReq) : Bool :=
  w.rate == 0xFFFF#16 || (w.rate != 0#16 && decide (r.len ≤ w.tokens))

/-- Take a request that has reached the firewall: refused, served, or waiting for tokens (R383, R386). -/
def State.request (s : State) (h : Nat) (r : ChipletReq) : State :=
  match s.violation h r with
  | some k => s.violate h k r
  | none =>
    let w := s.window h (reqWin r)
    if w.covers r then
      (s.setWindow h (reqWin r) { w with tokens := if w.rate = 0xFFFF#16 then w.tokens else w.tokens - r.len }).serve h r
    else s.setWindow h (reqWin r) { w with waiting := some r }

/-- Requests that a site withholds credit for. -/
def State.withheld (s : State) (h : Nat) : Bool := (s.hub h).windows.any fun e => e.2.waiting.isSome

/-- CHIPLET_REQUEST (R383): an upset is met where it lies in an HBM line that a read takes, or that a write covers in part. -/
def execChipletRequest (hub : Nat) (req : ChipletReq) (upset : Upset) (s : State) : Answer :=
  if !s.hubFitted hub then .fault (.absent "hub die" hub)
  else if (s.hub hub).chip ≠ .up ∨ s.withheld hub then s.noEvent "R386: the site grants no credit"
  else if req.wellFormedTlp ∧ req.write ∧ req.data.length ≠ req.len then
    s.noEvent "R383: a write carries its length of data"
  else
    let w := s.window hub (reqWin req)
    let rs := if (s.violation hub req).isNone ∧ w.covers req then s.rangesVA w.func.toNat (w.va req) req.len else []
    let meets (a : Nat) : Bool := if req.write then edgeAt rs a else inRanges a rs
    let s := match upset with
      | .hbmCE a => if meets a then s.hbmCE a else s
      | .hbmUE a => if meets a then s.addPoison a else s
      | _ => s
    .next (s.request hub req)

/-- TOKEN_BUCKET_FILL (R386): the bucket fills until it holds the waiting request, which then proceeds, or, with none, up to
its depth. -/
def execTokenBucketFill (hub w : Nat) (s : State) : Answer :=
  if !s.hubFitted hub then .fault (.absent "hub die" hub)
  else if 16 ≤ w then .fault (.absent "firewall window" w)
  else
    let v := s.window hub w
    match v.waiting with
    | none =>
      if v.rate = 0#16 then s.noEvent "R386: a bucket with RATE = 0 does not fill"
      else .next (s.setWindow hub w { v with tokens := max v.tokens (max v.burst.toNat 4 * 1024) })
    | some r =>
      if v.rate = 0#16 ∧ (s.violation hub r).isNone then s.noEvent "R386: a bucket with RATE = 0 does not fill"
      else .next ((s.setWindow hub w { v with waiting := none, tokens := max v.tokens r.len }).request hub r)

/-! ### The chiplet site (R381, R387) -/

/-- Requests that wait at a site are discarded. -/
def State.flushSite (s : State) (h : Nat) : State :=
  s.setHub h { s.hub h with windows := (tkeys (s.hub h).windows).foldl (fun (m : Table Window) w =>
    tset {} m w { tget {} m w with waiting := none }) (s.hub h).windows }

/-- CHIPLET_RESET (R387): the site's link goes down. -/
def execChipletReset (hub : Nat) (s : State) : Answer :=
  if !s.hubFitted hub then .fault (.absent "hub die" hub)
  else
    let x := s.hub hub
    if x.chip = .absent ∨ x.chip = .faulted then s.noEvent "R387: no chiplet is in operation"
    else .next ((s.setHub hub { x with chip := .down, chipRate := 0 }).flushSite hub)

/-- CHIPLET_SITE_TRAIN (R387): RATE 1 is 16 GT/s, 2 is 32 GT/s. -/
def execChipletSiteTrain (hub : Nat) (ok : Bool) (rate : Nat) (s : State) : Answer :=
  if !s.hubFitted hub then .fault (.absent "hub die" hub)
  else
    let x := s.hub hub
    if s.boot.supply ≠ .running ∨ (x.chip ≠ .down ∧ x.chip ≠ .training) then
      s.noEvent "R387: the site is not training"
    else if ok then
      if rate = 1 ∨ rate = 2 then .next (s.setHub hub { x with chip := .up, chipRate := rate, chipFails := 0 })
      else s.noEvent "R392: RATE is 1 or 2"
    else
      let n := x.chipFails + 1
      .next (s.setHub hub { x with chip := if 3 ≤ n then .faulted else .training, chipFails := n })

/-! ### Clock-domain crossings (R389 to R391) -/

/-- Crossings are named by a die, compute 0 to 3 or hub 4 + h, and their ALIVE bit. -/
def State.crossingFitted (s : State) (die c : Nat) : Bool :=
  if die < 4 then
    s.dieFitted die && decide (c < 6) &&
      (if c < 3 then s.stackFitted (die * 3 + c) else if c = 3 then true else if c = 4 then s.code.dies == 4
       else s.code.dies == 2 || s.code.hubs == 2 || decide (die < 2))
  else s.hubFitted (die - 4) && decide (c < 7)

/-- Whether a crossing's far clock runs. -/
def State.alive (s : State) (die c : Nat) : Bool :=
  if die < 4 then bitOf (s.die die).alive.toNat c else bitOf (s.hub (die - 4)).alive.toNat c

def State.setAlive (s : State) (die c : Nat) (v : Bool) : State :=
  let put (n : Nat) (b : Bool) : Nat := if b then (if bitOf n c then n else n + 2 ^ c) else (if bitOf n c then n - 2 ^ c else n)
  if die < 4 then s.setDie die { s.die die with alive := BitVec.ofNat 6 (put (s.die die).alive.toNat v) }
  else s.setHub (die - 4) { s.hub (die - 4) with alive := BitVec.ofNat 7 (put (s.hub (die - 4)).alive.toNat v) }

/-- The record of a reset crossing (R390); UNIT names a hub die as CD_D2Dk.PEER does. -/
def State.reportBridge (s : State) (die c : Nat) : State :=
  s.report { code := eBridgeReset, cls := clsNotice, unit := if die < 4 then die else 0x80 + (die - 4), a := c }

/-- CDC_RESET (R390): the far block is held in reset, so its clock stops; words not yet taken are discarded, at a chiplet site
the requests that wait (R387). -/
def execCdcReset (die crossing : Nat) (s : State) : Answer :=
  if !s.crossingFitted die crossing then .fault (.absent "crossing" (die * 16 + crossing))
  else if s.boot.supply ≠ .running then s.noEvent "R388: the module is not running"
  else
    let s := if die < 4 ∨ crossing ≠ 2 then s else s.flushSite (die - 4)
    .next ((s.setAlive die crossing false).reportBridge die crossing)

/-- CDC_ALIVE_TIMEOUT (R391): a firmware access has waited 50 µs with ALIVE = 0. -/
def execCdcAliveTimeout (die crossing : Nat) (s : State) : Answer :=
  if !s.crossingFitted die crossing then .fault (.absent "crossing" (die * 16 + crossing))
  else if s.boot.supply ≠ .running ∨ s.alive die crossing then s.noEvent "R391: the crossing is alive"
  else
    let s := if die < 4 then s.setDie die { s.die die with brrst := satAdd 16 (s.die die).brrst 1 }
      else s.setHub (die - 4) { s.hub (die - 4) with brrst := satAdd 16 (s.hub (die - 4)).brrst 1 }
    .next (s.reportBridge die crossing)

/-- CDC_CLOCK_RETURN (R391). -/
def execCdcClockReturn (die crossing : Nat) (s : State) : Answer :=
  if !s.crossingFitted die crossing then .fault (.absent "crossing" (die * 16 + crossing))
  else if s.boot.supply ≠ .running ∨ s.alive die crossing then s.noEvent "R391: the crossing is alive"
  else .next (s.setAlive die crossing true)

end Sys2Proof.Machine
end

