-- ==== Sys2Proof/Machine/Boot.lean ====
section
/-! DEFINITION. Supply states and resets, the power-up sequence, control-core restarts, recovery by PLDM, and live insertion and
removal (R408 to R421, R430 to R433). -/
namespace Sys2Proof.Machine

/-! ### Supply states and resets (R408, R409, R411) -/

/-- Start the power-up sequence where PWR_EN is high with input of at least 46.0 V and no trip is latched (R408, R410): the boot
ROM verifies the factory slot and derives the identity (R418, R419). A factory slot that does not verify ends the sequence. -/
def State.startSequence (s : State) : State :=
  let b := s.boot
  if b.supply ≠ .unpowered ∧ b.pwrEn ∧ !b.riseIgnored ∧ !b.trip.valid ∧ 4600 ≤ s.power.vin then
    let ok := Config.factoryValid && idHash == Config.recordedIdHash
    { s with
      boot := { b with supply := .running, stage := if Config.factoryValid then .bootrom else .failed
                       err := if Config.factoryValid then 0 else 2, attn := b.attn || !Config.factoryValid }
      sec := { s.sec with idok := ok, idfail := !ok } }
  else s

/-- A module reset (R409): every supply except standby goes off, and R410 runs again if PWR_EN is high. -/
def State.moduleReset (s : State) (cause : Nat) : State := (s.powerLost cause .standby).startSequence

/-- MGCTL_RESET (R409, R434). -/
def execMgctlReset (s : State) : Answer :=
  if s.boot.supply = .unpowered then s.noEvent "R408: unpowered, the module runs nothing"
  else .next (s.moduleReset 2)

/-- MOD_RST_N (R402, R409): `cool` says that every thermal point reads below 95 °C, which clears a latched trip. -/
def execModRstN (cool : Bool) (s : State) : Answer :=
  if s.boot.supply = .unpowered then s.noEvent "R408: unpowered, the module runs nothing"
  else
    let s := if cool then { s with boot := { s.boot with trip := {}, thermtrip := false } } else s
    .next (s.moduleReset 1)

/-- PRSNT_N_LOW (R430): the module is mated. -/
def execPrsntNLow (s : State) : Answer :=
  if s.boot.present then s.noEvent "R430: the module is mated already"
  else .next { s with boot := { s.boot with present := true } }

/-- INPUT_APPLIED (R374, R408, R411, R430): input within the range brings standby; input that rises to 46.0 V with PWR_EN high
starts the module. -/
def execInputApplied (vin : Nat) (s : State) : Answer :=
  if vin < 4400 ∨ 5600 < vin then s.noEvent "R374: the input is not within range"
  else
    let rose := decide (s.power.vin < 4600)
    let s1 := { s with power := { s.power with vin := vin } }
    match s.boot.supply with
    | .unpowered => .next ({ s1 with boot := { s1.boot with supply := .standby, stage := .standby, cause := 0 } }.startSequence)
    | .standby => .next (if rose then s1.startSequence else s1)
    | .running => s.noEvent "R430: input is present already"

/-- PWR_EN_RISE (R410, R411): a rise less than 100 ms after PGOOD fell is ignored. -/
def execPwrEnRise (tooEarly : Bool) (s : State) : Answer :=
  if s.boot.pwrEn then s.noEvent "R410: PWR_EN is high already"
  else .next ({ s with boot := { s.boot with pwrEn := true, riseIgnored := tooEarly } }.startSequence)

/-- PWR_EN_FALL (R409, R431, R433): while the module runs, a loss of power. -/
def execPwrEnFall (s : State) : Answer :=
  if !s.boot.pwrEn then s.noEvent "R409: PWR_EN is low already"
  else
    let s := { s with boot := { s.boot with pwrEn := false, riseIgnored := false } }
    .next (if s.boot.supply = .running then s.powerLost 6 .standby else s)

/-! ### Firmware (R287, R410, R414 to R417) -/

/-- Put a firmware copy in use: the fields the module reports of it (R414, R423). -/
def State.runFirmware (s : State) (c : Nat × List Byte) : State :=
  { s with
    boot := { s.boot with fwCopyB := c.1 == 2 }
    nv := { s.nv with fwActiveB := c.1 == 2, found := true }
    sec := { s.sec with fwSvn := fwSvnOf c.2, fwDigest := sha384 (signedContent c.2), fwKey := fwKeyOf c.2 } }

/-- Treat the settings copies that fail their signature as invalid, and report each (R287). -/
def State.reportSettings (s : State) : State :=
  s.badSettings.foldl (fun (s : State) k => s.nvError k (slotOffset k)) { s with nv := { s.nv with rejected := s.badSettings } }

/-- Apply records to the fields that settings supply (R286), and to nothing else. -/
def State.settle (s : State) (rs : List SetRec) : State :=
  let t := s.applyRecords rs
  { s with
    hubs := t.hubs, ports := t.ports, power := t.power
    sec := { s.sec with fwFloor := t.sec.fwFloor, okeyEn := t.sec.okeyEn, okeys := t.sec.okeys } }

/-- Apply the factory records, then those of the settings copy in use if there is one (R287, R420). -/
def State.applySettings (s : State) : State :=
  let s := s.reportSettings.settle (setRecs Config.factorySettings)
  match s.pickSettings with
  | none => s
  | some (k, c) =>
    let s := s.settle (setRecs c)
    { s with
      sec := { s.sec with owned := true, settingsDigest := sha384 (signedContent c) }
      nv := { s.nv with setActiveB := k == 4 } }

/-- End the power-up sequence in RECOVERY or FAILED (R411): the core supplies stay off, PGOOD low and ATTN_N asserted. -/
def State.endSequence (s : State) (stage : Stage) (err : Nat) : State :=
  { s with boot := { s.boot with stage := stage, err := err, pgood := false, attn := true } }

/-- Supplies come on: core supplies at their floor, PGOOD, and every link and port free to train (R285, R346, R376, R410). -/
def State.suppliesOn (s : State) : State :=
  let s := { s with boot := { s.boot with stage := .firmware, pgood := true } }
  let s := s.dieIds.foldl (fun (s : State) d => s.setDiePower d { s.diePower d with vset := s.floor d }) s
  let s := ((List.range 8).filter s.linkFitted).foldl (fun (s : State) l => s.setLink l { s.link l with state := .training }) s
  let s := (List.range s.code.hubs).foldl (fun (s : State) h =>
    let chip := if h = 0 then s.asm.chiplet0 else s.asm.chiplet1
    let s := s.setLwl h { s.lwl h with state := .training }
    s.setHub h { s.hub h with chip := if chip then .down else .absent }) s
  ((List.range 32).filter fun p => s.isPort p && (s.port p).enable).foldl (fun (s : State) p =>
    s.setPort p { s.port p with state := .training }) s

/-- FIRMWARE_START (R414 to R419): settings and firmware are chosen, and firmware starts. -/
def execFirmwareStart (s : State) : Answer :=
  if s.boot.stage ≠ .bootrom then s.noEvent "R410: the boot ROM is not running"
  else match s.pickFirmware with
    | none => .next (s.endSequence .recovery 1)
    | some f =>
      let s := (s.runFirmware f).applySettings
      .next (if s.sec.idfail then s.endSequence .failed 2 else s.suppliesOn)

/-! ### Self-test (R116, R306 to R309, R376, R379, R410) -/

/-- The highest generation that both ends of a link support (R376, R380). -/
def State.linkGen (s : State) (l : Nat) : Nat :=
  let hub := (s.linkDies l).2 - 0x80
  if 4 ≤ l ∧ (if hub = 0 then s.asm.oldHub0 else s.asm.oldHub1) then 1 else 2

/-- Whether what the self-test found is about units that the module has, each link at most once, with generations as R376
says. -/
def State.foundOk (s : State) (f : SelfTest) : Bool :=
  (f.links.all fun x => s.linkFitted x.1 && decide (x.2.1 ≤ linkMods x.1) && x.2.2 == s.linkGen x.1) &&
    decide ((f.links.map Prod.fst).Nodup) && f.badTiles.all s.tileFitted && f.badStacks.all s.stackFitted &&
    f.badPages.all fun p => s.stackFitted p.1 && decide (p.2 < 32768)

/-- The retirement list read back (R308): SUSPECT and RETIRED pages, the latter withdrawn. -/
def State.readRetList (s : State) : State :=
  match s.nv.entry retId with
  | none => s
  | some e => (retParse e.content).foldl (fun (s : State) r =>
      s.setPage r.1 { health := r.2.1, ues := r.2.2, withdrawn := r.2.1 == .retired }) s

/-- A page that the self-test cannot read back is retired; the list's RETIRED pages are not tested (R309). -/
def State.failPage (s : State) (p : Nat) : State :=
  if (s.page p).health = .retired then s else ((s.logMismatch p).retirePage p).writeRetList

/-- The self-test leaves every page of every stack zeroed (R309). -/
def State.zeroStacks (s : State) : State := s.zero 0 0xC000000000

/-- Train a link at power-up on the modules found (R376): none is a failed link (R379). -/
def State.trainLink (s : State) (f : SelfTest) (l : Nat) : State :=
  match (f.links.find? fun x => x.1 == l).map fun x => x.2.1 with
  | some (n + 1) =>
    let s := s.setLink l { s.link l with state := .up, mods := n + 1, gen := s.linkGen l }
    if n + 1 < linkMods l then s.report { code := eNarrowed, cls := clsNotice, unit := s.pairUnit l, a := n + 1 } else s
  | _ =>
    (s.setLink l { s.link l with state := .failed, mods := 0, gen := 0 }).report
      { code := eD2dFailed, cls := clsModule, unit := s.pairUnit l }

/-- Every fitted crossing whose far clock runs has ALIVE set (R391); a chiplet site without a chiplet has no clock. -/
def State.wakeCrossings (s : State) : State :=
  ((List.range 6).flatMap fun d => (List.range 7).map fun c => (d, c)).foldl (fun (s : State) x =>
    if s.crossingFitted x.1 x.2 && !(decide (4 ≤ x.1 ∧ x.2 = 2) && (s.hub (x.1 - 4)).chip == .absent) then s.setAlive x.1 x.2 true
    else s) s

/-- SELFTEST_COMPLETE (R410): die-to-die links, HBM and tiles are tested; the module becomes READY and the autoload begins. -/
def execSelftestComplete (found : SelfTest) (s : State) : Answer :=
  if s.boot.stage ≠ .firmware ∧ s.boot.stage ≠ .selftest then s.noEvent "R410: no self-test runs"
  else if !s.foundOk found then s.noEvent "R376: the self-test finds each fitted unit once, as it is built"
  else
    let s := ((List.range 8).filter s.linkFitted).foldl (fun (s : State) l => s.trainLink found l) s
    if (List.range 8).any fun l => (s.link l).state == .failed then
      .next { (s.endSequence .failed 3) with boot := { (s.endSequence .failed 3).boot with dead := true } }
    else
      let s := s.zeroStacks.readRetList
      let s := found.badStacks.foldl State.failStack s
      let s := (found.badPages.map fun p => p.1 * 32768 + p.2).foldl State.failPage s
      let s := found.badTiles.foldl State.retireTile s
      let s := s.wakeCrossings.takeFirmwarePages
      let s := { s with boot := { s.boot with stage := .ready } }.emit .smbAlert
      .next (State.autoload ((s.pickSettings.map fun c => setAuto c.2).getD []) s)

/-! ### Control-core restarts (R409, R412) -/

/-- Whether firmware runs on the control cores. -/
def State.firmwareRuns (s : State) : Bool := !s.sec.fwKey.isEmpty && s.boot.stage != .recovery

/-- WATCHDOG_EXPIRY (R409): firmware has not serviced the watchdog for 100 ms. -/
def execWatchdogExpiry (s : State) : Answer :=
  if !s.firmwareRuns then s.noEvent "R409: no firmware runs"
  else .next (s.askRestart 7)

/-- A fall of the debug level (R456): every halt is released and VALID clears in every breakpoint and watchpoint. -/
def State.releaseHalts (s : State) : State :=
  let free (q : Sequencer) : Sequencer := { q with halted := false, reason := 0, passBp := false }
  let off (m : Table W64) : Table W64 := m.foldl (fun (n : Table W64) e => tset 0 n e.1 (e.2 &&& 0x7FFFFFFFFFFFFFFF#64)) m
  let s := s.onTiles fun _ t => { t with seqs := t.seqs.foldl (fun (m : Table Sequencer) e => tset {} m e.1 (free e.2)) t.seqs }
  { s with dbg := { s.dbg with bps := off s.dbg.bps, wpBase := off s.dbg.wpBase, haltAsked := [], muleHalt := [] } }

/-- The debug level returns to 0 (R427). -/
def State.dropDebug (s : State) : State :=
  let s := s.releaseHalts
  { s with sec := { s.sec with ownerLevel := 0, ownerMask := 0, vendor := false } }

/-- One function in a control-core restart: a running job is interrupted and waits, halted, for its recovery (R203); queue
commands in flight complete with CANCELLED. -/
def State.interruptFunc (s : State) (fn : Nat) : State :=
  let f := s.func fn
  let ships := f.snap.toList.flatMap fun h => h.cmd.toList
  let s := if f.run then (s.endJob fn stCancelled).onFunc fn fun g => { g with interrupted := true, halted := true }
    else s
  let g := s.func fn
  let cmds := (g.stop.toList ++ g.stopMore).filterMap fun r => r.cmd
  let s := s.setFunc fn { g with
    stop := none, stopMore := [], resumeCmd := none, snap := none, pending := none, pendingCmds := [], enablingCmds := [] }
  let s := s.completeAll cmds stCancelled (leBytes 4 f.step.toNat)
  let s := s.completeAll (g.resumeCmd.toList ++ ships) stCancelled []
  s.completeAll (g.enablingCmds ++ g.pendingCmds) stCancelled (stateResult 0 g.state)

/-- Every queue command in flight completes with CANCELLED (R412). -/
def State.cancelQueues (s : State) : State :=
  let s := (tkeys s.queues).foldl (fun (s : State) q =>
    let x := s.queue q
    let s := s.setQueue q { x with destroying := none, disarming := false }
    s.completeAll (x.running.toList ++ x.destroying.toList) stCancelled []) s
  match s.imgWait with
  | none => s
  | some w => { s with imgWait := none, imgStat := {} }.answer w.cmd stCancelled []

/-- Firmware pages that are RETIRED are withdrawn and replaced (R297, R307). -/
def State.renewFirmwarePages (s : State) : State :=
  (s.firmwarePages.foldl (fun (s : State) p =>
    if (s.page p).health = .retired then s.setPage p { s.page p with use := .free, withdrawn := true } else s) s).takeFirmwarePages

/-- The firmware copy that the control cores reload (R412 to R414), under the floor in force. -/
def State.reloadFirmware (s : State) : Option (Nat × List Byte) :=
  (s.nv.pairOrder 1).find? fun c => fwAcceptable s.sec.fwFloor c.2

/-- CONTROL_RESTART (R412): a restart that is due takes place. With no acceptable firmware left, RECOVERY is entered (R417). -/
def execControlRestart (s : State) : Answer :=
  match s.boot.restart with
  | none => s.noEvent "R409: no control-core restart is due"
  | some cause =>
    match s.reloadFirmware with
    | none => .next ((s.moduleReset cause).endSequence .recovery 1)
    | some f =>
      let s := { s with boot := { s.boot with restart := none, cause := cause, ccRestarts := satAdd 16 s.boot.ccRestarts 1 } }
      let s := (funcIds.foldl State.interruptFunc s).cancelQueues.dropDebug
      let s := (s.runFirmware f).renewFirmwarePages
      .next (s.report { code := eControlRestart, cls := clsFirmware, a := cause })

/-! ### RECOVERY (R417) -/

/-- PLDM_FIRMWARE_UPDATE (R417): an acceptable component is written to firmware A, and the module resets. A write cut short by a
loss of power or a reset is not answered (R291). -/
def execPldmFirmwareUpdate (image : List Byte) (nv : NvEnd) (s : State) : Answer :=
  if s.boot.stage ≠ .recovery then s.noEvent "R428: PLDM is carried in RECOVERY only"
  else
    let n := s.nv.pairSeq 1
    if !fwAcceptable (s.floorOf s.pickSettings) image ∨ 32764 * 1024 < image.length ∨ n = 0xFFFFFFFF then
      .next (s.emit (.pldm false))
    else
      let s := { s with nv := s.nv.writeCopy 1 n image nv }
      .next (match nv with
        | .done => (s.emit (.pldm true)).moduleReset 2
        | .fails => s.emit (.pldm false)
        | .cut => s)

/-! ### Removal (R431 to R433) -/

/-- REMREQ (R431, R432): refused while any function is not OFF. -/
def execRemreq (s : State) : Answer :=
  if s.boot.supply = .unpowered then s.noEvent "R408: unpowered, the module runs nothing"
  else if s.boot.remreq then .next s
  else if funcIds.any fun n => (s.func n).state != .off then .next { s with boot := { s.boot with err := 0x10 } }
  else .next { s with boot := { s.boot with
    remreq := true, prior := s.boot.stage, err := if s.boot.err = 0x10 then 0 else s.boot.err } }

/-- Take every Larwa link, bus port and Ethernet port down. -/
def State.linksDown (s : State) : State :=
  let s := (List.range s.code.hubs).foldl (fun (s : State) h =>
    let s := s.setLwl h { s.lwl h with state := .down, width := 0 }
    s.setHub h { s.hub h with bus := { (s.hub h).bus with gen := 0, width := 0 } }) s
  ((List.range 32).filter s.isPort).foldl (fun (s : State) p => s.portDown p .down) s

/-- REMOVAL_PREPARED (R431): any NV write has ended; the module takes its links down and enters PREPARED. -/
def execRemovalPrepared (s : State) : Answer :=
  if !s.boot.remreq ∨ s.boot.stage = .prepared then s.noEvent "R431: no removal is pending"
  else
    let s := if s.boot.supply = .running then s.linksDown else s
    .next { s with boot := { s.boot with stage := .prepared, attn := true } }

/-- Let the links train again after PREPARED. -/
def State.linksUp (s : State) : State :=
  let s := (List.range s.code.hubs).foldl (fun (s : State) h => s.setLwl h { s.lwl h with state := .training }) s
  ((List.range 32).filter fun p => s.isPort p && (s.port p).enable).foldl (fun (s : State) p =>
    s.setPort p { s.port p with state := .training }) s

/-- REMCANCEL (R432): the module leaves PREPARED, retrains its links and returns to READY, or to the earlier stage in which
REMREQ found it. -/
def execRemcancel (s : State) : Answer :=
  if s.boot.stage ≠ .prepared then .next s
  else
    let fault := decide (s.boot.prior = .recovery ∨ s.boot.prior = .failed)
    let s := if s.boot.pgood then s.linksUp else s
    .next { s with boot := { s.boot with stage := s.boot.prior, remreq := false, attn := fault, prior := .ready } }

end Sys2Proof.Machine
end

