-- ==== Sys2Proof/Machine/Debug.lean ====
section
/-! DEFINITION. The debug port but for its accesses to addresses (R425 to R427, R447, R448, R451 to R455, R457): levels and
tokens, the TAP's instructions, halts and steps, and the element window DBG_TWDATA. -/
namespace Sys2Proof.Machine

/-! ### Levels (R425, R427) -/

/-- The debug level in force. -/
def Security.level (x : Security) : Nat := if x.vendor then 3 else x.ownerLevel

/-- The functions that the level in force grants, as SEC_DBGSTAT.FUNCMASK reads. -/
def Security.mask (x : Security) : BitVec 16 := if x.vendor then 0xFFFF else x.ownerMask

/-- SEC_DBGSTAT (R434). -/
def Security.stat (x : Security) : Nat :=
  fieldAt 16 x.mask.toNat + fieldAt 8 x.fails + fieldAt 2 (b2n x.vendor) + x.level

/-- The nonce that SEC_DBGNONCE shows: a free value of the random source (R427). -/
def Security.nonce (x : Security) : Nat := (Config.nonce x.draws).toNat

/-- Whether a function is granted at a level or above. -/
def Security.grants (x : Security) (level fn : Nat) : Bool := decide (level ≤ x.level) && x.mask.getLsbD fn

/-- Whether the debug port is powered (R408). -/
def State.tapOn (s : State) : Bool := s.boot.supply == .running

/-! ### Tokens (R426, R427) -/

/-- Whether a token has the layout of R426 and names this module and its present nonce. -/
def State.tokenFits (s : State) (b : List Byte) : Bool :=
  leAt b 0 4 == 0x41474244 && decide (leAt b 4 1 ≤ 3) && leAt b 5 1 == 0 && leNat (slice b 40 88) == 0 &&
    s.sec.idok && slice b 8 16 == idHash.take 16 && leAt b 24 16 == s.sec.nonce

/-- Whether a token verifies under one of `keys`. -/
def tokenSigned (keys : List (List Byte)) (b : List Byte) : Bool := signedBy keys (b.take 128) (b.drop 128)

/-- The grants after an accepted token, or none where it is not accepted. -/
def State.tokenGrants (s : State) (b : List Byte) : Option Security :=
  let x := s.sec
  let level := leAt b 4 1
  let mask : BitVec 16 := BitVec.ofNat 16 (leAt b 6 2)
  if !s.tokenFits b then none
  else if level ≤ 2 ∧ tokenSigned s.ownerKeys b then
    some { x with ownerLevel := level, ownerMask := if level = 0 then 0 else mask, vendor := false }
  else if (level = 0 ∨ level = 3) ∧ mask = 0xFFFF ∧ !x.fwKey.isEmpty ∧ tokenSigned [x.fwKey] b then
    if level = 0 then some { x with vendor := false }
    else if x.ownerLevel = 2 ∧ x.ownerMask = 0xFFFF then some { x with vendor := true }
    else none
  else none

/-- DBG_AUTH (R426, R427): a token is offered; accepted or not, a new nonce is drawn. -/
def execDbgAuth (token : List Byte) (s : State) : Answer :=
  if !s.tapOn then s.noEvent "R408: the debug port is not powered"
  else if token.length ≠ 256 then s.noEvent "R426: a token is 256 bytes"
  else
    let s := { s with dbg := { s.dbg with tap := .dbgAuth } }
    match s.tokenGrants token with
    | some x =>
      let fell := decide (x.level < s.sec.level)
      let s := { s with sec := { x with draws := x.draws + 1 } }
      .next (if fell then s.releaseHalts else s)
    | none =>
      let s := { s with sec := { s.sec with draws := s.sec.draws + 1, fails := satAdd 8 s.sec.fails 1 } }
      .next (s.report { code := eDebugAuth, cls := clsNotice, a := leAt token 4 1 })

/-! ### The TAP (R447, R448) -/

/-- Select an instruction and capture its data register. -/
def State.scan (s : State) (i : TapInstr) (v : Nat) : Answer :=
  if !s.tapOn then s.noEvent "R408: the debug port is not powered"
  else .next ({ s with dbg := { s.dbg with tap := i } }.emit (.scan i v))

/-- IDCODE's value (R447). -/
def idcodeValue : Nat := fieldAt 28 Config.hubRevision.toNat + fieldAt 12 0x5309 + fieldAt 1 Config.manufacturer.toNat + 1

/-- Boundary scan: what it captures is a free value. -/
def State.boundary (s : State) (i : TapInstr) : Answer :=
  { s with draws := s.draws + 1 }.scan i (Config.boundaryScan s.draws)

/-- TAP_RESET (R447). -/
def execTapReset (s : State) : Answer :=
  if !s.tapOn then s.noEvent "R408: the debug port is not powered"
  else .next { s with dbg := { s.dbg with tap := .idcode } }

/-- EXTEST (R448): below level 3 it acts as BYPASS. -/
def execExtest (s : State) : Answer := if s.sec.level = 3 then s.boundary .extest else s.scan .bypass 0
/-- SAMPLE/PRELOAD (R448). -/
def execSamplePreload (s : State) : Answer := s.boundary .samplePreload
/-- IDCODE (R447, R448). -/
def execIdcode (s : State) : Answer := s.scan .idcode idcodeValue
/-- BYPASS (R448). -/
def execBypass (s : State) : Answer := s.scan .bypass 0
/-- DBG_NONCE (R448). -/
def execDbgNonce (s : State) : Answer := s.scan .dbgNonce s.sec.nonce
/-- DBG_STAT (R448). -/
def execDbgStat (s : State) : Answer := s.scan .dbgStat s.sec.stat

/-! ### Halts (R451) -/

/-- The tiles that DBG_TARGET names. -/
def State.dbgTiles (s : State) : List Nat :=
  let fn := s.dbg.func.toNat
  if s.dbg.all then (tkeys s.tiles).filter fun t => ((s.tile t).entryOf fn).isSome
  else if ((s.tile s.dbg.tile.toNat).entryOf fn).isSome then [s.dbg.tile.toNat] else []

/-- The sequencer of DBG_TARGET's function on a tile. -/
def State.dbgSeq (s : State) (t : Nat) : Sequencer :=
  match (s.tile t).entryOf s.dbg.func.toNat with
  | some e => tget {} (s.tile t).seqs e
  | none => {}

/-- Change the sequencer of a function on a tile. -/
def State.onSeq (s : State) (fn t : Nat) (f : Sequencer → Sequencer) : State :=
  match (s.tile t).entryOf fn with
  | some e => s.onTile t fun x => { x with seqs := tset {} x.seqs e (f (tget {} x.seqs e)) }
  | none => s

/-- HALT: nothing more issues for the function on the target tiles, and with ALL its mules start no new list. -/
def State.halt (s : State) : State :=
  let h : Nat × Option Nat := (s.dbg.func.toNat, if s.dbg.all then none else some s.dbg.tile.toNat)
  if s.dbg.haltAsked.contains h ∨ s.dbgTiles.isEmpty then s
  else { s with dbg := { s.dbg with haltAsked := s.dbg.haltAsked ++ [h] } }

/-- What was issued has completed: HALTED sets. -/
def State.haltDone (s : State) (h : Nat × Option Nat) : State :=
  match h.2 with
  | none => s.haltAll h.1 1
  | some t => s.onSeq h.1 t fun q => { q with halted := true, reason := if q.halted then q.reason else 1 }

/-- RESUME: releases the halt; an instruction that a breakpoint holds issues without triggering it again. -/
def State.unhalt (s : State) : State :=
  let fn := s.dbg.func.toNat
  let s := s.dbgTiles.foldl (fun (s : State) t => s.onSeq fn t fun q =>
    { q with halted := false, reason := 0, passBp := q.passBp || (q.halted && q.reason == 2) }) s
  let asked := s.dbg.haltAsked.filter fun h => h.1 != fn || (!s.dbg.all && h.2 != some s.dbg.tile.toNat)
  { s with dbg := { s.dbg with
      haltAsked := asked
      muleHalt := if s.dbg.all then s.dbg.muleHalt.filter fun n => n != fn else s.dbg.muleHalt } }

/-- Whether an instruction is of the engine that a STEP_BEAT names: matrix opcodes lie below 0x60 (R98, R125). -/
def engineOf (ws : List W32) (g : Engine) : Bool :=
  match g with
  | .matrix => decide (opcodeOf ws < 0x60)
  | .vector => decide (0x60 ≤ opcodeOf ws)

/-- The beats of an instruction on a tile as it stands (R97, R106, R123, R127). -/
def State.instrBeats (s : State) (fn t e : Nat) (ws : List W32) : Nat :=
  let x := s.tile t
  let chains : Table Chain := x.chains.filterMap fun c => if c.1 / 4 = e then some (c.1 % 4, c.2) else none
  let p : ProgSim := { banks := x.banks, chains := chains }
  let part := tget {} x.part e
  let f := if opcodeOf ws < 0x60 then checkMatrix (s.image fn) (part.sramCount.toNat * 65536) part.accMask.toNat [] ws p
    else checkVector part.accMask.toNat ws p
  if opcodeOf ws = 0x98 then
    let o := vopOf ws
    let first := leNat (s.read (part.sram t (bits o.w6.toNat 20 0)) 4)
    let r := parseRecord (s.read (part.sram t first) 16)
    max 1 (vecBeats 0x98 o 0 (r.rows * r.cols))
  else max 1 f.beats

/-- After a step the tile halts again, with REASON 4 unless a watchpoint has halted it (R453). -/
def State.stepDone (s : State) (fn t : Nat) : State :=
  s.onSeq fn t fun q => { q with halted := true, passBp := false, reason := if q.halted then q.reason else 4 }

/-- Step one halted tile: a whole instruction, or one beat of the named engine's. An instruction has its effects at its last
beat. -/
def State.stepTile (s : State) (beat : Option Engine) (t : Nat) : Answer :=
  let fn := s.dbg.func.toNat
  match (s.tile t).entryOf fn with
  | none => .next s
  | some e =>
    let q := tget {} (s.tile t).seqs e
    let bs := s.read ((tget {} (s.tile t).part e).sram t q.iaddr.toNat) 32
    let ws := tileWords bs
    let run : Answer :=
      match (s.onSeq fn t fun q => { q with halted := false, passBp := true }).runTile { tile := t, entry := e } bs with
      | .next s1 => .next (s1.stepDone fn t)
      | a => a
    if !q.halted || !q.active || q.left == 0 then .next s
    else match beat with
      | none => run
      | some g =>
        if !engineOf ws g then .next s
        else if s.instrBeats fn t e ws ≤ q.beats + 1 then run
        else .next (s.onSeq fn t fun q => { q with beats := q.beats + 1, reason := 4 })

/-- Step every target tile in rising order. -/
def State.stepTiles (s : State) (beat : Option Engine) : Answer :=
  s.dbgTiles.foldl (fun (a : Answer) t =>
    match a with
    | .next s => s.stepTile beat t
    | a => a) (.next s)

/-- Run a debug command that needs level 2 and the target function's grant; else it is denied (R425, R450). -/
def State.atControl (s : State) (f : State → Answer) : Answer :=
  if !s.tapOn then s.noEvent "R408: the debug port is not powered"
  else if s.sec.grants 2 s.dbg.func.toNat then f s
  else .next { s with dbg := { s.dbg with tap := .dbgAcc, accStatus := 3 } }

/-- An accepted write of DBG_CMD through DBG_ACC. -/
def State.accDone (s : State) : State := { s with dbg := { s.dbg with tap := .dbgAcc, accStatus := 0 } }

/-- DBG_HALT (R451). -/
def execDbgHalt (s : State) : Answer := s.atControl fun s => .next s.accDone.halt

/-- HALT_COMPLETE (R451). -/
def execHaltComplete (s : State) : Answer :=
  if s.dbg.haltAsked.isEmpty then s.noEvent "R451: no halt is under way"
  else
    let hs := s.dbg.haltAsked
    let s := { s with dbg := { s.dbg with haltAsked := [] } }
    .next (hs.foldl State.haltDone s)

/-- DBG_RESUME (R451). -/
def execDbgResume (s : State) : Answer := s.atControl fun s => .next s.accDone.unhalt

/-- STEP_INSTR (R451). -/
def execStepInstr (s : State) : Answer := s.atControl fun s => s.accDone.stepTiles none

/-- STEP_BEAT (R451). -/
def execStepBeat (engine : Engine) (s : State) : Answer := s.atControl fun s => s.accDone.stepTiles (some engine)

/-! ### DBG_HSTAT and DBG_WPACC (R454, R457) -/

/-- The tile whose halt DBG_HSTAT shows: the target tile, or with ALL the lowest-numbered that is halted. -/
def State.dbgShown (s : State) : Option Nat :=
  (s.dbgTiles.find? fun t => (s.dbgSeq t).halted) <|> s.dbgTiles.head?

/-- DBG_HSTAT. -/
def State.hstat (s : State) : Nat :=
  let q := (s.dbgShown.map s.dbgSeq).getD {}
  let done := !s.dbgTiles.isEmpty && s.dbgTiles.all fun t => (s.dbgSeq t).halted
  fieldAt 32 q.iaddr.toNat + fieldAt 16 s.dbg.bphit.toNat + fieldAt 8 s.dbg.wphit.toNat + fieldAt 1 q.reason.toNat + b2n done

/-- DBG_WPACC. -/
def Debug.wpacc (d : Debug) : Nat :=
  fieldAt 63 (b2n d.wpWrite) + fieldAt 60 d.wpKind + fieldAt 48 d.wpUnit + d.wpAddr.toNat

/-! ### The element window (R457) -/

/-- What an access through DBG_ACC comes to (R449): STATUS and the data of a read. -/
structure Access where
  state : State
  status : Nat
  data : Nat := 0

/-- The first debug write to a function's share after each enable is reported (R450). -/
def State.noteWrite (s : State) (fn unit a : Nat) : State :=
  if (s.func fn).debugWritten then s
  else (s.onFunc fn fun f => { f with debugWritten := true }).report
    { code := eDebugWrite, cls := clsNotice, func := some fn, unit := unit, a := a }

/-- The device physical address of DBG_TWDATA. -/
def twAddr : Nat := regBase + 0x40001C

/-- Read or write the element that DBG_TWSEL selects on the halted target tile, and advance ELEM. -/
def State.twAccess (s : State) (write : Option W32) : Access :=
  let d := s.dbg
  let t := d.tile.toNat
  let fn := d.func.toNat
  let k := d.twElem.toNat
  let next := { s with dbg := { d with twElem := d.twElem + 1 } }
  match (s.tile t).entryOf fn with
  | none => { state := s, status := 3 }
  | some e =>
    let x := s.tile t
    let p := tget {} x.part e
    let q := tget {} x.seqs e
    if !q.halted then { state := s, status := 6 }
    else if d.twSpace = 3 ∨ (d.twSpace = 0 ∧ 2048 ≤ k) then { state := s, status := 4 }
    else if d.twSpace = 0 then
      let n := d.twPlate.toNat
      let i := n * 2048 + k
      if n < p.plateBase.toNat * 4 ∨ (p.plateBase.toNat + p.plateCount.toNat) * 4 ≤ n then { state := s, status := 3 }
      else if x.platePoison.contains (i / 2) then
        { state := next.onTile t fun y => { y with eccUE := satAdd 15 y.eccUE 1 }, status := 5 }
      else match write with
        | none => { state := next, status := 0, data := (tget 0 x.plates i).toNat }
        | some v => { state := (next.setTile t { x with plates := tset 0 x.plates i v }).noteWrite fn t twAddr, status := 0 }
    else
      let bn := d.twBank.toNat
      let b := tget {} x.banks bn
      if !p.bankOk bn then { state := s, status := 3 }
      else
        let put (b : Bank) : State := (next.setTile t { x with banks := tset {} x.banks bn b }).noteWrite fn t twAddr
        if d.twSpace = 1 then match write with
          | none => { state := next, status := 0, data := (tget 0 b.vals k).toNat }
          | some v => { state := put { b with vals := tset 0 b.vals k v }, status := 0 }
        else match write with
          | none => { state := next, status := 0, data := b2n (tget false b.xbits k) }
          | some v => { state := put { b with xbits := tset false b.xbits k (v.getLsbD 0) }, status := 0 }

/-- Keep an access's STATUS and DATA for the next capture (R449); what DATA holds after an access that was not made, or after a
write, is a free value. -/
def Access.keep (a : Access) (read : Bool) : State :=
  let s := a.state
  if a.status = 0 ∧ read then { s with dbg := { s.dbg with tap := .dbgAcc, accStatus := 0, accData := BitVec.ofNat 64 a.data } }
  else if a.status = 4 ∨ a.status = 5 then { s with dbg := { s.dbg with tap := .dbgAcc, accStatus := a.status, accData := 0 } }
  else { s with
    draws := s.draws + 1
    dbg := { s.dbg with tap := .dbgAcc, accStatus := a.status, accData := Config.debugData s.draws } }

/-- DBG_TWDATA_ACCESS (R450, R457): a read needs level 1 and a write level 2, for the target's function. -/
def execDbgTwdataAccess (write : Bool) (value : W32) (s : State) : Answer :=
  if !s.tapOn then s.noEvent "R408: the debug port is not powered"
  else if !s.sec.grants (if write then 2 else 1) s.dbg.func.toNat then
    .next (Access.keep { state := s, status := 3 } true)
  else .next ((s.twAccess (if write then some value else none)).keep (!write))

end Sys2Proof.Machine
end

