-- ==== Sys2Proof/Machine/Registers.lean ====
section
/-! DEFINITION. The register map (R6, R32, R39, R70, R119, R145, R173, R213, R238, R268, R293, R294, R317, R343, R369, R392, R406,
R434, R457): which register an address names, what each reads, and what a write of each does. -/
namespace Sys2Proof.Machine

/-- The registers. `h` is a hub die, `d` a compute die, `p` a port or an HBM position, `t` a tile, `n` a function or entry. -/
inductive Reg where
  | moduleCode | imgStat | hbmCap | scrub (n : Nat) | busStat (h : Nat) | hubD2d (h k : Nat) | hubCdc (h : Nat)
  | chiplet (h : Nat) | fwLog (h : Nat) | fwWin (h w : Nat) | fwRate (h w : Nat)
  | bootStat | mgCtl | tripLog | rstCause | errRing | errPtr | errCtl | relStat | relTime
  | secStatus | idHash (i : Nat) | fwFloor | okeyCtl | dbgNonce (i : Nat) | secDbgStat | okey (i : Nat)
  | pmgStatus | plimit | tlimit | vcfg | pmgPower | pmgEvents | hbmT | pmgDie (d : Nat) | pmgBeat (d : Nat)
  | slotStat
  | dbgTarget | dbgCmd | hstat | wpAcc | twSel | twData | bp (n : Nat) | wpBase (n : Nat) | wpLen (n : Nat)
  | herdStatus | herdShape | herdTime | herdSlot | herdSched | ctrlMiss | holdStat
  | hStep (n : Nat) | hOutcome (n : Nat) | hLedger (n : Nat) | hLost (n : Nat)
  | jCfg (n : Nat) | jPtr (n : Nat) | hApplied (n : Nat) | jStat (n : Nat)
  | ertCfg (n : Nat) | ertMap (n : Nat) | xPref (n : Nat) | xDem (n : Nat) | xDrop (n : Nat) | ertIdx | ertData (i : Nat)
  | fJob (n : Nat) | fHold (n : Nat) | mEvt (n : Nat)
  | lwlLink (h : Nat) | lwlEpoch | aqRing | aqCpl | aqCtl | qSel | qStat | fStatAll | fStat (n : Nat) | bias (n : Nat)
  | ethEtype (h : Nat) | portCfg (p : Nat) | portStat (p : Nat) | linkCnt (p : Nat) | ptp (p : Nat) | mac (p : Nat)
  | vlan (p f : Nat)
  | hbmStat (d p : Nat) | eccLog (d : Nat) | patrol (d : Nat) | sramStat (d : Nat) | cdD2d (d k : Nat) | cdCdc (d : Nat)
  | part (t n : Nat) | srSeed (t n : Nat) | srStep (t n : Nat) | tileEcc (t : Nat)
  | meStatus (t : Nat) | meCtl (t : Nat) | bankState (t n : Nat) | bankEvt (t n : Nat) | meFault (t : Nat) | meResidue (t : Nat)
  | veStatus (t : Nat) | veCtl (t : Nat) | veEvt (t n : Nat) | veFault (t : Nat) | treeFault (t : Nat) | sc (t n m : Nat)
  | ch (t n c : Nat)
  deriving DecidableEq, Repr, Inhabited

/-- What stands at an offset of register space: a register with its base offset and width in bytes, nothing (R42), or a
reserved place (R38). -/
inductive Slot where
  | reg (r : Reg) (base width : Nat)
  | nothing
  | reserved
  deriving DecidableEq, Repr, Inhabited

/-! ### The map -/

/-- A register of `w` bytes at offset `o`, if `e` lies in it. -/
def slotAt (e o w : Nat) (r : Reg) : Option (Reg × Nat × Nat) := if o ≤ e ∧ e < o + w then some (r, o, w) else none

/-- One of `n` registers of `w` bytes, `stride` apart. -/
def slotOf (e o stride n w : Nat) (f : Nat → Reg) : Option (Reg × Nat × Nat) :=
  let k := (e - o) / stride
  if o ≤ e ∧ k < n ∧ (e - o) % stride < w then some (f k, o + k * stride, w) else none

/-- HUB_ (R6, R293, R317, R343, R392, R434, R457). -/
def hubSlot (h e : Nat) : Option (Reg × Nat × Nat) :=
  let both := slotAt e 0 4 .moduleCode <|> slotAt e 0x300 4 (.busStat h) <|> slotOf e 0x400 8 2 8 (.hubD2d h) <|>
    slotAt e 0x410 4 (.hubCdc h) <|> slotAt e 0x500 8 (.chiplet h) <|> slotAt e 0x508 8 (.fwLog h) <|>
    slotOf e 0x600 16 16 8 (.fwWin h) <|> slotOf e 0x608 16 16 4 (.fwRate h)
  if h ≠ 0 then both
  else both <|> slotAt e 0x100 8 .imgStat <|> slotAt e 0x200 8 .hbmCap <|> slotOf e 0x240 4 16 4 .scrub <|>
    slotAt e 0x800 4 .bootStat <|> slotAt e 0x804 4 .mgCtl <|> slotAt e 0x808 8 .tripLog <|> slotAt e 0x810 4 .rstCause <|>
    slotAt e 0x900 8 .errRing <|> slotAt e 0x908 8 .errPtr <|> slotAt e 0x910 8 .errCtl <|> slotAt e 0x918 8 .relStat <|>
    slotAt e 0x920 4 .relTime

/-- SEC_ of hub die 0 (R434). -/
def secSlot (e : Nat) : Option (Reg × Nat × Nat) :=
  slotAt e 0 4 .secStatus <|> slotOf e 0x10 4 12 4 .idHash <|> slotAt e 0x40 4 .fwFloor <|> slotAt e 0x44 4 .okeyCtl <|>
    slotOf e 0x50 4 4 4 .dbgNonce <|> slotAt e 0x60 4 .secDbgStat <|> slotOf e 0x100 4 96 4 .okey

/-- PMG_ (R406). -/
def pmgSlot (dies e : Nat) : Slot :=
  if 0x40 ≤ e ∧ e < 0x60 ∧ dies ≤ (e - 0x40) / 8 then .reserved
  else if 0x60 ≤ e ∧ e < 0x70 ∧ dies ≤ (e - 0x60) / 4 then .reserved
  else match slotAt e 0 4 .pmgStatus <|> slotAt e 4 4 .plimit <|> slotAt e 8 4 .tlimit <|> slotAt e 12 4 .vcfg <|>
      slotAt e 0x10 8 .pmgPower <|> slotAt e 0x18 8 .pmgEvents <|> slotAt e 0x20 4 .hbmT <|>
      slotOf e 0x40 8 4 8 .pmgDie <|> slotOf e 0x60 4 4 4 .pmgBeat with
    | some (r, b, w) => .reg r b w
    | none => .nothing

/-- DBG_ of hub die 0 (R457). -/
def dbgSlot (e : Nat) : Option (Reg × Nat × Nat) :=
  slotAt e 0 4 .dbgTarget <|> slotAt e 4 4 .dbgCmd <|> slotAt e 8 8 .hstat <|> slotAt e 0x10 8 .wpAcc <|>
    slotAt e 0x18 4 .twSel <|> slotAt e 0x1C 4 .twData <|> slotOf e 0x100 8 16 8 .bp <|> slotOf e 0x200 16 8 8 .wpBase <|>
    slotOf e 0x208 16 8 8 .wpLen

/-- HERD_ of hub die 0 (R173, R213, R238, R268). -/
def herdSlot (e : Nat) : Option (Reg × Nat × Nat) :=
  slotAt e 0 4 .herdStatus <|> slotAt e 4 4 .herdShape <|> slotAt e 8 8 .herdTime <|> slotAt e 0x10 8 .herdSlot <|>
    slotAt e 0x18 4 .herdSched <|> slotAt e 0x1C 4 .ctrlMiss <|> slotAt e 0x20 8 .holdStat <|>
    slotOf e 0x2000 32 16 8 .hStep <|> slotOf e 0x2008 32 16 4 .hOutcome <|> slotOf e 0x2010 32 16 8 .hLedger <|>
    slotOf e 0x2018 32 16 4 .hLost <|>
    slotOf e 0x3000 32 16 8 .jCfg <|> slotOf e 0x3008 32 16 8 .jPtr <|> slotOf e 0x3010 32 16 4 .hApplied <|>
    slotOf e 0x3014 32 16 4 .jStat <|>
    slotOf e 0x4000 64 16 8 .ertCfg <|> slotOf e 0x4008 64 16 4 .ertMap <|> slotOf e 0x4010 64 16 8 .xPref <|>
    slotOf e 0x4018 64 16 8 .xDem <|> slotOf e 0x4020 64 16 8 .xDrop <|> slotAt e 0x4400 4 .ertIdx <|>
    slotOf e 0x4420 4 8 4 .ertData <|>
    slotOf e 0x5000 32 16 8 .fJob <|> slotOf e 0x5008 32 16 8 .fHold <|> slotOf e 0x5010 32 16 8 .mEvt

/-- LWL_ of hub die 0, and of hub die 1 its link alone (R317, R343). -/
def lwlSlot (e : Nat) : Option (Reg × Nat × Nat) :=
  slotAt e 0 4 (.lwlLink 0) <|> slotAt e 4 4 .lwlEpoch <|> slotAt e 0x10 8 .aqRing <|> slotAt e 0x18 8 .aqCpl <|>
    slotAt e 0x20 4 .aqCtl <|> slotAt e 0x28 4 .qSel <|> slotAt e 0x30 8 .qStat <|> slotAt e 0x38 8 .fStatAll <|>
    slotOf e 0x8000 8 16 8 .bias <|> slotOf e 0x10000 0x1000 16 8 .fStat

/-- ETH_ of hub die h: the offsets of lanes that start no port are reserved (R369). -/
def State.ethSlot (s : State) (h e : Nat) : Slot :=
  let of (x : Option (Reg × Nat × Nat)) : Slot := match x with
    | some (r, b, w) => .reg r b w
    | none => .nothing
  if 0x100 ≤ e ∧ e < 0x500 then
    let j := (e - 0x100) / 0x40
    let p := 16 * h + j
    let b := 0x100 + 0x40 * j
    if !s.isPort p then .reserved
    else of (slotAt e b 4 (.portCfg p) <|> slotAt e (b + 8) 8 (.portStat p) <|> slotAt e (b + 16) 8 (.linkCnt p) <|>
      slotAt e (b + 24) 8 (.ptp p) <|> slotAt e (b + 32) 8 (.mac p))
  else if 0x2000 ≤ e ∧ e < 0x2800 then
    let p := 16 * h + (e - 0x2000) / 0x80
    if !s.isPort p then .reserved
    else if !s.isSwitched p then .nothing
    else of (slotOf e (0x2000 + (e - 0x2000) / 0x80 * 0x80) 4 17 4 (.vlan p))
  else of (slotAt e 0 4 (.ethEtype h))

/-- A tile's registers (R32, R70, R119, R145, R457). -/
def tileSlot (t e : Nat) : Option (Reg × Nat × Nat) :=
  slotOf e 0x40 4 4 4 (.part t) <|> slotOf e 0x50 4 4 4 (.srSeed t) <|> slotOf e 0x60 4 4 4 (.srStep t) <|>
    slotAt e 0x80 4 (.tileEcc t) <|>
    slotAt e 0x4000 4 (.meStatus t) <|> slotAt e 0x4004 4 (.meCtl t) <|> slotOf e 0x4010 8 4 8 (.bankState t) <|>
    slotOf e 0x4030 4 4 4 (.bankEvt t) <|> slotAt e 0x4040 8 (.meFault t) <|> slotAt e 0x4048 4 (.meResidue t) <|>
    slotAt e 0x8000 4 (.veStatus t) <|> slotAt e 0x8004 4 (.veCtl t) <|> slotOf e 0x8010 8 4 8 (.veEvt t) <|>
    slotAt e 0x8040 8 (.veFault t) <|> slotAt e 0x8048 8 (.treeFault t) <|>
    slotOf e 0x8100 4 64 4 (fun k => .sc t (k / 16) (k % 16)) <|> slotOf e 0x8200 8 16 8 (fun k => .ch t (k / 4) (k % 4))

/-- CD_ of compute die d (R317, R392, R457). -/
def cdSlot (d e : Nat) : Option (Reg × Nat × Nat) :=
  slotOf e 0x100 8 3 8 (.hbmStat d) <|> slotAt e 0x120 8 (.eccLog d) <|> slotAt e 0x128 4 (.patrol d) <|>
    slotAt e 0x130 4 (.sramStat d) <|> slotOf e 0x200 8 3 8 (.cdD2d d) <|> slotAt e 0x220 4 (.cdCdc d)

/-- Shift a block's slot to its place. -/
def Slot.at_ (x : Option (Reg × Nat × Nat)) (off : Nat) : Slot :=
  match x with
  | some (r, b, w) => .reg r (off + b) w
  | none => .nothing

/-- The slot at an offset of a hub die's region (R39). -/
def State.hubRegion (s : State) (h o : Nat) : Slot :=
  let k := o / 0x100000
  let e := o % 0x100000
  let off := h * 0x10000000 + k * 0x100000
  let shift (x : Slot) : Slot := match x with
    | .reg r b w => .reg r (off + b) w
    | x => x
  let first (x : Option (Reg × Nat × Nat)) : Slot := if h = 0 then Slot.at_ x off else if x.isSome then .reserved else .nothing
  if k = 0 then Slot.at_ (hubSlot h e) off
  else if k = 1 then (if h = 0 then Slot.at_ (secSlot e) off else .nothing)
  else if k = 2 then (if h = 0 then shift (pmgSlot s.code.dies e) else .reserved)
  else if k = 3 then (if h = 0 then Slot.at_ (slotAt e 0 4 .slotStat) off else .reserved)
  else if k = 4 then (if h = 0 then Slot.at_ (dbgSlot e) off else .reserved)
  else if k = 5 then first (herdSlot e)
  else if k = 6 then (if e < 4 then Slot.at_ (slotAt e 0 4 (.lwlLink h)) off else first (lwlSlot e))
  else if k = 7 then shift (s.ethSlot h e)
  else .nothing

/-- The slot at an offset of register space (R37 to R39). -/
def State.slot (s : State) (o : Nat) : Slot :=
  if o < 0x40000000 then
    let h := o / 0x10000000
    if s.hubFitted h then s.hubRegion h (o % 0x10000000) else .reserved
  else
    let d := (o - 0x40000000) / 0x10000000
    let e := (o - 0x40000000) % 0x10000000
    let off := 0x40000000 + d * 0x10000000
    if !s.dieFitted d then .reserved
    else if e < 0x100000 then Slot.at_ (cdSlot d e) off
    else if 0x1000000 ≤ e ∧ e < 0x1800000 then
      let i := (e - 0x1000000) / 0x10000
      Slot.at_ (tileSlot (d * 128 + i) ((e - 0x1000000) % 0x10000)) (off + 0x1000000 + i * 0x10000)
    else .nothing

/-! ### Reading -/

def LwlState.code : LwlState → Nat
  | .down => 0
  | .training => 1
  | .up => 2
  | .retrain => 3
  | .out => 4
def PortState.code : PortState → Nat
  | .down => 0
  | .training => 1
  | .up => 2
  | .shedding => 3
  | .failed => 4
def D2dState.code : D2dState → Nat
  | .absent => 0
  | .down => 1
  | .training => 2
  | .up => 3
  | .retrain => 4
  | .failed => 5
def ChipState.code : ChipState → Nat
  | .absent => 0
  | .down => 1
  | .training => 2
  | .up => 3
  | .faulted => 4
def Stage.code : Stage → Nat
  | .standby => 0
  | .bootrom => 1
  | .firmware => 2
  | .selftest => 3
  | .ready => 4
  | .prepared => 5
  | .recovery => 6
  | .failed => 7
def Phase.code : Phase → Nat
  | .idle => 0
  | .opened => 1
  | .done => 2
def HerdState.code : HerdState → Nat
  | .idle => 0
  | .linking => 1
  | .syncing => 2
  | .formed => 3
  | .faulted => 4
def QState.code : QState → Nat
  | .idle => 0
  | .active => 1
  | .haltedError => 2
  | .haltedLink => 3
  | .haltedHost => 4

/-- CD_D2Dk and HUB_D2Dk of a link with the far die's PEER code (R392). -/
def D2d.value (x : D2d) (peer : Nat) : Nat :=
  fieldAt 48 x.retrains + fieldAt 32 x.crcerr + fieldAt 16 peer + fieldAt 8 x.mods + fieldAt 4 x.gen + D2dState.code x.state

/-- The link at a hub die's compute-facing site k, and the die there (R20). -/
def State.hubSite (s : State) (h k : Nat) : Nat := if s.code.hubs = 2 then 4 + 2 * h + k else 4 + k

/-- The link of a compute die: 0 row edge, 1 column edge, 2 hub link. -/
def dieLink (d k : Nat) : Nat := if k = 0 then d / 2 else if k = 1 then 2 + d % 2 else 4 + d

/-- The far die of a link, from compute die d. -/
def State.farDie (s : State) (l d : Nat) : Nat :=
  let (a, b) := s.linkDies l
  if a = d then b else a

/-- Whether the self-test has ended (R317). -/
def State.tested (s : State) : Bool := s.boot.stage == .ready || (s.boot.stage == .prepared && s.boot.prior == .ready)

/-- Pages of a stack that are not free, of those listed. -/
def State.takenPages (s : State) (k : Nat) : Nat := (s.pages.filter fun e => e.1 / 32768 == k && !s.pageFree e.1).length

/-- Free pages of a stack (R299, R317). -/
def State.freeCount (s : State) (k : Nat) : Nat :=
  if !s.tested || !s.stackFitted k || (s.stack k).failed then 0 else 32768 - s.takenPages k

/-- Pages of a stack withdrawn, with a failed stack all of them. -/
def State.goneCount (s : State) (k : Nat) (retired : Bool) : Nat :=
  if !s.stackFitted k then 0
  else if (s.stack k).failed then 32768
  else (s.pages.filter fun e => e.1 / 32768 == k && (e.2.withdrawn || (retired && e.2.health == .retired))).length

/-- HUB_HBMCAP. -/
def State.hbmCap (s : State) : Nat :=
  let gone := (s.stackList.map fun k => s.goneCount k true).sum
  fieldAt 60 (b2n s.nv.listErr) + fieldAt 40 gone + fieldAt 20 (s.stackList.map s.freeCount).sum +
    (if s.tested then s.stackList.length * 32768 - gone else 0)

/-- HUB_SCRUBn: HBM pages that the scrub has still to do. -/
def State.scrubLeft (s : State) (n : Nat) : Nat :=
  if (s.func n).state = .scrubbing then (s.pages.filter fun e => (e.2.use == .mapped n || e.2.use == .descriptor n) &&
    e.2.health != .retired && !e.2.withdrawn && !(s.stack (e.1 / 32768)).failed).length else 0

/-- The field of a function's state (R343): STATE with PENDING above it. -/
def Func.stateField (f : Func) : Nat := fieldAt 3 (b2n f.pending.isSome) + f.state.code

/-- A fault register (R119, R145). -/
def FaultReg.value (f : FaultReg) : Nat :=
  fieldAt 32 f.iaddr.toNat + fieldAt 14 (b2n f.valid) + fieldAt 10 f.func.toNat + fieldAt 8 f.unit.toNat + f.code.toNat

/-- The events of a VE_EVTn or HERD_MEVTn. -/
def Events.value (e : Events) : Nat := fieldAt 32 e.inval + fieldAt 16 e.ovf + e.nonfin

/-- TILE_PARTn (R32). -/
def Part.value (p : Part) : Nat :=
  fieldAt 31 (b2n p.valid) + fieldAt 27 p.func.toNat + fieldAt 23 p.accMask.toNat + fieldAt 19 p.plateBase.toNat +
    fieldAt 14 p.plateCount.toNat + fieldAt 9 p.sramBase.toNat + fieldAt 3 p.sramCount.toNat

/-- The 32 bytes of an ERT entry (R217). -/
def ErtEntry.bytes (e : ErtEntry) : List Byte :=
  leBytes 2 e.layer ++ leBytes 2 e.expert ++
    leBytes 1 (b2n e.valid + fieldAt 1 (b2n e.parked) + fieldAt 2 e.copy + fieldAt 4 e.func) ++ zeros 1 ++ leBytes 2 e.lshard ++
    leBytes 4 e.gen.toNat ++ leBytes 4 e.homeVpn ++ leBytes 2 e.npage ++ leBytes 2 e.slot ++ leBytes 4 e.copyGen.toNat ++
    leBytes 2 e.heat ++ zeros 2 ++ leBytes 4 e.lastUse.toNat

/-- LWL_AQ_RING and LWL_AQ_CPL. -/
def aqValue (base : BitVec 35) (lg : BitVec 5) : Nat := fieldAt 12 base.toNat + lg.toNat

/-- A sum of one bit per die. -/
def State.dieBits (s : State) (p : Nat → Bool) : Nat := (s.dieIds.map fun d => fieldAt d (b2n (p d))).sum

/-- HUB_ registers. -/
def State.readHub (s : State) (r : Reg) : Nat :=
  match r with
  | .moduleCode => Code.value s.code
  | .imgStat => s.imgStat.value
  | .hbmCap => s.hbmCap
  | .scrub n => s.scrubLeft n
  | .busStat h => let b := (s.hub h).bus; fieldAt 16 b.p2perr + fieldAt 4 b.width + b.gen
  | .hubD2d h k =>
    let l := s.hubSite h k
    let x := s.link l
    x.value (if x.state = .absent then 0xFF else (s.linkDies l).1)
  | .hubCdc h => fieldAt 16 (s.hub h).brrst + (s.hub h).alive.toNat
  | .chiplet h =>
    let x := s.hub h
    fieldAt 48 x.viol + fieldAt 15 (b2n x.cfgerr) + fieldAt 4 x.chipRate + ChipState.code x.chip
  | .fwLog h =>
    let x := s.hub h
    fieldAt 63 (b2n x.fwValid) + fieldAt 60 x.fwKind + fieldAt 56 x.fwWin + x.fwAddr.toNat
  | .fwWin h w =>
    let x := s.window h w
    fieldAt 63 (b2n x.valid) + fieldAt 62 (b2n x.wr) + fieldAt 61 (b2n x.rd) + fieldAt 57 x.func.toNat + fieldAt 20 x.vpn.toNat +
      x.npage.toNat
  | .fwRate h w => let x := s.window h w; fieldAt 16 x.burst.toNat + x.rate.toNat
  | .bootStat => fieldAt 8 s.boot.err + fieldAt 4 (b2n s.boot.fwCopyB) + Stage.code s.boot.stage
  | .mgCtl => b2n s.boot.remreq
  | .tripLog =>
    let t := s.boot.trip
    fieldAt 63 (b2n t.valid) + fieldAt 59 t.die + fieldAt 53 t.point + fieldAt 45 t.temp + fieldAt 40 t.stack
  | .rstCause => fieldAt 16 s.boot.ccRestarts + s.boot.cause
  | .errRing => fieldAt 12 s.errs.ringBase.toNat + s.errs.ringLog2.toNat
  | .errPtr => fieldAt 32 s.errs.rd.toNat + s.errs.wr.toNat
  | .errCtl => fieldAt 32 s.errs.lost.toNat + fieldAt 16 s.errs.ivec.toNat + fieldAt 8 s.errs.ipath.toNat + b2n s.errs.arm
  | .relStat => fieldAt 48 s.errs.maxHold + fieldAt 32 s.errs.loss + s.errs.recov
  | .relTime => s.errs.minutes.toNat
  | _ => 0

/-- SEC_, PMG_ and NVS_ registers. -/
def State.readSec (s : State) (r : Reg) : Nat :=
  let p := s.power
  match r with
  | .secStatus => fieldAt 16 s.sec.fwSvn + fieldAt 2 (b2n s.sec.owned) + fieldAt 1 (b2n s.sec.idfail) + b2n s.sec.idok
  | .idHash i => if s.sec.idok || s.sec.idfail then leAt idHash (4 * i) 4 else 0
  | .fwFloor => s.sec.fwFloor
  | .okeyCtl => s.sec.okeyEn.toNat
  | .dbgNonce i => s.sec.nonce / 2 ^ (32 * i) % 2 ^ 32
  | .secDbgStat => s.sec.stat
  | .okey i => (tget 0 s.sec.okeys i).toNat
  | .pmgStatus =>
    fieldAt 14 (b2n p.plim) + fieldAt 13 (b2n p.inhi) + fieldAt 12 (b2n p.inlo) +
      fieldAt 8 (s.dieBits fun d => (s.diePower d).short) + fieldAt 4 (s.dieBits fun d => (s.diePower d).outside) +
      s.dieBits fun d => s.coreOn && (s.diePower d).vset == s.floor d
  | .plimit => fieldAt 12 (b2n p.cfgerr) + p.limit.toNat
  | .tlimit => p.tlimit.toNat
  | .vcfg => fieldAt 16 p.vfloorDef.toNat + p.vtarget.toNat
  | .pmgPower => fieldAt 48 p.vin + fieldAt 32 p.iin + fieldAt 16 p.pavg + p.pmax
  | .pmgEvents => fieldAt 48 p.pthrot + fieldAt 32 p.tthrot + fieldAt 16 p.shortfall + p.droop
  | .hbmT => fieldAt 8 p.hbmStack + p.hbmTmax
  | .pmgDie d =>
    let x := s.diePower d
    fieldAt 56 x.tmax + fieldAt 50 x.tpoint + fieldAt 40 x.vmeas + fieldAt 26 x.idd +
      fieldAt 16 (if s.coreOn then s.floor d else 0) + x.vset
  | .pmgBeat d => fieldAt 16 (s.diePower d).rate + s.assumed d
  | .slotStat => s.slotStat
  | _ => 0

/-- DBG_ registers. -/
def State.readDbg (s : State) (r : Reg) : Nat :=
  let d := s.dbg
  match r with
  | .dbgTarget => fieldAt 31 (b2n d.all) + fieldAt 16 d.func.toNat + d.tile.toNat
  | .hstat => s.hstat
  | .wpAcc => d.wpacc
  | .twSel => fieldAt 30 d.twSpace.toNat + fieldAt 24 d.twPlate.toNat + fieldAt 22 d.twBank.toNat + d.twElem.toNat
  | .bp n => (tget 0 d.bps n).toNat
  | .wpBase n => (tget 0 d.wpBase n).toNat
  | .wpLen n => (tget 0 d.wpLen n).toNat
  | _ => 0

/-- HERD_ registers. -/
def State.readHerd (s : State) (r : Reg) : Nat :=
  let h := s.herd
  match r with
  | .herdStatus => fieldAt 8 h.h + fieldAt 7 (b2n h.held) + fieldAt 6 (b2n h.late) + fieldAt 5 (b2n h.lock) + HerdState.code h.state
  | .herdShape => fieldAt 15 (h.z - 1) + fieldAt 12 (h.y - 1) + fieldAt 9 (h.x - 1) + h.member
  | .herdTime => h.time.toNat
  | .herdSlot => h.slot % 2 ^ 48
  | .herdSched => h.sched.toNat
  | .ctrlMiss => h.misses
  | .holdStat => fieldAt 32 h.faultSlots + h.holds
  | .hStep n => fieldAt 32 (s.func n).gen.toNat + (s.func n).step.toNat
  | .hOutcome n =>
    let f := s.func n
    fieldAt 16 f.skiprun + fieldAt 12 f.mbvar + fieldAt 3 f.voteOut.toNat + f.outcome
  | .hLedger n => fieldAt 32 (s.func n).ledRd.toNat + (s.func n).ledWr.toNat
  | .hLost n => (s.func n).ledLost
  | .jCfg n => fieldAt 21 (s.func n).jbase + fieldAt 16 (s.func n).jlog2
  | .jPtr n => fieldAt 32 (s.func n).jtail.toNat + (s.func n).jhead.toNat
  | .hApplied n => (s.func n).applied.toNat
  | .jStat n => fieldAt 16 (s.func n).recovered + (s.func n).jstate
  | .ertCfg n => let f := s.func n; fieldAt 34 f.poolSlots + fieldAt 27 f.slotPages + f.poolVpn
  | .ertMap n => let f := s.func n; fieldAt 8 f.ertCount + f.ertBase
  | .xPref n => let f := s.func n; fieldAt 48 f.xErr + fieldAt 24 f.xPromoted + f.xIssued
  | .xDem n => let f := s.func n; fieldAt 32 f.xOver + f.xDemand
  | .xDrop n => let f := s.func n; fieldAt 32 f.xStale + f.xDropped
  | .ertIdx => h.ertIdx
  | .ertData i => leAt h.ertLatch.bytes (4 * i) 4
  | .fJob n =>
    let f := s.func n
    fieldAt 32 f.s0.toNat + fieldAt 1 (b2n (f.stopAtBoundary != 0 || f.stops.any fun r => !r.immediate)) + b2n f.run
  | .fHold n => fieldAt 32 (s.func n).stepSlots + (s.func n).totalSlots
  | .mEvt n => (s.func n).mevt.value
  | _ => 0

/-- LWL_ registers. -/
def State.readLwl (s : State) (r : Reg) : Nat :=
  let l := s.larwa
  match r with
  | .lwlLink h =>
    let x := s.lwl h
    fieldAt 16 x.retrains + fieldAt 15 (b2n x.ctlsub) + fieldAt 8 x.width + fieldAt 6 x.rate + fieldAt 4 x.lanes +
      LwlState.code x.state
  | .lwlEpoch => l.epoch.toNat
  | .aqRing => aqValue l.aqRingBase l.aqRingLog2
  | .aqCpl => aqValue l.aqCplBase l.aqCplLog2
  | .aqCtl =>
    fieldAt 16 l.aqIvec.toNat + fieldAt 8 l.aqIpath.toNat + fieldAt 2 (b2n l.aqArmErr) + fieldAt 1 (b2n (s.queue 0).disarming) +
      b2n ((s.queue 0).state == .active)
  | .qSel => l.qsel.toNat
  | .qStat =>
    let q := s.queue l.qsel.toNat
    fieldAt 32 q.head.toNat + fieldAt 16 (q.ignored % 2 ^ 16) + fieldAt 8 q.err + QState.code q.state
  | .fStatAll => (funcIds.map fun n => fieldAt (4 * n) (s.func n).stateField).sum
  | .fStat n =>
    let f := s.func n
    fieldAt 32 f.epoch.toNat + fieldAt 8 (b2n f.deviceBias) + f.stateField
  | .bias n =>
    let f := s.func n
    fieldAt 48 f.flipped.length + fieldAt 32 f.hostWr + f.flips
  | _ => 0

/-- ETH_ registers. -/
def State.readEth (s : State) (r : Reg) : Nat :=
  match r with
  | .ethEtype h => (s.hub h).etypeNext.toNat
  | .portCfg p => fieldAt 7 (b2n (s.port p).enable) + (s.port p).rate.toNat
  | .portStat p =>
    let x := s.port p
    fieldAt 48 x.sheds + fieldAt 24 (b2n x.cfgerr) + fieldAt 20 x.failedLanes.toNat + fieldAt 16 x.width +
      fieldAt 4 ((s.role p).getD 0) + PortState.code x.state
  | .linkCnt p =>
    let x := s.port p
    fieldAt 32 x.resent + fieldAt 24 x.episodes + fieldAt 12 x.noMatchCnt + x.errfrm
  | .ptp p => fieldAt 32 (s.port p).mpd + (s.port p).offset.toNat
  | .mac p => (s.macOf p).toNat
  | .vlan p f => (tget {} (s.port p).vlan f).value
  | _ => 0

/-- CD_ registers. -/
def State.readCd (s : State) (r : Reg) : Nat :=
  match r with
  | .hbmStat d p =>
    let k := 3 * d + p
    fieldAt 48 (s.stack k).ue + fieldAt 32 (s.stack k).ce + fieldAt 16 (s.freeCount k) + s.goneCount k false
  | .eccLog d =>
    let x := s.die d
    fieldAt 63 (b2n x.eccValid) + fieldAt 62 (b2n x.eccPatrol) + fieldAt 61 (b2n x.eccMapped) + fieldAt 57 x.eccFunc + x.eccLine
  | .patrol d => fieldAt 31 (b2n (s.die d).patrolSlow) + (s.die d).patrolPasses
  | .sramStat d => fieldAt 16 (s.die d).sramUE + (s.die d).sramCE
  | .cdD2d d k =>
    let l := dieLink d k
    let x := s.link l
    let there := s.linkFitted l && !(decide (k = 1) && s.code.dies == 2) && x.state != .absent
    if there then x.value (s.farDie l d) else fieldAt 16 0xFF
  | .cdCdc d => fieldAt 16 (s.die d).brrst + (s.die d).alive.toNat
  | _ => 0

/-- Registers of tiles. An instruction is one step, so none is in flight between commands (R29). -/
def State.readTile (s : State) (r : Reg) : Nat :=
  match r with
  | .part t n => (tget {} (s.tile t).part n).value
  | .srSeed t n => (tget 0 (s.tile t).seed n).toNat
  | .srStep t n => (tget 0 (s.tile t).step n).toNat
  | .tileEcc t => let x := s.tile t; fieldAt 31 (b2n x.eccSuspect) + fieldAt 16 x.eccUE + x.eccCE
  | .meStatus _ => 0xF
  | .bankState t n =>
    let b := tget {} (s.tile t).banks n
    fieldAt 38 1 + fieldAt 37 (b2n b.sat) + fieldAt 35 b.shift + fieldAt 34 (b2n b.int) + fieldAt 32 (Phase.code b.phase) + b.count
  | .bankEvt t n => let b := tget {} (s.tile t).banks n; fieldAt 16 b.ovf + b.nonfin
  | .meFault t => (s.tile t).meFault.value
  | .meResidue t => (s.tile t).residueTransient
  | .veStatus t => ((List.range 16).map fun k => fieldAt k (b2n ((tget {} (s.tile t).chains k).phase == .opened))).sum
  | .veEvt t n => (tget {} (s.tile t).events n).value
  | .veFault t => (s.tile t).veFault.value
  | .treeFault t =>
    let d := (s.tile t).treeFault
    fieldAt 32 d.tree.toNat + fieldAt 27 d.level.toNat + d.pos.toNat
  | .sc t n m => (tget 0 (s.tile t).scalars (n * 16 + m)).toNat
  | .ch t n c =>
    let x := tget {} (s.tile t).chains (n * 4 + c)
    fieldAt 62 (Phase.code x.phase) + fieldAt 32 x.count + x.desc.tree.toNat
  | _ => 0

/-- The block of a register, by the prefix of its name (R14). -/
inductive RegBlock where
  | hub | sec | dbg | herd | lwl | eth | cd | tile
  deriving DecidableEq, Repr, Inhabited

def Reg.block : Reg → RegBlock
  | .moduleCode | .imgStat | .hbmCap | .scrub _ | .busStat _ | .hubD2d _ _ | .hubCdc _ | .chiplet _ | .fwLog _ | .fwWin _ _
  | .fwRate _ _ | .bootStat | .mgCtl | .tripLog | .rstCause | .errRing | .errPtr | .errCtl | .relStat | .relTime => .hub
  | .secStatus | .idHash _ | .fwFloor | .okeyCtl | .dbgNonce _ | .secDbgStat | .okey _ | .pmgStatus | .plimit | .tlimit | .vcfg
  | .pmgPower | .pmgEvents | .hbmT | .pmgDie _ | .pmgBeat _ | .slotStat => .sec
  | .dbgTarget | .dbgCmd | .hstat | .wpAcc | .twSel | .twData | .bp _ | .wpBase _ | .wpLen _ => .dbg
  | .herdStatus | .herdShape | .herdTime | .herdSlot | .herdSched | .ctrlMiss | .holdStat | .hStep _ | .hOutcome _ | .hLedger _
  | .hLost _ | .jCfg _ | .jPtr _ | .hApplied _ | .jStat _ | .ertCfg _ | .ertMap _ | .xPref _ | .xDem _ | .xDrop _ | .ertIdx
  | .ertData _ | .fJob _ | .fHold _ | .mEvt _ => .herd
  | .lwlLink _ | .lwlEpoch | .aqRing | .aqCpl | .aqCtl | .qSel | .qStat | .fStatAll | .fStat _ | .bias _ => .lwl
  | .ethEtype _ | .portCfg _ | .portStat _ | .linkCnt _ | .ptp _ | .mac _ | .vlan _ _ => .eth
  | .hbmStat _ _ | .eccLog _ | .patrol _ | .sramStat _ | .cdD2d _ _ | .cdCdc _ => .cd
  | _ => .tile

/-- What a register reads (R16). DBG_TWDATA has its own access. -/
def State.regRead (s : State) (r : Reg) : Nat :=
  match r.block with
  | .hub => s.readHub r
  | .sec => s.readSec r
  | .dbg => s.readDbg r
  | .herd => s.readHerd r
  | .lwl => s.readLwl r
  | .eth => s.readEth r
  | .cd => s.readCd r
  | .tile => s.readTile r

/-! ### Writing (R16) -/

/-- A write: the value in the register's bit positions, and which of its 32-bit halves it covers. -/
structure RegWrite where
  value : Nat
  lo : Bool
  hi : Bool
  deriving DecidableEq, Repr, Inhabited

/-- RW fields after a write: the halves covered are the written ones. -/
def RegWrite.merge (w : RegWrite) (old : Nat) : Nat :=
  fieldAt 32 (if w.hi then w.value / 2 ^ 32 else old / 2 ^ 32) + (if w.lo then w.value % 2 ^ 32 else old % 2 ^ 32)

/-- The 1s written: what W1C, W1S and WO fields act on. -/
def RegWrite.ones (w : RegWrite) : Nat := w.merge 0

/-- Clear banks at their empty tokens (R118). -/
def State.clearBanks (s : State) (t : Nat) (mask : Nat) : State :=
  s.onTile t fun x => { x with banks := (tkeys x.banks).foldl (fun (m : Table Bank) b =>
    if bitOf mask b then tset {} m b (tget {} m b).clear else m) x.banks }

/-- Clear the chains, scalars and event counts of partition entries (R142). -/
def State.clearEntries (s : State) (t : Nat) (mask : Nat) : State :=
  s.onTile t fun x => { x with
    chains := x.chains.filter fun c => !bitOf mask (c.1 / 4)
    scalars := x.scalars.filter fun c => !bitOf mask (c.1 / 16)
    events := x.events.filter fun c => !bitOf mask c.1 }

/-- ME_CTL_CLR (R118). -/
def execMeCtlClr (tile : Nat) (mask : BitVec 4) (s : State) : Answer :=
  if s.tileFitted tile then .next (s.clearBanks tile mask.toNat) else .fault (.absent "tile" tile)
/-- VE_CTL_CLR (R142). -/
def execVeCtlClr (tile : Nat) (mask : BitVec 4) (s : State) : Answer :=
  if s.tileFitted tile then .next (s.clearEntries tile mask.toNat) else .fault (.absent "tile" tile)

/-- LWL_AQ_CTL (R343). -/
def State.writeAqCtl (s : State) (w : RegWrite) : State :=
  let v := w.merge 0
  let l := s.larwa
  let s := { s with larwa := { l with
    aqIvec := BitVec.ofNat 16 (bits v 31 16), aqIpath := if bits v 9 8 = 3 then l.aqIpath else BitVec.ofNat 2 (bits v 9 8)
    aqArmErr := l.aqArmErr && !bitOf v 2 } }
  let s := if bitOf v 1 then s.disarmQueue else s
  if bitOf v 0 then s.armQueue else s

/-- HUB_ERRCTL (R436, R457). -/
def Errors.writeCtl (e : Errors) (v : Nat) (epoch : W32) : Errors :=
  let e := { e with
    ivec := BitVec.ofNat 16 (bits v 31 16), ipath := if bits v 9 8 = 3 then e.ipath else BitVec.ofNat 2 (bits v 9 8) }
  if bitOf v 0 then e.arming epoch else { e with arm := false }

/-- HUB_FWRATEw (R386): a bucket holds at most its depth. -/
def Window.setRate (x : Window) (v : Nat) : Window :=
  let b : BitVec 16 := BitVec.ofNat 16 (bits v 31 16)
  { x with burst := b, rate := BitVec.ofNat 16 v, tokens := min x.tokens (max b.toNat 4 * 1024) }

/-- Put a value in a breakpoint or watchpoint register, but for its reserved bits. -/
def putDbg (m : Table W64) (n mask : Nat) (w : RegWrite) : Table W64 :=
  tset 0 m n (BitVec.ofNat 64 (w.merge (tget 0 m n).toNat) &&& BitVec.ofNat 64 mask)

/-- A write of HUB_MGCTL (R434). -/
def State.writeMgctl (s : State) (v : Nat) : Answer :=
  if bitOf v 2 then execMgctlReset s
  else
    let s1 : Answer := if bitOf v 1 then execRemcancel s else .next s
    match s1 with
    | .next s2 => if bitOf v 0 then execRemreq s2 else .next s2
    | a => a

/-- A write of DBG_CMD (R451). -/
def State.writeDbgCmd (s : State) (v : Nat) : Answer :=
  let op := bits v 3 0
  let g := bits v 5 4
  if op = 1 then .next s.halt
  else if op = 2 then .next s.unhalt
  else if op = 3 then s.stepTiles none
  else if op = 4 ∧ g < 2 then s.stepTiles (some (if g = 0 then .matrix else .vector))
  else .next s

/-- Whether a write asks for what the register's map calls reserved and the manual gives no behaviour for (R18): STEP_BEAT of
engine 2 or 3, and DBG_TWDATA in space 3. -/
def State.regRefuses (s : State) (r : Reg) (w : RegWrite) : Bool :=
  match r with
  | .dbgCmd => bits w.ones 3 0 == 4 && decide (2 ≤ bits w.ones 5 4)
  | .twData => s.dbg.twSpace == 3
  | _ => false

/-- Registers that no view reaches, whatever it is granted: HUB_MGCTL for writes (R434), those of the ME_ and VE_ blocks (R119,
R145), and the ERT window (R238). -/
def Reg.driverBarred : Reg → Bool
  | .mgCtl | .ertIdx | .ertData _ => true
  | .meCtl _ | .meStatus _ | .bankState _ _ | .bankEvt _ _ | .meFault _ | .meResidue _ => true
  | .veCtl _ | .veStatus _ | .veEvt _ _ | .veFault _ | .treeFault _ | .sc _ _ _ | .ch _ _ _ => true
  | _ => false

/-- What a write does to the fields of a register that every requester may write (R16). A register of RO fields alone does not
change. -/
def State.regWrite (s : State) (r : Reg) (w : RegWrite) : Answer :=
  let v := w.merge (s.regRead r)
  let ones := w.ones
  match r with
  | .errRing => .next { s with errs := { s.errs with ringBase := BitVec.ofNat 35 (v / 4096), ringLog2 := BitVec.ofNat 5 v } }
  | .errPtr => .next (if w.hi then { s with errs := s.errs.consume (BitVec.ofNat 32 (v / 2 ^ 32)) } else s)
  | .errCtl => .next (if w.lo then { s with errs := s.errs.writeCtl ones s.larwa.epoch } else s)
  | .chiplet h => .next (if bitOf ones 15 then s.setHub h { s.hub h with cfgerr := false } else s)
  | .fwLog h => .next (if bitOf ones 63 then s.setHub h { s.hub h with fwValid := false } else s)
  | .fwWin h k => .next (s.writeFwwin h k (BitVec.ofNat 64 v))
  | .fwRate h k => .next (s.setWindow h k ((s.window h k).setRate v))
  | .mgCtl => s.writeMgctl ones
  | .plimit => .next (s.writePlimit (BitVec.ofNat 32 ones))
  | .tlimit => .next (s.writeTlimit (BitVec.ofNat 32 v))
  | .vcfg => .next (s.writeVcfg (BitVec.ofNat 32 v))
  | .dbgTarget => .next { s with dbg := { s.dbg with
      all := bitOf v 31, func := BitVec.ofNat 4 (bits v 19 16), tile := BitVec.ofNat 9 v } }
  | .dbgCmd => s.writeDbgCmd ones
  | .hstat => .next { s with dbg := { s.dbg with
      bphit := s.dbg.bphit &&& ~~~(BitVec.ofNat 16 (bits ones 31 16)), wphit := s.dbg.wphit &&& ~~~(BitVec.ofNat 8 (bits ones 15 8)) } }
  | .twSel => .next { s with dbg := { s.dbg with
      twSpace := BitVec.ofNat 2 (bits v 31 30), twPlate := BitVec.ofNat 6 (bits v 29 24), twBank := BitVec.ofNat 2 (bits v 23 22)
      twElem := BitVec.ofNat 13 v } }
  | .twData => .next (s.twAccess (some (BitVec.ofNat 32 ones))).state
  | .bp n => .next { s with dbg := { s.dbg with bps := putDbg s.dbg.bps n 0xFFFF0000FFFFFFE0 w } }
  | .wpBase n => .next { s with dbg := { s.dbg with wpBase := putDbg s.dbg.wpBase n 0xEF00FFFFFFFFFFC0 w } }
  | .wpLen n => .next { s with dbg := { s.dbg with wpLen := putDbg s.dbg.wpLen n 0xFFFFFFFF w } }
  | .hLedger n => if w.hi then execLedgerRdWrite n (BitVec.ofNat 32 (v / 2 ^ 32)) s else .next s
  | .ertIdx => .next { s with herd := { s.herd with ertIdx := v % 2 ^ 18, ertLatch := s.ertEntry (v % 2 ^ 18) } }
  | .aqRing => .next { s with larwa := { s.larwa with aqRingBase := BitVec.ofNat 35 (v / 4096), aqRingLog2 := BitVec.ofNat 5 v } }
  | .aqCpl => .next { s with larwa := { s.larwa with aqCplBase := BitVec.ofNat 35 (v / 4096), aqCplLog2 := BitVec.ofNat 5 v } }
  | .aqCtl => .next (s.writeAqCtl w)
  | .qSel => .next { s with larwa := { s.larwa with qsel := BitVec.ofNat 20 v } }
  | .ethEtype h => .next (s.setHub h { s.hub h with etypeNext := BitVec.ofNat 16 v })
  | .portCfg p => .next (s.writePortcfg p (BitVec.ofNat 32 v))
  | .portStat p => .next (if bitOf ones 24 then s.setPort p { s.port p with cfgerr := false } else s)
  | .mac p => .next (s.setPort p { s.port p with mac := some (BitVec.ofNat 48 v) })
  | .vlan p f => .next (s.setVlan p f v)
  | .eccLog d => .next (if bitOf ones 63 then s.setDie d { s.die d with eccValid := false } else s)
  | .meCtl t => .next (s.clearBanks t ones)
  | .veCtl t => .next (s.clearEntries t ones)
  | .meFault t => .next (if bitOf ones 14 then s.onTile t fun x => { x with meFault := { x.meFault with valid := false } } else s)
  | .veFault t => .next (if bitOf ones 14 then s.onTile t fun x => { x with veFault := { x.veFault with valid := false } } else s)
  | _ => .next s

/-! ### RO fields that firmware loads, writes or clears (R16) -/

/-- TILE_PARTn as written. -/
def partOf (v : Nat) : Part := {
  valid := bitOf v 31, func := BitVec.ofNat 4 (bits v 30 27), accMask := BitVec.ofNat 4 (bits v 26 23)
  plateBase := BitVec.ofNat 4 (bits v 22 19), plateCount := BitVec.ofNat 5 (bits v 18 14), sramBase := BitVec.ofNat 5 (bits v 13 9)
  sramCount := BitVec.ofNat 6 (bits v 8 3) }

/-- Events as written. -/
def eventsOf (v : Nat) : Events := { nonfin := bits v 15 0, ovf := bits v 31 16, inval := bits v 47 32 }

/-- A write by firmware, or by the debug port at level 3: RO fields that a rule says firmware loads, writes or clears take the
value: TILE_PARTn (R32), TILE_SR_SEEDn (R70), the scalars and chains (R122), HUB_ERRPTR.WR (R436), the registers that settings
load (R286, R420, R434), and the HERD_ registers loaded from the image or of a function (R203, R213, R238, R268, R339). -/
def State.regLoad (s : State) (r : Reg) (w : RegWrite) : Answer :=
  let v := w.merge (s.regRead r)
  match r with
  | .part t n => .next (s.onTile t fun x => { x with part := tset {} x.part n (partOf v) })
  | .srSeed t n => .next (s.onTile t fun x => { x with seed := tset 0 x.seed n (BitVec.ofNat 32 v) })
  | .sc t n m => .next (s.onTile t fun x => { x with scalars := tset 0 x.scalars (n * 16 + m) (BitVec.ofNat 32 v) })
  | .ch t n c => .next (if w.ones = 0 then s.onTile t fun x => { x with chains := tdel x.chains (n * 4 + c) } else s)
  | .errPtr =>
    let s1 := if w.lo then { s with errs := { s.errs with wr := BitVec.ofNat 32 v } } else s
    s1.regWrite r w
  | .hStep n => .next (s.onFunc n fun f => { f with step := BitVec.ofNat 32 v, gen := BitVec.ofNat 32 (v / 2 ^ 32) })
  | .hOutcome n => .next (s.onFunc n fun f => { f with
      skiprun := bits v 31 16, mbvar := bits v 15 12, voteOut := BitVec.ofNat 5 (bits v 7 3), outcome := bits v 2 0 })
  | .hLost n => .next (s.onFunc n fun f => { f with ledLost := v % 2 ^ 32 })
  | .jCfg n => .next (s.onFunc n fun f => { f with jbase := bits v 47 21, jlog2 := bits v 20 16 })
  | .jPtr n => .next (s.onFunc n fun f => { f with jhead := BitVec.ofNat 32 v, jtail := BitVec.ofNat 32 (v / 2 ^ 32) })
  | .hApplied n => .next (s.onFunc n fun f => { f with applied := BitVec.ofNat 32 v })
  | .jStat n => .next (s.onFunc n fun f => { f with recovered := bits v 31 16, jstate := bits v 3 0 })
  | .ertCfg n => .next (s.onFunc n fun f => { f with
      poolSlots := bits v 49 34, slotPages := bits v 33 27, poolVpn := bits v 26 0 })
  | .ertMap n => .next (s.onFunc n fun f => { f with ertCount := bits v 16 8, ertBase := bits v 7 0 })
  | .xPref n => .next (s.onFunc n fun f => { f with xErr := bits v 63 48, xPromoted := bits v 47 24, xIssued := bits v 23 0 })
  | .xDem n => .next (s.onFunc n fun f => { f with xOver := bits v 63 32, xDemand := bits v 31 0 })
  | .xDrop n => .next (s.onFunc n fun f => { f with xStale := bits v 63 32, xDropped := bits v 31 0 })
  | .fHold n => .next (s.onFunc n fun f => { f with stepSlots := bits v 63 32, totalSlots := bits v 31 0 })
  | .mEvt n => .next (s.onFunc n fun f => { f with mevt := eventsOf v })
  | .herdStatus => .next { s with herd := { s.herd with h := bits v 11 8 } }
  | .herdShape => .next { s with herd := { s.herd with
      member := bits v 8 0, x := bits v 11 9 + 1, y := bits v 14 12 + 1, z := bits v 17 15 + 1 } }
  | .fJob n => .next (s.onFunc n fun f => { f with s0 := BitVec.ofNat 32 (v / 2 ^ 32) })
  | .okey k => .next { s with sec := { s.sec with okeys := tset 0 s.sec.okeys k (BitVec.ofNat 32 v) } }
  | .okeyCtl => .next { s with sec := { s.sec with okeyEn := BitVec.ofNat 4 v } }
  | .fwFloor => .next { s with sec := { s.sec with fwFloor := bits v 15 0 } }
  | .hLedger n =>
    let s1 := if w.lo then s.onFunc n fun f => { f with ledWr := BitVec.ofNat 32 v } else s
    s1.regWrite r w
  | _ => s.regWrite r w

end Sys2Proof.Machine
end

