-- ==== Sys2Proof/Machine/Manage.lean ====
section
/-! DEFINITION. Who reaches which address (R15, R38, R42, R324, R391, R429, R434, R439, R449, R450): register writes, management
messages, attestation (R422 to R424, R428), and the debug port's accesses. -/
namespace Sys2Proof.Machine

/-! ### Naming an address (R15, R38, R439) -/

/-- B of REG_ACCESS and ADDRESS (R439). -/
def requesterCode : Requester → Nat
  | .view v _ => v
  | .bmc => 0xFC
  | .debug => 0xFD
  | .firmware _ => 0xFE

/-- The hub die through which a requester's access arrives (R439). -/
def requesterHub : Requester → Nat
  | .view _ h => h
  | .firmware h => h
  | _ => 0

/-- UNIT of the two records: the hub die whose region holds the address, else that through which the access arrived. -/
def State.accessUnit (s : State) (who : Requester) (a : Nat) : Nat :=
  let h := (a - regBase) / 0x10000000
  if regBase ≤ a ∧ a < regBase + 0x40000000 ∧ s.hubFitted h then h else requesterHub who

/-- Log a register access error (R15). In standby no die runs that could log it. -/
def State.regError (s : State) (who : Requester) (a : Nat) : State :=
  if s.boot.supply ≠ .running then s
  else s.report { code := eRegAccess, cls := clsNotice, unit := s.accessUnit who a, a := a, b := requesterCode who }

/-- Log an address error (R38). -/
def State.addrError (s : State) (who : Requester) (a : Nat) (cls : Nat) : State :=
  s.report { code := eAddress, cls := cls, unit := s.accessUnit who a, a := a, b := requesterCode who }

/-- Firmware treats an address error of its own as a firmware fault, and the control cores restart (R38, R409). The manual does
not describe the control core or its program counter: free values. -/
def State.firmwareFault (s : State) (hub a : Nat) : State :=
  let s := s.addrError (.firmware hub) a clsFirmware
  let k := s.draws
  let s := { s with draws := k + 1 }.report
    { code := eFirmwareFault, cls := clsFirmware, unit := hub, a := Config.faultCore k, b := (Config.faultPc k).toNat }
  s.askRestart 9

/-- What an access of `n` bytes at an offset of register space names. -/
inductive Target where
  | reg (r : Reg) (base width : Nat)
  | malformed
  | reserved
  deriving DecidableEq, Repr, Inhabited

/-- Only the register's full width, or 32 bits of either half of a 64-bit register, is an access (R15). -/
def State.target (s : State) (o n : Nat) : Target :=
  match s.slot o with
  | .reserved => .reserved
  | .nothing => .malformed
  | .reg r b w =>
    if (n = w ∧ o = b) ∨ (n = 4 ∧ w = 8 ∧ (o = b ∨ o = b + 4)) then .reg r b w else .malformed

/-- The write that `n` bytes at offset `o` make in the register at `base`. -/
def regWriteOf (o n base : Nat) (v : W64) : RegWrite :=
  if n = 8 then { value := v.toNat, lo := true, hi := true }
  else if o = base then { value := v.toNat % 2 ^ 32, lo := true, hi := false }
  else { value := fieldAt 32 (v.toNat % 2 ^ 32), lo := false, hi := true }

/-- What `n` bytes at offset `o` read of a register's value. -/
def readPart (o n base value : Nat) : Nat :=
  if n = 8 then value else if o = base then value % 2 ^ 32 else value / 2 ^ 32

/-! ### Paths (R21, R391) -/

/-- Whether both crossings of a die-to-die link are alive. -/
def State.linkAlive (s : State) (l : Nat) : Bool :=
  let (a, b) := s.linkDies l
  if l < 2 then s.alive a 3 && s.alive b 3
  else if l < 4 then s.alive a 4 && s.alive b 4
  else s.alive a 5 && s.alive (4 + (b - 0x80)) (if s.code.hubs = 2 then (l - 4) % 2 else l - 4)

/-- The die of a device physical address: compute 0 to 3, or 4 + h. -/
def State.dieOf (s : State) (a : Nat) : DieId :=
  match s.region a with
  | .hbm p => p / 32768 / 3
  | .staging d _ => d
  | .tileSram t _ => t / 128
  | .regs o => if o < 0x40000000 then 4 + o / 0x10000000 else (o - 0x40000000) / 0x10000000
  | _ => 4

/-- The tile that an address lies in, if it lies in one. -/
def State.tileOf (s : State) (a : Nat) : Option Nat :=
  match s.region a with
  | .tileSram t _ => some t
  | .regs o =>
    let e := (o - 0x40000000) % 0x10000000
    if 0x40000000 ≤ o ∧ 0x1000000 ≤ e ∧ e < 0x1800000 then
      some ((o - 0x40000000) / 0x10000000 * 128 + (e - 0x1000000) / 0x10000) else none
  | _ => none

/-- Whether every clock on the path from a hub die to an address runs (R391). -/
def State.pathAlive (s : State) (hub a : Nat) : Bool :=
  (routeOf (4 + hub) (s.dieOf a)).all s.linkAlive &&
    match s.region a with
    | .hbm p => s.alive (p / 32768 / 3) (p / 32768 % 3)
    | _ => true

/-- Whether an address lies in a tile declared stalled (R28, R391). -/
def State.stalledAt (s : State) (a : Nat) : Bool := (s.tileOf a).any fun t => (s.tile t).stalled

/-! ### Views (R324) -/

/-- The pages of a view in order, each with its WRITE. -/
def State.viewPages (s : State) (v : Nat) : List (Nat × Bool) :=
  let grants := ((s.base.map BaseImage.pages).getD []).filter fun g => g.func == (if v = 16 then 0xFE else v)
  let fixed := if v ≠ 16 then [] else
    [(regBase, true), (regBase + 0x600000, true), (regBase + 0x608000, true)] ++
      (if s.code.hubs = 2 then [(regBase + 0x10600000, true)] else [])
  fixed ++ grants.map fun g => (g.page, g.write)

/-- The queue group of a view's doorbell page j. -/
def State.viewGroup (s : State) (v j : Nat) : Option Nat :=
  if v = 16 then (if j = 0 then some 0 else none)
  else if (tkeys s.images).contains v ∧ j < (s.image v).qcount then some ((s.image v).qfirst + j) else none

/-- A write of `n` bytes at offset `o` of the doorbells (R40, R331). -/
def State.bell (s : State) (who : Requester) (o n : Nat) (v : W64) : Answer :=
  if n = 8 ∧ o % 8 = 0 then execDoorbellWrite (o / 8) none v s
  else if n = 4 ∧ o % 4 = 0 then execDoorbellWrite (o / 8) (some (o % 8 == 4)) v s
  else .next (s.regError who (doorBase + o))

/-! ### Register writes of each requester (R42) -/

/-- A write through a view: what maps no register, a page without WRITE, HUB_MGCTL and a path whose clock has stopped all behave
as R15 describes. -/
def State.viewWrite (s : State) (v hub off n : Nat) (x : W64) : Answer :=
  let who : Requester := .view v hub
  let e := off % 4096
  if 0x800000 ≤ off then
    match s.viewGroup v ((off - 0x800000) / 4096) with
    | some g => s.bell who (g * 4096 + e) n x
    | none => .next (s.report { code := eRegAccess, cls := clsNotice, unit := hub, a := 2 ^ 63 + off, b := v })
  else
    match (s.viewPages v)[off / 4096]? with
    | none => .next (s.report { code := eRegAccess, cls := clsNotice, unit := hub, a := 2 ^ 63 + off, b := v })
    | some (page, wr) =>
      let a := page + e
      match s.target (a - regBase) n with
      | .reg r b _ =>
        if !wr || r.driverBarred || !s.pathAlive hub a || s.stalledAt a || s.regRefuses r (regWriteOf (a - regBase) n b x) then .next (s.regError who a)
        else s.regWrite r (regWriteOf (a - regBase) n b x)
      | _ => .next (s.regError who a)

/-- The function whose share holds [a, a + n) of memory, if one does (R450). -/
def State.shareOf (s : State) (a n : Nat) : Option Nat :=
  match s.region a with
  | .hbm p => match (s.page p).use with
    | .mapped fn => some fn
    | _ => none
  | .staging d off => funcIds.find? fun fn => let (b, m) := s.stagingShare fn d; decide (b ≤ off ∧ off + n ≤ b + m)
  | .tileSram t off =>
    (List.range 4).findSome? fun e =>
      let p := tget {} (s.tile t).part e
      if p.valid ∧ p.sramBase.toNat * 65536 ≤ off ∧ off + n ≤ (p.sramBase.toNat + p.sramCount.toNat) * 65536 then
        some p.func.toNat else none
  | _ => none

/-- A write of device physical memory by firmware (R42). A line that it covers in part is read first (R302), and an uncorrectable
error there is dealt with by its row of R305 or, in SRAM, as the owning function's. -/
def State.firmwareStore (s : State) (a n : Nat) (x : W64) : State :=
  let s := match s.poisonedEdge a n with
    | none => s
    | some p => match s.region a, s.shareOf a n with
      | .hbm _, _ => s.hbmUE p
      | _, some fn => s.sramUE fn p
      | _, none => s
  s.write a (leBytes n x.toNat)

/-- A write by firmware: it waits where a clock on the path has stopped (R391). -/
def State.firmwareWrite (s : State) (hub a n : Nat) (x : W64) : Answer :=
  let who : Requester := .firmware hub
  match s.region a with
  | .regs o =>
    match s.target o n with
    | .reserved => .next (s.firmwareFault hub a)
    | .malformed => .next (s.regError who a)
    | .reg r b _ =>
      if s.stalledAt a || s.regRefuses r (regWriteOf o n b x) then .next (s.regError who a)
      else if !s.pathAlive hub a then .next s
      else s.regLoad r (regWriteOf o n b x)
  | .doorbell o => s.bell who o n x
  | .reserved => .next (s.firmwareFault hub a)
  | .companion _ => .next (s.firmwareFault hub a)     -- R41: only a mule reaches companion memory (assumption 90)
  | _ =>
    if s.stalledAt a then .next (s.regError who a)
    else if !s.pathAlive hub a then .next s
    else .next (s.firmwareStore a n x)

/-! ### The management register set (R428, R429) -/

/-- Whether the board management controller reaches a register now: of the set, some from standby, the rest once firmware
runs. -/
def State.bmcReaches (s : State) (r : Reg) : Bool :=
  match r with
  | .moduleCode | .bootStat | .rstCause | .tripLog | .mgCtl | .pmgPower => true
  | .pmgStatus | .pmgEvents | .hbmT | .pmgDie _ | .pmgBeat _ | .secStatus | .idHash _ | .secDbgStat => s.firmwareRuns
  | _ => false

/-- A 32-bit register of the set, or half of one, at an address of hub die 0. -/
def State.bmcTarget (s : State) (a : Nat) : Option (Reg × Nat) :=
  if a < regBase ∨ regBase + 0x10000000 ≤ a then none
  else match s.target (a - regBase) 4 with
    | .reg r b _ => if s.bmcReaches r then some (r, b) else none
    | _ => none

/-- MCTP_REGISTER_READ (R429): any other address is answered as R15 describes. -/
def execMctpRegisterRead (addr : Nat) (s : State) : Answer :=
  if s.boot.supply = .unpowered then s.noEvent "R408: unpowered, the module runs nothing"
  else match s.bmcTarget addr with
    | some (r, b) => .next (s.emit (.regRead (BitVec.ofNat 64 (readPart (addr - regBase) 4 b (s.regRead r)))))
    | none => .next ((s.regError .bmc addr).emit (.regRead 0))

/-- MCTP_REGISTER_WRITE (R429): only HUB_MGCTL has fields that the controller writes. -/
def execMctpRegisterWrite (addr : Nat) (value : W32) (s : State) : Answer :=
  if s.boot.supply = .unpowered then s.noEvent "R408: unpowered, the module runs nothing"
  else match s.bmcTarget addr with
    | some (.mgCtl, _) => s.writeMgctl value.toNat
    | some _ => .next s
    | none => .next (s.regError .bmc addr)

/-- MCTP_CONTROL (R428): DSP0236 lays the answer out. -/
def execMctpControl (message : List Byte) (s : State) : Answer :=
  if s.boot.supply = .unpowered then s.noEvent "R408: unpowered, the module runs nothing"
  else .next (s.emit (.mctp (Config.mctpControlBody message)))

/-! ### Attestation (R418, R419, R422 to R424) -/

/-- Answer an SPDM request: from the boot ROM's identity step on, and with an error where the module has no identity. -/
def State.spdm (s : State) (f : State → State × SpdmAnswer) : Answer :=
  if !s.sec.idok && !s.sec.idfail then s.noEvent "R410: SPDM does not answer yet"
  else if s.sec.idfail then .next (s.emit (.spdm .unspecifiedError))
  else let (s, a) := f s; .next (s.emit (.spdm a))

/-- GET_VERSION (R422). -/
def execGetVersion (_message : List Byte) (s : State) : Answer := s.spdm fun s => (s, .version 1 3)
/-- GET_CAPABILITIES (R422): sessions, pre-shared keys, mutual authentication and provisioning are not supported. -/
def execGetCapabilities (_message : List Byte) (s : State) : Answer := s.spdm fun s => (s, .capabilities false false false false)
/-- NEGOTIATE_ALGORITHMS (R422). -/
def execNegotiateAlgorithms (_message : List Byte) (s : State) : Answer := s.spdm fun s => (s, .algorithms 384 384 true)
/-- GET_DIGESTS (R422): slot 0 alone holds a chain. -/
def execGetDigests (_message : List Byte) (s : State) : Answer := s.spdm fun s => (s, .digests 1 (sha384 Config.certChain))
/-- GET_CERTIFICATE (R422) of slot 0. -/
def execGetCertificate (offset length : Nat) (s : State) : Answer :=
  s.spdm fun s =>
    let rest := Config.certChain.drop offset
    (s, .certificate 0 (rest.take length) (rest.length - length))

/-- CHALLENGE (R418, R422): the identity key signs the request and the module's nonce. -/
def execChallenge (message : List Byte) (s : State) : Answer :=
  s.spdm fun s =>
    let k := s.sec.signs
    let nonce := Config.spdmNonce k
    ({ s with sec := { s.sec with signs := k + 1 } }, .challengeAuth nonce (Config.identitySign k (message ++ nonce)))

/-- A digest, or 48 zero bytes for an absent item (R423). -/
def orZeros (b : List Byte) : List Byte := if b.isEmpty then zeros 48 else b

/-- The measurement blocks (R423). -/
def State.measurement (s : State) (i : Nat) : Option (List Byte) :=
  if i = 1 then some Config.vendorHash
  else if i = 2 then some (if s.boot.stage = .recovery then zeros 48 else orZeros s.sec.fwDigest)
  else if i = 3 then some (leBytes 2 s.sec.fwSvn ++ leBytes 2 s.sec.fwFloor)
  else if i = 4 then some Config.factoryDigest
  else if i = 5 then some (orZeros s.sec.settingsDigest)
  else if i = 6 then some (orZeros ((s.base.map BaseImage.digest).getD []))
  else if 7 ≤ i ∧ i ≤ 22 then some (if (tkeys s.images).contains (i - 7) then orZeros (s.image (i - 7)).digest else zeros 48)
  else if i = 23 then some (leBytes 4 s.sec.stat)
  else none

/-- GET_MEASUREMENTS (R423, R424): index 0 asks for the count and 0xFF for every block, as DSP0274 codes them. -/
def execGetMeasurements (index : Nat) (s : State) : Answer :=
  s.spdm fun s =>
    if index = 0 then (s, .measurementCount 23)
    else if index = 0xFF then
      (s, .measurements ((List.range 23).filterMap fun i => (s.measurement (i + 1)).map fun b => (i + 1, b)))
    else match s.measurement index with
      | some b => (s, .measurements [(index, b)])
      | none => (s, .invalidRequest)

/-- SPDM_UNSUPPORTED_REQUEST (R422). -/
def execSpdmUnsupportedRequest (_code : Nat) (s : State) : Answer := s.spdm fun s => (s, .unsupportedRequest)

/-! ### The debug port's accesses (R449, R450) -/

/-- What the debug port may do at an address. -/
inductive Permit where
  | denied
  | allowed (fn : Option Nat)     -- with the function whose share holds the address
  deriving DecidableEq, Repr, Inhabited

/-- Whether FUNCMASK grants some function with a share on a tile. -/
def State.tileGranted (s : State) (t : Nat) : Bool := (s.tile t).funcs.any fun fn => s.sec.mask.getLsbD fn

/-- Whether a level-1 read reaches the register block at an offset of register space. -/
def State.readsBlock (s : State) (o : Nat) : Bool :=
  if o < 0x40000000 then [0, 1, 2, 4, 5, 6, 7].contains (o % 0x10000000 / 0x100000)
  else (s.tileOf (regBase + o)).any s.tileGranted

/-- The function that a write of a DBG_ register acts on: the target's for DBG_CMD and DBG_TWDATA, that named in a breakpoint or
watchpoint. -/
def State.dbgFunc (s : State) (r : Reg) (w : RegWrite) : Option Nat :=
  let v := w.merge (s.regRead r)
  match r with
  | .dbgCmd | .twData => some s.dbg.func.toNat
  | .bp _ => if bitOf v 63 then some (bits v 61 58) else none
  | .wpBase _ => if bitOf v 63 then some (bits v 59 56) else none
  | _ => none

/-- What R450 permits of an access to memory, to doorbells or to a reserved address. -/
def State.memPermit (s : State) (write : Bool) (a n : Nat) : Permit :=
  let x := s.sec
  match s.region a with
  | .companion _ => .denied
  | .doorbell _ => if x.level = 3 then .allowed none else .denied
  | .reserved => if x.level = 3 then .allowed none else .denied
  | .regs _ => .denied
  | _ =>
    match s.shareOf a n with
    | some fn => if x.level = 3 ∨ x.grants (if write then 2 else 1) fn then .allowed (some fn) else .denied
    | none => if x.level = 3 then .allowed none else .denied

/-- The unit of a DEBUG_WRITE record (R439): tile, die or stack. -/
def State.memUnit (s : State) (a : Nat) : Nat :=
  match s.region a with
  | .hbm p => p / 32768
  | .staging d _ => d
  | .tileSram t _ => t
  | _ => 0

/-- A poisoned unit met by the debug port: the UE is counted and an HBM page advances; nothing else happens (R449). -/
def State.countDebugUE (s : State) (p : Nat) : State :=
  match s.region p with
  | .hbm g => (s.countUE p false).advancePage g
  | .staging d _ => s.setDie d { s.die d with sramUE := satAdd 16 (s.die d).sramUE 1 }
  | .tileSram t _ => s.onTile t fun x => { x with eccUE := satAdd 15 x.eccUE 1 }
  | _ => s

/-- A read of memory. -/
def State.debugRead (s : State) (a n : Nat) : Access :=
  match s.poisonedIn a n with
  | some p => { state := s.countDebugUE p, status := 5 }
  | none => { state := s, status := 0, data := leNat (s.read a n) }

/-- A write of memory; one that covers a poisoned unit in part reads it first (R302, R440). -/
def State.debugWrite (s : State) (fn : Option Nat) (a n : Nat) (v : W64) : Access :=
  match s.poisonedEdge a n with
  | some p => { state := s.countDebugUE p, status := 5 }
  | none =>
    let s := s.write a (leBytes n v.toNat)
    { state := match fn with | some f => s.noteWrite f (s.memUnit a) a | none => s, status := 0 }

/-- Run a part of an access that can stop, and keep STATUS 0. -/
def keepAnswer : Answer → Answer
  | .next s => .next (Access.keep { state := s, status := 0 } false)
  | x => x

/-- A malformed or reserved address (R15, R38): STATUS 4. -/
def State.badAccess (s : State) (a : Nat) (reserved read : Bool) : Answer :=
  .next (Access.keep { state := if reserved then s.addrError .debug a clsNotice else s.regError .debug a, status := 4 } read)

/-- Read of register space. -/
def State.debugRegRead (s : State) (a n : Nat) : Answer :=
  let o := a - regBase
  if s.sec.level = 0 ∨ (s.sec.level < 3 ∧ !s.readsBlock o) then .next (Access.keep { state := s, status := 3 } true)
  else match s.target o n with
    | .reserved => s.badAccess a true true
    | .malformed => s.badAccess a false true
    | .reg r b _ =>
      if r = .twData then execDbgTwdataAccess false 0 s
      else if s.stalledAt a then s.badAccess a false true
      else if !s.pathAlive 0 a then .next (Access.keep { state := s, status := 2 } true)
      else .next (Access.keep { state := s, status := 0, data := readPart o n b (s.regRead r) } true)

/-- Write of register space: DBG_ at level 2, everything but SEC_ at level 3. -/
def State.debugRegWrite (s : State) (a n : Nat) (v : W64) : Answer :=
  let o := a - regBase
  let k := o % 0x10000000 / 0x100000
  let hubBlock (b : Nat) : Bool := decide (o < 0x40000000) && k == b
  let deny : Answer := .next (Access.keep { state := s, status := 3 } false)
  if s.sec.level < 2 ∨ (s.sec.level = 2 ∧ !hubBlock 4) ∨ hubBlock 1 then deny
  else match s.target o n with
    | .reserved => s.badAccess a true false
    | .malformed => s.badAccess a false false
    | .reg r b _ =>
      let w := regWriteOf o n b v
      if (s.dbgFunc r w).any fun fn => !s.sec.grants 2 fn then deny
      else if s.regRefuses r w then s.badAccess a false false
      else if r = .twData then execDbgTwdataAccess true (BitVec.ofNat 32 v.toNat) s
      else if s.stalledAt a then s.badAccess a false false
      else if !s.pathAlive 0 a then .next (Access.keep { state := s, status := 2 } false)
      else keepAnswer (if s.sec.level = 3 then s.regLoad r w else s.regWrite r w)

/-- One access of DBG_ACC of `n` bytes (R449, R450). -/
def State.debugAccess (s : State) (write : Option W64) (a n : Nat) : Answer :=
  let rd := write.isNone
  if !s.tapOn then s.noEvent "R408: the debug port is not powered"
  else if 2 ^ 48 ≤ a then s.noEvent "R449: ADDR has 48 bits"
  else match s.region a, write with
    | .regs _, none => s.debugRegRead a n
    | .regs _, some v => s.debugRegWrite a n v
    | _, _ =>
      match s.memPermit (!rd) a n with
      | .denied => .next (Access.keep { state := s, status := 3 } rd)
      | .allowed fn =>
        if a % n ≠ 0 then s.badAccess a false rd
        else match s.region a, write with
          | .reserved, _ => s.badAccess a true rd
          | .doorbell o, none =>
            let q := s.queue (o / 8)
            let v := fieldAt 32 q.cdone.toNat + q.tail.toNat
            .next (Access.keep { state := s, status := 0, data := readPart o n (o / 8 * 8) v } true)
          | .doorbell o, some v => keepAnswer (s.bell .debug o n v)
          | _, none =>
            if s.stalledAt a then s.badAccess a false true
            else if !s.pathAlive 0 a then .next (Access.keep { state := s, status := 2 } true)
            else .next ((s.debugRead a n).keep true)
          | _, some v =>
            if s.stalledAt a then s.badAccess a false false
            else if !s.pathAlive 0 a then .next (Access.keep { state := s, status := 2 } false)
            else .next ((s.debugWrite fn a n v).keep false)

/-- DBG_READ32 (R449). -/
def execDbgRead32 (addr : Nat) (s : State) : Answer := s.debugAccess none addr 4
/-- DBG_WRITE32 (R449, R450). -/
def execDbgWrite32 (addr : Nat) (value : W32) (s : State) : Answer := s.debugAccess (some (value.setWidth 64)) addr 4
/-- DBG_READ64 (R449). -/
def execDbgRead64 (addr : Nat) (s : State) : Answer := s.debugAccess none addr 8
/-- DBG_WRITE64 (R449, R450). -/
def execDbgWrite64 (addr : Nat) (value : W64) (s : State) : Answer := s.debugAccess (some value) addr 8

/-! ### REGISTER_WRITE (R15, R42) -/

/-- REGISTER_WRITE (R15, R42): `addr` is a byte offset in the view for the driver, and a device physical address for every other
requester. -/
def execRegisterWrite (who : Requester) (addr bytes : Nat) (value : W64) (s : State) : Answer :=
  match who with
  | .bmc => if bytes = 4 then execMctpRegisterWrite addr (BitVec.ofNat 32 value.toNat) s
            else s.noEvent "R428: a register write of 32 bits"
  | .debug => if bytes = 4 ∨ bytes = 8 then s.debugAccess (some value) addr bytes
              else s.noEvent "R449: an access of 32 or 64 bits"
  | .firmware hub =>
    if !s.hubFitted hub then .fault (.absent "hub die" hub)
    else if !s.firmwareRuns then s.noEvent "R410: no firmware runs"
    else if 2 ^ 48 ≤ addr then s.noEvent "R37: a device physical address has 48 bits"
    else s.firmwareWrite hub addr bytes value
  | .view v hub =>
    if !s.hubFitted hub then .fault (.absent "hub die" hub)
    else if 16 < v ∨ 2 ^ 24 ≤ addr then s.noEvent "R324: 17 views of 16 MiB"
    else if (s.lwl hub).state ≠ .up ∧ (hub ≠ 0 ∨ (s.hub hub).bus.gen = 0) then
      s.noEvent "R324: neither the link nor the bus port carries the access"
    else s.viewWrite v hub addr bytes value

end Sys2Proof.Machine
end

