-- ==== Sys2Proof/Machine/Dispatch.lean ====
section
/-! DEFINITION. Which meaning each command has: one arm per constructor of Instr. -/
namespace Sys2Proof.Machine

def exec (i : Instr) (s : State) : Host.Outcome State Fault Refusal :=
  match i with
  | .mma a op upset => Sys2Proof.Machine.execMma a op upset s
  | .mtree a op => Sys2Proof.Machine.execMtree a op s
  | .mdrain a bank fold upset => Sys2Proof.Machine.execMdrain a bank fold upset s
  | .msave a bank dst => Sys2Proof.Machine.execMsave a bank dst s
  | .mclr a bank => Sys2Proof.Machine.execMclr a bank s
  | .vadd a op => Sys2Proof.Machine.execVadd a op s
  | .vsub a op => Sys2Proof.Machine.execVsub a op s
  | .vmul a op => Sys2Proof.Machine.execVmul a op s
  | .vfma a op => Sys2Proof.Machine.execVfma a op s
  | .vmax a op => Sys2Proof.Machine.execVmax a op s
  | .vmin a op => Sys2Proof.Machine.execVmin a op s
  | .vabs a op => Sys2Proof.Machine.execVabs a op s
  | .vneg a op => Sys2Proof.Machine.execVneg a op s
  | .vdiv a op => Sys2Proof.Machine.execVdiv a op s
  | .vsqrt a op => Sys2Proof.Machine.execVsqrt a op s
  | .vrsqrt a op => Sys2Proof.Machine.execVrsqrt a op s
  | .vrcp a op => Sys2Proof.Machine.execVrcp a op s
  | .vexp a op => Sys2Proof.Machine.execVexp a op s
  | .vlog a op => Sys2Proof.Machine.execVlog a op s
  | .vcmp a op => Sys2Proof.Machine.execVcmp a op s
  | .vsel a op => Sys2Proof.Machine.execVsel a op s
  | .vand a op => Sys2Proof.Machine.execVand a op s
  | .vor a op => Sys2Proof.Machine.execVor a op s
  | .vxor a op => Sys2Proof.Machine.execVxor a op s
  | .vshl a op => Sys2Proof.Machine.execVshl a op s
  | .vshr a op => Sys2Proof.Machine.execVshr a op s
  | .vcvt a op => Sys2Proof.Machine.execVcvt a op s
  | .viota a op => Sys2Proof.Machine.execViota a op s
  | .vmov a op => Sys2Proof.Machine.execVmov a op s
  | .vsets a op => Sys2Proof.Machine.execVsets a op s
  | .vld a op upset => Sys2Proof.Machine.execVld a op upset s
  | .vst a op upset => Sys2Proof.Machine.execVst a op upset s
  | .vrdacc a op => Sys2Proof.Machine.execVrdacc a op s
  | .vropen a op => Sys2Proof.Machine.execVropen a op s
  | .vred a op => Sys2Proof.Machine.execVred a op s
  | .vrfold a op => Sys2Proof.Machine.execVrfold a op s
  | .vrclr a op => Sys2Proof.Machine.execVrclr a op s
  | .vevt a op => Sys2Proof.Machine.execVevt a op s
  | .vscan a op => Sys2Proof.Machine.execVscan a op s
  | .vsort a op => Sys2Proof.Machine.execVsort a op s
  | .vgath a op => Sys2Proof.Machine.execVgath a op s
  | .vscat a op => Sys2Proof.Machine.execVscat a op s
  | .vcomb a op upset => Sys2Proof.Machine.execVcomb a op upset s
  | .tile fn idx sweep => Sys2Proof.Machine.execTile fn idx sweep s
  | .tileSectionEnd fn idx => Sys2Proof.Machine.execTileSectionEnd fn idx s
  | .mule fn idx beside upset => Sys2Proof.Machine.execMule fn idx beside upset s
  | .muleListComplete fn idx => Sys2Proof.Machine.execMuleListComplete fn idx s
  | .ucmd fn idx => Sys2Proof.Machine.execUcmd fn idx s
  | .vote fn idx => Sys2Proof.Machine.execVote fn idx s
  | .demand fn idx => Sys2Proof.Machine.execDemand fn idx s
  | .stepend fn => Sys2Proof.Machine.execStepend fn s
  | .herdSlotBoundary causes => Sys2Proof.Machine.execHerdSlotBoundary causes s
  | .ctrlFrameReceive port frame => Sys2Proof.Machine.execCtrlFrameReceive port frame s
  | .controlMiss port => Sys2Proof.Machine.execControlMiss port s
  | .holdTimeout fn idx => Sys2Proof.Machine.execHoldTimeout fn idx s
  | .voteForm fn xNorms yNorms zNorms => Sys2Proof.Machine.execVoteForm fn xNorms yNorms zNorms s
  | .voteDecision fn => Sys2Proof.Machine.execVoteDecision fn s
  | .shardReceive fn pass header payload dst => Sys2Proof.Machine.execShardReceive fn pass header payload dst s
  | .bucketReceive fn bytes => Sys2Proof.Machine.execBucketReceive fn bytes s
  | .dispatchRecordReceive fn toOwner sender bytes rowBytes dst => Sys2Proof.Machine.execDispatchRecordReceive fn toOwner sender bytes rowBytes dst s
  | .dispatchHeadersArrive fn layer => Sys2Proof.Machine.execDispatchHeadersArrive fn layer s
  | .expertFetchComplete fn entry overBudget upset => Sys2Proof.Machine.execExpertFetchComplete fn entry overBudget upset s
  | .chunkStateCheck fn chunk => Sys2Proof.Machine.execChunkStateCheck fn chunk s
  | .commitRecordWrite fn => Sys2Proof.Machine.execCommitRecordWrite fn s
  | .commitCopy fn chunk => Sys2Proof.Machine.execCommitCopy fn chunk s
  | .slotRelease fn => Sys2Proof.Machine.execSlotRelease fn s
  | .journalRecovery fn members => Sys2Proof.Machine.execJournalRecovery fn members s
  | .snapshotComplete fn failed => Sys2Proof.Machine.execSnapshotComplete fn failed s
  | .doorbellWrite q half value => Sys2Proof.Machine.execDoorbellWrite q half value s
  | .entryFetch q data upset => Sys2Proof.Machine.execEntryFetch q data upset s
  | .entryReread q data => Sys2Proof.Machine.execEntryReread q data s
  | .check q image => Sys2Proof.Machine.execCheck q image s
  | .load q image => Sys2Proof.Machine.execLoad q image s
  | .imageAccept => Sys2Proof.Machine.execImageAccept s
  | .store q image nv => Sys2Proof.Machine.execStore q image nv s
  | .remove q => Sys2Proof.Machine.execRemove q s
  | .unload q => Sys2Proof.Machine.execUnload q s
  | .enable q pages => Sys2Proof.Machine.execEnable q pages s
  | .enablingDone fn => Sys2Proof.Machine.execEnablingDone fn s
  | .disable q => Sys2Proof.Machine.execDisable q s
  | .drainComplete fn => Sys2Proof.Machine.execDrainComplete fn s
  | .scrubComplete fn badPages => Sys2Proof.Machine.execScrubComplete fn badPages s
  | .qcreate q => Sys2Proof.Machine.execQcreate q s
  | .qdestroy q => Sys2Proof.Machine.execQdestroy q s
  | .qresume q => Sys2Proof.Machine.execQresume q s
  | .start q => Sys2Proof.Machine.execStart q s
  | .stop q => Sys2Proof.Machine.execStop q s
  | .resume q => Sys2Proof.Machine.execResume q s
  | .snapshot q => Sys2Proof.Machine.execSnapshot q s
  | .restore q peer => Sys2Proof.Machine.execRestore q peer s
  | .copyIn q data => Sys2Proof.Machine.execCopyIn q data s
  | .copyOut q ack => Sys2Proof.Machine.execCopyOut q ack s
  | .arm => Sys2Proof.Machine.execArm s
  | .disarm => Sys2Proof.Machine.execDisarm s
  | .ledgerRdWrite fn rd => Sys2Proof.Machine.execLedgerRdWrite fn rd s
  | .errctlArm => Sys2Proof.Machine.execErrctlArm s
  | .errptrRdWrite rd => Sys2Proof.Machine.execErrptrRdWrite rd s
  | .errorRecordWrite ack => Sys2Proof.Machine.execErrorRecordWrite ack s
  | .meCtlClr tile mask => Sys2Proof.Machine.execMeCtlClr tile mask s
  | .veCtlClr tile mask => Sys2Proof.Machine.execVeCtlClr tile mask s
  | .fwwinWrite hub w value => Sys2Proof.Machine.execFwwinWrite hub w value s
  | .plimitWrite value => Sys2Proof.Machine.execPlimitWrite value s
  | .tlimitWrite value => Sys2Proof.Machine.execTlimitWrite value s
  | .vcfgWrite value => Sys2Proof.Machine.execVcfgWrite value s
  | .portcfgWrite port value => Sys2Proof.Machine.execPortcfgWrite port value s
  | .registerWrite who addr bytes value => Sys2Proof.Machine.execRegisterWrite who addr bytes value s
  | .remreq => Sys2Proof.Machine.execRemreq s
  | .removalPrepared => Sys2Proof.Machine.execRemovalPrepared s
  | .remcancel => Sys2Proof.Machine.execRemcancel s
  | .mgctlReset => Sys2Proof.Machine.execMgctlReset s
  | .pwrEnRise tooEarly => Sys2Proof.Machine.execPwrEnRise tooEarly s
  | .firmwareStart => Sys2Proof.Machine.execFirmwareStart s
  | .selftestComplete found => Sys2Proof.Machine.execSelftestComplete found s
  | .pwrEnFall => Sys2Proof.Machine.execPwrEnFall s
  | .modRstN cool => Sys2Proof.Machine.execModRstN cool s
  | .watchdogExpiry => Sys2Proof.Machine.execWatchdogExpiry s
  | .controlRestart => Sys2Proof.Machine.execControlRestart s
  | .pldmFirmwareUpdate image nv => Sys2Proof.Machine.execPldmFirmwareUpdate image nv s
  | .prsntNLow => Sys2Proof.Machine.execPrsntNLow s
  | .inputApplied vin => Sys2Proof.Machine.execInputApplied vin s
  | .inputHighTrip => Sys2Proof.Machine.execInputHighTrip s
  | .inputLowTrip => Sys2Proof.Machine.execInputLowTrip s
  | .pmgControlPeriod t => Sys2Proof.Machine.execPmgControlPeriod t s
  | .telemetryLoss die => Sys2Proof.Machine.execTelemetryLoss die s
  | .speedShortfall die rate => Sys2Proof.Machine.execSpeedShortfall die rate s
  | .compensationRaise die rate => Sys2Proof.Machine.execCompensationRaise die rate s
  | .thermtrip die point temp stack => Sys2Proof.Machine.execThermtrip die point temp stack s
  | .supplyFault die vmeas => Sys2Proof.Machine.execSupplyFault die vmeas s
  | .lwlTrain hub t64 t32 t16 hostEpoch => Sys2Proof.Machine.execLwlTrain hub t64 t32 t16 hostEpoch s
  | .lwlRetrain hub => Sys2Proof.Machine.execLwlRetrain hub s
  | .lwlRetrainComplete hub t64 t32 t16 hostEpoch outUs => Sys2Proof.Machine.execLwlRetrainComplete hub t64 t32 t16 hostEpoch outUs s
  | .lwlOut hub => Sys2Proof.Machine.execLwlOut hub s
  | .linkOutHostReset hub => Sys2Proof.Machine.execLinkOutHostReset hub s
  | .hostReset cause => Sys2Proof.Machine.execHostReset cause s
  | .lwlRstN hub => Sys2Proof.Machine.execLwlRstN hub s
  | .busPortReset hub => Sys2Proof.Machine.execBusPortReset hub s
  | .hostBiasFlip fn vpn write => Sys2Proof.Machine.execHostBiasFlip fn vpn write s
  | .deviceBiasGrant fn vpn => Sys2Proof.Machine.execDeviceBiasGrant fn vpn s
  | .ceWriteback dpa => Sys2Proof.Machine.execCeWriteback dpa s
  | .patrolRead dpa upset lastOfPass => Sys2Proof.Machine.execPatrolRead dpa upset lastOfPass s
  | .patrolSlow die => Sys2Proof.Machine.execPatrolSlow die s
  | .stackFailed stack => Sys2Proof.Machine.execStackFailed stack s
  | .tileStall tile => Sys2Proof.Machine.execTileStall tile s
  | .ptpSyncInterval => Sys2Proof.Machine.execPtpSyncInterval s
  | .ptpMessageReceive port mpd offset => Sys2Proof.Machine.execPtpMessageReceive port mpd offset s
  | .portTrain port up peer => Sys2Proof.Machine.execPortTrain port up peer s
  | .dataFrameReceive port frame => Sys2Proof.Machine.execDataFrameReceive port frame s
  | .retransmitTimeout port => Sys2Proof.Machine.execRetransmitTimeout port s
  | .retxEpisodeTimeout port => Sys2Proof.Machine.execRetxEpisodeTimeout port s
  | .laneShed port lane => Sys2Proof.Machine.execLaneShed port lane s
  | .streamFrameReceive port frame fill => Sys2Proof.Machine.execStreamFrameReceive port frame fill s
  | .streamAckReceive port frame => Sys2Proof.Machine.execStreamAckReceive port frame s
  | .streamTimeout port stream => Sys2Proof.Machine.execStreamTimeout port stream s
  | .pfcReceive port classes pause => Sys2Proof.Machine.execPfcReceive port classes pause s
  | .d2dRetrain link => Sys2Proof.Machine.execD2dRetrain link s
  | .d2dRetrainComplete link mods holdUs => Sys2Proof.Machine.execD2dRetrainComplete link mods holdUs s
  | .d2dFailed link => Sys2Proof.Machine.execD2dFailed link s
  | .chipletRequest hub req upset => Sys2Proof.Machine.execChipletRequest hub req upset s
  | .chipletReset hub => Sys2Proof.Machine.execChipletReset hub s
  | .cdcReset die crossing => Sys2Proof.Machine.execCdcReset die crossing s
  | .cdcAliveTimeout die crossing => Sys2Proof.Machine.execCdcAliveTimeout die crossing s
  | .getVersion message => Sys2Proof.Machine.execGetVersion message s
  | .getCapabilities message => Sys2Proof.Machine.execGetCapabilities message s
  | .negotiateAlgorithms message => Sys2Proof.Machine.execNegotiateAlgorithms message s
  | .getDigests message => Sys2Proof.Machine.execGetDigests message s
  | .getCertificate offset length => Sys2Proof.Machine.execGetCertificate offset length s
  | .challenge message => Sys2Proof.Machine.execChallenge message s
  | .getMeasurements index => Sys2Proof.Machine.execGetMeasurements index s
  | .spdmUnsupportedRequest code => Sys2Proof.Machine.execSpdmUnsupportedRequest code s
  | .mctpControl message => Sys2Proof.Machine.execMctpControl message s
  | .mctpRegisterRead addr => Sys2Proof.Machine.execMctpRegisterRead addr s
  | .mctpRegisterWrite addr value => Sys2Proof.Machine.execMctpRegisterWrite addr value s
  | .tapReset => Sys2Proof.Machine.execTapReset s
  | .extest => Sys2Proof.Machine.execExtest s
  | .samplePreload => Sys2Proof.Machine.execSamplePreload s
  | .idcode => Sys2Proof.Machine.execIdcode s
  | .bypass => Sys2Proof.Machine.execBypass s
  | .dbgAuth token => Sys2Proof.Machine.execDbgAuth token s
  | .dbgNonce => Sys2Proof.Machine.execDbgNonce s
  | .dbgStat => Sys2Proof.Machine.execDbgStat s
  | .dbgRead32 addr => Sys2Proof.Machine.execDbgRead32 addr s
  | .dbgWrite32 addr value => Sys2Proof.Machine.execDbgWrite32 addr value s
  | .dbgRead64 addr => Sys2Proof.Machine.execDbgRead64 addr s
  | .dbgWrite64 addr value => Sys2Proof.Machine.execDbgWrite64 addr value s
  | .dbgTwdataAccess write value => Sys2Proof.Machine.execDbgTwdataAccess write value s
  | .dbgHalt => Sys2Proof.Machine.execDbgHalt s
  | .haltComplete => Sys2Proof.Machine.execHaltComplete s
  | .dbgResume => Sys2Proof.Machine.execDbgResume s
  | .stepInstr => Sys2Proof.Machine.execStepInstr s
  | .stepBeat engine => Sys2Proof.Machine.execStepBeat engine s
  | .busPortTrain hub gen width => Sys2Proof.Machine.execBusPortTrain hub gen width s
  | .chipletSiteTrain hub ok rate => Sys2Proof.Machine.execChipletSiteTrain hub ok rate s
  | .cdcClockReturn die crossing => Sys2Proof.Machine.execCdcClockReturn die crossing s
  | .tokenBucketFill hub w => Sys2Proof.Machine.execTokenBucketFill hub w s
  | .pcieConfigurationRequest hub => Sys2Proof.Machine.execPcieConfigurationRequest hub s

end Sys2Proof.Machine
end

