-- ==== Sys2Proof/WellFormed.lean ====
section
/-! DEFINITION. Which commands are well formed: every unit that one names is a unit of some ordering code (R2, R4, R22, R345), every
field keeps the width its rule gives it, and data has the length it is read with. Whether the module at hand has the unit,
and whether the event can occur, is the machine's to say. -/
namespace Sys2Proof

/-- Tile ids run from 0 to 511 (R23). -/
def tileOk (t : Nat) : Bool := decide (t < 512)
/-- Function ids (R31). -/
def fnOk (n : Nat) : Bool := decide (n < 16)
/-- Queue ids (R329). -/
def queueOk (q : Nat) : Bool := decide (q < 1048576)
/-- Hub dies (R2). -/
def hubOk (h : Nat) : Bool := decide (h < 2)
/-- Compute dies (R2). -/
def dieOk (d : Nat) : Bool := decide (d < 4)
/-- HBM stacks (R22). -/
def stackOk (k : Nat) : Bool := decide (k < 12)
/-- Port ids: 16 × hub die + first lane (R345). -/
def portOk (p : Nat) : Bool := decide (p < 32)
/-- Lanes of a port (R345). -/
def laneOk (n : Nat) : Bool := decide (n < 4)
/-- Die-to-die links (R20). -/
def linkOk (l : Nat) : Bool := decide (l < 8)
/-- Dies with crossings: compute 0 to 3, hub 4 + h; crossings by their ALIVE bit (R391). -/
def crossDieOk (d : Nat) : Bool := decide (d < 6)
def crossingOk (c : Nat) : Bool := decide (c < 7)
/-- HUB_TRIPLOG.DIE (R434). -/
def tripDieOk (d : Nat) : Bool := decide (d < 4 ∨ d = 8 ∨ d = 9 ∨ d = 12)
/-- Firewall windows (R392). -/
def windowOk (w : Nat) : Bool := decide (w < 16)
/-- Device physical addresses have 48 bits (R37). -/
def dpaOk (a : Nat) : Bool := decide (a < 2 ^ 48)
/-- VPNs are VA bits [47:21] (R298). -/
def vpnOk (v : Nat) : Bool := decide (v < 2 ^ 27)
/-- ERT entries (R217). -/
def ertOk (x : Nat) : Bool := decide (x < 262144)

/-- A tile instruction issues on a tile, for one of its four partition entries (R32). -/
def At.wf (a : At) : Bool := tileOk a.tile && decide (a.entry < 4)

/-- The word or entry that an upset names. -/
def Upset.wf : Upset → Bool
  | .none => true
  | .residue _ => true
  | .sramCE a => dpaOk a
  | .sramUE a => dpaOk a
  | .hbmCE a => dpaOk a
  | .hbmUE a => dpaOk a
  | .companionUE a => dpaOk a
  | .plateCE => true
  | .plateUE w => decide (w < 64 * 1024)
  | .ertUE x => ertOk x

/-- Data read from the host: at most the 1 GiB that one command moves (R337). -/
def HostData.wf : HostData → Bool
  | .ok bs => decide (bs.length ≤ 2 ^ 30)
  | _ => true

/-- A frame carries at most a jumbo payload (R350). -/
def Frame.wf (f : Frame) : Bool := decide (f.body.length ≤ 4112)

/-- What a neighbour shows: a member id of a herd of at most 512, and 16 digest bytes (R263). -/
def Peer.wf (p : Peer) : Bool := decide (p.member < 512) && decide (p.digest.length = 16)

/-- A view is one of 17, through a hub die (R324). -/
def Requester.wf : Requester → Bool
  | .view v h => decide (v ≤ 16) && hubOk h
  | .firmware h => hubOk h
  | _ => true

/-- Telemetry of at most four dies, 64 points each, and 12 stacks (R394). -/
def Telemetry.wf (t : Telemetry) : Bool :=
  decide (t.dies.length ≤ 4) && (t.dies.all fun d => decide (d.temps.length = 64)) && decide (t.stackTemps.length ≤ 12)

/-- What the self-tests found names units of the package (R309, R376). -/
def SelfTest.wf (f : SelfTest) : Bool :=
  (f.links.all fun x => linkOk x.1) && f.badTiles.all tileOk && f.badStacks.all stackOk &&
    f.badPages.all fun p => stackOk p.1 && decide (p.2 < 32768)

/-- Whether a command is well formed. -/
def Instr.wf : Instr → Bool
  | .mma a _ upset => a.wf && upset.wf
  | .mtree a _ => a.wf
  | .mdrain a _ _ upset => a.wf && upset.wf
  | .msave a _ _ => a.wf
  | .mclr a _ => a.wf
  | .vadd a _ => a.wf
  | .vsub a _ => a.wf
  | .vmul a _ => a.wf
  | .vfma a _ => a.wf
  | .vmax a _ => a.wf
  | .vmin a _ => a.wf
  | .vabs a _ => a.wf
  | .vneg a _ => a.wf
  | .vdiv a _ => a.wf
  | .vsqrt a _ => a.wf
  | .vrsqrt a _ => a.wf
  | .vrcp a _ => a.wf
  | .vexp a _ => a.wf
  | .vlog a _ => a.wf
  | .vcmp a _ => a.wf
  | .vsel a _ => a.wf
  | .vand a _ => a.wf
  | .vor a _ => a.wf
  | .vxor a _ => a.wf
  | .vshl a _ => a.wf
  | .vshr a _ => a.wf
  | .vcvt a _ => a.wf
  | .viota a _ => a.wf
  | .vmov a _ => a.wf
  | .vsets a _ => a.wf
  | .vld a _ upset => a.wf && upset.wf
  | .vst a _ upset => a.wf && upset.wf
  | .vrdacc a _ => a.wf
  | .vropen a _ => a.wf
  | .vred a _ => a.wf
  | .vrfold a _ => a.wf
  | .vrclr a _ => a.wf
  | .vevt a _ => a.wf
  | .vscan a _ => a.wf
  | .vsort a _ => a.wf
  | .vgath a _ => a.wf
  | .vscat a _ => a.wf
  | .vcomb a _ upset => a.wf && upset.wf
  | .tile fn _ _ => fnOk fn
  | .tileSectionEnd fn _ => fnOk fn
  | .mule fn _ _ upset => fnOk fn && upset.wf
  | .muleListComplete fn _ => fnOk fn
  | .ucmd fn _ => fnOk fn
  | .vote fn _ => fnOk fn
  | .demand fn _ => fnOk fn
  | .stepend fn => fnOk fn
  | .herdSlotBoundary _ => true
  | .ctrlFrameReceive port frame => portOk port && frame.wf
  | .controlMiss port => portOk port
  | .holdTimeout fn _ => fnOk fn
  | .voteForm fn _ _ _ => fnOk fn
  | .voteDecision fn => fnOk fn
  | .shardReceive fn _ header _ _ => fnOk fn && decide (header.length = 32)
  | .bucketReceive fn _ => fnOk fn
  | .dispatchRecordReceive fn _ _ _ _ _ => fnOk fn
  | .dispatchHeadersArrive fn _ => fnOk fn
  | .expertFetchComplete fn entry _ upset => fnOk fn && ertOk entry && upset.wf
  | .chunkStateCheck fn chunk => fnOk fn && decide (chunk < 2 ^ 32)
  | .commitRecordWrite fn => fnOk fn
  | .commitCopy fn chunk => fnOk fn && decide (chunk < 2 ^ 32)
  | .slotRelease fn => fnOk fn
  | .journalRecovery fn _ => fnOk fn
  | .snapshotComplete fn _ => fnOk fn
  | .doorbellWrite q _ _ => queueOk q
  | .entryFetch q data upset => queueOk q && data.wf && upset.wf
  | .entryReread q data => queueOk q && data.wf
  | .check q image => queueOk q && image.wf
  | .load q image => queueOk q && image.wf
  | .imageAccept => true
  | .store q image _ => queueOk q && image.wf
  | .remove q => queueOk q
  | .unload q => queueOk q
  | .enable q pages => queueOk q && pages.wf
  | .enablingDone fn => fnOk fn
  | .disable q => queueOk q
  | .drainComplete fn => fnOk fn
  | .scrubComplete fn _ => fnOk fn
  | .qcreate q => queueOk q
  | .qdestroy q => queueOk q
  | .qresume q => queueOk q
  | .start q => queueOk q
  | .stop q => queueOk q
  | .resume q => queueOk q
  | .snapshot q => queueOk q
  | .restore q peer => queueOk q && peer.wf
  | .copyIn q data => queueOk q && data.wf
  | .copyOut q _ => queueOk q
  | .arm => true
  | .disarm => true
  | .ledgerRdWrite fn _ => fnOk fn
  | .errctlArm => true
  | .errptrRdWrite _ => true
  | .errorRecordWrite _ => true
  | .meCtlClr t _ => tileOk t
  | .veCtlClr t _ => tileOk t
  | .fwwinWrite hub w _ => hubOk hub && windowOk w
  | .plimitWrite _ => true
  | .tlimitWrite _ => true
  | .vcfgWrite _ => true
  | .portcfgWrite port _ => portOk port
  | .registerWrite who addr bytes _ => who.wf && dpaOk addr && decide (bytes ≤ 8)
  | .remreq => true
  | .removalPrepared => true
  | .remcancel => true
  | .mgctlReset => true
  | .pwrEnRise _ => true
  | .firmwareStart => true
  | .selftestComplete found => found.wf
  | .pwrEnFall => true
  | .modRstN _ => true
  | .watchdogExpiry => true
  | .controlRestart => true
  | .pldmFirmwareUpdate _ _ => true
  | .prsntNLow => true
  | .inputApplied vin => decide (vin < 2 ^ 16)
  | .inputHighTrip => true
  | .inputLowTrip => true
  | .pmgControlPeriod t => t.wf
  | .telemetryLoss die => dieOk die
  | .speedShortfall die _ => dieOk die
  | .compensationRaise die _ => dieOk die
  | .thermtrip die point temp stack => tripDieOk die && decide (point < 64) && decide (temp < 256) && stackOk stack
  | .supplyFault die _ => dieOk die
  | .lwlTrain hub _ _ _ _ => hubOk hub
  | .lwlRetrain hub => hubOk hub
  | .lwlRetrainComplete hub _ _ _ _ _ => hubOk hub
  | .lwlOut hub => hubOk hub
  | .linkOutHostReset hub => hubOk hub
  | .hostReset cause => decide (cause < 3)
  | .lwlRstN hub => hubOk hub
  | .busPortReset hub => hubOk hub
  | .hostBiasFlip fn vpn _ => fnOk fn && vpnOk vpn
  | .deviceBiasGrant fn vpn => fnOk fn && vpnOk vpn
  | .ceWriteback dpa => dpaOk dpa
  | .patrolRead dpa upset _ => dpaOk dpa && upset.wf
  | .patrolSlow die => dieOk die
  | .stackFailed stack => stackOk stack
  | .tileStall t => tileOk t
  | .ptpSyncInterval => true
  | .ptpMessageReceive port _ _ => portOk port
  | .portTrain port _ peer => portOk port && peer.wf
  | .dataFrameReceive port frame => portOk port && frame.wf
  | .retransmitTimeout port => portOk port
  | .retxEpisodeTimeout port => portOk port
  | .laneShed port lane => portOk port && laneOk lane
  | .streamFrameReceive port frame _ => portOk port && frame.wf
  | .streamAckReceive port frame => portOk port && frame.wf
  | .streamTimeout port _ => portOk port
  | .pfcReceive port _ _ => portOk port
  | .d2dRetrain link => linkOk link
  | .d2dRetrainComplete link _ _ => linkOk link
  | .d2dFailed link => linkOk link
  | .chipletRequest hub req upset => hubOk hub && decide (req.len ≤ 4096) && upset.wf
  | .chipletReset hub => hubOk hub
  | .cdcReset die crossing => crossDieOk die && crossingOk crossing
  | .cdcAliveTimeout die crossing => crossDieOk die && crossingOk crossing
  | .getVersion _ => true
  | .getCapabilities _ => true
  | .negotiateAlgorithms _ => true
  | .getDigests _ => true
  | .getCertificate _ _ => true
  | .challenge _ => true
  | .getMeasurements _ => true
  | .spdmUnsupportedRequest _ => true
  | .mctpControl _ => true
  | .mctpRegisterRead addr => dpaOk addr
  | .mctpRegisterWrite addr _ => dpaOk addr
  | .tapReset => true
  | .extest => true
  | .samplePreload => true
  | .idcode => true
  | .bypass => true
  | .dbgAuth token => decide (token.length = 256)
  | .dbgNonce => true
  | .dbgStat => true
  | .dbgRead32 addr => dpaOk addr
  | .dbgWrite32 addr _ => dpaOk addr
  | .dbgRead64 addr => dpaOk addr
  | .dbgWrite64 addr _ => dpaOk addr
  | .dbgTwdataAccess _ _ => true
  | .dbgHalt => true
  | .haltComplete => true
  | .dbgResume => true
  | .stepInstr => true
  | .stepBeat _ => true
  | .busPortTrain hub _ _ => hubOk hub
  | .chipletSiteTrain hub _ _ => hubOk hub
  | .cdcClockReturn die crossing => crossDieOk die && crossingOk crossing
  | .tokenBucketFill hub w => hubOk hub && windowOk w
  | .pcieConfigurationRequest hub => hubOk hub

end Sys2Proof
end

