-- ==== Sys2Proof/Safety.lean ====
section
/-! DEFINITION. The words the statements are made of: the forms every step keeps, what it means that a command completes,
and, family by family, when it may run and what it leaves unchanged. -/
namespace Sys2Proof.Machine

/-! ### What every step keeps -/

/-- The memory lists what is not zero, in rising order (assumption 2): equal memories are equal data. -/
def MemOk (s : State) : Prop := Memory.wf s.mem = true

/-- At most 1,024 error records are held (R437). -/
def ErrorsOk (s : State) : Prop := s.errs.held.length ≤ 1024

/-- The command runs to completion: it answers a next state, of which `P` holds. -/
def Runs (i : Instr) (s : State) (P : State → Prop) : Prop := ∃ t, exec i s = .next t ∧ P t

/-- The command leaves the state as it is. -/
def NoEffect (i : Instr) (s : State) : Prop := exec i s = .next s

/-! ### Tile instructions -/

/-- The partition entry, sequencer and tile an instruction names. -/
def State.tileAt (s : State) (a : At) : Tile := s.tile a.tile
def State.partAt (s : State) (a : At) : Part := tget {} (s.tileAt a).part a.entry
def State.seqAt (s : State) (a : At) : Sequencer := tget {} (s.tileAt a).seqs a.entry
/-- The function that runs at `a`. -/
def State.fnAt (s : State) (a : At) : Nat := (s.partAt a).func.toNat

/-- The place exists and belongs to a function (R4, R32). -/
def Placed (s : State) (a : At) : Prop :=
  a.tile < s.code.tiles ∧ a.entry < 4 ∧ (s.partAt a).valid = true

/-- Something stops the sequencer from issuing to engine `g` (R28, R36, R111, R116, R142, R451). -/
def Held (s : State) (a : At) (g : Eng := .ve) : Prop :=
  (s.tileAt a).outOfService = true ∨ (s.tileAt a).stalled = true ∨ (s.seqAt a).stopped = true ∨
    (s.seqAt a).halted = true ∨ s.haltDue (s.fnAt a) a.tile = true ∨ (s.func (s.fnAt a)).state ≠ .on ∨
    s.engGranted g a.tile (s.fnAt a) = false

/-- A breakpoint halts the tile in place of the instruction (R452). -/
def Broken (s : State) (a : At) : Prop :=
  (s.seqAt a).passBp = false ∧ s.breakpoints a.tile (s.fnAt a) (s.seqAt a).iaddr ≠ []

/-- The instruction at `a` issues to engine `g`. -/
def Issues (s : State) (a : At) (g : Eng := .ve) : Prop := Placed s a ∧ ¬Held s a g ∧ ¬Broken s a

/-- The tile's words are readable: none of its plates' and none of memory's words is poisoned (R440, R443). -/
def Clean (s : State) (a : At) : Prop := (s.tileAt a).platePoison = [] ∧ s.poison = []

/-- No watchpoint watches an access (R453). -/
def Unwatched (s : State) : Prop := s.dbg.wpBase = []

/-- Nothing but one tile has changed. -/
def OnlyTile (s t : State) (n : Nat) : Prop := t = { s with tiles := t.tiles } ∧ ∀ j, j ≠ n → t.tile j = s.tile j

/-- The sequencer has moved past the instruction, and no other sequencer of the tile has moved. -/
def Advanced (s t : State) (a : At) : Prop :=
  t.seqAt a = { s.seqAt a with iaddr := (s.seqAt a).iaddr + 32, left := (s.seqAt a).left - 1, passBp := false, beats := 0 } ∧
  ∀ e, e ≠ a.entry → tget {} (t.tileAt a).seqs e = tget {} (s.tileAt a).seqs e

/-- The run of `n` elements from `d` on holds `r`, and every other element of the plates is as it was. -/
def PlatesHold (x y : Tile) (d n : Nat) (r : Nat → W32) : Prop :=
  ∀ j, tget 0 y.plates j = if d ≤ j ∧ j < d + n then r (j - d) else tget 0 x.plates j

/-- The events of entry `e` have grown by `v`, and those of every other entry are as they were. -/
def Counted (x y : Tile) (e : Nat) (v : Ev) : Prop :=
  ∀ k, tget {} y.events k = if k = e then (tget {} x.events e).bump v else tget {} x.events k

/-- A source that can be read, and the value it gives element `i`. -/
def Src.ok : Src → Bool
  | .run _ => true
  | .all _ => true
  | _ => false
def Src.elem (x : Tile) (i : Nat) : Src → W32
  | .run b => tget 0 x.plates (b + i)
  | .all v => v
  | _ => 0

/-- Source A, B or C of an element-wise instruction (R125). -/
def elementSrc (s : State) (a : At) (op : VOp) : Nat → Src
  | 0 => (s.partAt a).srcRun op.w2 op.count.toNat
  | 1 => srcB op (s.partAt a) (s.tileAt a) a.entry
  | _ => srcC op (s.partAt a) (s.tileAt a) a.entry

/-- What source `k` gives element `i`, read before anything is written (R124). -/
def elementVal (s : State) (a : At) (op : VOp) (k i : Nat) : W32 := (elementSrc s a op k).elem (s.tileAt a) i

/-- An element-wise instruction of `n` sources may run: it issues, COUNT, TYPE and SUBOP are in range, no reserved bit is
set, and every run lies in the entry's plates, the destination from element `d` on (R121, R125 to R127). -/
def ElementReady (s : State) (a : At) (op : VOp) (n : Nat) (tys : List Nat) (sub d : Nat) : Prop :=
  Issues s a ∧ (s.tileAt a).platePoison = [] ∧
  1 ≤ op.count.toNat ∧ op.count.toNat ≤ 16384 ∧ op.w1b15 = false ∧ op.ty.toNat ∈ tys ∧ op.subop.toNat ≤ sub ∧
  (1 ≤ n → runOk op.w2 = true) ∧ (2 ≤ n → op.bsel = 0 → runOk op.w3 = true) ∧
  (3 ≤ n → op.csel = 0 → runOk op.w4 = true) ∧ runOk op.w5 = true ∧
  (∀ k, k < n → (elementSrc s a op k).ok = true) ∧ (s.partAt a).run op.w5 op.count.toNat = some d

/-- An element-wise instruction has run: element `i` of the destination holds the value of `r i` and the entry counts its
events; the sequencer has moved on; nothing else has changed. -/
def ElementDone (s : State) (a : At) (op : VOp) (d : Nat) (r : Nat → W32 × Ev) (t : State) : Prop :=
  let x := s.tileAt a
  let y := t.tileAt a
  OnlyTile s t a.tile ∧ y = { x with plates := y.plates, events := y.events, seqs := y.seqs } ∧
  PlatesHold x y d op.count.toNat (fun i => (r i).1) ∧
  Counted x y a.entry (sumEv ((List.range op.count.toNat).map fun i => (r i).2)) ∧ Advanced s t a

/-- A vector instruction may run as far as the fields every opcode has go (R121, R125, R127). -/
def VecReady (s : State) (a : At) (op : VOp) (tys : List Nat) (sub : Nat) : Prop :=
  Issues s a ∧ Clean s a ∧ Unwatched s ∧ 1 ≤ op.count.toNat ∧ op.count.toNat ≤ 16384 ∧ op.w1b15 = false ∧
  op.ty.toNat ∈ tys ∧ op.subop.toNat ≤ sub

/-- The tile has become `y` but for its sequencer, which has moved on; nothing else has changed. -/
def TileDone (s : State) (a : At) (y : Tile) (t : State) : Prop :=
  OnlyTile s t a.tile ∧ t.tileAt a = { y with seqs := (t.tileAt a).seqs } ∧ Advanced s t a

/-- The bytes from `d` on are `bs`, and every other byte of memory reads as before. -/
def Stored (s t : State) (d : Nat) (bs : List Byte) : Prop :=
  ∀ z, t.byte z = if d ≤ z ∧ z < d + bs.length then bs.getD (z - d) 0 else s.byte z

/-- As `TileDone`, for an instruction that also stores to memory. -/
def TileStored (s : State) (a : At) (y : Tile) (t : State) : Prop :=
  t = { s with tiles := t.tiles, mem := t.mem } ∧ (∀ j, j ≠ a.tile → t.tile j = s.tile j) ∧
  t.tileAt a = { y with seqs := (t.tileAt a).seqs } ∧ Advanced s t a

/-- The values of a run of `n` elements, none where it leaves the share. -/
def runVals (s : State) (a : At) (desc : W32) (n : Nat) : List W32 :=
  match (s.partAt a).run desc n with
  | some r => (s.tileAt a).elems r n
  | none => []

/-- A run that lies in the share, with no reserved bit set. -/
def RunIn (s : State) (a : At) (desc : W32) (n : Nat) : Prop :=
  runOk desc = true ∧ ((s.partAt a).run desc n).isSome = true

/-- Where a run starts, as an absolute element. -/
def runStart (s : State) (a : At) (desc : W32) (n : Nat) : Nat := ((s.partAt a).run desc n).getD 0

/-- Source B can be read: a run of the share with no reserved bit, a scalar or an immediate (R125). -/
def SourceB (s : State) (a : At) (op : VOp) : Prop :=
  (op.bsel = 0 → runOk op.w3 = true) ∧ (srcB op (s.partAt a) (s.tileAt a) a.entry).ok = true

/-- The values of source B. -/
def sourceB (s : State) (a : At) (op : VOp) : List W32 :=
  (List.range op.count.toNat).map fun i => (srcB op (s.partAt a) (s.tileAt a) a.entry).elem (s.tileAt a) i

/-- A VRED whose fields are legal and whose runs lie in the share (R133, R134). -/
def VredReady (s : State) (a : At) (op : VOp) : Prop :=
  VecReady s a op [0, 1, 2] 7 ∧ vredTypeOk op = true ∧ bits op.w4.toNat 31 19 = 0 ∧ bitOf op.w4.toNat 15 = false ∧
  op.w6 = 0 ∧ op.w7 = 0 ∧ cvtReserved op.w1hi.toNat = false ∧ RunIn s a op.w2 op.count.toNat ∧
  (op.subop = 2 → SourceB s a op)

/-- The values of VRED's two sources; the second is the first but for DOT. -/
def vredA (s : State) (a : At) (op : VOp) : List W32 := runVals s a op.w2 op.count.toNat
def vredB (s : State) (a : At) (op : VOp) : List W32 :=
  if op.subop = 2 then sourceB s a op else vredA s a op

/-- The events of VRED's inputs: one for each position with a non-finite source, of type F32 only (R129). -/
def vredEv (s : State) (a : At) (op : VOp) : Ev :=
  if op.ty ≠ 0 then evNone
  else { nonfin := ((vredA s a op).zip (vredB s a op)).countP fun x => nonfinite x.1 || (op.subop == 2 && nonfinite x.2) }

/-- The pairs (key, payload) in sorted order, as positions of the input: every position once, no key before a smaller one
(a greater one, if falling), and equal keys in rising position (R139). -/
def StableOrder (key : Nat → Int) (falling : Bool) (n : Nat) (order : List Nat) : Prop :=
  order.Perm (List.range n) ∧
  order.Pairwise fun i j => (if falling then key j < key i else key i < key j) ∨ (key i = key j ∧ i < j)

/-- The F32 or integer that element `i` of a VLD becomes, with its events, from the stored bytes and scale bytes (R130). -/
def vldElem (x : Tile) (a : At) (op : VOp) (bs scs : List Byte) (i : Nat) : W32 × Ev :=
  let cvt := op.w1hi.toNat
  let f := cvtFmt cvt
  let v := elemValue f (unpackAt (fmtWidth f) bs i)
  if op.ty = 1 then (BitVec.ofInt 32 v.toInt, evNone)
  else
    let v := if fmtIsMX f then scaled (scs.getD (scaleIndex (rlenOf op) (sdBlock (cvtSdesc cvt)) i) 0).toNat v else v
    ((BitVec.ofNat 32 (fmtFP32.encode (elemMode x a.entry op i) (cvtSat cvt) v).1),
     (fmtFP32.encode (elemMode x a.entry op i) (cvtSat cvt) v).2)

/-- A VLD or VST whose conversion is legal, whose address is aligned, and whose bytes and scale bytes lie in the share
(R130, R131). -/
def VmemReady (s : State) (a : At) (op : VOp) : Prop :=
  let w := fmtWidth (cvtFmt op.w1hi.toNat)
  let nsc := scaleBytes op op.count.toNat
  convOk op = true ∧ RunIn s a op.w2 op.count.toNat ∧ alignedFor w (sramAddr op) = true ∧
  (s.partAt a).sramOk (sramAddr op) (packedBytes w op.count.toNat) = true ∧
  (nsc ≠ 0 → (s.partAt a).sramOk (scaleAddr op) nsc = true)

/-- The codes, scale bytes and events of the run a VST or VCVT converts (R131). -/
def runCodes (s : State) (a : At) (op : VOp) : List (Nat × Nat) × List (Nat × Nat) × Ev :=
  convertRun op ((List.range op.count.toNat).map (elemMode (s.tileAt a) a.entry op))
    ((runVals s a op.w2 op.count.toNat).map (vty op).exact)

/-- The partial records a VCOMB lists, and its target (R137). -/
def combOffs (s : State) (a : At) (op : VOp) : List Nat :=
  (List.range (bits op.w3.toNat 5 0)).map fun i =>
    leNat (s.read ((s.partAt a).sram a.tile (bits op.w6.toNat 20 0) + 4 * i) 4)
def combHdrs (s : State) (a : At) (op : VOp) : List TreePart :=
  (combOffs s a op).map fun o => parseRecord (s.read ((s.partAt a).sram a.tile o) 16)
def combRecs (s : State) (a : At) (op : VOp) (cells : Nat) : List TreePart :=
  (combOffs s a op).map fun o => parseRecord (s.read ((s.partAt a).sram a.tile o) (16 + cells * 4 + ceilDiv cells 8))

/-- A VCOMB whose list and records lie in the share (R137). -/
def VcombReady (s : State) (a : At) (op : VOp) : Prop :=
  Issues s a ∧ Clean s a ∧ Unwatched s ∧ op.ty = 0 ∧ frameOk op = true ∧ op.w2 = 0 ∧ cvtReserved op.w1hi.toNat = false ∧
  1 ≤ bits op.w3.toNat 5 0 ∧ bits op.w3.toNat 5 0 ≤ 32 ∧ bits op.w3.toNat 31 6 = 0 ∧
  (s.partAt a).sramOk (bits op.w6.toNat 20 0) (4 * bits op.w3.toNat 5 0) = true ∧
  ∀ o ∈ combOffs s a op, (s.partAt a).sramOk o 16 = true

/-- The events of a VCOMB before its output is read (R83, R84, R129): for each output one overflow for its lift where no
record held it lifted, an overflow and a non-finite result for a second overflow, and a non-finite event for a non-finite
input. -/
def combEv (s : State) (a : At) (op : VOp) (cells n level pos : Nat) : Ev :=
  let recs := combRecs s a op cells
  let out (i : Nat) := combineNode n recs i level pos
  (sumEv ((List.range cells).map fun i =>
    liftEv ((out i).1.x && !recs.any fun r => (r.nodes.getD i {}).x) (decide ((out i).2.ovf ≠ 0)))).plus
    { nonfin := (List.range cells).countP fun i => recs.any fun r => nonfinite (r.nodes.getD i {}).v }

/-- An MMA on an open bank of its entry, with what it reads and writes in the share, and every condition of R105 met. -/
def MmaReady (s : State) (a : At) (op : MmaOp) : Prop :=
  let b := (s.tileAt a).bank op.bank.toNat
  let q := mmaPanels op b.k0 (s.treeK (s.fnAt a) b op.klen.toNat)
  let fr := pushFrames b.pad (pushLevel (ceilDiv q.1.klen b.w))
  Issues s a .me ∧ Clean s a ∧ Unwatched s ∧ (s.partAt a).bankOk op.bank.toNat = true ∧ b.accepts q.1 q.2 = true ∧
  (s.partAt a).outsideOf (q.1.ranges ++ q.2.ranges ++ (fr.2.map fun l => ((b.frame l : Int), b.frameBytes)) ++
    fr.1.toList.map fun l => ((b.frame l : Int), b.frameBytes)) = none

/-- The values of the two panels an MMA loads, row by row and column by column (R99 to R102). -/
def mmaRows (s : State) (a : At) (op : MmaOp) : List (List XVal) × List (List XVal) :=
  let b := (s.tileAt a).bank op.bank.toNat
  let q := mmaPanels op b.k0 (s.treeK (s.fnAt a) b op.klen.toNat)
  let at0 := (s.partAt a).sram a.tile 0
  ((q.1.load s at0).map fun r => r.map Prod.fst, (q.2.load s at0).map fun r => r.map Prod.fst)

/-- The events of an MMA's loads (R113). -/
def mmaEv (s : State) (a : At) (op : MmaOp) : Ev :=
  let b := (s.tileAt a).bank op.bank.toNat
  let q := mmaPanels op b.k0 (s.treeK (s.fnAt a) b op.klen.toNat)
  let at0 := (s.partAt a).sram a.tile 0
  (loadEvents (q.1.load s at0)).plus (loadEvents (q.2.load s at0))

/-- Nothing of the tile but one bank and its sequencer has changed; memory only as said elsewhere. -/
def OnlyBank (s t : State) (a : At) (n : Nat) : Prop :=
  t = { s with tiles := t.tiles, mem := t.mem } ∧ (∀ j, j ≠ a.tile → t.tile j = s.tile j) ∧
  t.tileAt a = { s.tileAt a with banks := (t.tileAt a).banks, seqs := (t.tileAt a).seqs } ∧
  (∀ k, k ≠ n → (t.tileAt a).bank k = (s.tileAt a).bank k) ∧ Advanced s t a

/-! ### Functions, items and records -/

/-- Nothing but one function's record has changed. -/
def OnlyFunc (s t : State) (fn : Nat) : Prop := t = { s with funcs := t.funcs } ∧ ∀ j, j ≠ fn → t.func j = s.func j

/-- Item `idx`, of the step under way or of an earlier one, has operation `op` and stands as `want`; one that has issued has
its slot and its inputs (R247 to R250). -/
def ItemReady (s : State) (fn idx op : Nat) (want : ItemSt) (e : StepEntry) : Prop :=
  fn < 16 ∧ s.entry fn idx = some e ∧ e.op = op ∧ (s.func fn).run = true ∧ (s.func fn).item idx = want ∧
  (want = .issued → s.groupGranted fn e = true ∧ s.inputsReady fn idx = true)

/-- An error record of a code and class, of a function or of none, is held (R435, R437). -/
def Recorded (t : State) (code cls : Nat) (fn : Option Nat) : Prop :=
  ∃ r ∈ t.errs.held, r.code = code ∧ r.cls = cls ∧ r.func = fn.getD 0xFF

/-- No byte below the companion memory has changed: at most completion records were written (R334). -/
def HostOnly (s t : State) : Prop := ∀ z, z < companionBase → t.byte z = s.byte z

/-! ### Queues and their commands -/

/-- Command `c` of opcode `op` is the one in progress on queue `q` (R333, R336). -/
def InProgress (s : State) (q op : Nat) (c : Cmd) : Prop := (s.queue q).running = some c ∧ c.opcode = op

/-- The queue command runs, and its completion record follows from state `s'`: STATUS and RESULT (R334). -/
def Finishes (i : Instr) (s s' : State) (c : Cmd) (status : Nat) (result : List Byte) : Prop :=
  exec i s = .next (s'.complete c status result)

/-- Nothing waits on a queue but the command in progress: its record can be written at once, and no QDESTROY or DISARM of
it is under way. -/
def Quiet (s : State) (q : Nat) : Prop :=
  (s.queue q).waiting = [] ∧ (s.queue q).destroying = none ∧ (s.queue q).disarming = false

/-- Nothing but one queue's record has changed. -/
def OnlyQueue (s t : State) (q : Nat) : Prop := t = { s with queues := t.queues } ∧ ∀ j, j ≠ q → t.queue j = s.queue j

/-- Every byte of memory reads as before. -/
def SameMemory (s t : State) : Prop := ∀ z, t.byte z = s.byte z

/-- Nothing but one port's record has changed. -/
def OnlyPort (s t : State) (p : Nat) : Prop := t = { s with ports := t.ports } ∧ ∀ j, j ≠ p → t.port j = s.port j

/-- Nothing but one hub die's record has changed. -/
def OnlyHub (s t : State) (h : Nat) : Prop := t = { s with hubs := t.hubs } ∧ ∀ j, j ≠ h → t.hub j = s.hub j

/-- As `OnlyHub`, with records reported besides. -/
def HubReported (s t : State) (h : Nat) : Prop :=
  t = { s with hubs := t.hubs, errs := t.errs } ∧ ∀ j, j ≠ h → t.hub j = s.hub j

/-! ### Power, resets and debug -/

/-- What a loss of power or a module reset leaves: every memory of the module zero, every function off, no image in force, no
error record; NV storage as it was; the cause on record (R403, R408, R409). -/
def Lost (s t : State) (cause : Nat) : Prop :=
  t.boot.cause = cause ∧ (∀ z, z < companionBase → t.byte z = 0) ∧ (∀ n, t.func n = {}) ∧ (∀ q, t.queue q = {}) ∧
  t.base = none ∧ t.images = [] ∧ t.errs = {} ∧ t.sec.ownerLevel = 0 ∧ t.sec.vendor = false ∧ t.nv.fwA = s.nv.fwA ∧
  t.nv.fwB = s.nv.fwB ∧ t.nv.setA = s.nv.setA ∧ t.nv.setB = s.nv.setB ∧ t.nv.library = s.nv.library ∧
  t.nv.nextId = s.nv.nextId ∧ t.pending = s.pending

/-- Companion memory reads as before. -/
def HostKept (s t : State) : Prop := ∀ z, companionBase ≤ z → t.byte z = s.byte z

/-- PWR_EN is high by a rise that counts, no trip is latched and the input has 46.0 V: the power-up sequence may start
(R408, R410, R411). -/
def CanStart (s : State) : Prop :=
  s.boot.pwrEn = true ∧ s.boot.riseIgnored = false ∧ s.boot.trip.valid = false ∧ 4600 ≤ s.power.vin

/-- The power-up sequence has started: the boot ROM runs, or has found that the factory slot does not verify (R410, R418). -/
def Started (t : State) : Prop :=
  t.boot.supply = .running ∧ t.boot.stage = if Config.factoryValid then .bootrom else .failed

/-- The sequence has started where it could, else the module stands by. -/
def StartsIf (p : Prop) (t : State) : Prop := (p → Started t) ∧ (¬p → t.boot.supply = .standby ∧ t.boot.stage = .standby)

/-- No group of ledger records waits for a link (R321). -/
def NoGroups (s : State) : Prop := ∀ n, n < 16 → (s.func n).ledgerWait = []

/-- A host reset has taken place: a new link epoch, every queue off IDLE halted, the error ring disarmed, a record made, and,
where no ledger group waited, no byte of the module's memory changed (R341, R342). -/
def HostReset (s t : State) : Prop :=
  t.larwa.epoch = s.larwa.epoch + 1 ∧ t.errs.arm = false ∧ (NoGroups s → HostOnly s t) ∧
  (∀ q, (s.queue q).state ≠ .idle → (t.queue q).state = .haltedHost) ∧
  (Recorded t eLinkEpoch clsNotice none ∨ Recorded t eLinkEpoch clsFunction none) ∧
  ∀ n, n < 16 → (s.func n).state = .enabling ∨ ((s.func n).state = .on ∧ (s.func n).deviceBias = true) →
    (t.func n).state = .draining

/-- Nothing but the debug block and the list of outputs has changed. -/
def OnlyDebug (s t : State) : Prop := t = { s with dbg := t.dbg, out := t.out, draws := t.draws }

end Sys2Proof.Machine
end

