-- ==== Sys2Proof/Certificates/Slice0/Obligations.lean ====
section
/-! DEFINITION. The statements for the provers. Each docstring names the rules of the spec it rests on. -/
open Sys2Proof Sys2Proof.Machine

/-! ### The machine as a whole -/

/-- A step runs the command at the front of the queue with the queue's rest. -/
def Obligations.StepRunsTheFront : Prop :=
  ∀ (c : Instr) (rest : List Instr) (s : State),
    step { s with pending := c :: rest } = exec c { s with pending := rest }

/-! ### Tile instructions: the vector engine -/

/-- VADD, VSUB, VMUL, VMAX and VMIN of any type, VCMP under its eight SUBOPs, VDIV of F32, the logic of U32 and the
shifts: each completes where its operands are legal, with the element results and the frame (R124 to R129). -/
def Obligations.VectorTwoSources : Prop :=
  ∀ (s : State) (a : At) (op : VOp) (d : Nat),
    let x := elementVal s a op 0
    let y := elementVal s a op 1
    (ElementReady s a op 2 [0, 1, 2] 0 d →
      Runs (.vadd a op) s (ElementDone s a op d fun i => elemAdd (vty op) (x i) (y i)) ∧
      Runs (.vsub a op) s (ElementDone s a op d fun i => elemSub (vty op) (x i) (y i)) ∧
      Runs (.vmul a op) s (ElementDone s a op d fun i => elemMul (vty op) (x i) (y i)) ∧
      Runs (.vmax a op) s (ElementDone s a op d fun i => elemMax (vty op) (x i) (y i)) ∧
      Runs (.vmin a op) s (ElementDone s a op d fun i => elemMin (vty op) (x i) (y i))) ∧
    (ElementReady s a op 2 [0, 1, 2] 7 d →
      Runs (.vcmp a op) s (ElementDone s a op d fun i => (elemCmp (vty op) op.subop.toNat (x i) (y i), evNone))) ∧
    (ElementReady s a op 2 [0] 0 d → Runs (.vdiv a op) s (ElementDone s a op d fun i => fpDiv (x i) (y i))) ∧
    (ElementReady s a op 2 [2] 0 d →
      Runs (.vand a op) s (ElementDone s a op d fun i => (x i &&& y i, evNone)) ∧
      Runs (.vor a op) s (ElementDone s a op d fun i => (x i ||| y i, evNone)) ∧
      Runs (.vxor a op) s (ElementDone s a op d fun i => (x i ^^^ y i, evNone)) ∧
      Runs (.vshl a op) s (ElementDone s a op d fun i =>
        (if (y i).toNat < 32 then x i <<< (y i).toNat else 0, evNone))) ∧
    (ElementReady s a op 2 [2] 0 d →
      Runs (.vshr a op) s (ElementDone s a op d fun i => (x i >>> (y i).toNat, evNone))) ∧
    (ElementReady s a op 2 [1] 0 d →
      Runs (.vshr a op) s (ElementDone s a op d fun i => ((x i).sshiftRight (y i).toNat, evNone)))

/-- VABS, VNEG, VSQRT, VRSQRT, VRCP, VEXP, VLOG and VMOV with one source, and VIOTA with none (R124 to R129). -/
def Obligations.VectorOneSource : Prop :=
  ∀ (s : State) (a : At) (op : VOp) (d : Nat),
    let x := elementVal s a op 0
    (ElementReady s a op 1 [0] 0 d →
      Runs (.vabs a op) s (ElementDone s a op d fun i => (x i &&& 0x7FFFFFFF#32, evNone)) ∧
      Runs (.vneg a op) s (ElementDone s a op d fun i => (x i ^^^ 0x80000000#32, evNone)) ∧
      Runs (.vsqrt a op) s (ElementDone s a op d fun i => fpSqrt (x i)) ∧
      Runs (.vrsqrt a op) s (ElementDone s a op d fun i => fpRsqrt (x i)) ∧
      Runs (.vrcp a op) s (ElementDone s a op d fun i => fpRcp (x i)) ∧
      Runs (.vexp a op) s (ElementDone s a op d fun i => fpExp (x i)) ∧
      Runs (.vlog a op) s (ElementDone s a op d fun i => fpLog (x i))) ∧
    (ElementReady s a op 1 [1] 0 d →
      Runs (.vabs a op) s (ElementDone s a op d fun i => (elemAbs .i32 (x i), evNone)) ∧
      Runs (.vneg a op) s (ElementDone s a op d fun i => (elemNeg .i32 (x i), evNone))) ∧
    (ElementReady s a op 1 [0, 1, 2] 0 d → Runs (.vmov a op) s (ElementDone s a op d fun i => (x i, evNone))) ∧
    (ElementReady s a op 0 [2] 0 d →
      Runs (.viota a op) s (ElementDone s a op d fun i =>
        (BitVec.ofNat 32 (min (op.w6.toNat + i) (2 ^ 32 - 1)), evNone)))

/-- VFMA and VSEL with three sources (R124 to R129). -/
def Obligations.VectorThreeSources : Prop :=
  ∀ (s : State) (a : At) (op : VOp) (d : Nat),
    let x := elementVal s a op 0
    let y := elementVal s a op 1
    let z := elementVal s a op 2
    (ElementReady s a op 3 [0] 0 d → Runs (.vfma a op) s (ElementDone s a op d fun i => fpFma (x i) (y i) (z i))) ∧
    (ElementReady s a op 3 [0, 1, 2] 0 d →
      Runs (.vsel a op) s (ElementDone s a op d fun i => (if x i ≠ 0 then y i else z i, evNone)))

/-- VEVT moves the entry's counts into three scalars and zeroes the counts (R144). -/
def Obligations.VevtCopiesAndZeroes : Prop :=
  ∀ (s : State) (a : At) (op : VOp), Issues s a → Clean s a → frameOk op = true → op.subop = 0 → op.sd.toNat ≤ 13 →
    Runs (.vevt a op) s fun t =>
      let x := s.tileAt a
      let y := t.tileAt a
      let c := tget {} x.events a.entry
      let sd := op.sd.toNat
      OnlyTile s t a.tile ∧ y = { x with scalars := y.scalars, events := y.events, seqs := y.seqs } ∧ Advanced s t a ∧
      (∀ k, tget 0 y.scalars k =
        if k = a.entry * 16 + sd then BitVec.ofNat 32 c.nonfin
        else if k = a.entry * 16 + (sd + 1) then BitVec.ofNat 32 c.ovf
        else if k = a.entry * 16 + (sd + 2) then BitVec.ofNat 32 c.inval
        else tget 0 x.scalars k) ∧
      (∀ k, tget {} y.events k = if k = a.entry then {} else tget {} x.events k)

/-- VSETS sets scalar SD to IMM_B, VRCLR returns a chain to IDLE from any state, VROPEN opens a chain with COUNT = 0 for the tree
node its words name, and VRFOLD folds an open chain whose COUNT is P into a scalar or a 1 × 1 record, counting no event (R127,
R129, R135). -/
def Obligations.ScalarsAndChains : Prop :=
  (∀ (s : State) (a : At) (op : VOp),
      (VecReady s a op [0, 1, 2] 0 → op.count = 1 →
        Runs (.vsets a op) s (TileDone s a ((s.tileAt a).setScalar a.entry op.sd.toNat op.w6))) ∧
      (Issues s a → Clean s a → frameOk op = true → op.subop = 0 →
        Runs (.vrclr a op) s (TileDone s a ((s.tileAt a).setChain a.entry op.chain.toNat {})))) ∧
  (∀ (s : State) (a : At) (op : VOp),
      let x := s.tileAt a
      let ch := x.chain a.entry op.chain.toNat
      (∀ d : TreeDesc, Issues s a → Clean s a → ch.phase ≠ .opened → d.wcode = 2 → op.ty ≠ 3 →
        isNode (d.nspanM1.toNat + 1) d.level.toNat d.pos.toNat = true →
        d.tree = BitVec.ofNat 32 (op.w1hi.toNat * 65536 + (if op.w1b15 then 32768 else 0) + op.count.toNat) →
        op.w2 = d.level ++ d.pos → op.w3 = 0#2 ++ d.wcode ++ d.nspanM1 →
        op.w4 = 0 → op.w5 = 0 → op.w6 = 0 → op.w7 = 0 → op.subop = 0 →
        Runs (.vropen a op) s (TileDone s a (x.setChain a.entry op.chain.toNat { phase := .opened, desc := d }))) ∧
      (Issues s a → Clean s a → Unwatched s → ch.phase = .opened → ch.count = ch.desc.parts → frameOk op = true →
        cvtReserved op.w1hi.toNat = false → op.w2 = 0 → op.w3 = 0 → op.w4 = 0 → op.w5 = 0 → op.w7 = 0 →
        let n := (foldEntries ch.stack).1
        let y := x.setChain a.entry op.chain.toNat { ch with phase := .done, stack := [], result := n }
        (op.subop = 0 →
          Runs (.vrfold a op) s (TileDone s a (y.setScalar a.entry op.sd.toNat (readOut op.w1hi.toNat n).1))) ∧
        (op.subop = 1 → (s.partAt a).sramOk (bits op.w6.toNat 20 0) 32 = true →
          Runs (.vrfold a op) s fun t =>
            TileStored s a y t ∧
            Stored s t ((s.partAt a).sram a.tile (bits op.w6.toNat 20 0)) (recordBytes ch.desc 1 1 [n]))))

/-- VRED in its four forms: a sum pushed into a chain, STATS, a plain reduction into a scalar, and one output per row or
column (R133, R134, R136). -/
def Obligations.Reductions : Prop :=
  ∀ (s : State) (a : At) (op : VOp), VredReady s a op →
    let x := s.tileAt a
    let va := vredA s a op
    let vb := vredB s a op
    let ev := vredEv s a op
    let sd := op.sd.toNat
    let c := op.chain.toNat
    let merge := bitOf op.w4.toNat 18
    let old (i : Nat) : Option W32 := if merge then some (x.scalar a.entry i) else none
    let rl := rlenOf op
    let whole := decide (va.length % 32 = 0)
    let ch := x.chain a.entry c
    let pushed (c' : Chain) : Tile := (x.setChain a.entry c c').countEv a.entry (chainEv ch c')
    (bits op.w4.toNat 17 16 = 0 →
      (∀ c', op.subop.toNat ≤ 2 →
        ch.push whole (sumSpans op.subop.toNat va vb) (sumAgain op.subop.toNat va vb) = some c' →
        Runs (.vred a op) s (TileDone s a ((pushed c').countEv a.entry ev))) ∧
      (3 ≤ op.subop.toNat → op.subop.toNat ≤ 6 →
        Runs (.vred a op) s (TileDone s a
          ((x.setScalar a.entry sd (plainReduce (vty op) op.subop.toNat va (old sd))).countEv a.entry ev))) ∧
      (∀ c', op.subop.toNat = 7 → sd ≤ 14 →
        ch.push whole (sumSpans 1 va va) (sumAgain 1 va va) = some c' →
        Runs (.vred a op) s (TileDone s a
          ((((pushed c').setScalar a.entry sd (plainReduce .f32 5 va (old sd))).setScalar a.entry (sd + 1)
            (plainReduce .f32 6 va (old (sd + 1)))).countEv a.entry ev)))) ∧
    (bits op.w4.toNat 17 16 = 1 ∨ bits op.w4.toNat 17 16 = 2 → op.subop.toNat ≤ 6 → merge = false → 0 < rl →
      op.count.toNat % rl = 0 →
      let out := (vredGroups (bits op.w4.toNat 17 16) rl op.count.toNat).map fun g =>
        vredOut op (g.map fun i => va.getD i 0) (g.map fun i => vb.getD i 0)
      RunIn s a op.w5 out.length →
      Runs (.vred a op) s (TileDone s a
        ((x.setElems (runStart s a op.w5 out.length) (out.map Prod.fst)).countEv a.entry
          (ev.plus (sumEv (out.map Prod.snd))))))

/-- VRDACC reads a DONE bank into a run, by value or raw, and feeds a chain and two scalars if asked to (R132, R136). -/
def Obligations.BankRead : Prop :=
  ∀ (s : State) (a : At) (op : VOp),
    let x := s.tileAt a
    let n := bits op.w3.toNat 1 0
    let b := x.bank n
    let raw := bitOf op.subop.toNat 0
    let feed := bitOf op.subop.toNat 1
    let out := rdaccVals b raw op.w1hi.toNat
    let vs := out.map Prod.fst
    let sd := op.sd.toNat
    let c := op.chain.toNat
    let ev := Ev.plus { nonfin := b.nonfin, ovf := b.ovf } (sumEv (out.map Prod.snd))
    VecReady s a op [0, 1] 3 → (s.partAt a).bankOk n = true → b.phase = .done → op.count.toNat = b.rows * b.cols →
    (raw = true → b.int = true ∧ op.ty = 1) → bits op.w3.toNat 31 2 = 0 → op.w2 = 0 → op.w4 = 0 → op.w6 = 0 →
    op.w7 = 0 → cvtReserved op.w1hi.toNat = false → RunIn s a op.w5 op.count.toNat →
    let x1 := if raw then x.setScalar a.entry sd (BitVec.ofNat 32 (b.shift + (if b.sat then 4 else 0))) else x
    (feed = false →
      Runs (.vrdacc a op) s (TileDone s a ((x1.setElems (runStart s a op.w5 op.count.toNat) vs).countEv a.entry ev))) ∧
    (∀ c', feed = true → sd ≤ 13 →
      (x.chain a.entry c).push (decide (vs.length % 32 = 0)) (sumSpans 1 vs vs) (sumAgain 1 vs vs) = some c' →
      let x2 := x1.setChain a.entry c c'
      let x3 := x2.setScalar a.entry (sd + 1) (plainReduce .f32 5 vs (some (x2.scalar a.entry (sd + 1))))
      let x4 := x3.setScalar a.entry (sd + 2) (plainReduce .f32 6 vs (some (x3.scalar a.entry (sd + 2))))
      Runs (.vrdacc a op) s (TileDone s a ((x4.setElems (runStart s a op.w5 op.count.toNat) vs).countEv a.entry ev)))

/-- VSORT puts the keys in order and moves each payload with its key; the sort is stable (R139). -/
def Obligations.SortIsStable : Prop :=
  ∀ (s : State) (a : At) (op : VOp),
    let n := op.count.toNat
    let key := fun i => sortKey (vty op) ((runVals s a op.w2 n).getD i 0)
    VecReady s a op [0, 1, 2] 1 → RunIn s a op.w2 n → SourceB s a op → RunIn s a op.w4 n → RunIn s a op.w5 n →
    op.w6 = 0 → op.w7 = 0 →
    (∃ order, StableOrder key (op.subop == 1) n order ∧
      Runs (.vsort a op) s (TileDone s a
        (((s.tileAt a).setElems (runStart s a op.w5 n) (order.map fun i => (runVals s a op.w2 n).getD i 0)).setElems
          (runStart s a op.w4 n) (order.map fun i => (sourceB s a op).getD i 0)))) ∧
    (∀ v w : W32, isNan32 v = true → isNan32 w = true → sortKey .f32 v = sortKey .f32 w) ∧
    (∀ v w : W32, isNan32 v = false → isNan32 w = true → sortKey .f32 v < sortKey .f32 w) ∧
    (∀ v w : W32, isNan32 v = false → isNan32 w = false →
      (sortKey .f32 v < sortKey .f32 w ↔
        (v.msb = true ∧ w.msb = false) ∨ (v.msb = false ∧ w.msb = false ∧ v.toNat < w.toNat) ∨
        (v.msb = true ∧ w.msb = true ∧ w.toNat < v.toNat))) ∧
    (∀ v : W32, sortKey .i32 v = v.toInt ∧ sortKey .u32 v = v.toNat)

/-- VSCAN writes the prefixes of A and leaves the last inclusive value in scalar SD (R138). -/
def Obligations.Scan : Prop :=
  ∀ (s : State) (a : At) (op : VOp),
    let x := s.tileAt a
    let n := op.count.toNat
    let seg := bits op.subop.toNat 3 2
    let sb := if seg = 0 then Src.all 0 else srcB op (s.partAt a) x a.entry
    let r := scanFrom (vty op) (bitOf op.subop.toNat 0) (bitOf op.subop.toNat 1) seg (x.scalar a.entry op.sc.toNat) none
      ((runVals s a op.w2 n).zip ((List.range n).map fun i => sb.elem x i))
    VecReady s a op [0, 1, 2] 11 → RunIn s a op.w2 n → RunIn s a op.w5 n → sb.ok = true →
    (seg ≠ 0 → op.bsel = 0 → runOk op.w3 = true) →
    r.1.length = n ∧
    Runs (.vscan a op) s (TileDone s a
      (((x.setScalar a.entry op.sd.toNat r.2.1).setElems (runStart s a op.w5 n) r.1).countEv a.entry r.2.2))

/-- VGATH reads a table by index, giving 0 past its end; VSCAT writes one, the highest position winning; either counts one
invalid event for an index past the end (R140). -/
def Obligations.GatherAndScatter : Prop :=
  ∀ (s : State) (a : At) (op : VOp),
    let x := s.tileAt a
    let n := op.count.toNat
    let tl := op.w6.toNat
    let sb := srcB op (s.partAt a) x a.entry
    let va := runVals s a op.w2 n
    let vi := sourceB s a op
    VecReady s a op [0, 1, 2] 0 → 1 ≤ tl → tl ≤ 16384 →
    (RunIn s a op.w4 tl → RunIn s a op.w5 n → SourceB s a op →
      Runs (.vgath a op) s fun t =>
        let y := t.tileAt a
        OnlyTile s t a.tile ∧ y = { x with plates := y.plates, events := y.events, seqs := y.seqs } ∧ Advanced s t a ∧
        PlatesHold x y (runStart s a op.w5 n) n
          (fun i => if (sb.elem x i).toNat < tl then (runVals s a op.w4 tl).getD (sb.elem x i).toNat 0 else 0) ∧
        Counted x y a.entry { inval := (List.range n).countP fun i => decide (tl ≤ (sb.elem x i).toNat) }) ∧
    (RunIn s a op.w2 n → SourceB s a op → RunIn s a op.w5 tl → op.w4 = 0 → op.w7 = 0 →
      Runs (.vscat a op) s fun t =>
        let y := t.tileAt a
        OnlyTile s t a.tile ∧ y = { x with plates := y.plates, events := y.events, seqs := y.seqs } ∧ Advanced s t a ∧
        PlatesHold x y (runStart s a op.w5 tl) tl
          (fun j => match ((List.range n).filter fun i => decide ((vi.getD i 0).toNat = j)).getLast? with
            | some i => va.getD i 0
            | none => tget 0 x.plates (runStart s a op.w5 tl + j)) ∧
        Counted x y a.entry { inval := vi.countP fun i => decide (tl ≤ i.toNat) })

/-- VCVT converts a run, VLD loads one from tile SRAM and VST stores one there, with the bytes it stores and no others
(R130, R131). -/
def Obligations.ConversionsLoadsStores : Prop :=
  ∀ (s : State) (a : At) (op : VOp),
    let x := s.tileAt a
    let n := op.count.toNat
    let cvt := op.w1hi.toNat
    let f := cvtFmt cvt
    let w := fmtWidth f
    let p := s.partAt a
    let r := runCodes s a op
    (VecReady s a op [0, 1, 2] 0 → convOk op = true → RunIn s a op.w2 n → RunIn s a op.w5 n → op.w7 = 0 →
      let modes := (List.range n).map (elemMode x a.entry op)
      let out := (r.1.zip modes).map fun e =>
        if f = 3 ∨ f = 4 then (BitVec.ofInt 32 (elemValue f e.1.1).toInt, evNone)
        else decodeF32 f e.2 (cvtSat cvt) e.1.1 e.1.2
      out.length = n ∧
      Runs (.vcvt a op) s (TileDone s a ((x.setElems (runStart s a op.w5 n) (out.map Prod.fst)).countEv a.entry
        (r.2.2.plus (sumEv (out.map Prod.snd)))))) ∧
    (VecReady s a op [0, 1] 0 → VmemReady s a op → (op.ty = 1 → f = 3 ∨ f = 4) →
      let bs := s.read (p.sram a.tile (sramAddr op)) (packedBytes w n)
      let scs := s.read (p.sram a.tile (scaleAddr op)) (scaleBytes op n)
      let out := (List.range n).map (vldElem x a op bs scs)
      Runs (.vld a op .none) s (TileDone s a ((x.setElems (runStart s a op.w2 n) (out.map Prod.fst)).countEv a.entry
        (sumEv (out.map Prod.snd))))) ∧
    (VecReady s a op [0, 1, 2] 0 → VmemReady s a op →
      Runs (.vst a op .none) s fun t =>
        let d := p.sram a.tile (sramAddr op)
        let ds := p.sram a.tile (scaleAddr op)
        let bs := packElems w (r.1.map Prod.fst)
        TileStored s a (x.countEv a.entry r.2.2) t ∧ bs.length = packedBytes w n ∧
        (∀ e ∈ r.2.1, e.1 < scaleBytes op n ∧ t.byte (ds + e.1) = BitVec.ofNat 8 e.2) ∧
        (∀ z, ¬(ds ≤ z ∧ z < ds + scaleBytes op n) →
          t.byte z = if d ≤ z ∧ z < d + bs.length then bs.getD (z - d) 0 else s.byte z))

/-- VCOMB combines the records it lists into the target node, as a record or as the root's values in a run (R92, R137); on
records that R94 does not pass it reports a tree mismatch and writes nothing. -/
def Obligations.Combine : Prop :=
  ∀ (s : State) (a : At) (op : VOp), VcombReady s a op →
    let x := s.tileAt a
    let p := s.partAt a
    let level := bits op.w7.toNat 31 27
    let pos := bits op.w7.toNat 26 0
    let first := (combHdrs s a op).headD (parseRecord [])
    let cells := first.rows * first.cols
    let recs := combRecs s a op cells
    let n := first.nspanM1 + 1
    let outs := (List.range cells).map fun i => (combineNode n recs i level pos).1
    let desc : TreeDesc := { tree := first.tree, level := BitVec.ofNat 5 level, pos := BitVec.ofNat 27 pos,
                             wcode := BitVec.ofNat 3 first.wcode, nspanM1 := BitVec.ofNat 27 first.nspanM1 }
    let d := p.sram a.tile (bits op.w4.toNat 20 0)
    let ev := combEv s a op cells n level pos
    (treeCheck (combHdrs s a op) level pos = none →
      (∀ o ∈ combOffs s a op, p.sramOk o (16 + cells * 4 + ceilDiv cells 8) = true) →
      (op.subop = 1 → p.sramOk (bits op.w4.toNat 20 0) (recordSize first.rows first.cols) = true →
        Runs (.vcomb a op .none) s fun t =>
          TileStored s a (x.countEv a.entry ev) t ∧
          Stored s t d (recordBytes desc first.rows first.cols outs)) ∧
      (op.subop = 0 → level = clog2 n → pos = 0 → op.count.toNat = cells → RunIn s a op.w5 cells →
        let vs := outs.map (readOut op.w1hi.toNat)
        Runs (.vcomb a op .none) s (TileDone s a ((x.setElems (runStart s a op.w5 cells) (vs.map Prod.fst)).countEv a.entry
          (ev.plus (sumEv (vs.map Prod.snd))))))) ∧
    (∀ m, treeCheck (combHdrs s a op) level pos = some m → op.subop.toNat ≤ 1 →
      (op.subop = 0 → runOk op.w5 = true) → repeated (s.func (s.fnAt a)) 3 first.tree.toNat 0 = false →
      Runs (.vcomb a op .none) s fun t =>
        (t.tileAt a).plates = x.plates ∧ SameMemory s t ∧
        (t.tileAt a).treeFault = { tree := first.tree, level := BitVec.ofNat 5 m.1, pos := BitVec.ofNat 27 m.2 } ∧
        bitOf (t.func (s.fnAt a)).voteBits.toNat 4 = true)

/-! ### Tile instructions: the matrix engine -/

/-- MTREE opens a bank for a tree node, MCLR discards a bank, MSAVE writes a DONE bank as a partial record, and MDRAIN
without FOLD, or on a DONE bank, passes (R103, R104, R109, R110). -/
def Obligations.BankOpenClearSave : Prop :=
  ∀ (s : State) (a : At), Issues s a .me → Clean s a → Unwatched s →
    let x := s.tileAt a
    let p := s.partAt a
    (∀ op : MtreeOp, p.bankOk op.bank.toNat = true → (x.bank op.bank.toNat).phase ≠ .opened → op.wcode.toNat ≤ 4 →
      p.outsideOf (mtreeFrames op) = none →
      isNode (op.nspanM1.toNat + 1) op.level.toNat op.pos.toNat = true →
      Runs (.mtree a op) s (TileDone s a (x.setBank op.bank.toNat
        { phase := .opened, int := op.int, stackAddr := op.stackAddr,
          desc := { tree := op.tree, level := op.level, pos := op.pos, wcode := op.wcode, nspanM1 := op.nspanM1 } }))) ∧
    (∀ bank : BitVec 2, p.bankOk bank.toNat = true →
      let b := x.bank bank.toNat
      Runs (.mclr a bank) s (TileDone s a (x.setBank bank.toNat { nonfin := b.nonfin, ovf := b.ovf })) ∧
      (∀ dst : BitVec 16, b.phase = .done → p.sramOk (dst.toNat * 32) (recordSize b.rows b.cols) = true →
        Runs (.msave a bank dst) s fun t =>
          TileStored s a x t ∧ Stored s t (p.sram a.tile (dst.toNat * 32)) (recordBytes b.desc b.rows b.cols b.nodes) ∧
          (recordBytes b.desc b.rows b.cols b.nodes).length = recordSize b.rows b.cols) ∧
      Runs (.mdrain a bank false .none) s (TileDone s a x) ∧
      (b.phase = .done → Runs (.mdrain a bank true .none) s (TileDone s a x)))

/-- MDRAIN with FOLD on an open bank whose COUNT is P: the bank is DONE and holds the fold of its stack frames; an integer bank
that saturated holds a replay with SHIFT 1 or 2, its SAT counted once; no byte of memory changes (R79, R86, R87, R109). -/
def Obligations.BankFold : Prop :=
  ∀ (s : State) (a : At) (bank : BitVec 2), Issues s a .me → Clean s a → Unwatched s →
    (s.partAt a).bankOk bank.toNat = true →
    let b := (s.tileAt a).bank bank.toNat
    let frames := b.foldLevels.map fun l => ((b.frame l : Int), b.frameBytes)
    let panels := b.mmas.map fun op => mmaPanels op 0 0
    let at0 := (s.partAt a).sram a.tile 0
    let m := b.foldAll s at0
    let after (t : State) : Bank := (t.tileAt a).bank bank.toNat
    b.phase = .opened → b.count = b.p →
    (b.int = false → (s.partAt a).outsideOf frames = none →
      Runs (.mdrain a bank true .none) s fun t =>
        let ns := b.foldLevels.foldl (fun ns l => ((b.readFrame s at0 l).zip ns).map fun x => (addNode x.1 x.2).1) b.nodes
        m.nodes = ns ∧ OnlyBank s t a bank.toNat ∧ SameMemory s t ∧
        after t = { (((b.setNodes ns).overflowAgain m.again).countEv (foldEvents ns)) with phase := .done }) ∧
    (b.int = true → m.sat = false → (s.partAt a).outsideOf frames = none →
      Runs (.mdrain a bank true .none) s fun t =>
        OnlyBank s t a bank.toNat ∧ SameMemory s t ∧ after t = { b.setNodes m.nodes with phase := .done }) ∧
    (b.int = true → m.sat = true →
      (s.partAt a).outsideOf (frames ++ panels.flatMap fun q => q.1.ranges ++ q.2.ranges) = none →
      Runs (.mdrain a bank true .none) s fun t =>
        OnlyBank s t a bank.toNat ∧ SameMemory s t ∧ (after t).phase = .done ∧
        ((after t).shift = 1 ∧ (after t).sat = false ∧ (after t).ovf = b.ovf ∨
         (after t).shift = 2 ∧ (after t).sat = false ∧ (after t).ovf = b.ovf ∨
         (after t).shift = 2 ∧ (after t).sat = true ∧ (after t).ovf = satAdd 16 b.ovf 1))

/-- MMA multiplies two panels into an open bank: COUNT grows by the spans of KLEN, the level of the node is marked, and
into an empty bank the outputs are the node of R76 to R82 over each row and column; the events are those of the loads, with one
overflow and one non-finite result for each output that overflows a second time (R83, R99, R105, R113). -/
def Obligations.MmaPushes : Prop :=
  ∀ (s : State) (a : At) (op : MmaOp), MmaReady s a op →
    let n := op.bank.toNat
    let b := (s.tileAt a).bank n
    let spans := ceilDiv op.klen.toNat b.w
    let v := mmaRows s a op
    Runs (.mma a op .none) s fun t =>
      let b' := (t.tileAt a).bank n
      OnlyBank s t a n ∧
      b'.phase = .opened ∧ b'.desc = b.desc ∧ b'.count = b.count + spans ∧ b'.pad = b.pad + 2 ^ pushLevel spans ∧
      b'.rows = op.rowsM1.toNat + 1 ∧ b'.cols = op.colsM1.toNat + 1 ∧
      (∃ k, b'.nonfin = satAdd 16 (satAdd 16 b.nonfin (mmaEv s a op).nonfin) k ∧
        b'.ovf = satAdd 16 (satAdd 16 b.ovf (mmaEv s a op).ovf) k ∧ (b.int = true → k = 0)) ∧
      (b.pad = 0 → b.int = false →
        let f := ({ b with rows := b'.rows, cols := b'.cols }.countEv (mmaEv s a op)).overflowAgain (floatAgain b.w v.1 v.2)
        b'.nonfin = f.nonfin ∧ b'.ovf = f.ovf ∧ b'.again = f.again) ∧
      (b.pad = 0 → SameMemory s t) ∧
      (b.pad = 0 → b.int = false →
        b'.vals = (b'.setNodes (floatNodes b.w v.1 v.2)).vals ∧ b'.xbits = (b'.setNodes (floatNodes b.w v.1 v.2)).xbits) ∧
      (b.pad = 0 → b.int = true →
        let ns := (intNodes (v.1.map fun r => r.map XVal.toInt) (v.2.map fun r => r.map XVal.toInt)).1
        b'.vals = (b'.setNodes ns).vals ∧ b'.xbits = (b'.setNodes ns).xbits ∧ b'.mmas = b.mmas ++ [op])

/-- Where a tile instruction does not run. Held back (its tile out of service or stalled, its sequencer stopped or halted, its
function not ON, the slot not granted to it) it changes nothing; a breakpoint halts its tile in its place and sets the breakpoint's bit. A reserved field or
a COUNT of 0 is a sequence fault, a bank or an address outside the share a partition fault, and an uncorrectable SRAM word a
third: the function goes to DRAINING with a record and the fault register filled, and no plate or bank changes (R28, R35, R36, R111,
R116, R142, R143, R443, R452). -/
def Obligations.HeldBrokenAndFaulted : Prop :=
  (∀ (s : State) (a : At), Placed s a →
      (Held s a → ∀ (op : VOp) (u : Upset),
        NoEffect (.vadd a op) s ∧ NoEffect (.vld a op u) s ∧ NoEffect (.vcomb a op u) s ∧ NoEffect (.vred a op) s) ∧
      (Held s a .me → ∀ (m : MmaOp) (k : MtreeOp) (u : Upset) (bank : BitVec 2),
        NoEffect (.mma a m u) s ∧ NoEffect (.mtree a k) s ∧ NoEffect (.mdrain a bank true u) s) ∧
      (¬Held s a → Broken s a → ∀ op : VOp, Runs (.vadd a op) s fun t =>
        (t.seqAt a).halted = true ∧ (t.tileAt a).plates = (s.tileAt a).plates ∧ SameMemory s t ∧
        ∀ n ∈ s.breakpoints a.tile (s.fnAt a) (s.seqAt a).iaddr, bitOf t.dbg.bphit.toNat n = true)) ∧
  (∀ (s : State) (a : At) (op : VOp) (bank : BitVec 2),
      let fn := s.fnAt a
      let faulted (code : Nat) (t : State) : Prop :=
        (t.func fn).state = .draining ∧ (t.func fn).run = false ∧ Recorded t code clsFunction (some fn) ∧
        (t.tileAt a).plates = (s.tileAt a).plates ∧ (t.tileAt a).banks = (s.tileAt a).banks
      let logged (r r' : FaultReg) (code : BitVec 8) : Prop :=
        if r.valid = true then r' = r
        else r'.valid = true ∧ r'.iaddr = (s.seqAt a).iaddr ∧ r'.func.toNat = fn ∧ r'.code = code
      (Issues s a → (op.w1b15 = true ∨ op.count.toNat = 0 ∨ op.ty.toNat = 3 ∨ 1 ≤ op.subop.toNat) →
        Runs (.vadd a op) s fun t => faulted eSequence t ∧ HostOnly s t ∧ logged (s.tileAt a).veFault (t.tileAt a).veFault 2) ∧
      (Issues s a .me → (s.partAt a).bankOk bank.toNat = false →
        Runs (.mclr a bank) s fun t => faulted ePartition t ∧ HostOnly s t ∧ logged (s.tileAt a).meFault (t.tileAt a).meFault 1) ∧
      (VecReady s a op [0] 0 → convOk op = true → runOk op.w2 = true →
        alignedFor (fmtWidth (cvtFmt op.w1hi.toNat)) (sramAddr op) = true →
        (s.partAt a).sramOk (sramAddr op) (packedBytes (fmtWidth (cvtFmt op.w1hi.toNat)) op.count.toNat) = false →
        Runs (.vld a op .none) s fun t => faulted ePartition t ∧ HostOnly s t) ∧
      (∀ z, VecReady s a op [0] 0 → VmemReady s a op → (s.partAt a).sram a.tile (sramAddr op) ≤ z →
        z < (s.partAt a).sram a.tile (sramAddr op) + packedBytes (fmtWidth (cvtFmt op.w1hi.toNat)) op.count.toNat →
        Runs (.vld a op (.sramUE z)) s fun t => faulted eSramUE t ∧ (t.tileAt a).eccSuspect = true ∧
          ((s.tileAt a).eccSuspect = true → (t.tileAt a).outOfService = true)))

/-! ### Schedule items -/

/-- VOTE opens the exchange for H slots with the bits raised so far; UCMD writes the update command to every tile of its group
and is complete; DEMAND opens its window, and is complete where no fetch of its layer is outstanding. An item outside its
function's slots, or without its inputs, waits (R170, R186, R234, R247, R249, R250). -/
def Obligations.VoteUcmdDemandItems : Prop :=
  ∀ (s : State) (fn idx : Nat) (e : StepEntry),
    let f := s.func fn
    (ItemReady s fn idx opVOTE .issued e →
      Runs (.vote fn idx) s fun t => OnlyFunc s t fn ∧
        t.func fn = { f.setItem idx .started with
          voteOpen := true, voteLeft := s.herd.h, voteOr := f.voteOr ||| f.voteBits }) ∧
    (ItemReady s fn idx opUCMD .issued e →
      let ts := s.shareTiles fn e.group
      (∀ x ∈ ts, ∀ y ∈ ts, s.cmdAddr fn x = s.cmdAddr fn y ∨ s.cmdAddr fn x + 32 ≤ s.cmdAddr fn y ∨
        s.cmdAddr fn y + 32 ≤ s.cmdAddr fn x) →
      Runs (.ucmd fn idx) s fun t =>
        t = { s with funcs := t.funcs, mem := t.mem, poison := t.poison } ∧ t.func fn = f.setItem idx .complete ∧
        (∀ j, j ≠ fn → t.func j = s.func j) ∧ (s.updCmd fn).bytes.length = 32 ∧
        (∀ x ∈ ts, t.read (s.cmdAddr fn x) 32 = (s.updCmd fn).bytes) ∧
        ∀ z, (∀ x ∈ ts, ¬(s.cmdAddr fn x ≤ z ∧ z < s.cmdAddr fn x + 32)) → t.byte z = s.byte z) ∧
    (ItemReady s fn idx opDEMAND .issued e →
      Runs (.demand fn idx) s fun t => OnlyFunc s t fn ∧
        (s.fetchOpen fn e.arg = true → (t.func fn).item idx = .started ∧ (t.func fn).demandOpen = some e.arg) ∧
        (s.fetchOpen fn e.arg = false → (t.func fn).item idx = .complete ∧ (t.func fn).demandOpen = none)) ∧
    (fn < 16 → s.entry fn idx = some e → f.run = true → f.item idx = .issued →
      s.groupGranted fn e = false ∨ s.inputsReady fn idx = false →
      (e.op = opTILE → ∀ sweep, NoEffect (.tile fn idx sweep) s) ∧
      (e.op = opMULE → ∀ b u, NoEffect (.mule fn idx b u) s) ∧ (e.op = opUCMD → NoEffect (.ucmd fn idx) s) ∧
      (e.op = opVOTE → NoEffect (.vote fn idx) s) ∧ (e.op = opDEMAND → NoEffect (.demand fn idx) s))

/-- A TILE item starts its section on every tile of its group that has one, and takes one journal slot for each chunk it
sweeps; a sweep waits for the gradient roots that it reads; TILE_SECTION_END completes it once no tile has an instruction left
(R189, R195, R199, R249, R250). -/
def Obligations.TileItems : Prop :=
  ∀ (s : State) (fn idx : Nat) (e : StepEntry),
    let f := s.func fn
    let ts := s.shareTiles fn e.group
    (ItemReady s fn idx opTILE .issued e →
      (Runs (.tile fn idx []) s fun t =>
        t = { s with funcs := t.funcs, tiles := t.tiles } ∧ t.func fn = f.setItem idx .started ∧
        (∀ j, j ≠ fn → t.func j = s.func j) ∧
        ∀ te ∈ ts, ∀ k g, (s.image fn).sectionAt te.1 e.arg = some (k, g) →
          (tget {} (t.tile te.1).seqs te.2).active = true ∧
          (tget {} (t.tile te.1).seqs te.2).iaddr = BitVec.ofNat 32 g.offset ∧
          (tget {} (t.tile te.1).seqs te.2).left = g.instrs.length) ∧
      (∀ c : Chunk, ts ≠ [] → (s.ownedChunks fn).find? (fun x => x.id == c.id) = some c → idx < runBase →
        s.rootsIn fn c = false → NoEffect (.tile fn idx [c.id]) s) ∧
      (∀ c : Chunk, f.state = .on → s.poison = [] → ts ≠ [] →
        (s.ownedChunks fn).find? (fun x => x.id == c.id) = some c →
        let step := (f.runAt idx).step
        (idx < runBase → s.rootsIn fn c = true) → f.step = step ∨ f.gen = step →
        (∀ te ∈ ts, updCmdGood (s.read (s.cmdAddr fn te) 32) = true) →
        (∀ te ∈ ts, (s.image fn).sweeps c (updCmdOf (s.read (s.cmdAddr fn te) 32)).applied = true) →
        f.jslots.any (fun x => x.chunk == c.id && x.step == step) = false →
        Runs (.tile fn idx [c.id]) s fun t =>
          (t.func fn).item idx = .started ∧ (t.func fn).jhead = f.jhead + 1 ∧ (f.step = step → (t.func fn).jstate = 1) ∧
          (t.func fn).jslots = f.jslots ++
            [{ count := f.jhead, chunk := c.id, step := step, committed := false, copied := false }])) ∧
    (ItemReady s fn idx opTILE .started e →
      (∀ te ∈ ts, let q := tget {} (s.tile te.1).seqs te.2
        q.active = true → q.left = 0 ∧ q.stopped = false ∧ q.halted = false) →
      Runs (.tileSectionEnd fn idx) s fun t =>
        t = { s with funcs := t.funcs, tiles := t.tiles } ∧ t.func fn = f.setItem idx .complete ∧
        (∀ j, j ≠ fn → t.func j = s.func j) ∧ ∀ te ∈ ts, (tget {} (t.tile te.1).seqs te.2).active = false)

/-- A MULE item with one transfer between memories writes the converted source bytes at the destination and nothing else; a
list that is all done, its frames acknowledged and its receiving transfers filled, is completed by MULE_LIST_COMPLETE (R34,
R249, R250, R458). -/
def Obligations.MuleItems : Prop :=
  ∀ (s : State) (fn idx : Nat) (e : StepEntry) (l : XferList),
    let f := s.func fn
    (s.image fn).xferList e.arg = some l →
    (∀ (x : Xfer) (b : BaseImage) (d : Nat) (rs : List (Nat × Nat)), ItemReady s fn idx opMULE .issued e →
      f.state = .on → s.dbg.muleHalt.contains fn = false →
      s.dbg.haltAsked.contains (fn, none) = false → Unwatched s → s.poison = [] → l.xfers = [x] →
      tget 0 f.muleNext idx = 0 → s.base = some b → s.xferBad b x = false → x.srcSp ≤ 3 → x.dstSp ≤ 3 →
      (x.srcSp ≤ 1 → s.expertAt fn x.src = none) → s.endRanges fn x.srcSp x.src x.bytes = some rs →
      s.endRanges fn x.dstSp x.dst x.dstBytes = some [(d, x.dstBytes)] → s.reachable (rs ++ [(d, x.dstBytes)]) = true →
      s.olderEpoch fn (rs ++ [(d, x.dstBytes)]) = false → (x.srcSp ≤ 1 → s.copyPending fn x.src x.bytes = false) →
      let out := (x.convert (s.image fn).job.seed (f.runAt idx).step.toNat (s.readRanges rs)).1
      Runs (.mule fn idx {} .none) s fun t =>
        t = { s with funcs := t.funcs, mem := t.mem } ∧ (∀ j, j ≠ fn → t.func j = s.func j) ∧
        (t.func fn).item idx = .started ∧ tget 0 (t.func fn).muleNext idx = 1 ∧ Stored s t d (out.take x.dstBytes)) ∧
    (ItemReady s fn idx opMULE .started e → l.xfers.length ≤ tget 0 f.muleNext idx → s.listUnacked fn l.index = false →
      (∀ x ∈ l.xfers, x.srcSp = 4 → x.bytes ≤ f.arrived x) →
      Runs (.muleListComplete fn idx) s fun t => OnlyFunc s t fn ∧ (t.func fn).item idx = .complete)

/-- STEPEND, once it has issued and the step's vote is decided and where nothing stops the job, begins the next step at its SCHED:
the step's own registers are cleared, HEAT of each of the function's entries has aged, and late items of the step run on beside
the next (R231, R248, R250, R258). -/
def Obligations.StepBoundary : Prop :=
  ∀ (s : State) (fn k len : Nat), fn < 16 →
    let f := s.func fn
    stepEndOf (s.program fn) = some (k, len) → f.run = true → f.item k = .issued →
    (∀ e ∈ (s.program fn).zipIdx, e.1.op = opVOTE → f.item e.2 = .complete) →
    f.stopAtBoundary = 0 → f.stops = [] →
    ((s.program fn).any (fun e => e.op == opVOTE) = true → bitOf f.voteOut.toNat 2 = false ∧
      ((s.image fn).job.skipLimit = 0 ∨ f.skiprun < (s.image fn).job.skipLimit)) →
    ((s.entriesOf fn).map Prod.fst).Nodup →
    Runs (.stepend fn) s fun t =>
      t = { s with funcs := t.funcs, tiles := t.tiles, ert := t.ert } ∧ (∀ j, j ≠ fn → t.func j = s.func j) ∧
      (t.func fn).run = true ∧ (t.func fn).stepFirst = f.stepFirst + BitVec.ofNat 32 len ∧
      (t.func fn).stepSlots = 0 ∧ (t.func fn).voteBits = f.voteBits ∧ (t.func fn).voteCast = false ∧ (t.func fn).voteOpen = false ∧
      (t.func fn).stats = [] ∧ (t.func fn).shards = [] ∧ (t.func fn).checked = [] ∧ (t.func fn).jstep0 = f.jhead ∧
      (t.func fn).progStep = f.step ∧ (t.func fn).progVar = f.mbvar ∧
      (∀ j, j < runBase → (t.func fn).item j = .waiting ∨ (t.func fn).item j = .issued) ∧
      (((s.image fn).program f.mbvar).length ≤ runBase → ∀ j x, j < runBase → (s.program fn)[j]? = some x → x.op ≠ opSTEPEND →
        f.item j = .issued ∨ f.item j = .started →
        (t.func fn).item (runBase + j) = f.item j ∧ t.entry fn (runBase + j) = some x) ∧
      ∀ e ∈ s.entriesOf fn,
        (t.ertEntry e.1).heat = min (e.2.heat - e.2.heat / 8 + min (tget 0 f.routedStep e.1) 0x1FFF) 0xFFFF

/-- HERD_SLOT_BOUNDARY: herd time comes to its next multiple of 1,024 ns and the slot with it, always; in a formed herd whose
records have all come, the wave H slots back holds SCHED or lets it advance past the largest SCHED heard, and the new slot's LATE
bit enters the wave; in a syncing one the first wave without a LATE bit forms the herd at SCHED 0 (R243, R244, R253, R255,
R263). -/
def Obligations.SlotBoundary : Prop :=
  ∀ (s : State) (causes : List (Nat × HoldKind)),
    let time := BitVec.ofNat 64 (1024 * (s.herd.time.toNat / 1024 + 1))
    let slot := time.toNat / 1024 % 2 ^ 48
    (Runs (.herdSlotBoundary causes) s fun t => t.herd.slot = slot ∧ t.herd.time = time) ∧
    (s.exchanging = false → Runs (.herdSlotBoundary causes) s fun t =>
      t = { s with herd := { s.herd with slot := slot, time := time } }) ∧
    (s.herd.state = .syncing → s.unheard = [] → Runs (.herdSlotBoundary causes) s fun t =>
      if bitOf s.herd.orVec.toNat (s.herd.h - 1) = true then t.herd.state = .syncing ∧ t.herd.held = true
      else t.herd.state = .formed ∧ t.herd.held = false ∧ t.herd.sched = 0) ∧
    (s.herd.state = .formed → s.unheard = [] →
      Runs (.herdSlotBoundary causes) s fun t =>
        t.herd.slot = slot ∧ t.herd.time = time ∧ t.herd.state = .formed ∧
        (bitOf s.herd.orVec.toNat (s.herd.h - 1) = true → t.herd.held = true ∧ t.herd.sched = s.herd.sched) ∧
        (bitOf s.herd.orVec.toNat (s.herd.h - 1) = false → t.herd.held = false ∧ t.herd.sched = s.maxSched + 1) ∧
        t.herd.orVec = s.herd.orVec <<< 1 ||| (if t.herd.late then 1 else 0) ∧ t.herd.missed = false ∧
        (∀ p ∈ s.livePorts, (t.nbr p).heard = false))

/-- CTRL_FRAME_RECEIVE: a frame with a bad FCS counts as an error; the first good control record of the slot from a live
neighbour enters the waves of its last D_s slots. CONTROL_MISS turns those waves to 1 and counts; the third in a row fails the link (R254 to R256). -/
def Obligations.ControlExchange : Prop :=
  ∀ (s : State) (port : Nat), s.isHerdPort port = true →
    (∀ frame : Frame, (s.port port).state = .up → frame.fcsOk = false →
      Runs (.ctrlFrameReceive port frame) s fun t =>
        t = { s with ports := t.ports } ∧ (t.port port).errfrm = satAdd 12 (s.port port).errfrm 1) ∧
    (∀ (frame : Frame) (h : HerdHdr), (s.port port).state = .up → s.frameFate port frame = .take h → h.kind = kCTRL →
      ctrlReserved frame.body h.xid = false → s.exchanging = true → port ∈ s.livePorts →
      (s.nbr port).heard = false → (s.nbr port).counted = false →
      let r := slice frame.body 16 32
      beAt r 28 4 = (crc32c (slice r 0 28)).toNat → beAt r 2 6 = s.herd.slot → beAt r 0 2 = s.peer port →
      Runs (.ctrlFrameReceive port frame) s fun t =>
        (t.nbr port).heard = true ∧ (t.nbr port).sched = BitVec.ofNat 32 (beAt r 8 4) ∧
        t.herd.orVec = s.herd.orVec ||| (BitVec.ofNat 16 (beAt r 12 2) &&& BitVec.ofNat 16 (2 ^ (s.herd.h - 1) - 1)) ∧
        t.herd.sched = s.herd.sched) ∧
    (s.exchanging = true → port ∈ s.unheard →
      Runs (.controlMiss port) s fun t =>
        t.herd.orVec = s.herd.orVec ||| BitVec.ofNat 16 (2 ^ (s.herd.h - 1) - 1) ∧ t.herd.missed = true ∧ t.herd.sched = s.herd.sched ∧ (t.nbr port).counted = true ∧
        (s.herd.state = .formed → (t.nbr port).misses = (s.nbr port).misses + 1 ∧
          t.herd.misses = satAdd 32 s.herd.misses 1 ∧ (3 ≤ (s.nbr port).misses + 1 → (t.nbr port).failed = true)))

/-- HOLD_TIMEOUT of a late item: ITEM_STALL is recorded and the function is DRAINING with its job ended (R259). -/
def Obligations.ItemStall : Prop :=
  ∀ (s : State) (fn idx : Nat) (e : StepEntry), fn < 16 → s.entry fn idx = some e → (s.func fn).run = true →
    (s.func fn).late s.herd.sched idx e = true → (s.func fn).state = .on →
    Runs (.holdTimeout fn idx) s fun t =>
      Recorded t eItemStall clsFunction (some fn) ∧ (t.func fn).state = .draining ∧ (t.func fn).run = false ∧
      (t.func fn).items = [] ∧ HostOnly s t

/-! ### The training step -/

/-- VOTE_FORM casts the member's vote once every owned chunk is checked: NONFIN where it met a non-finite value, NORM where the
norm, summed over the layers' value trees, is above the ceiling. VOTE_DECISION ends the exchange: the item is complete and the decision follows the ORed vote; a bit raised after the vote
went out stays for the next one (the model's reading, assumption 69) (R164, R168 to R172, R194, R198). -/
def Obligations.SkipVote : Prop :=
  ∀ (s : State) (fn : Nat), fn < 16 →
    let f := s.func fn
    let i := s.image fn
    (∀ (xs ys zs : List ShardNorm) (g : Node) (mb : W32), f.run = true → f.voteCast = false → f.step = f.progStep →
      s.stepNorms fn (xs ++ ys ++ zs) = some (g, mb) →
      (s.voteReady fn = false → NoEffect (.voteForm fn xs ys zs) s) ∧
      (s.voteReady fn = true → s.missingRoots fn = [] → Runs (.voteForm fn xs ys zs) s fun t =>
        let f' := t.func fn
        let nf := if s.ownNonfin fn ≠ 0 then 1 else 0
        let nm := if nodeAbove g i.job.ceilSq then 2 else 0
        OnlyFunc s t fn ∧ f'.voteCast = true ∧ f'.gnorm = g ∧ f'.mbnorm = mb ∧
        f'.voteBits = f.voteBits ||| BitVec.ofNat 8 nf ||| BitVec.ofNat 8 nm ∧ f'.voteOr = f.voteOr ||| f'.voteBits)) ∧
    (∀ k e, (s.program fn).zipIdx.find? (fun y => y.1.op == opVOTE && f.item y.2 == .started) = some (e, k) →
      f.run = true → f.state = .on → f.voteOpen = true → f.voteCast = true → f.voteLeft = 0 → s.poison = [] →
      Runs (.voteDecision fn) s fun t =>
        (t.func fn).item k = .complete ∧ (t.func fn).voteOpen = false ∧ (t.func fn).step = f.step + 1 ∧
        (t.func fn).outcome = outcomeOf f.voteOr ∧ (t.func fn).voteBits = f.voteBits &&& ~~~f.voteOr ∧
        ((t.func fn).outcome = 0 → (t.func fn).gen = f.step ∧ (t.func fn).applied = f.applied + 1) ∧
        ((t.func fn).outcome ≠ 0 → (t.func fn).gen = f.gen ∧ (t.func fn).applied = f.applied))

/-- SHARD_RECEIVE places the shard as received and keeps its header; an older GEN votes GEN, a bad CRC votes FAULT (R151 to
R155). BUCKET_RECEIVE of one record that is an owned block's whole tree stores the block's root; a bad CRC votes FAULT (R159
to R164). -/
def Obligations.ShardsAndBuckets : Prop :=
  ∀ (s : State) (fn : Nat), fn < 16 → (s.func fn).run = true →
    let f := s.func fn
    let i := s.image fn
    (∀ (pass : Pass) (hd pl : List Byte) (dst : Nat), hd.length = 32 → s.ownSram fn dst pl.length = true →
      let h := shardSeen hd
      let stale := h.gen ≠ f.gen ∨ leAt hd 8 4 ≠ f.progStep.toNat ∨
        (pass ≠ .forward ∧ ∃ x, f.shards.find? (fun x => x.layer == h.layer && x.lshard == h.lshard) = some x ∧ x ≠ h)
      let torn := shardFormed hd pl = false ∨ h.crc ≠ crc32c (slice hd 0 28 ++ pl)
      (stale ∨ torn → repeated f 0 h.layer h.lshard = false) →
      Runs (.shardReceive fn pass hd pl dst) s fun t =>
        Stored s t dst pl ∧ (∀ j, j ≠ fn → t.func j = s.func j) ∧ (t.func fn).state = f.state ∧
        (¬stale → ¬torn → t.errs = s.errs ∧ (t.func fn).voteBits = f.voteBits) ∧
        (stale → bitOf (t.func fn).voteBits.toNat 3 = true) ∧ (torn → bitOf (t.func fn).voteBits.toNat 4 = true) ∧
        (pass = .forward → h ∈ (t.func fn).shards)) ∧
    (∀ bs : List Byte, 64 ≤ bs.length → leAt bs 12 4 = 0 →
      let good := leAt bs 60 4 = (crc32c (slice bs 0 60)).toNat ∧ leAt bs 24 4 = (crc32c (bs.drop 64)).toNat
      (good → NoEffect (.bucketReceive fn bs) s) ∧
      (¬good → repeated f 2 (leAt bs 8 2) (pair (leAt bs 6 1) (leAt bs 4 2)) = false →
        Runs (.bucketReceive fn bs) s fun t =>
          t = { s with funcs := t.funcs, errs := t.errs } ∧ bitOf (t.func fn).voteBits.toNat 4 = true ∧
          (∀ j, j ≠ fn → t.func j = s.func j) ∧ Recorded t eCrcFailure clsStep (some fn))) ∧
    (∀ (bs : List Byte) (p : TreePart) (l : Layer) (shard pos : Nat) (b : Block), 64 ≤ bs.length →
      leAt bs 60 4 = (crc32c (slice bs 0 60)).toNat → leAt bs 24 4 = (crc32c (bs.drop 64)).toNat → leAt bs 12 4 = 1 →
      bucketRecords 1 (bs.drop 64) = [p] → 16 ≤ (bs.drop 64).length →
      i.treeBlock p.tree.toNat = some (l, shard, pos, b) → (f.parts.filter fun q => q.tree == p.tree) = [] →
      offending p (p.nspanM1 + 1) 0 (p.nspanM1 + 1) [] [p] = none → uncovered (p.nspanM1 + 1) 0 (p.nspanM1 + 1) [p] = none →
      p.rows = b.rows → p.cols = b.cols → f.gradBusy = false → s.poison = [] →
      s.herd.stageTo s.herd.member (i.ownerOf s.herd.count l.layer shard) = 3 →
      (∃ m ∈ s.herd.box s.herd.member 3, i.tokenShards s.herd.count m l ≠ []) →
      (∀ m ∈ s.herd.box s.herd.member 3, ∀ j ∈ i.tokenShards s.herd.count m l,
        uncovered (p.nspanM1 + 1) (i.job.shardSpans (p.nspanM1 + 1) j).1 (i.job.shardSpans (p.nspanM1 + 1) j).2 [p] = none) →
      let ns := (List.range (b.rows * b.cols)).map fun k =>
        (combineNode (p.nspanM1 + 1) [p] k (clog2 (p.nspanM1 + 1)) 0).1
      let root := if i.job.path = 0 then ns.flatMap fun n => leBytes 2 (encodePlain 1 .rne true n.value).1
                  else ns.flatMap fun n => leBytes 4 n.fp32.toNat
      Runs (.bucketReceive fn bs) s fun t =>
        t.mem = (s.writeVA fn (s.gradVa fn f.progStep l.layer shard pos) root).mem ∧
        t = { s with funcs := t.funcs, tiles := t.tiles, mem := t.mem, poison := t.poison } ∧
        (∀ j, j ≠ fn → t.func j = s.func j) ∧ f.progStep ∈ (t.func fn).gradKept ∧
        ∃ x ∈ (t.func fn).stats, x.root = true ∧ x.layer = l.layer ∧ x.lshard = shard ∧ x.block = pos ∧
          x.gSq = sumSq (ns.map Node.fp32) ∧ x.gMax = maxAbs (ns.map Node.fp32) ∧ x.gNf = nfCount (ns.map Node.fp32))

/-- A dispatch record is placed with +0 in the slots from KEPT to CAP − 1; the headers' arrival fetches on demand each parked
expert that has a kept row and no copy; a fetch's end leaves a VALID copy only while its LASTGEN is GEN (R222, R223, R229,
R233 to R235). -/
def Obligations.ExpertTraffic : Prop :=
  ∀ (s : State) (fn : Nat), fn < 16 →
    let f := s.func fn
    let i := s.image fn
    (∀ (sender rowBytes dst : Nat) (bs : List Byte) (el : ExpertLayer) (e : Nat) (r : ExpertRec),
      let x := beAt bs 2 2
      let kept := beAt bs 8 2
      let rows := bs.drop 16 ++ zeros ((el.cap - kept) * rowBytes)
      i.expertLayer (beAt bs 0 2) = some el → i.ertOf (beAt bs 0 2) x = some e → el.experts[x]? = some r →
      f.run = true → bs.length = 16 + kept * rowBytes → kept ≤ el.cap →
      i.ownerOf s.herd.count (beAt bs 0 2) r.lshard = s.herd.member → s.ownSram fn dst rows.length = true →
      beAt bs 12 4 = (crc32c (slice bs 0 12 ++ bs.drop 16)).toNat →
      Runs (.dispatchRecordReceive fn true sender bs rowBytes dst) s fun t =>
        Stored s t dst rows ∧ t = { s with funcs := t.funcs, mem := t.mem, poison := t.poison } ∧
        (∀ j, j ≠ fn → t.func j = s.func j) ∧
        tget 0 (t.func fn).routedStep e = tget 0 f.routedStep e + beAt bs 10 2 ∧
        { layer := beAt bs 0 2, expert := x, unit := beAt bs 4 4, kept := kept, routed := beAt bs 10 2 } ∈
          (t.func fn).dispatch) ∧
    (∀ (layer : Nat) (el : ExpertLayer), i.expertLayer layer = some el → f.run = true → f.prefetches = [] →
      (s.demanded fn layer = [] → Runs (.dispatchHeadersArrive fn layer) s fun t => t = s.setFunc fn f) ∧
      (∀ x k, s.demanded fn layer = [x] → s.freeSlot fn = some k →
        Runs (.dispatchHeadersArrive fn layer) s fun t =>
          t.ertEntry x = { s.ertEntry x with copy := 1, slot := k } ∧ (∀ y, y ≠ x → t.ertEntry y = s.ertEntry y) ∧
          (t.func fn).xDemand = satAdd 32 f.xDemand 1 ∧
          (t.func fn).fetches = f.fetches ++ [{ entry := x, slot := k, lastgen := f.gen, demand := true }])) ∧
    (∀ (x : Fetch) (late : Bool) (a b : Nat),
      let e := s.ertEntry x.entry
      f.fetches.find? (fun y => y.entry == x.entry) = some x → s.homeUp fn e = true →
      s.expertDone fn e.layer e.expert f.gen = true → s.poison = [] → MemOk s → e.npage = 1 →
      s.translate fn (e.homeVpn * pageSize) = some a →
      s.translate fn (s.slotVa fn x.slot / pageSize * pageSize) = some b →
      Runs (.expertFetchComplete fn x.entry late .none) s fun t =>
        (∀ o, o < pageSize → t.byte (b + o) = s.byte (a + o)) ∧
        (∀ z, ¬(b ≤ z ∧ z < b + pageSize) → t.byte z = s.byte z) ∧
        t.ertEntry x.entry =
          (if x.lastgen = e.gen then { e with copy := 2, slot := x.slot, copyGen := x.lastgen }
           else { e with copy := 0, slot := x.slot }) ∧
        x ∉ (t.func fn).fetches ∧
        (t.func fn).xOver = if late && x.demand then satAdd 32 f.xOver 1 else f.xOver)

/-! ### The update journal -/

/-- A commit record, a commit copy and the release of a slot, in the order of R199; a copy waits for the read of an older
generation's snapshot; the step-counter check votes SKEW and reports a chunk whose state word disagrees (R181, R194, R197,
R199). -/
def Obligations.Journal : Prop :=
  ∀ (s : State) (fn : Nat), fn < 16 →
    let f := s.func fn
    let i := s.image fn
    let slot (x : JSlot) : Nat := x.count.toNat % i.job.nslot
    (∀ x, f.nextCommit = some x → f.state = .on → s.poison = [] →
      Runs (.commitRecordWrite fn) s fun t =>
        (f.parts = [] →
          t.mem = (s.writeVA fn (i.job.journalVa + commitOff i.job.nslot (slot x))
            (commitRecord (s.readVA fn (i.job.journalVa + headerOff (slot x)) 64) (slot x))).mem ∧
          t = { s with funcs := t.funcs, mem := t.mem, poison := t.poison }) ∧
        (∀ j, j ≠ fn → t.func j = s.func j) ∧ (t.func fn).commitDue = f.commitDue.filter (fun k => k != x.chunk) ∧
        (t.func fn).jslots = f.jslots.map fun y => if y.count = x.count then { y with committed := true } else y) ∧
    (∀ (c : Chunk), (s.ownedChunks fn).find? (fun y => y.id == c.id) = some c → f.state = .on → s.poison = [] →
      f.copyHeld = true → Runs (.commitCopy fn c.id) s fun t => SameMemory s t ∧ (t.func fn).jslots = f.jslots) ∧
    (∀ (c : Chunk) (x : JSlot), (s.ownedChunks fn).find? (fun y => y.id == c.id) = some c → f.state = .on →
      f.copyHeld = false → c.id ∉ f.pendingRoots → s.poison = [] →
      f.jslots.find? (fun y => y.step == f.gen && y.chunk == c.id && y.committed && !y.copied) = some x →
      Runs (.commitCopy fn c.id) s fun t =>
        t.mem = (s.copySlot fn c (slot x) f.gen f.applied).mem ∧ (∀ j, j ≠ fn → t.func j = s.func j) ∧
        t = { s with funcs := t.funcs, mem := t.mem, poison := t.poison, ert := t.ert, out := t.out, errs := t.errs } ∧
        (f.snapWanted = [] → t.out = s.out ∧ t.errs = s.errs) ∧
        (t.func fn).jslots = f.jslots.map fun y => if y.count = x.count then { y with copied := true } else y) ∧
    (∀ x rest, f.jslots = x :: rest → x.copied = true →
      Runs (.slotRelease fn) s fun t => OnlyFunc s t fn ∧ (t.func fn).jtail = x.count + 1 ∧ (t.func fn).jslots = rest ∧
        (t.func fn).jhead = f.jhead) ∧
    (∀ chunk, (s.ownedChunks fn).any (fun c => c.id == chunk) = true → f.run = true → chunk ∉ f.pendingRoots →
      f.state = .on → s.poison = [] → chunk ∉ f.commitDue →
      f.jslots.any (fun x => x.step == f.gen && x.chunk == chunk && !x.copied) = false →
      let w := s.readVA fn (i.stateVa chunk) 16
      let agrees := stateWordOk w = true ∧ leAt w 0 4 = f.gen.toNat ∧ leAt w 4 4 = f.applied.toNat
      (agrees → Runs (.chunkStateCheck fn chunk) s fun t => OnlyFunc s t fn ∧
        t.func fn = { f with checked := (chunk :: f.checked).eraseDups }) ∧
      (¬agrees → Runs (.chunkStateCheck fn chunk) s fun t =>
        t = { s with funcs := t.funcs, errs := t.errs } ∧ Recorded t eStepSkew clsStep (some fn) ∧
        (t.func fn).voteBits = f.voteBits ||| 4 ∧ chunk ∈ (t.func fn).checked ∧ ∀ j, j ≠ fn → t.func j = s.func j))

/-- JOURNAL_RECOVERY releases every slot, gives up every expert copy, and lets a halted job go on from a grant boundary; a
skipped step that another member decided is taken over, and a chunk that cannot be recovered stops the function (R203, R206,
R230, R264). -/
def Obligations.Recovery : Prop :=
  ∀ (s : State) (fn : Nat) (members : List MemberRecovery) (b : BaseImage), fn < 16 → s.base = some b →
    let f := s.func fn
    let r := (s.onFunc fn fun f => { f with jstate := 5 }).recoverSteps fn members
    f.state = .on → f.interrupted = true → f.run = false → s.herd.state = .formed →
    members.length + 1 = s.herd.count →
    (∀ c k, r.2 = some (c, k) → Runs (.journalRecovery fn members) s fun t =>
      (t.func fn).state = .draining ∧ Recorded t eJournal clsFunction (some fn)) ∧
    (f.jstate ≠ 6 → (s.lastDecision fn members = none ∨
        ∃ d, s.lastDecision fn members = some d ∧ d.outcome ≠ 0 ∧ s.poison = []) →
      Runs (.journalRecovery fn members) s fun t =>
        (t.func fn).jslots = [] ∧ (t.func fn).jtail = (t.func fn).jhead ∧ (t.func fn).interrupted = false ∧
        (t.func fn).recovered = satAdd 16 f.recovered 1 ∧ (t.func fn).fetches = [] ∧ (t.func fn).prefetches = [] ∧
        (f.halted = false → (t.func fn).armed = f.armed) ∧
        (f.halted = true → (t.func fn).halted = false ∧ (t.func fn).armed = true ∧
          (t.func fn).s0 = resumeAt (max 1 b.grantG) s.herd.h (s.herd.sched :: members.map MemberRecovery.sched)) ∧
        (∀ d, s.lastDecision fn members = some d → f.step = d.step →
          (t.func fn).step = d.step + 1 ∧ (t.func fn).gen = d.gen ∧ (t.func fn).applied = d.applied) ∧
        (s.lastDecision fn members = none → (t.func fn).step = f.step ∧ HostOnly s t) ∧
        ∀ e ∈ s.entriesOf fn, (t.ertEntry e.1).copy = 0)

/-! ### Memory -/

/-- The patrol counts errors and poisons an uncorrectable line in place, whose page goes from GOOD to SUSPECT and from SUSPECT
to RETIRED; a corrected line's write-back changes no data (R303, R304, R307). -/
def Obligations.PatrolAndCorrections : Prop :=
  ∀ (s : State) (dpa : Nat), s.inStack dpa = true →
    let line := dpa / 64 * 64
    let p := line / pageSize
    let k := p / 32768
    NoEffect (.ceWriteback dpa) s ∧ NoEffect (.patrolRead dpa .none false) s ∧
    (Runs (.patrolRead dpa .none true) s fun t =>
      t = s.setDie (k / 3) { s.die (k / 3) with
        patrolSlow := false, patrolPasses := ((s.die (k / 3)).patrolPasses + 1) % 2 ^ 31 }) ∧
    (∀ a, Runs (.patrolRead dpa (.hbmCE a) false) s fun t =>
      t = s.setStack k { s.stack k with ce := satAdd 16 (s.stack k).ce 1 }) ∧
    (∀ a, line ∈ s.poison → NoEffect (.patrolRead dpa (.hbmUE a) false) s) ∧
    (∀ a, line ∉ s.poison → Runs (.patrolRead dpa (.hbmUE a) false) s fun t =>
      line ∈ t.poison ∧ (t.stack k).ue = satAdd 16 (s.stack k).ue 1 ∧ (t.page p).ues = satAdd 8 (s.page p).ues 1 ∧
      ((s.page p).health = .good → (t.page p).health = .suspect) ∧
      ((s.page p).health = .suspect → (t.page p).health = .retired ∧ ((s.page p).use = .free → (t.page p).withdrawn = true)) ∧
      ∀ z, z < companionBase → ¬(line ≤ z ∧ z < line + 64) → t.byte z = s.byte z)

/-- PATROL_SLOW sets its flag; a failed stack stops every function that holds a page of it, all of them for stack 0; a stalled
tile stops the functions with a share on it (R28, R304, R306). -/
def Obligations.StackAndTileFailures : Prop :=
  ∀ (s : State) (d k n : Nat),
    (s.dieFitted d = true → Runs (.patrolSlow d) s fun t => t = s.setDie d { s.die d with patrolSlow := true }) ∧
    (s.stackFitted k = true → (s.stack k).failed = false →
      Runs (.stackFailed k) s fun t =>
        (t.stack k).failed = true ∧ Recorded t eStackFailed clsFunction none ∧ HostOnly s t ∧
        ∀ fn, fn < 16 → (s.func fn).state = .on → (k = 0 ∨ fn ∈ s.stackUsers k) → (t.func fn).state = .draining) ∧
    (s.tileFitted n = true → (s.tile n).stalled = false →
      ((∀ e ∈ (s.tile n).seqs, s.seqCanProceed n e.1 e.2 = false) → NoEffect (.tileStall n) s) ∧
      ((∃ e ∈ (s.tile n).seqs, s.seqCanProceed n e.1 e.2 = true) → Runs (.tileStall n) s fun t =>
        (t.tile n).stalled = true ∧ Recorded t eTileStall clsFunction none ∧ HostOnly s t ∧
        ∀ fn ∈ (s.tile n).funcs, (s.func fn).state = .on → (t.func fn).state = .draining))

/-- A host access to a device-bias page flips it and counts; a write is also reported; device bias returns when it was asked
for again (R311, R313). -/
def Obligations.BiasFlips : Prop :=
  ∀ (s : State) (fn vpn : Nat), fn < 16 →
    let f := s.func fn
    let e := tget {} f.table vpn
    (f.state = .on → e.valid = true → e.companion = true → e.bias = false → vpn ∉ f.flipped →
      (Runs (.hostBiasFlip fn vpn false) s fun t => OnlyFunc s t fn ∧
        t.func fn = { f with flipped := f.flipped ++ [vpn], flips := satAdd 32 f.flips 1 }) ∧
      (Runs (.hostBiasFlip fn vpn true) s fun t =>
        t = { s with funcs := t.funcs, errs := t.errs } ∧ Recorded t eBias clsNotice (some fn) ∧
        t.func fn = { f with
          flipped := f.flipped ++ [vpn], flips := satAdd 32 f.flips 1, hostWr := satAdd 16 f.hostWr 1 })) ∧
    (vpn ∈ f.biasAsked → Runs (.deviceBiasGrant fn vpn) s fun t => OnlyFunc s t fn ∧
      vpn ∉ (t.func fn).flipped ∧ vpn ∉ (t.func fn).biasAsked ∧ ∀ v, v ≠ vpn → (v ∈ (t.func fn).flipped ↔ v ∈ f.flipped))

/-! ### Queues -/

/-- A completion record: 32 bytes at CHEAD's place on the ring, with its phase and CRC; CHEAD advances; the interrupt comes
only where the ring was empty (R333, R334). -/
def Obligations.CompletionRecord : Prop :=
  ∀ (s : State) (c : Cmd) (status : Nat) (result : List Byte),
    let q := s.queue c.q
    q.running = some c → Quiet s c.q → s.cplReady q = true → s.badRings.contains c.q = false →
    let k : Completion := { tag := c.tag, entry := c.entry, status := status, result := result }
    let t := s.complete c status result
    Stored s t (hostDpa q.cplAddr) (cplBytes q.chead q.log2Cpl k) ∧ (cplBytes q.chead q.log2Cpl k).length = 32 ∧
    t.queue c.q = { q with running := none, chead := q.chead + 1 } ∧ (∀ j, j ≠ c.q → t.queue j = s.queue j) ∧
    t = { s with queues := t.queues, mem := t.mem, poison := t.poison, out := t.out } ∧
    t.out = (if q.chead = q.cdone ∧ q.ipath ≠ 2 then [Out.interrupt q.ipath q.ivec] else []) ++ s.out

/-- DOORBELL_WRITE: in an idle or host-halted queue it is only counted; else each half is taken if the sequence numbers allow
it, and else ignored and counted (R331). -/
def Obligations.Doorbells : Prop :=
  ∀ (s : State) (q : Nat) (v : W64), q < queueCount →
    let x := s.queue q
    let lo := v.extractLsb' 0 32
    let hi := v.extractLsb' 32 32
    let tailOk := (lo - x.head).toNat ≤ 2 ^ x.log2Ent ∧ (lo - x.tail).toNat < 2 ^ 31
    let cdoneOk := (hi - x.cdone).toNat < 2 ^ 31 ∧ (x.chead - hi).toNat < 2 ^ 31
    Quiet s q →
    (x.state = .idle ∨ x.state = .haltedHost → ∀ h, Runs (.doorbellWrite q h v) s fun t => OnlyQueue s t q ∧
      t.queue q = { x with ignored := satAdd 32 x.ignored 1 }) ∧
    (x.state = .active ∨ x.state = .haltedError →
      (Runs (.doorbellWrite q none v) s fun t => OnlyQueue s t q ∧
        (t.queue q).tail = (if tailOk then lo else x.tail) ∧ (t.queue q).cdone = (if cdoneOk then hi else x.cdone) ∧
        (tailOk → cdoneOk → (t.queue q).ignored = x.ignored)) ∧
      (Runs (.doorbellWrite q (some false) v) s fun t => OnlyQueue s t q ∧
        t.queue q = if tailOk then { x with tail := lo } else { x with ignored := satAdd 32 x.ignored 1 }))

/-- ENTRY_FETCH of a fresh, well-formed entry makes it the queue's command and advances HEAD; a stale entry is read again by
ENTRY_REREAD, and the eighth stale read halts the queue (R330, R332, R336). -/
def Obligations.EntryFetch : Prop :=
  ∀ (s : State) (q : Nat) (bs : List Byte), q < queueCount → bs.length = 64 → s.fetchReady q = true → s.poison = [] →
    let x := s.queue q
    (x.stale = false → entryFresh bs x.head x.log2Ent = true →
      (∀ fields, opcodeArgs (leAt bs 0 1) = some (decide (q = 0), fields) → reservedClear bs fields = true →
        let c : Cmd := { q := q, entry := x.head, opcode := leAt bs 0 1, tag := BitVec.ofNat 32 (leAt bs 4 4), bytes := bs }
        Runs (.entryFetch q (.ok bs) .none) s fun t => OnlyQueue s t q ∧
          t.queue q = { x with head := x.head + 1, stale := false, rereads := 0, running := some c })) ∧
    (x.stale = false → entryFresh bs x.head x.log2Ent = false →
      Runs (.entryFetch q (.ok bs) .none) s fun t => OnlyQueue s t q ∧ t.queue q = { x with stale := true, rereads := 0 }) ∧
    (x.stale = true → entryFresh bs x.head x.log2Ent = false → x.rereads < 7 →
      Runs (.entryReread q (.ok bs)) s fun t => OnlyQueue s t q ∧
        t.queue q = { x with stale := true, rereads := x.rereads + 1 }) ∧
    (x.stale = true → entryFresh bs x.head x.log2Ent = false → x.rereads = 7 →
      Runs (.entryReread q (.ok bs)) s fun t =>
        (t.queue q).state = .haltedError ∧ (t.queue q).head = x.head ∧
        Recorded t eQueueStale clsCommand (if x.view < 16 then some x.view else none)) ∧
    (x.stale = true → entryFresh bs x.head x.log2Ent = true →
      ∀ fields, opcodeArgs (leAt bs 0 1) = some (decide (q = 0), fields) → reservedClear bs fields = true →
        Runs (.entryReread q (.ok bs)) s fun t => OnlyQueue s t q ∧ (t.queue q).stale = false ∧
          (t.queue q).head = x.head + 1 ∧ (t.queue q).running.isSome = true)

/-- QCREATE arms a function's queue, QRESUME releases one halted by an error, QDESTROY returns a quiet one to IDLE; ARM and
DISARM do the same for queue 0. A queue that becomes active while a ring of it is on a link that is out halts with HALTED_LINK
(R322, R332, R336, R338, R343). -/
def Obligations.QueueCommands : Prop :=
  ∀ (s : State) (q : Nat) (c : Cmd),
    let id := c.arg 8 4
    let v := s.queue id
    (∀ x : Queue, s.activeState x = if ∃ h, h < s.code.hubs ∧ (s.lwl h).state = .out ∧ s.ringOn h x = true then .haltedLink
      else .active) ∧
    (∀ fn, InProgress s q 0x20 c → s.queueFunc id = some fn → 512 ≤ id → id < queueCount →
      4 ≤ c.arg 12 1 → c.arg 12 1 ≤ 16 → 4 ≤ c.arg 13 1 → c.arg 13 1 ≤ 16 → c.arg 14 1 ≤ 2 →
      c.arg 24 8 % 4096 = 0 → c.arg 32 8 % 4096 = 0 → c.arg 24 8 + 2 ^ c.arg 12 1 * 64 ≤ 2 ^ 47 →
      c.arg 32 8 + 2 ^ c.arg 13 1 * 32 ≤ 2 ^ 47 → (s.func fn).state = .on → v.state = .idle ∨ v.state = .haltedHost →
      s.poison = [] →
      let x : Queue := {
        ring := BitVec.ofNat 64 (c.arg 24 8), cpl := BitVec.ofNat 64 (c.arg 32 8), log2Ent := c.arg 12 1
        log2Cpl := c.arg 13 1, state := .active, view := fn, ivec := c.arg 16 2, ipath := c.arg 14 1
        epoch := s.larwa.epoch }
      Finishes (.qcreate q) s (s.setQueue id { x with state := s.activeState x }) c stSuccess []) ∧
    (InProgress s q 0x21 c → id ≠ 0 → id < queueCount →
      (v.state = .idle → Finishes (.qdestroy q) s s c stSuccess []) ∧
      (q ≠ id → v.state = .active → v.running = none → Quiet s id → Quiet s q → c.q = q →
        (∀ fn, fn < 16 → (s.func fn).enablingCmds = [] ∧ (s.func fn).pendingCmds = [] ∧ (s.func fn).snap = none) →
        Runs (.qdestroy q) s fun t => (t.queue id).state = .idle ∧ (t.queue q).running = none)) ∧
    (InProgress s q 0x22 c → id ≠ 0 → id < queueCount → v.state = .haltedError → v.err ≠ stDataError →
      let head := if c.arg 12 1 = 1 then v.tail else v.head
      Finishes (.qresume q) s (s.setQueue id { v with state := s.activeState v, head := head, stale := false, rereads := 0 }) c
        stSuccess (leBytes 4 head.toNat)) ∧
    ((s.queue 0).state ≠ .active → 4 ≤ s.larwa.aqRingLog2.toNat → s.larwa.aqRingLog2.toNat ≤ 16 →
      4 ≤ s.larwa.aqCplLog2.toNat → s.larwa.aqCplLog2.toNat ≤ 16 →
      Runs .arm s fun t =>
        (t.queue 0).state = s.activeState (t.queue 0) ∧ (t.queue 0).view = 16 ∧ (t.queue 0).epoch = s.larwa.epoch ∧
        (t.queue 0).head = 0 ∧ (t.queue 0).tail = 0 ∧ (t.queue 0).chead = 0 ∧
        (t.queue 0).ring = BitVec.ofNat 64 (s.larwa.aqRingBase.toNat * 4096)) ∧
    ((s.queue 0).state = .active → Runs .arm s fun t => t = { s with larwa := { s.larwa with aqArmErr := true } }) ∧
    ((s.queue 0).state = .idle → NoEffect .disarm s) ∧
    ((s.queue 0).state = .active → (s.queue 0).running = none → Quiet s 0 →
      (∀ fn, fn < 16 → (s.func fn).enablingCmds = [] ∧ (s.func fn).pendingCmds = [] ∧ (s.func fn).snap = none) →
      Runs .disarm s fun t => (t.queue 0).state = .idle)

/-! ### Functions -/

/-- The life of a function: ENABLE of an OFF function with an image starts ENABLING, its end is ON with tables and registers
from the image, DISABLE is DRAINING, the drain's end SCRUBBING, and the scrub's end OFF with every page of it zeroed and free
(R314, R339, R340). -/
def Obligations.FunctionLife : Prop :=
  ∀ (s : State) (q : Nat) (c : Cmd) (fn : Nat),
    let f := s.func fn
    let i := s.image fn
    (InProgress s q 0x10 c → c.arg 8 1 = fn → fn < 16 → c.arg 24 4 = 0 → s.boot.stage ≠ .prepared →
      s.boot.remreq = false → s.boot.dead = false → s.imgWait = none →
      (f.state = .on → Finishes (.enable q (.ok [])) s s c stSuccess (stateResult 0 .on)) ∧
      (f.state = .off → (tkeys s.images).contains fn = false →
        Finishes (.enable q (.ok [])) s s c stRefused (stateResult 2 .off)) ∧
      (f.state = .off → (tkeys s.images).contains fn = true →
        Runs (.enable q (.ok [])) s fun t =>
          t.func fn = { f with state := .enabling, epoch := s.larwa.epoch, hostPages := [], enablingCmds := [c] } ∧
          (∀ j, j ≠ fn → t.func j = s.func j))) ∧
    (fn < 16 → f.state = .enabling →
      (s.enableRefusal fn i f.hostPages = none →
        Runs (.enablingDone fn) s fun t =>
          t.func fn = i.fresh f.epoch f.hostPages (s.place i f.hostPages).1 ∧ (∀ j, j ≠ fn → t.func j = s.func j) ∧
          (∀ p ∈ (s.place i f.hostPages).2.1, p ∉ (s.place i f.hostPages).2.2 → (t.page p).use = .mapped fn) ∧
          ∀ p ∈ (s.place i f.hostPages).2.2, (t.page p).use = .descriptor fn) ∧
      (∀ r, s.enableRefusal fn i f.hostPages = some r →
        Runs (.enablingDone fn) s fun t => (t.func fn).state = .off ∧ (t.func fn).enablingCmds = [] ∧
          (∀ j, j ≠ fn → t.func j = s.func j) ∧ HostOnly s t)) ∧
    (InProgress s q 0x11 c → c.arg 8 1 = fn → fn < 16 →
      (f.state = .off → Finishes (.disable q) s s c stSuccess (stateResult 0 .off)) ∧
      (f.state = .on → Runs (.disable q) s fun t =>
        (t.func fn).state = .draining ∧ (t.func fn).run = false ∧ (t.func fn).items = [] ∧ HostOnly s t)) ∧
    (fn < 16 → f.state = .draining → s.queuesOf fn = [] →
      Runs (.drainComplete fn) s fun t =>
        (t.func fn).state = .scrubbing ∧ (t.func fn).run = false ∧ (t.func fn).snap = none ∧ SameMemory s t ∧
        (∀ j, j ≠ fn → t.func j = s.func j)) ∧
    (fn < 16 → f.state = .scrubbing → f.pending = none →
      (∀ e ∈ s.pages, e.2.use = .mapped fn ∨ e.2.use = .descriptor fn →
        (s.page e.1).health ≠ .retired ∧ (s.stack (e.1 / 32768)).failed = false) →
      Runs (.scrubComplete fn []) s fun t =>
        (t.func fn).state = .off ∧ (t.func fn).table = [] ∧ (∀ j, j ≠ fn → t.func j = s.func j) ∧
        (∀ e ∈ t.ert, e.2.valid = true → e.2.func ≠ fn) ∧
        (∀ e ∈ s.pages, e.2.use = .mapped fn ∨ e.2.use = .descriptor fn →
          ((t.page e.1).use = .free ∨ (t.page e.1).use = .firmware) ∧
          ∀ z, e.1 * pageSize ≤ z → z < (e.1 + 1) * pageSize → t.byte z = 0))

/-- COPY_IN and COPY_OUT complete where LENGTH is a multiple of 64 from 64 to 2^30, both ranges lie in their address spaces, VA lies
wholly in MAP ranges of TIER 0 and the links of the host range are UP: COPY_IN places LENGTH bytes of host data at VA, outside the
closed regions; COPY_OUT writes LENGTH bytes from VA to host memory. Poison that either meets is dealt with; a host error completes
with HOST_ACCESS (R302, R305, R337). -/
def Obligations.Copies : Prop :=
  ∀ (s : State) (q : Nat) (c : Cmd),
    let fn := s.cmdFunc c
    let n := c.arg 24 4
    let hpa := c.arg 8 8
    let va := c.arg 16 8
    (s.func fn).state = .on → n % 64 = 0 → 0 < n → n ≤ 2 ^ 30 → hpa + n ≤ 2 ^ 47 → va + n ≤ 2 ^ 48 →
    (∀ p ∈ pagesOf va n, ∃ r ∈ (s.image fn).map, r.tier = 0 ∧ r.vpn ≤ p ∧ p < r.vpn + r.npage) →
    (∀ p ∈ pagesOf hpa n, s.hpaUp (p * pageSize) = true) →
    (InProgress s q 0x45 c → s.closedRange fn va n = false →
      (∀ bs : List Byte, bs.length = n →
        Finishes (.copyIn q (.ok bs)) s ((s.meetEdges fn (s.rangesVA fn va n)).writeVA fn va bs) c stSuccess [] ∧
        (s.poison = [] → Finishes (.copyIn q (.ok bs)) s (s.writeVA fn va bs) c stSuccess [])) ∧
      Finishes (.copyIn q .poison) s s c stHostAccess [] ∧ Finishes (.copyIn q .error) s s c stHostAccess []) ∧
    (InProgress s q 0x46 c →
      Finishes (.copyOut q .acked) s
        ((s.write (hostDpa hpa) (s.readVA fn va n)).meetPoison fn (s.rangesVA fn va n)) c stSuccess [] ∧
      (s.poison = [] → Finishes (.copyOut q .acked) s (s.write (hostDpa hpa) (s.readVA fn va n)) c stSuccess []) ∧
      Finishes (.copyOut q .error) s s c stHostAccess [])

/-! ### Images -/

/-- CHECK reports the verdict of the check and changes nothing else; LOAD of an image that passes waits for IMAGE_ACCEPT,
which brings it into force; a refused one completes with its outcome (R276, R277, R282, R283). -/
def Obligations.CheckLoadAccept : Prop :=
  ∀ (s : State) (q : Nat) (c : Cmd) (d : HostData) (b : List Byte),
    let v := s.checkImage b
    (InProgress s q 0x01 c → s.imgWait = none → s.imageSource true c d = .content b →
      Finishes (.check q d) s { s with imgStat := v.stat } c (if v.stage = 0 then stSuccess else stRefused)
        (leBytes 8 v.stat.value)) ∧
    (InProgress s q 0x02 c → s.imgWait = none → s.boot.stage ≠ .prepared → s.imageSource true c d = .content b →
      (v.stage ≠ 0 → Finishes (.load q d) s { s with imgStat := v.stat } c stRefused (leBytes 8 v.stat.value)) ∧
      (v.stage = 0 → Runs (.load q d) s fun t =>
        ∃ w, w.cmd = some c ∧ w.image = b ∧ w.funcs = maskFuncs (imgHdr b).funcMask ∧ w.store = (c.arg 24 1 == 1) ∧
          w.autoRest = [] ∧ t = { s with imgStat := { outcome := 0xE }, imgWait := some w })) ∧
    (∀ w : ImageWait, s.imgWait = some w → w.image = b → w.store = false → w.autoRest = [] →
      let s0 := { s with imgWait := none }
      let a := s0.acceptCheck b
      (a.stage ≠ 0 → w.cmd = some c → Finishes .imageAccept s { s0 with imgStat := a.stat } c stRefused (leBytes 8 a.stat.value)) ∧
      (a.stage = 0 → w.cmd = some c →
        Finishes .imageAccept s { s0.install b with imgStat := accepted.stat } c stSuccess
          (leBytes 8 accepted.stat.value ++ leBytes 4 0)) ∧
      (a.stage = 0 → (imgHdr b).kind ≠ 0 → Runs .imageAccept s fun t =>
        t.imgWait = none ∧ ∀ fn ∈ maskFuncs (imgHdr b).funcMask,
          let i := funcOf b fn (s.readMember b)
          t.image fn = { i with links := s.imageLinks i }))

/-- STORE writes an image to the library under the next id, or says that the write failed; a write that fails or is cut short leaves
every valid entry and no new one; REMOVE erases an entry, or fails or is cut short with the entry valid or not; UNLOAD takes images out of force while their functions are OFF, or the
whole base image (R276, R285, R290 to R293). -/
def Obligations.StoreRemoveUnload : Prop :=
  ∀ (s : State) (q : Nat) (c : Cmd), s.imgWait = none →
    (∀ (d : HostData) (b : List Byte) (v : Nv) (k : Nat) (how : NvEnd), InProgress s q 0x03 c → c.arg 20 4 ≠ retId →
      s.imageSource false c d = .content b → leAt b 0 4 ≠ fwMagic → leAt b 0 4 ≠ setMagic →
      firstPlace (s.stage1 b) = none → s.nv.writeEntry s.nv.nextId b how = some (v, k) → s.nv.nextId ≤ 0xFFFFFFFE →
      (how = .done → Finishes (.store q d how) s
        { s with nv := { v with nextId := s.nv.nextId + 1 }, imgStat := accepted.stat } c stSuccess
        (zeros 8 ++ leBytes 4 s.nv.nextId)) ∧
      (how ≠ .done → v.entries = s.nv.entries) ∧
      (how = .fails → Runs (.store q d how) s fun t => t.nv = v ∧ Recorded t eNv clsCommand none ∧ HostOnly s t) ∧
      (how = .cut → Runs (.store q d how) s fun t => t = { s with nv := v })) ∧
    (InProgress s q 0x04 c → c.arg 20 4 ≠ retId →
      let gone := s.nv.remove (c.arg 20 4)
      ((s.nv.entry (c.arg 20 4)).isSome = true →
        Finishes (.remove q) s { s with nv := gone, imgStat := accepted.stat, draws := s.draws + 2 } c stSuccess [] ∨
        (Runs (.remove q) s fun t =>
          (t.nv = s.nv ∨ t.nv = gone) ∧ Recorded t eNv clsCommand none ∧ HostOnly s t) ∨
        (Runs (.remove q) s fun t => (t.nv = s.nv ∨ t.nv = gone) ∧ t = { s with nv := t.nv, draws := t.draws })) ∧
      (s.nv.entry (c.arg 20 4) = none → Finishes (.remove q) s s c stBadCommand [])) ∧
    (InProgress s q 0x05 c →
      let fs := maskFuncs (c.arg 8 2)
      (c.arg 10 1 ≠ 1 → (∀ n ∈ fs, (s.func n).state = .off) →
        Finishes (.unload q) s { s with images := s.images.filter (fun e => !fs.contains e.1), imgStat := accepted.stat } c
          stSuccess []) ∧
      (c.arg 10 1 = 1 → (∀ n, n < 16 → (s.func n).state = .off) →
        Finishes (.unload q) s { s.endComp.leaveHerd with imgStat := accepted.stat } c stSuccess []) ∧
      (∀ n, n < 16 → (s.func n).state ≠ .off → (c.arg 10 1 = 1 ∨ n ∈ fs) → Finishes (.unload q) s s c stState []))

/-! ### Jobs -/

/-- START arms a job for its S0, STOP asks for its stop or answers at once where there is none, RESUME is held for a halted
job's recovery; LEDGER_RD consumes ledger records (R167, R264). -/
def Obligations.JobCommands : Prop :=
  ∀ (s : State) (q : Nat) (c : Cmd),
    let fn := s.cmdFunc c
    let f := s.func fn
    (∀ b, InProgress s q 0x40 c → s.base = some b →
      let s0 := BitVec.ofNat 32 (c.arg 8 4)
      s0.toNat % max 1 b.grantG = 0 → s.boot.stage ≠ .prepared → s.boot.dead = false → f.state = .on →
      s.herd.state = .formed → f.run = false → f.armed = false → f.halted = false → f.interrupted = false →
      serialBefore s.herd.sched s0 = true → s.startUnit b (s.image fn) = none →
      Finishes (.start q) s (s.setFunc fn { f with
        s0 := s0, armed := true, startStep := f.step, committedSince := 0, routedPrev := [], dispatch := [] }) c stSuccess []) ∧
    (InProgress s q 0x41 c → c.arg 8 1 ≤ 1 → f.state = .on →
      (f.run = false → f.armed = false → f.halted = false → f.stops = [] →
        Finishes (.stop q) s s c stSuccess (leBytes 4 f.step.toNat)) ∧
      (f.run = true → f.stops = [] →
        let at0 := BitVec.ofNat 32 (c.arg 12 4)
        let r : StopReq := { cmd := some c, immediate := c.arg 8 1 == 0
                             sched := if serialBefore s.herd.sched at0 = true then at0 else s.herd.sched }
        Runs (.stop q) s fun t => OnlyFunc s t fn ∧ t.func fn = { f with stop := some r })) ∧
    (InProgress s q 0x42 c → f.state = .on → f.halted = true → f.resumeCmd = none → s.boot.stage ≠ .prepared →
      s.boot.dead = false →
      Runs (.resume q) s fun t => OnlyFunc s t fn ∧ t.func fn = { f with resumeCmd := some c }) ∧
    (∀ n (rd : W32), n < 16 →
      let g := s.func n
      ((g.ledWr - rd).toNat ≤ 2 ^ (s.image n).job.ledgerLog2 →
        Runs (.ledgerRdWrite n rd) s fun t => OnlyFunc s t n ∧ t.func n = { g with ledRd := rd }) ∧
      (2 ^ (s.image n).job.ledgerLog2 < (g.ledWr - rd).toNat → NoEffect (.ledgerRdWrite n rd) s))

/-- SNAPSHOT reads the home state of the last committed step and releases its queue; SNAPSHOT_COMPLETE ends the shipment, with
SUCCESS or PORT_ERROR; RESTORE over the bus port puts the counters and homes back (R178, R180, R182, R267). -/
def Obligations.SnapshotAndRestore : Prop :=
  ∀ (s : State) (q : Nat) (c : Cmd),
    let fn := s.cmdFunc c
    let f := s.func fn
    let t16 := slice c.bytes 16 16
    let tg := s.shipTarget fn (c.arg 8 1) (c.arg 9 1) t16
    (InProgress s q 0x43 c → c.q = q → fn < 16 → f.state = .on → s.base.isSome = true → f.snap = none → tg.2 = none →
      s.shipReady fn f.gen = true → s.poison = [] → Quiet s q →
      Runs (.snapshot q) s fun t => (t.queue q).running = none ∧
        (t.func fn).snapTo = some (tg.1.overEthernet, tg.1.port, t16) ∧ SameMemory s t ∧
        ∃ h, (t.func fn).snap = some h ∧ h.cmd = some c ∧ h.gen = f.gen ∧ h.restore = false ∧
          h.overEthernet = tg.1.overEthernet ∧ h.port = tg.1.port) ∧
    (∀ n h, n < 16 → (s.func n).snap = some h → h.restore = false →
      (Runs (.snapshotComplete n true) s fun t =>
        (t.func n).snap = none ∧ Recorded t eSnapshot clsCommand (some n) ∧ HostOnly s t) ∧
      (h.overEthernet = false ∨ h.frames.length ≤ h.acked → (s.func n).snapWanted = [] →
        Runs (.snapshotComplete n false) s fun t => (t.func n).snap = none ∧ HostOnly s t ∧ t.errs = s.errs)) ∧
    (∀ bs, InProgress s q 0x44 c → f.state = .on → s.base.isSome = true → f.snap = none → f.run = false →
      f.armed = false → f.halted = false → tg.2 = none → tg.1.overEthernet = false →
      let g := BitVec.ofNat 32 (c.arg 12 4)
      ∀ r st res, s.judgeRestore fn g bs = some (r, st, res) →
        Finishes (.restore q (.ok bs)) s r c st res ∧
        (st = stSuccess → (r.func fn).gen = g ∧ (r.func fn).step = g + 1 ∧ (r.func fn).jslots = [] ∧
          (r.func fn).interrupted = false)) ∧
    (InProgress s q 0x44 c → c.q = q → Quiet s q → f.state = .on → s.base.isSome = true → f.snap = none →
      f.run = false → f.armed = false → f.halted = false → tg.2 = none → tg.1.overEthernet = true →
      ∀ d, Runs (.restore q d) s fun t => (t.queue q).running = none ∧
        ∃ h, (t.func fn).snap = some h ∧ h.restore = true ∧ h.gen = BitVec.ofNat 32 (c.arg 12 4) ∧ h.cmd = some c)

/-! ### The error ring and small controls -/

/-- The error ring: arming, the driver's consumption, and the writing of the oldest held record, with an interrupt only onto
an emptied ring; a record that is not acknowledged stays held (R436, R437). -/
def Obligations.ErrorRing : Prop :=
  ∀ (s : State) (rd : W32) (r : ErrRec) (rest : List ErrRec),
    let e := s.errs
    (6 ≤ e.ringLog2.toNat → e.ringLog2.toNat ≤ 16 →
      Runs .errctlArm s fun t => t = { s with errs := { e with arm := true, armEpoch := s.larwa.epoch, wr := 0, rd := 0 } }) ∧
    (e.ringLog2.toNat < 6 ∨ 16 < e.ringLog2.toNat → Runs .errctlArm s fun t => t = { s with errs := { e with arm := false } }) ∧
    ((e.wr - rd).toNat ≤ 2 ^ e.ringLog2.toNat → Runs (.errptrRdWrite rd) s fun t => t = { s with errs := { e with rd := rd } }) ∧
    (2 ^ e.ringLog2.toNat < (e.wr - rd).toNat → NoEffect (.errptrRdWrite rd) s) ∧
    (e.held = r :: rest →
      NoEffect (.errorRecordWrite .error) s ∧ (s.errReady = false → NoEffect (.errorRecordWrite .acked) s) ∧
      (s.errReady = true → Runs (.errorRecordWrite .acked) s fun t =>
        Stored s t (hostDpa e.addr) r.bytes ∧ r.bytes.length = 64 ∧ t.errs = { e with held := rest, wr := e.wr + 1 } ∧
        t.out = (if e.wr = e.rd ∧ e.ipath ≠ 2 then .interrupt e.ipath.toNat e.ivec.toNat :: s.out else s.out) ∧
        t = { s with mem := t.mem, poison := t.poison, errs := t.errs, out := t.out }))

/-- Control registers: ME_CTL.CLR clears the banks of its mask, VE_CTL.CLR the chains, scalars and event counts of the entries of
its mask; PMG_PLIMIT, PMG_TLIMIT and PMG_VCFG take a legal value, any other is ignored and sets CFGERR, which a 1 written to
PMG_PLIMIT clears (R118, R142, R398, R399). -/
def Obligations.ControlRegisters : Prop :=
  (∀ (s : State) (n : Nat) (mask : BitVec 4), s.tileFitted n = true →
      let x := s.tile n
      (Runs (.meCtlClr n mask) s fun t => OnlyTile s t n ∧ t.tile n = { x with banks := (t.tile n).banks } ∧
        ∀ b, (t.tile n).bank b = if bitOf mask.toNat b then (x.bank b).clear else x.bank b) ∧
      (Runs (.veCtlClr n mask) s fun t => OnlyTile s t n ∧
        t.tile n = { x with chains := (t.tile n).chains, scalars := (t.tile n).scalars, events := (t.tile n).events } ∧
        (∀ k, tget 0 (t.tile n).scalars k = if bitOf mask.toNat (k / 16) then 0 else tget 0 x.scalars k) ∧
        (∀ k, tget {} (t.tile n).chains k = if bitOf mask.toNat (k / 4) then {} else tget {} x.chains k) ∧
        ∀ k, tget {} (t.tile n).events k = if bitOf mask.toNat k then {} else tget {} x.events k)) ∧
  (∀ (s : State) (v : W32),
      let p := s.power
      let excess := ((s.base.map BaseImage.speed).bind (overPower s.code (v.toNat % 4096))).isSome
      let t8 := v.toNat % 256
      let f := bits v.toNat 25 16
      let g := bits v.toNat 9 0
      (excess = false → Runs (.plimitWrite v) s fun t =>
        t = { s with power := { p with cfgerr := p.cfgerr && !v.getLsbD 12, limit := BitVec.ofNat 12 (v.toNat % 4096) } }) ∧
      (excess = true → Runs (.plimitWrite v) s fun t => t = { s with power := { p with cfgerr := true } }) ∧
      (70 ≤ t8 → t8 ≤ 105 →
        Runs (.tlimitWrite v) s fun t => t = { s with power := { p with tlimit := BitVec.ofNat 8 t8 } }) ∧
      (t8 < 70 ∨ 105 < t8 → Runs (.tlimitWrite v) s fun t => t = { s with power := { p with cfgerr := true } }) ∧
      (600 ≤ f → f ≤ 900 → 600 ≤ g → g ≤ 900 → Runs (.vcfgWrite v) s fun t =>
        t = { s with power := { p with vfloorDef := BitVec.ofNat 10 f, vtarget := BitVec.ofNat 10 g } }) ∧
      (f < 600 ∨ 900 < f ∨ g < 600 ∨ 900 < g →
        Runs (.vcfgWrite v) s fun t => t = { s with power := { p with cfgerr := true } }))

/-! ### Ethernet -/

/-- RATE changes only while ENABLE = 0, else it is ignored and sets CFGERR; clearing ENABLE takes the port down at once, a
failed herd link on a formed herd's port (R347). -/
def Obligations.PortConfiguration : Prop :=
  ∀ (s : State) (p : Nat) (v : W32), s.isPort p = true →
    let x := s.port p
    let en := bitOf v.toNat 7
    let rate : BitVec 2 := BitVec.ofNat 2 v.toNat
    let barred := rate = 3#2 ∧ s.code.hubs = 1
    (x.enable = true → en = true → rate ≠ x.rate → ¬barred →
      Runs (.portcfgWrite p v) s fun t => OnlyPort s t p ∧ t.port p = { x with cfgerr := true }) ∧
    (x.enable = true → en = true → rate = x.rate ∨ barred →
      Runs (.portcfgWrite p v) s fun t => OnlyPort s t p ∧ t.port p = x) ∧
    (x.enable = false → ¬barred → Runs (.portcfgWrite p v) s fun t => OnlyPort s t p ∧
      t.port p = { x with rate := rate, enable := en, state := if en then .training else x.state }) ∧
    (x.enable = true → en = false →
      (Runs (.portcfgWrite p v) s fun t =>
        (t.port p).enable = false ∧ (t.port p).state = .down ∧ (t.port p).width = 0 ∧ (t.port p).rate = x.rate ∧
        (rate ≠ x.rate → ¬barred → (t.port p).cfgerr = true) ∧ ∀ j, j ≠ p → t.port j = s.port j) ∧
      (s.isSwitched p = false → s.usedPorts.contains p = true → s.exchanging = true → (s.nbr p).failed = false →
        Runs (.portcfgWrite p v) s fun t =>
          (t.nbr p).failed = true ∧ Recorded t eHerdLink clsFunction none ∧ HostOnly s t ∧
          ((∀ q ∈ s.usedPorts, s.peer q = s.peer p → q = p ∨ (s.nbr q).failed = true) →
            Recorded t eMemberLost clsFunction none) ∧
          ∀ fn, fn < 16 → (s.func fn).state = .on → (s.func fn).run = true ∨ (s.func fn).armed = true →
            (t.func fn).state = .draining))

/-- PORT_TRAIN: a port that trains comes up at its width, a herd port only with an S9 herd port of the same rate and EtherType
at the far end, where a mismatch in LINKING is a wiring error; one that does not train keeps training (R263, R346). -/
def Obligations.PortTraining : Prop :=
  ∀ (s : State) (p : Nat) (peer : Peer), s.isPort p = true →
    let x := s.port p
    let trained : Port := { x with
      state := .up, width := s.portLanes, failedLanes := 0, macInUse := some (s.macOf p), peerMac := peer.mac }
    s.boot.supply = .running → x.enable = true → x.state ≠ .up → x.state ≠ .failed →
    (Runs (.portTrain p false peer) s fun t => OnlyPort s t p ∧ t.port p = { x with state := .training }) ∧
    (s.isSwitched p = true →
      Runs (.portTrain p true peer) s fun t => OnlyPort s t p ∧ t.port p = { trained with mpd := 0 }) ∧
    (s.isSwitched p = false → peer.s9Herd = true → peer.rate = x.rate → peer.etype = (s.hub (p / 16)).etype →
      (s.herd.state ≠ .linking ∨ s.base = none ∨ s.usedPorts.contains p = false →
        Runs (.portTrain p true peer) s fun t => OnlyPort s t p ∧ t.port p = { trained with mpd := peer.mpd }) ∧
      (∀ b, s.base = some b → s.herd.state = .linking → s.usedPorts.contains p = true → peer.herdId = b.herdId →
        peer.member = s.peer p → peer.digest = b.digest.take 16 → peer.mpd ≤ 400 →
        Runs (.portTrain p true peer) s fun t =>
          (t.nbr p).verified = true ∧ (t.nbr p).member = peer.member ∧ t.port p = { trained with mpd := peer.mpd } ∧
          ((∀ q ∈ s.usedPorts, q ≠ p → (s.nbr q).verified = true) → t.herd.state = .syncing))) ∧
    (s.isSwitched p = false → peer.s9Herd = false ∨ peer.rate ≠ x.rate → s.herd.state = .linking →
      s.usedPorts.contains p = true → Runs (.portTrain p true peer) s fun t =>
        (t.port p).state = .training ∧ t.herd = s.herd ∧ Recorded t eWiring clsNotice none)

/-- Time: every herd port that is up sends its messages; a path delay is kept; towards the parent an offset within 20 ns
leads to lock at the 64th message, and one outside it corrects a locked member's time and with it the herd slot, sets LATE and
is reported (R243, R244, R246). -/
def Obligations.HerdTime : Prop :=
  ∀ (s : State) (p mpd : Nat) (offset : Int),
    let h := s.herd
    let x := s.port p
    (Runs .ptpSyncInterval s fun t => t = { s with out := t.out } ∧
      ∃ l, t.out = l ++ s.out ∧ ∀ q, q ∈ Code.ports s.code → s.isHerdPort q = true → (s.port q).state = .up → .ptp q ∈ l) ∧
    (s.isHerdPort p = true → x.state = .up → mpd ≤ 400 →
      (s.exchanging = false ∨ s.parentPort ≠ some p →
        Runs (.ptpMessageReceive p mpd offset) s fun t => OnlyPort s t p ∧ t.port p = { x with mpd := mpd }) ∧
      (s.exchanging = true → s.parentPort = some p →
        let y : Port := { x with mpd := mpd, offset := BitVec.ofInt 16 offset }
        (offset.natAbs ≤ 20 → h.lock = true → Runs (.ptpMessageReceive p mpd offset) s fun t =>
          OnlyPort s t p ∧ t.port p = y) ∧
        (offset.natAbs ≤ 20 → h.lock = false → h.offTime = false → Runs (.ptpMessageReceive p mpd offset) s fun t =>
          t = { s with ports := t.ports, herd := t.herd } ∧ t.port p = y ∧ (∀ j, j ≠ p → t.port j = s.port j) ∧
          t.herd = { h with goodSyncs := min (h.goodSyncs + 1) 64, lock := decide (64 ≤ h.goodSyncs + 1) }) ∧
        (20 < offset.natAbs → offset.natAbs ≤ 1024 → h.lock = true → Runs (.ptpMessageReceive p mpd offset) s fun t =>
          (let time := h.time - BitVec.ofInt 64 offset
           t.herd = { h with
             time := time, slot := time.toNat / 1024 % 2 ^ 48, lock := false, offTime := true, goodSyncs := 0 }) ∧
          t.port p = y ∧ Recorded t eTimeFault clsRecovered none ∧ HostOnly s t ∧ ∀ j, t.func j = s.func j)))

/-- DATA frames: the expected SEQ is taken and counted, any other sets NAK, a bad frame is counted, and the payload lands at the
transfer's next place; a timeout resends every unacknowledged frame in order; a long episode or the last lane fails the link; a
lane is shed to half width (R350, R361, R363, R364). -/
def Obligations.HerdLinkFrames : Prop :=
  ∀ (s : State) (p : Nat) (frame : Frame), s.isHerdPort p = true →
    let x := s.port p
    x.state = .up →
    (s.frameFate p frame = .drop → Runs (.dataFrameReceive p frame) s fun t => OnlyPort s t p ∧
      t.port p = { x with noMatchCnt := satAdd 12 x.noMatchCnt 1 }) ∧
    (s.frameFate p frame = .error → Runs (.dataFrameReceive p frame) s fun t => OnlyPort s t p ∧
      t.port p = { x with errfrm := satAdd 12 x.errfrm 1, nak := true }) ∧
    (∀ h, s.frameFate p frame = .take h → h.kind = kDATA → h.nak = false → x.replay = [] → x.unsent = [] →
      x.episode = none → h.ack = x.txSeq →
      (h.seq ≠ x.rxSeq → Runs (.dataFrameReceive p frame) s fun t => OnlyPort s t p ∧ t.port p = { x with nak := true }) ∧
      (∀ l xf rs, h.seq = x.rxSeq → (s.image h.fn).receiver p h.list h.xid = some (l, xf) → (s.func h.fn).state = .on →
        xf.cast = none → s.endRanges h.fn xf.dstSp xf.dst xf.dstBytes = some rs → s.poison = [] → Unwatched s →
        let n := (s.func h.fn).nextFrame xf
        let pos := (s.func h.fn).arrived xf % max 1 xf.bytes
        16 + n ≤ frame.body.length →
        Runs (.dataFrameReceive p frame) s fun t =>
          t.port p = { x with rxSeq := h.seq + 1 } ∧ (∀ j, j ≠ p → t.port j = s.port j) ∧
          t.mem = (s.writeRanges (subRanges rs pos n) ((frame.body.drop 16).take n)).mem ∧
          (t.func h.fn).arrived xf = (s.func h.fn).arrived xf + n ∧ (∀ j, j ≠ h.fn → t.func j = s.func j) ∧
          t.errs = s.errs)) ∧
    (x.replay ≠ [] → Runs (.retransmitTimeout p) s fun t =>
      t = { s with ports := t.ports, out := t.out } ∧ (∀ j, j ≠ p → t.port j = s.port j) ∧
      (t.port p).resent = satAdd 32 x.resent x.replay.length ∧ (t.port p).episode.isSome = true ∧
      (t.port p).replay = x.replay ∧ (t.port p).nak = false ∧
      ∃ l : List Out, t.out = l.reverse ++ s.out ∧ l.length = x.replay.length ∧ ∀ (k : Nat) (f : SentFrame), x.replay[k]? = some f →
        ∃ y : Port, y.rxSeq = x.rxSeq ∧ l[k]? = some (Out.frame p kDATA f.tc (y.stamp true f.bytes))) ∧
    (x.episode.isSome = true → (s.nbr p).failed = false → Runs (.retxEpisodeTimeout p) s fun t =>
      (t.port p).state = .failed ∧ (t.nbr p).failed = true ∧ Recorded t eHerdLink clsFunction none ∧ HostOnly s t ∧
      ∀ fn, fn < 16 → (s.func fn).state = .on → (s.func fn).run = true → (t.func fn).state = .draining) ∧
    (∀ lane g, cleanGroup s.portLanes x.width x.failedLanes = some g → g * x.width ≤ lane → lane < (g + 1) * x.width →
      let failed := x.failedLanes ||| BitVec.ofNat 4 (2 ^ lane)
      let w := max 1 (x.width / 2)
      ((cleanGroup s.portLanes w failed).isSome = true → Runs (.laneShed p lane) s fun t =>
        t = { s with ports := t.ports, errs := t.errs } ∧ (∀ j, j ≠ p → t.port j = s.port j) ∧
        t.port p = { x with failedLanes := failed, width := w, sheds := satAdd 16 x.sheds 1 } ∧
        Recorded t eLaneShed clsRecovered none) ∧
      (cleanGroup s.portLanes w failed = none → (s.nbr p).failed = false → Runs (.laneShed p lane) s fun t =>
        (t.port p).state = .failed ∧ (t.port p).width = 0 ∧ Recorded t eHerdLink clsFunction none))

/-- Streams of snapshots and restores on a switched port: the expected frame is kept and acknowledged, an acknowledgement makes
progress, a timeout resends and the sixteenth in a row fails the stream; received PFC pauses its classes, and a herd port drops
and counts it (R348, R366, R368). -/
def Obligations.Streams : Prop :=
  ∀ (s : State) (p : Nat) (frame : Frame) (fill : Nat),
    let x := s.port p
    x.state = .up →
    (s.isSwitched p = true → ∀ h fn sh, s.switchedFate p frame = .take h → fn < 16 →
      (h.kind = kSTREAM → s.streamOf p frame h true = some (fn, sh) → fill ≤ 1048576 →
        (h.seq.toNat = sh.acked % 2 ^ 32 →
          let sh1 := { sh with acked := sh.acked + 1, timeouts := 0, frames := sh.frames ++ [(frame.body.drop 16).take 4096] }
          (s.onFunc fn fun f => { f with snap := some sh1 }).judgeRestore fn sh.gen sh1.frames.flatten = none →
          262144 ≤ fill → fill ≤ 786432 →
          Runs (.streamFrameReceive p frame fill) s fun t =>
            t = { s with funcs := t.funcs, out := t.out } ∧ (t.func fn).snap = some sh1 ∧
            (∀ j, j ≠ fn → t.func j = s.func j) ∧ t.out.length = s.out.length + 1) ∧
        (h.seq.toNat ≠ sh.acked % 2 ^ 32 → Runs (.streamFrameReceive p frame fill) s fun t =>
          t = { s with out := t.out } ∧ t.out.length = s.out.length + 1)) ∧
      (h.kind = kSTREAM_ACK → s.streamOf p frame h false = some (fn, sh) → h.nak = false →
        sh.acked < h.ack.toNat → h.ack.toNat ≤ sh.sent → sh.frames.length = sh.sent →
        Runs (.streamAckReceive p frame) s fun t => OnlyFunc s t fn ∧
          (t.func fn).snap = some { sh with acked := h.ack.toNat, timeouts := 0 })) ∧
    (s.isSwitched p = true → ∀ n sh, n < 16 → (s.func n).snap = some sh → sh.overEthernet = true → sh.port = p →
      (∀ j, j < n → ∀ y, (s.func j).snap = some y → ¬(y.overEthernet = true ∧ y.port = p ∧ y.stream = sh.stream)) →
      (sh.restore = true → sh.timeouts < 15 → Runs (.streamTimeout p sh.stream) s fun t => OnlyFunc s t n ∧
        (t.func n).snap = some { sh with timeouts := sh.timeouts + 1 }) ∧
      (sh.restore = false → sh.acked < sh.sent → sh.timeouts < 15 → Runs (.streamTimeout p sh.stream) s fun t =>
        t = { s with funcs := t.funcs, out := t.out } ∧ (∀ j, j ≠ n → t.func j = s.func j) ∧
        (t.func n).snap = some { sh with timeouts := sh.timeouts + 1 } ∧
        (s.shipOpen sh = true → t.out.length = s.out.length + (sh.sent - sh.acked))) ∧
      (sh.restore = false → sh.acked < sh.sent → 15 ≤ sh.timeouts → Runs (.streamTimeout p sh.stream) s fun t =>
        (t.func n).snap = none ∧ Recorded t eSnapshot clsCommand (some n) ∧ HostOnly s t)) ∧
    (∀ cls pause : BitVec 8,
      (s.isHerdPort p = true → Runs (.pfcReceive p cls pause) s fun t => OnlyPort s t p ∧
        t.port p = { x with noMatchCnt := satAdd 12 x.noMatchCnt 1 }) ∧
      (s.isHerdPort p = false → s.isPort p = true → Runs (.pfcReceive p cls pause) s fun t =>
        (t.port p).paused = (x.paused &&& ~~~cls) ||| (pause &&& cls) ∧ (∀ j, j ≠ p → t.port j = s.port j) ∧
        HostOnly s t ∧ t.errs = s.errs))

/-! ### Power, boot and removal -/

/-- Module resets and losses of power: MGCTL.RESET, MOD_RST_N, an input trip and PWR_EN's fall leave NV storage alone and start
the power-up sequence where it may run; input that comes and PWR_EN's rise start it too (R374, R402, R408 to R411, R430). -/
def Obligations.ResetsAndSupply : Prop :=
  ∀ s : State,
    let b := s.boot
    (b.supply ≠ .unpowered →
      (Runs .mgctlReset s fun t => Lost s t 2 ∧ HostKept s t ∧ StartsIf (CanStart s) t) ∧
      (Runs (.modRstN false) s fun t => Lost s t 1 ∧ HostKept s t ∧ StartsIf (CanStart s) t) ∧
      (Runs (.modRstN true) s fun t => Lost s t 1 ∧ HostKept s t ∧ t.boot.trip = {} ∧
        StartsIf (b.pwrEn = true ∧ b.riseIgnored = false ∧ 4600 ≤ s.power.vin) t) ∧
      (Runs .inputHighTrip s fun t => Lost s t 5 ∧ HostKept s t ∧ t.boot.supply = .unpowered ∧ t.power.vin = 0) ∧
      (Runs .inputLowTrip s fun t => Lost s t 5 ∧ HostKept s t ∧ t.boot.supply = .unpowered ∧ t.power.vin = 0)) ∧
    (b.pwrEn = true →
      (b.supply = .running → Runs .pwrEnFall s fun t =>
        Lost s t 6 ∧ HostKept s t ∧ t.boot.supply = .standby ∧ t.boot.pwrEn = false) ∧
      (b.supply ≠ .running → Runs .pwrEnFall s fun t => t = { s with boot := { b with pwrEn := false, riseIgnored := false } })) ∧
    (b.pwrEn = false →
      (Runs (.pwrEnRise true) s fun t => t = { s with boot := { b with pwrEn := true, riseIgnored := true } }) ∧
      (b.supply = .standby → b.trip.valid = false → 4600 ≤ s.power.vin →
        Runs (.pwrEnRise false) s fun t => Started t ∧ t.boot.pwrEn = true ∧ t.mem = s.mem ∧ t.nv = s.nv)) ∧
    (b.present = false → Runs .prsntNLow s fun t => t = { s with boot := { b with present := true } }) ∧
    (∀ vin, b.supply = .unpowered → 4400 ≤ vin → vin ≤ 5600 → Runs (.inputApplied vin) s fun t =>
      t.power = { s.power with vin := vin } ∧ t.mem = s.mem ∧ t.nv = s.nv ∧
      StartsIf (b.pwrEn = true ∧ b.riseIgnored = false ∧ b.trip.valid = false ∧ 4600 ≤ vin) t)

/-- Removal: REMREQ is granted once every function is OFF, PREPARED takes every link and port down, and REMCANCEL returns to the
earlier stage with the links training (R431, R432). -/
def Obligations.Removal : Prop :=
  ∀ s : State,
    let b := s.boot
    (b.supply ≠ .unpowered → b.remreq = false →
      ((∃ n, n < 16 ∧ (s.func n).state ≠ .off) → Runs .remreq s fun t => t = { s with boot := { b with err := 0x10 } }) ∧
      ((∀ n, n < 16 → (s.func n).state = .off) → Runs .remreq s fun t =>
        t = { s with boot := { b with remreq := true, prior := b.stage, err := if b.err = 0x10 then 0 else b.err } })) ∧
    (b.remreq = true → b.stage ≠ .prepared → Runs .removalPrepared s fun t =>
      t.boot.stage = .prepared ∧ t.boot.attn = true ∧ HostOnly s t ∧
      (b.supply = .running →
        (∀ h, h < s.code.hubs → (t.lwl h).state = .down ∧ (t.lwl h).width = 0 ∧ (t.hub h).bus.gen = 0) ∧
        ∀ p, p < 32 → s.isPort p = true → (t.port p).state = .down)) ∧
    (b.stage ≠ .prepared → NoEffect .remcancel s) ∧
    (b.stage = .prepared → Runs .remcancel s fun t =>
      t.boot = { b with
        stage := b.prior, remreq := false, prior := .ready, attn := decide (b.prior = .recovery ∨ b.prior = .failed) } ∧
      SameMemory s t ∧ (b.pgood = true → ∀ h, h < s.code.hubs → (t.lwl h).state = .training))

/-- The power-up sequence after the boot ROM: firmware starts with every link training, or the module ends in RECOVERY or FAILED;
the self-test brings READY, or FAILED where a die-to-die link failed; a watchdog asks for a control restart, which interrupts
jobs and leaves memory alone; PLDM rewrites firmware A and resets the module, a write that fails or is cut short leaves no
valid copy there (R290 to R292, R376, R379, R409, R410, R412, R417). -/
def Obligations.PowerUpSequence : Prop :=
  ∀ s : State,
    let b := s.boot
    (b.stage = .bootrom →
      (s.pickFirmware = none → Runs .firmwareStart s fun t =>
        t = { s with boot := { b with stage := .recovery, err := 1, pgood := false, attn := true } }) ∧
      (∀ f, s.pickFirmware = some f → s.sec.idfail = false → Runs .firmwareStart s fun t =>
        t.boot.stage = .firmware ∧ t.boot.pgood = true ∧ t.sec.fwSvn = fwSvnOf f.2 ∧ t.boot.fwCopyB = (f.1 == 2) ∧ t.mem = s.mem ∧
        (∀ l, l < 8 → s.linkFitted l = true → (t.link l).state = .training) ∧
        ∀ h, h < s.code.hubs → (t.lwl h).state = .training) ∧
      (∀ f, s.pickFirmware = some f → s.sec.idfail = true → Runs .firmwareStart s fun t =>
        t.boot.stage = .failed ∧ t.boot.err = 2 ∧ t.boot.pgood = false ∧ t.mem = s.mem)) ∧
    (∀ found : SelfTest, b.stage = .firmware ∨ b.stage = .selftest → s.foundOk found = true →
      (∀ l, l < 8 → s.linkFitted l = false → (s.link l).state ≠ .failed) →
      let mods (l : Nat) : Option Nat := (found.links.find? fun x => x.1 == l).map fun x => x.2.1
      ((∀ l, l < 8 → s.linkFitted l = true → ∃ n, mods l = some (n + 1)) →
        Runs (.selftestComplete found) s fun t => t.boot.stage = .ready ∧
          ∀ l, l < 8 → s.linkFitted l = true → (t.link l).state = .up ∧ mods l = some (t.link l).mods) ∧
      ((∃ l, l < 8 ∧ s.linkFitted l = true ∧ (mods l = none ∨ mods l = some 0)) →
        Runs (.selftestComplete found) s fun t =>
          t.boot.stage = .failed ∧ t.boot.err = 3 ∧ t.boot.dead = true ∧ SameMemory s t)) ∧
    (s.firmwareRuns = true → Runs .watchdogExpiry s fun t =>
      t = { s with boot := { b with restart := b.restart.orElse fun _ => some 7 } }) ∧
    (∀ cause f, b.restart = some cause → s.reloadFirmware = some f → Runs .controlRestart s fun t =>
      t.boot.restart = none ∧ t.boot.cause = cause ∧ t.boot.ccRestarts = satAdd 16 b.ccRestarts 1 ∧ t.sec.ownerLevel = 0 ∧
      t.sec.fwSvn = fwSvnOf f.2 ∧ Recorded t eControlRestart clsFirmware none ∧ HostOnly s t ∧
      ∀ fn, fn < 16 → (s.func fn).run = true →
        (t.func fn).run = false ∧ (t.func fn).interrupted = true ∧ (t.func fn).halted = true ∧
        (t.func fn).step = (s.func fn).step ∧ (t.func fn).jslots = (s.func fn).jslots) ∧
    (∀ image, b.stage = .recovery → b.supply ≠ .unpowered →
      let n := s.nv.pairSeq 1
      let bad := ¬fwAcceptable (s.floorOf s.pickSettings) image = true ∨ 32764 * 1024 < image.length ∨ n = 0xFFFFFFFF
      (bad → ∀ e, Runs (.pldmFirmwareUpdate image e) s fun t => t = { s with out := .pldm false :: s.out }) ∧
      (¬bad →
        (Runs (.pldmFirmwareUpdate image .fails) s fun t =>
          t = { s with nv := s.nv.writeCopy 1 n image .fails, out := .pldm false :: s.out } ∧ t.nv.copy 1 = none) ∧
        (Runs (.pldmFirmwareUpdate image .cut) s fun t =>
          t = { s with nv := s.nv.writeCopy 1 n image .cut } ∧ t.nv.copy 1 = none) ∧
        Runs (.pldmFirmwareUpdate image .done) s fun t =>
          Lost { s with nv := s.nv.writeCopy 1 n image .done } t 2 ∧ HostKept s t ∧ StartsIf (CanStart s) t))

/-- Power and heat: a control period sets each die's setpoint by R396, within its floor and 0.90 V; a die whose telemetry stops
goes to its floor; a speed shortfall sets comp(d) 10 mV above the setpoint and raises it until the rate is met, 0.90 V or PLIMIT
is reached; a thermal trip is latched and it or a supply fault takes the supplies down (R394 to R397, R400, R402,
R403). -/
def Obligations.PowerManagement : Prop :=
  ∀ (s : State) (d : Nat),
    let x := s.diePower d
    let only (t : State) : Prop := t = { s with power := t.power, errs := t.errs } ∧ ∀ j, j ≠ d → t.diePower j = s.diePower j
    (∀ tel : Telemetry, s.coreOn = true → tel.dies.length = s.code.dies → (∀ y ∈ tel.dies, y.temps.length = 64) →
      tel.stackTemps.length ≤ 12 →
      let q := (s.samplePower tel).markHot
      Runs (.pmgControlPeriod tel) s fun t =>
        t = { s with power := t.power, errs := t.errs, boot := t.boot, out := t.out } ∧
        t.power.pavg = tel.pavg ∧ t.power.vin = tel.vin ∧ t.power.limit = s.power.limit ∧
        ∀ k, k < s.code.dies →
          let h := q.hot k
          let y := q.diePower k
          let low := (s.floor k).max y.comp
          (t.diePower k).vset =
            if y.lost = true then s.floor k
            else if s.power.limit.toNat < tel.pavg ∨ (4600 ≤ tel.vin ∧ tel.vin < 4800 ∧ 4500 < tel.iin) ∨
                s.power.tlimit.toNat < h then min (max (y.vset - 10) low) 900
            else if tel.pavg * 100 ≤ s.power.limit.toNat * 98 ∧ h + 2 ≤ s.power.tlimit.toNat then
              min (max (min (y.vset + 5) s.power.vtarget.toNat) low) 900
            else min (max y.vset low) 900) ∧
    (s.dieFitted d = true → s.coreOn = true →
      (x.lost = false → Runs (.telemetryLoss d) s fun t => only t ∧
        t.diePower d = { x with lost := true, vset := s.floor d } ∧ Recorded t eTelemetry clsNotice none) ∧
      (∀ rate, s.base.isSome = true → x.short = false → rate < s.assumed d → s.floor d ≤ x.vset → x.tmax ≤ 105 →
        Runs (.speedShortfall d rate) s fun t => only t ∧
          t.diePower d = { x with short := true, rate := rate, comp := min (x.vset + 10) 900 } ∧
          t.power.shortfall = satAdd 16 s.power.shortfall 1 ∧ Recorded t eShortfall clsNotice none) ∧
      (∀ rate, x.short = true → Runs (.compensationRaise d rate) s fun t => only t ∧ t.errs = s.errs ∧
        t.diePower d =
          if s.assumed d ≤ rate then { x with short := false, rate := rate }
          else if 900 ≤ x.comp ∨ s.power.limit.toNat ≤ s.power.pavg then { x with rate := rate }
          else { x with rate := rate, comp := min (x.comp + 10) 900 })) ∧
    (∀ limit point temp stack, s.tripLimit d stack = some limit → s.boot.supply = .running → limit ≤ temp → temp ≤ 255 →
      point ≤ 63 → Runs (.thermtrip d point temp stack) s fun t =>
        Lost s t 3 ∧ HostKept s t ∧ t.boot.supply = .standby ∧ t.boot.thermtrip = true ∧
        t.boot.trip = { valid := true, die := d, point := point, temp := temp, stack := if d = 12 then stack else 0 }) ∧
    (∀ vmeas, s.dieFitted d = true → s.coreOn = true → Runs (.supplyFault d vmeas) s fun t =>
      Lost s t 4 ∧ t.boot.supply = .standby)

/-! ### The Larwa links and the bus ports -/

/-- Training, retrains and outages of a Larwa link, host resets with their epoch, and the bus port's reset, training and
configuration (R320 to R322, R327, R341, R342, R373, R410). -/
def Obligations.LarwaLinks : Prop :=
  ∀ (s : State) (hub : Nat) (a b c : LaneTest) (epoch us : Nat), s.hubFitted hub = true →
    let l := s.lwl hub
    let same := s.larwa.hostEpoch = none ∨ s.larwa.hostEpoch = some epoch
    (s.boot.supply = .running → l.state = .down ∨ l.state = .training →
      (trainLanes a b c = none → Runs (.lwlTrain hub a b c epoch) s fun t => OnlyHub s t hub ∧
        t.hub hub = { s.hub hub with link := { l with state := .down, width := 0 } }) ∧
      (∀ r, trainLanes a b c = some r → same → Runs (.lwlTrain hub a b c epoch) s fun t =>
        t.lwl hub = { l with state := .up, rate := r.rate, width := r.width, lanes := r.lanes, ctlsub := r.ctlsub } ∧
        t.larwa = { s.larwa with hostEpoch := some epoch } ∧ (NoGroups s → HostOnly s t)) ∧
      (∀ r, trainLanes a b c = some r → ¬same → Runs (.lwlTrain hub a b c epoch) s fun t =>
        (t.lwl hub).state = .up ∧ HostReset s t)) ∧
    (l.state = .up → Runs (.lwlRetrain hub) s fun t => OnlyHub s t hub ∧
      t.hub hub = { s.hub hub with link := { l with state := .retrain } }) ∧
    (l.state = .retrain →
      (trainLanes a b c = none → NoEffect (.lwlRetrainComplete hub a b c epoch us) s) ∧
      (∀ r, trainLanes a b c = some r → s.larwa.hostEpoch = some epoch →
        Runs (.lwlRetrainComplete hub a b c epoch us) s fun t =>
          (t.lwl hub).state = .up ∧ (t.lwl hub).rate = r.rate ∧ (t.lwl hub).width = r.width ∧
          (t.lwl hub).retrains = satAdd 16 l.retrains 1 ∧ Recorded t eLwlRetrain clsRecovered none ∧
          (NoGroups s → HostOnly s t) ∧
          (r.rate < l.rate ∨ r.width < l.width → Recorded t eNarrowed clsNotice none)) ∧
      (Runs (.lwlOut hub) s fun t =>
        (t.lwl hub).state = .out ∧ (NoGroups s → HostOnly s t) ∧
        (∀ q, (s.queue q).state = .active → s.ringOn hub (s.queue q) = true → Quiet s q →
          (t.queue q).state = .haltedLink) ∧
        ∀ fn, fn < 16 → (s.func fn).state = .on →
          (s.func fn).run = true ∨ (s.func fn).armed = true ∨ (s.func fn).halted = true →
          s.jobOn hub fn = true → (t.func fn).state = .draining)) ∧
    (l.state = .out → 400 ≤ us → us ≤ 100000 → ∀ r, trainLanes a b c = some r → s.larwa.hostEpoch = some epoch →
      Runs (.lwlRetrainComplete hub a b c epoch us) s fun t =>
        (t.lwl hub).state = .up ∧ (t.lwl hub).retrains = l.retrains ∧ Recorded t eLwlOut clsFunction none ∧
        (NoGroups s → HostOnly s t)) ∧
    (∀ cause, cause < 3 → Runs (.hostReset cause) s (HostReset s)) ∧
    (l.state = .out → Runs (.linkOutHostReset hub) s fun t =>
      (t.lwl hub).state = .training ∧ HostReset s t ∧ Recorded t eLwlOut clsFunction none) ∧
    (s.boot.supply = .running → Runs (.lwlRstN hub) s fun t => (t.lwl hub).state = .training ∧ HostReset s t ∧
      (l.state = .out → Recorded t eLwlOut clsFunction none)) ∧
    (Runs (.busPortReset hub) s fun t => (t.hub hub).bus.gen = 0 ∧ (t.hub hub).bus.width = 0 ∧ HostOnly s t ∧
      ∀ n h, n < 16 → (s.func n).snap = some h → h.overEthernet = false → h.port = hub → (t.func n).snap = none) ∧
    (∀ gen width, 4 ≤ gen → gen ≤ 6 → width ∈ [1, 2, 4, 8] → s.boot.supply = .running → (s.hub hub).bus.gen = 0 →
      Runs (.busPortTrain hub gen width) s fun t => OnlyHub s t hub ∧
        t.hub hub = { s.hub hub with bus := { (s.hub hub).bus with gen := gen, width := width } }) ∧
    ((s.hub hub).bus.gen ≠ 0 → Runs (.pcieConfigurationRequest hub) s fun t =>
      t = { s with out :=
        (if s.boot.stage = .ready ∨ s.boot.stage = .prepared then .configNormal hub else .configRetry hub) :: s.out })

/-! ### The package -/

/-- Die-to-die links: retrain, return on the modules that pass, and failure, which stops every function; a chiplet site's reset
and training; a crossing's reset, wait and return of its clock (R377 to R379, R387, R390, R391). -/
def Obligations.PackageLinks : Prop :=
  ∀ (s : State) (n : Nat),
    (s.linkFitted n = true →
      let l := s.link n
      let only (t : State) : Prop := t = { s with links := t.links, errs := t.errs } ∧ ∀ j, j ≠ n → t.link j = s.link j
      (l.state = .up → Runs (.d2dRetrain n) s fun t => only t ∧ t.errs = s.errs ∧ t.link n = { l with state := .retrain }) ∧
      (∀ mods us, l.state = .retrain → 1 ≤ mods → mods ≤ linkMods n → us ≤ 25 →
        Runs (.d2dRetrainComplete n mods us) s fun t => only t ∧
          t.link n = { l with state := .up, mods := mods, retrains := satAdd 16 l.retrains 1 } ∧
          Recorded t eD2dRetrain clsRecovered none ∧ (mods < linkMods n → Recorded t eNarrowed clsNotice none)) ∧
      (l.state = .up ∨ l.state = .retrain → Runs (.d2dFailed n) s fun t =>
        t.link n = { l with state := .failed, mods := 0 } ∧ t.boot.dead = true ∧ Recorded t eD2dFailed clsModule none ∧
        HostOnly s t ∧ ∀ fn, fn < 16 → (s.func fn).state = .on → (t.func fn).state = .draining)) ∧
    (s.hubFitted n = true →
      let x := s.hub n
      (x.chip ≠ .absent → x.chip ≠ .faulted → Runs (.chipletReset n) s fun t => OnlyHub s t n ∧
        t.hub n = { x with chip := .down, chipRate := 0, windows := (t.hub n).windows } ∧
        ∀ w, (t.window n w).waiting = none ∧ (t.window n w).tokens = (s.window n w).tokens) ∧
      (s.boot.supply = .running → x.chip = .down ∨ x.chip = .training →
        (∀ rate, rate = 1 ∨ rate = 2 → Runs (.chipletSiteTrain n true rate) s fun t => OnlyHub s t n ∧
          t.hub n = { x with chip := .up, chipRate := rate, chipFails := 0 }) ∧
        (∀ rate, Runs (.chipletSiteTrain n false rate) s fun t => OnlyHub s t n ∧
          t.hub n = { x with chip := if 2 ≤ x.chipFails then .faulted else .training, chipFails := x.chipFails + 1 }))) ∧
    (∀ c, s.crossingFitted n c = true → s.boot.supply = .running →
      (Runs (.cdcReset n c) s fun t => t.alive n c = false ∧ Recorded t eBridgeReset clsNotice none ∧
        t = { s with dies := t.dies, hubs := t.hubs, errs := t.errs }) ∧
      (s.alive n c = false →
        (Runs (.cdcAliveTimeout n c) s fun t => t.alive n c = false ∧ Recorded t eBridgeReset clsNotice none ∧
          t = { s with dies := t.dies, hubs := t.hubs, errs := t.errs } ∧
          (n < 4 → (t.die n).brrst = satAdd 16 (s.die n).brrst 1)) ∧
        (Runs (.cdcClockReturn n c) s fun t => t.alive n c = true ∧ t = { s with dies := t.dies, hubs := t.hubs } ∧
          ∀ k, k < 6 → k ≠ c → t.alive n k = s.alive n k)))

/-- A third-party chiplet's request: refused by the first check of R383 that it fails, counted and logged once; else served
inside its window, where a write stores its data and a read returns memory, or made to wait for its bucket; FWWIN_WRITE checks
its fields, and a filled bucket lets the waiting request go on (R382 to R386). -/
def Obligations.ChipletRequests : Prop :=
  ∀ (s : State) (hub : Nat) (r : ChipletReq), s.hubFitted hub = true →
    let x := s.hub hub
    let w := s.window hub (reqWin r)
    let fn := w.func.toNat
    let data := slice r.data 0 r.len
    (x.chip = .up → s.withheld hub = false → r.data.length = r.len ∨ r.write = false →
      (∀ kind, s.violation hub r = some kind → Runs (.chipletRequest hub r .none) s fun t =>
        t = { s with hubs := t.hubs, out := t.out } ∧ (∀ j, j ≠ hub → t.hub j = s.hub j) ∧
        (t.hub hub).viol = satAdd 16 x.viol 1 ∧ (t.hub hub).fwValid = true ∧
        (x.fwValid = true → (t.hub hub).fwKind = x.fwKind ∧ (t.hub hub).fwAddr = x.fwAddr) ∧
        (x.fwValid = false → (t.hub hub).fwKind = kind ∧ (t.hub hub).fwAddr = r.addr ∧ (t.hub hub).fwWin = reqWin r) ∧
        t.out = if r.write = true then s.out else .chiplet hub true false [] :: s.out) ∧
      (s.violation hub r = none → w.covers r = true →
        let k := if w.rate = 0xFFFF#16 then w.tokens else w.tokens - r.len
        (r.write = true → s.poison = [] → Runs (.chipletRequest hub r .none) s fun t =>
          t.mem = (s.writeVA fn (w.va r) data).mem ∧ t.out = s.out ∧
          t = { s with hubs := t.hubs, mem := t.mem } ∧
          t.window hub (reqWin r) = { w with tokens := k } ∧ ∀ v, v ≠ reqWin r → t.window hub v = s.window hub v) ∧
        (r.write = false → s.poison = [] → Runs (.chipletRequest hub r .none) s fun t =>
          t.out = .chiplet hub false false (s.readVA fn (w.va r) r.len) :: s.out ∧ t = { s with hubs := t.hubs, out := t.out } ∧
          t.window hub (reqWin r) = { w with tokens := k } ∧ ∀ v, v ≠ reqWin r → t.window hub v = s.window hub v)) ∧
      (s.violation hub r = none → w.covers r = false → Runs (.chipletRequest hub r .none) s fun t => OnlyHub s t hub ∧
        t.window hub (reqWin r) = { w with waiting := some r })) ∧
    (∀ (n : Nat) (v : W64), n < 16 →
      let f := bits v.toNat 60 57
      let pages := v.toNat % 2 ^ 20
      let bad := pages = 0 ∨ 524288 < pages ∨ (bitOf v.toNat 63 = true ∧ (s.func f).state ≠ .on)
      (bad → Runs (.fwwinWrite hub n v) s fun t => OnlyHub s t hub ∧ t.hub hub = { x with cfgerr := true }) ∧
      (¬bad → Runs (.fwwinWrite hub n v) s fun t => OnlyHub s t hub ∧ (∀ k, k ≠ n → t.window hub k = s.window hub k) ∧
        t.window hub n = { s.window hub n with
          valid := bitOf v.toNat 63, wr := bitOf v.toNat 62, rd := bitOf v.toNat 61, func := BitVec.ofNat 4 f
          vpn := BitVec.ofNat 27 (bits v.toNat 46 20), npage := BitVec.ofNat 20 pages })) ∧
    (∀ n, n < 16 →
      let y := s.window hub n
      y.rate ≠ 0 →
      (y.waiting = none → Runs (.tokenBucketFill hub n) s fun t => OnlyHub s t hub ∧
        t.window hub n = { y with tokens := max y.tokens (max y.burst.toNat 4 * 1024) }) ∧
      (∀ q, y.waiting = some q → reqWin q = n → s.violation hub q = none → q.write = true → q.data.length = q.len →
        s.poison = [] → Runs (.tokenBucketFill hub n) s fun t =>
          t.mem = (s.writeVA y.func.toNat (y.va q) q.data).mem ∧ (t.window hub n).waiting = none ∧
          t = { s with hubs := t.hubs, mem := t.mem }))

/-! ### Management and debug -/

/-- Attestation and the management registers: each SPDM request is answered once the identity is known, CHALLENGE by the identity
key and a new nonce; an MCTP read returns the register or logs an error, an MCTP write acts through HUB_MGCTL alone, and a
register write through a view reaches a register only on a granted page (R15, R324, R422 to R424, R428, R429, R434). -/
def Obligations.ManagementMessages : Prop :=
  ∀ (s : State) (m : List Byte) (addr : Nat),
    let answers (i : Instr) (a : SpdmAnswer) : Prop := Runs i s fun t => t = { s with out := .spdm a :: s.out }
    let nonce := Config.spdmNonce s.sec.signs
    (s.sec.idok = true → s.sec.idfail = false →
      answers (.getVersion m) (.version 1 3) ∧ answers (.getCapabilities m) (.capabilities false false false false) ∧
      answers (.negotiateAlgorithms m) (.algorithms 384 384 true) ∧
      answers (.getDigests m) (.digests 1 (sha384 Config.certChain)) ∧
      (∀ off len, answers (.getCertificate off len)
        (.certificate 0 ((Config.certChain.drop off).take len) ((Config.certChain.drop off).length - len))) ∧
      (Runs (.challenge m) s fun t => t = { s with
        sec := { s.sec with signs := s.sec.signs + 1 }
        out := .spdm (.challengeAuth nonce (Config.identitySign s.sec.signs (m ++ nonce))) :: s.out }) ∧
      answers (.getMeasurements 3) (.measurements [(3, leBytes 2 s.sec.fwSvn ++ leBytes 2 s.sec.fwFloor)]) ∧
      answers (.getMeasurements 23) (.measurements [(23, leBytes 4 s.sec.stat)]) ∧
      (s.base = none → answers (.getMeasurements 6) (.measurements [(6, zeros 48)])) ∧
      (∀ b, s.base = some b → b.digest ≠ [] → answers (.getMeasurements 6) (.measurements [(6, b.digest)])) ∧
      ∀ code, answers (.spdmUnsupportedRequest code) .unsupportedRequest) ∧
    (s.boot.supply ≠ .unpowered →
      (Runs (.mctpControl m) s fun t => t = { s with out := .mctp (Config.mctpControlBody m) :: s.out }) ∧
      (∀ r b, s.bmcTarget addr = some (r, b) →
        (Runs (.mctpRegisterRead addr) s fun t => t = { s with
          out := .regRead (BitVec.ofNat 64 (readPart (addr - regBase) 4 b (s.regRead r))) :: s.out }) ∧
        (r ≠ .mgCtl → ∀ v, NoEffect (.mctpRegisterWrite addr v) s) ∧
        (r = .mgCtl → ∀ v : W32,
          (bitOf v.toNat 2 = true → Runs (.mctpRegisterWrite addr v) s fun t =>
            Lost s t 2 ∧ HostKept s t ∧ StartsIf (CanStart s) t) ∧
          (v.toNat % 8 = 0 → NoEffect (.mctpRegisterWrite addr v) s) ∧
          (v.toNat % 8 = 1 → exec (.mctpRegisterWrite addr v) s = exec .remreq s) ∧
          (v.toNat % 8 = 2 → exec (.mctpRegisterWrite addr v) s = exec .remcancel s))) ∧
      (s.bmcTarget addr = none → s.boot.supply = .running →
        (Runs (.mctpRegisterRead addr) s fun t =>
          t = { s with out := .regRead 0 :: s.out, errs := t.errs } ∧ Recorded t eRegAccess clsNotice none) ∧
        ∀ v, Runs (.mctpRegisterWrite addr v) s fun t =>
          t = { s with errs := t.errs } ∧ Recorded t eRegAccess clsNotice none)) ∧
    (∀ (v hub off : Nat) (x : W64), s.hubFitted hub = true → v ≤ 16 → off < 0x800000 → (s.lwl hub).state = .up →
      ((s.viewPages v)[off / 4096]? = none → Runs (.registerWrite (.view v hub) off 4 x) s fun t =>
        t = { s with errs := t.errs } ∧ Recorded t eRegAccess clsNotice none) ∧
      (∀ page r b w, (s.viewPages v)[off / 4096]? = some (page, false) →
        s.target (page + off % 4096 - regBase) 4 = .reg r b w → s.boot.supply = .running →
        Runs (.registerWrite (.view v hub) off 4 x) s fun t =>
          t = { s with errs := t.errs } ∧ Recorded t eRegAccess clsNotice none) ∧
      (∀ page w, (s.viewPages v)[off / 4096]? = some (page, true) →
        s.target (page + off % 4096 - regBase) 4 = .reg .tlimit (page + off % 4096 - regBase) w → s.pathAlive hub (page + off % 4096) = true →
        s.stalledAt (page + off % 4096) = false →
        70 ≤ x.toNat % 256 → x.toNat % 256 ≤ 105 → Runs (.registerWrite (.view v hub) off 4 x) s fun t =>
          t = { s with power := { s.power with tlimit := BitVec.ofNat 8 (x.toNat % 256) } }))

/-- The debug port: TAP instructions capture their registers, tokens grant or are refused with a new nonce, accesses reach only
what the level grants, and halts, resumes and steps act on the target (R425 to R427, R447 to R451, R457). -/
def Obligations.DebugPort : Prop :=
  ∀ (s : State) (token : List Byte) (addr : Nat), s.boot.supply = .running →
    let d := s.dbg
    let scans (i : Instr) (j : TapInstr) (v : Nat) : Prop :=
      Runs i s fun t => t = { s with dbg := { d with tap := j }, out := .scan j v :: s.out }
    let denied (i : Instr) : Prop := Runs i s fun t => OnlyDebug s t ∧ t.dbg.accStatus = 3 ∧ t.out = s.out
    let fn := d.func.toNat
    (Runs .tapReset s fun t => t = { s with dbg := { d with tap := .idcode } }) ∧
    scans .idcode .idcode idcodeValue ∧ scans .bypass .bypass 0 ∧ scans .dbgNonce .dbgNonce s.sec.nonce ∧
    scans .dbgStat .dbgStat s.sec.stat ∧
    (Runs .samplePreload s fun t => OnlyDebug s t ∧ t.dbg = { d with tap := .samplePreload } ∧
      t.out = .scan .samplePreload (Config.boundaryScan s.draws) :: s.out) ∧
    (s.sec.level ≠ 3 → scans .extest .bypass 0) ∧
    (s.sec.level = 3 → Runs .extest s fun t => OnlyDebug s t ∧ t.dbg = { d with tap := .extest } ∧
      t.out = .scan .extest (Config.boundaryScan s.draws) :: s.out) ∧
    (token.length = 256 →
      (s.tokenGrants token = none → Runs (.dbgAuth token) s fun t =>
        t.sec = { s.sec with draws := s.sec.draws + 1, fails := satAdd 8 s.sec.fails 1 } ∧
        Recorded t eDebugAuth clsNotice none ∧ t = { s with sec := t.sec, errs := t.errs, dbg := { d with tap := .dbgAuth } }) ∧
      (∀ g, s.tokenGrants token = some g →
        (s.sec.level ≤ g.level → Runs (.dbgAuth token) s fun t =>
          t = { s with sec := { g with draws := g.draws + 1 }, dbg := { d with tap := .dbgAuth } }) ∧
        (g.level < s.sec.level → Runs (.dbgAuth token) s fun t => t.sec = { g with draws := g.draws + 1 } ∧
          t.dbg.haltAsked = [] ∧ t.mem = s.mem ∧ ∀ n e, (tget {} (t.tile n).seqs e).halted = false))) ∧
    (addr < 2 ^ 48 → (∀ o, s.region addr ≠ .regs o) →
      (s.memPermit false addr 4 = .denied → denied (.dbgRead32 addr)) ∧
      (s.memPermit false addr 8 = .denied → denied (.dbgRead64 addr)) ∧
      (s.memPermit true addr 4 = .denied → ∀ v, denied (.dbgWrite32 addr v)) ∧
      (s.memPermit true addr 8 = .denied → ∀ v, denied (.dbgWrite64 addr v)) ∧
      (∀ p, s.region addr = .hbm p → s.pathAlive 0 addr = true → s.stalledAt addr = false → s.poison = [] →
        (∀ f, s.memPermit false addr 4 = .allowed f → addr % 4 = 0 → Runs (.dbgRead32 addr) s fun t =>
          t = { s with dbg := { d with tap := .dbgAcc, accStatus := 0, accData := BitVec.ofNat 64 (leNat (s.read addr 4)) } }) ∧
        (∀ f, s.memPermit false addr 8 = .allowed f → addr % 8 = 0 → Runs (.dbgRead64 addr) s fun t =>
          t = { s with dbg := { d with tap := .dbgAcc, accStatus := 0, accData := BitVec.ofNat 64 (leNat (s.read addr 8)) } }) ∧
        (∀ f v, s.memPermit true addr 4 = .allowed (some f) → addr % 4 = 0 → Runs (.dbgWrite32 addr v) s fun t =>
          Stored s t addr (leBytes 4 v.toNat) ∧ t.dbg.accStatus = 0 ∧ (t.func f).debugWritten = true ∧
          ((s.func f).debugWritten = false → Recorded t eDebugWrite clsNotice (some f))) ∧
        (∀ f v, s.memPermit true addr 8 = .allowed (some f) → addr % 8 = 0 → Runs (.dbgWrite64 addr v) s fun t =>
          Stored s t addr (leBytes 8 v.toNat) ∧ t.dbg.accStatus = 0 ∧ (t.func f).debugWritten = true))) ∧
    (∀ w v, s.sec.grants (if w = true then 2 else 1) fn = false → denied (.dbgTwdataAccess w v)) ∧
    (∀ v e, (s.tile d.tile.toNat).entryOf fn = some e → (tget {} (s.tile d.tile.toNat).seqs e).halted = true →
      d.twSpace = 0 → d.twElem.toNat < 2048 →
      let p := tget {} (s.tile d.tile.toNat).part e
      let i := d.twPlate.toNat * 2048 + d.twElem.toNat
      p.plateBase.toNat * 4 ≤ d.twPlate.toNat → d.twPlate.toNat < (p.plateBase.toNat + p.plateCount.toNat) * 4 →
      (s.tile d.tile.toNat).platePoison = [] →
      (s.sec.grants 1 fn = true → Runs (.dbgTwdataAccess false v) s fun t =>
        let v := BitVec.ofNat 64 (tget 0 (s.tile d.tile.toNat).plates i).toNat
        t = { s with dbg := { d with tap := .dbgAcc, accStatus := 0, twElem := d.twElem + 1, accData := v } }) ∧
      (s.sec.grants 2 fn = true → Runs (.dbgTwdataAccess true v) s fun t =>
        t.tile d.tile.toNat = { s.tile d.tile.toNat with plates := tset 0 (s.tile d.tile.toNat).plates i v } ∧
        t.dbg.twElem = d.twElem + 1 ∧ t.dbg.accStatus = 0 ∧ (t.func fn).debugWritten = true)) ∧
    (s.sec.grants 2 fn = false → denied .dbgHalt ∧ denied .dbgResume ∧ denied .stepInstr ∧ ∀ g, denied (.stepBeat g)) ∧
    (s.sec.grants 2 fn = true → d.all = false → ∀ e, (s.tile d.tile.toNat).entryOf fn = some e →
      let n := d.tile.toNat
      let q := tget {} (s.tile n).seqs e
      let acc := { d with tap := .dbgAcc, accStatus := 0 }
      (d.haltAsked.contains (fn, some n) = false → Runs .dbgHalt s fun t =>
        t = { s with dbg := { acc with haltAsked := d.haltAsked ++ [(fn, some n)] } }) ∧
      (d.haltAsked = [(fn, some n)] → Runs .haltComplete s fun t => t.dbg = { d with haltAsked := [] } ∧ OnlyTile s { t with dbg := d } n ∧
        tget {} (t.tile n).seqs e = { q with halted := true, reason := if q.halted = true then q.reason else 1 }) ∧
      (Runs .dbgResume s fun t => OnlyTile s { t with dbg := d } n ∧
        t.dbg = { acc with haltAsked := d.haltAsked.filter fun h => h != (fn, some n) } ∧
        tget {} (t.tile n).seqs e =
          { q with halted := false, reason := 0, passBp := q.passBp || (q.halted && q.reason == 2) }) ∧
      (q.halted = false → Runs .stepInstr s fun t => t = { s with dbg := acc }) ∧
      (∀ g, q.halted = false → Runs (.stepBeat g) s fun t => t = { s with dbg := acc }) ∧
      (q.halted = true → q.active = true → q.left ≠ 0 →
        let bs := s.read ((tget {} (s.tile n).part e).sram n q.iaddr.toNat) 32
        let free : Sequencer := { q with halted := false, passBp := true }
        let go := ({ s with dbg := acc }.onSeq fn n fun _ => free).runTile { tile := n, entry := e } bs
        (s.tileFitted n = true → ∃ t, go = .next t ∧ Runs .stepInstr s fun u => u = t.stepDone fn n) ∧
        (∀ g, engineOf (tileWords bs) g = true → q.beats + 1 < s.instrBeats fn n e (tileWords bs) →
          Runs (.stepBeat g) s fun t => OnlyTile s { t with dbg := d } n ∧
            tget {} (t.tile n).seqs e = { q with beats := q.beats + 1, reason := 4 })))

/-! ### Reset and invariant -/

/-- The module as it stands before input power comes: no supply, every function off, every queue IDLE, no image, no page in use,
links and ports down, the limits at their factory values; `MemOk` and `ErrorsOk` hold (R408; the zeroes of plates, scalars and
banks are the model's choice, assumptions 2 and 3). -/
def Obligations.ResetValues : Prop :=
  let s := State.reset
  s.boot.supply = .unpowered ∧ s.boot.stage = .standby ∧ s.boot.pwrEn = false ∧ s.herd.state = .idle ∧ s.base = none ∧
  s.images = [] ∧ s.errs = {} ∧ s.errs.arm = false ∧ s.sec.ownerLevel = 0 ∧ s.sec.vendor = false ∧ s.pending = [] ∧ MemOk s ∧
  ErrorsOk s ∧ s.power.tlimit = 100 ∧ s.power.vfloorDef = 700 ∧ s.power.vtarget = 800 ∧ s.power.limit.toNat = s.code.power ∧
  (∀ n, (s.func n).state = .off ∧ (s.func n).run = false) ∧ (∀ q, (s.queue q).state = .idle) ∧
  (∀ h, (s.lwl h).state = .down) ∧ (∀ p, (s.port p).enable = true ∧ (s.port p).state = .down) ∧
  (∀ p, (s.page p).health = .good ∧ (s.page p).use = .free) ∧ ∀ a, s.byte a = 0

/-- Every step keeps the memory's form and the bound on the error records held, leaves the assembly alone, and takes one command
from the front of the queue (R437; the memory's form is the model's choice, assumption 2). -/
def Obligations.EveryStepKeeps : Prop :=
  ∀ s t : State, MemOk s → ErrorsOk s → step s = .next t →
    MemOk t ∧ ErrorsOk t ∧ t.asm = s.asm ∧ t.badRings = s.badRings ∧ t.pending = s.pending.drop 1
end

