-- ==== Sys2Proof/Laws/Maps.lean ====
section
/-! SUPPORT. What reading a sparse table gives after each write of it, and that every write keeps its canonical form. -/
namespace Sys2Proof.Machine

variable {α : Type}

theorem tget_tdel (d : α) (t : Table α) (k j : Nat) :
    tget d (tdel t k) j = if j = k then d else tget d t j := by
  induction t with
  | nil => simp [tdel, tget]
  | cons e t ih =>
    obtain ⟨i, v⟩ := e
    simp only [tdel]
    by_cases h : i = k
    · simp only [h, if_true, ih, tget]
      by_cases hj : j = k <;> simp [hj]
      intro hc; exact absurd hc.symm hj
    · simp only [h, if_false, tget, ih]
      by_cases hj : i = j
      · subst hj; simp [h]
      · simp [hj]

theorem tget_tput (d : α) (t : Table α) (k : Nat) (v : α) (j : Nat) :
    tget d (tput t k v) j = if j = k then v else tget d t j := by
  induction t with
  | nil => simp only [tput, tget]; by_cases h : j = k <;> simp [h]; intro hc; exact absurd hc.symm h
  | cons e t ih =>
    obtain ⟨i, w⟩ := e
    simp only [tput]
    split
    · simp only [tget]; by_cases h : j = k <;> simp [h]; intro hc; exact absurd hc.symm h
    · split
      · rename_i _ h; subst h
        simp only [tget]; by_cases h : j = k
        · simp [h]
        · have : ¬k = j := fun hc => h hc.symm
          simp [h, this]
      · rename_i h1 h2
        simp only [tget, ih]
        by_cases hi : i = j
        · subst hi; have : ¬i = k := fun hc => h2 hc.symm
          simp [this]
        · simp [hi]

theorem tget_tset [DecidableEq α] (d : α) (t : Table α) (k : Nat) (v : α) (j : Nat) :
    tget d (tset d t k v) j = if j = k then v else tget d t j := by
  unfold tset
  split
  · rename_i h; rw [tget_tdel, h]
  · exact tget_tput d t k v j

@[simp] theorem tget_tset_self [DecidableEq α] (d : α) (t : Table α) (k : Nat) (v : α) :
    tget d (tset d t k v) k = v := by rw [tget_tset, if_pos rfl]

theorem tget_tset_ne [DecidableEq α] (d : α) (t : Table α) (v : α) {k j : Nat} (h : j ≠ k) :
    tget d (tset d t k v) j = tget d t j := by rw [tget_tset, if_neg h]

theorem tget_filter_key (d : α) (p : Nat → Bool) (t : Table α) (j : Nat) :
    tget d (t.filter fun e => p e.1) j = if p j = true then tget d t j else d := by
  induction t with
  | nil => simp [tget]
  | cons e t ih =>
    obtain ⟨i, v⟩ := e
    rw [List.filter_cons]
    split
    · rename_i hp
      simp only [tget, ih]
      by_cases hj : i = j
      · subst hj; simp only at hp; simp [hp]
      · simp [hj]
    · rename_i hp
      rw [ih]
      by_cases hj : i = j
      · subst hj; simp only at hp; simp [hp]
      · simp [tget, hj]

theorem tget_tclear (d : α) (t : Table α) (lo hi j : Nat) :
    tget d (tclear t lo hi) j = if lo ≤ j ∧ j < hi then d else tget d t j := by
  rw [tclear, tget_filter_key d (fun k => decide (k < lo ∨ hi ≤ k))]
  by_cases h : j < lo ∨ hi ≤ j
  · have : ¬(lo ≤ j ∧ j < hi) := by omega
    rw [if_pos (by simpa using h), if_neg this]
  · have : lo ≤ j ∧ j < hi := by omega
    rw [if_neg (by simpa using h), if_pos this]

theorem tget_tsetList [DecidableEq α] (d : α) (vs : List α) :
    ∀ (t : Table α) (k j : Nat),
      tget d (tsetList d t k vs) j = if k ≤ j ∧ j < k + vs.length then vs.getD (j - k) d else tget d t j := by
  induction vs with
  | nil => intro t k j; have : ¬(k ≤ j ∧ j < k + 0) := by omega
           simp only [tsetList, List.length_nil]; rw [if_neg this]
  | cons v vs ih =>
    intro t k j
    rw [tsetList, ih, tget_tset]
    by_cases h : j = k
    · subst h
      have h1 : ¬(j + 1 ≤ j ∧ j < j + 1 + vs.length) := by omega
      have h2 : j ≤ j ∧ j < j + (v :: vs).length := by simp
      rw [if_neg h1, if_pos rfl, if_pos h2]; simp
    · by_cases h3 : k + 1 ≤ j ∧ j < k + 1 + vs.length
      · have h2 : k ≤ j ∧ j < k + (v :: vs).length := by simp; omega
        rw [if_pos h3, if_pos h2]
        have : j - k = (j - (k + 1)) + 1 := by omega
        rw [this]; simp
      · have h2 : ¬(k ≤ j ∧ j < k + (v :: vs).length) := by simp; omega
        rw [if_neg h3, if_neg h2, if_neg h]

/-! ### The canonical form -/

theorem twfFrom_mono [DecidableEq α] {d : α} {lo lo' : Nat} {t : Table α} (h : twfFrom d lo t = true) (hl : lo' ≤ lo) :
    twfFrom d lo' t = true := by
  cases t with
  | nil => rfl
  | cons e t =>
    obtain ⟨k, v⟩ := e
    simp only [twfFrom, Bool.and_eq_true, decide_eq_true_eq] at h ⊢
    exact ⟨⟨Nat.le_trans hl h.1.1, h.1.2⟩, h.2⟩

theorem twfFrom_filter [DecidableEq α] {d : α} (p : Nat × α → Bool) :
    ∀ {lo : Nat} {t : Table α}, twfFrom d lo t = true → twfFrom d lo (t.filter p) = true := by
  intro lo t
  induction t generalizing lo with
  | nil => intro; rfl
  | cons e t ih =>
    obtain ⟨k, v⟩ := e
    intro h
    simp only [twfFrom, Bool.and_eq_true, decide_eq_true_eq] at h
    rw [List.filter_cons]
    split
    · simp only [twfFrom, Bool.and_eq_true, decide_eq_true_eq]
      exact ⟨h.1, ih h.2⟩
    · exact twfFrom_mono (ih h.2) (by omega)

theorem twf_filter [DecidableEq α] {d : α} (p : Nat × α → Bool) {t : Table α} (h : twf d t = true) :
    twf d (t.filter p) = true := twfFrom_filter p h

theorem twfFrom_tdel [DecidableEq α] {d : α} (k : Nat) :
    ∀ {lo : Nat} {t : Table α}, twfFrom d lo t = true → twfFrom d lo (tdel t k) = true := by
  intro lo t
  induction t generalizing lo with
  | nil => intro; rfl
  | cons e t ih =>
    obtain ⟨i, v⟩ := e
    intro h
    simp only [twfFrom, Bool.and_eq_true, decide_eq_true_eq] at h
    simp only [tdel]
    split
    · exact twfFrom_mono (ih h.2) (by omega)
    · simp only [twfFrom, Bool.and_eq_true, decide_eq_true_eq]; exact ⟨h.1, ih h.2⟩

theorem twfFrom_tput [DecidableEq α] {d : α} {v : α} (hv : v ≠ d) (k : Nat) :
    ∀ {lo : Nat} {t : Table α}, lo ≤ k → twfFrom d lo t = true → twfFrom d lo (tput t k v) = true := by
  intro lo t
  induction t generalizing lo with
  | nil => intro hk _; simp [tput, twfFrom, hk, hv]
  | cons e t ih =>
    obtain ⟨i, w⟩ := e
    intro hk h
    simp only [twfFrom, Bool.and_eq_true, decide_eq_true_eq] at h
    simp only [tput]
    split
    · simp only [twfFrom, Bool.and_eq_true, decide_eq_true_eq]
      exact ⟨⟨hk, hv⟩, ⟨by omega, h.1.2⟩, h.2⟩
    · split
      · rename_i _ he; subst he
        simp only [twfFrom, Bool.and_eq_true, decide_eq_true_eq]
        exact ⟨⟨hk, hv⟩, h.2⟩
      · simp only [twfFrom, Bool.and_eq_true, decide_eq_true_eq]
        exact ⟨h.1, ih (by omega) h.2⟩

theorem twf_tset [DecidableEq α] {d : α} (k : Nat) (v : α) {t : Table α} (h : twf d t = true) :
    twf d (tset d t k v) = true := by
  unfold tset
  split
  · exact twfFrom_tdel k h
  · rename_i hv; exact twfFrom_tput hv k (Nat.zero_le k) h

theorem twf_tclear [DecidableEq α] {d : α} (lo hi : Nat) {t : Table α} (h : twf d t = true) :
    twf d (tclear t lo hi) = true := twf_filter _ h

theorem twf_tsetList [DecidableEq α] {d : α} (vs : List α) :
    ∀ (k : Nat) {t : Table α}, twf d t = true → twf d (tsetList d t k vs) = true := by
  induction vs with
  | nil => intro k t h; exact h
  | cons v vs ih => intro k t h; exact ih (k + 1) (twf_tset k v h)

end Sys2Proof.Machine
end

