-- ==== Sys2Proof/Laws/State.lean ====
section
/-! SUPPORT. What each named update of the state leaves in each field, and what each accessor reads after it: later
proofs use these and unfold no record update. -/
namespace Sys2Proof.Machine

variable (s : State)

/-! ### setTile -/

@[simp] theorem State.setTile_asm (t : Nat) (v : Tile) : (s.setTile t v).asm = s.asm := rfl
@[simp] theorem State.setTile_mem (t : Nat) (v : Tile) : (s.setTile t v).mem = s.mem := rfl
@[simp] theorem State.setTile_poison (t : Nat) (v : Tile) : (s.setTile t v).poison = s.poison := rfl
@[simp] theorem State.setTile_badRings (t : Nat) (v : Tile) : (s.setTile t v).badRings = s.badRings := rfl
@[simp] theorem State.setTile_funcs (t : Nat) (v : Tile) : (s.setTile t v).funcs = s.funcs := rfl
@[simp] theorem State.setTile_queues (t : Nat) (v : Tile) : (s.setTile t v).queues = s.queues := rfl
@[simp] theorem State.setTile_ert (t : Nat) (v : Tile) : (s.setTile t v).ert = s.ert := rfl
@[simp] theorem State.setTile_pages (t : Nat) (v : Tile) : (s.setTile t v).pages = s.pages := rfl
@[simp] theorem State.setTile_hbmStacks (t : Nat) (v : Tile) : (s.setTile t v).hbmStacks = s.hbmStacks := rfl
@[simp] theorem State.setTile_dies (t : Nat) (v : Tile) : (s.setTile t v).dies = s.dies := rfl
@[simp] theorem State.setTile_hubs (t : Nat) (v : Tile) : (s.setTile t v).hubs = s.hubs := rfl
@[simp] theorem State.setTile_ports (t : Nat) (v : Tile) : (s.setTile t v).ports = s.ports := rfl
@[simp] theorem State.setTile_links (t : Nat) (v : Tile) : (s.setTile t v).links = s.links := rfl
@[simp] theorem State.setTile_herd (t : Nat) (v : Tile) : (s.setTile t v).herd = s.herd := rfl
@[simp] theorem State.setTile_larwa (t : Nat) (v : Tile) : (s.setTile t v).larwa = s.larwa := rfl
@[simp] theorem State.setTile_power (t : Nat) (v : Tile) : (s.setTile t v).power = s.power := rfl
@[simp] theorem State.setTile_boot (t : Nat) (v : Tile) : (s.setTile t v).boot = s.boot := rfl
@[simp] theorem State.setTile_nv (t : Nat) (v : Tile) : (s.setTile t v).nv = s.nv := rfl
@[simp] theorem State.setTile_sec (t : Nat) (v : Tile) : (s.setTile t v).sec = s.sec := rfl
@[simp] theorem State.setTile_base (t : Nat) (v : Tile) : (s.setTile t v).base = s.base := rfl
@[simp] theorem State.setTile_images (t : Nat) (v : Tile) : (s.setTile t v).images = s.images := rfl
@[simp] theorem State.setTile_imgWait (t : Nat) (v : Tile) : (s.setTile t v).imgWait = s.imgWait := rfl
@[simp] theorem State.setTile_imgStat (t : Nat) (v : Tile) : (s.setTile t v).imgStat = s.imgStat := rfl
@[simp] theorem State.setTile_errs (t : Nat) (v : Tile) : (s.setTile t v).errs = s.errs := rfl
@[simp] theorem State.setTile_dbg (t : Nat) (v : Tile) : (s.setTile t v).dbg = s.dbg := rfl
@[simp] theorem State.setTile_out (t : Nat) (v : Tile) : (s.setTile t v).out = s.out := rfl
@[simp] theorem State.setTile_draws (t : Nat) (v : Tile) : (s.setTile t v).draws = s.draws := rfl
@[simp] theorem State.setTile_pending (t : Nat) (v : Tile) : (s.setTile t v).pending = s.pending := rfl
@[simp] theorem State.setTile_func_eq (t : Nat) (v : Tile) (j : Nat) : (s.setTile t v).func j = s.func j := rfl
@[simp] theorem State.setTile_queue_eq (t : Nat) (v : Tile) (j : Nat) : (s.setTile t v).queue j = s.queue j := rfl
@[simp] theorem State.setTile_ertEntry_eq (t : Nat) (v : Tile) (j : Nat) : (s.setTile t v).ertEntry j = s.ertEntry j := rfl
@[simp] theorem State.setTile_page_eq (t : Nat) (v : Tile) (j : Nat) : (s.setTile t v).page j = s.page j := rfl
@[simp] theorem State.setTile_stack_eq (t : Nat) (v : Tile) (j : Nat) : (s.setTile t v).stack j = s.stack j := rfl
@[simp] theorem State.setTile_die_eq (t : Nat) (v : Tile) (j : Nat) : (s.setTile t v).die j = s.die j := rfl
@[simp] theorem State.setTile_hub_eq (t : Nat) (v : Tile) (j : Nat) : (s.setTile t v).hub j = s.hub j := rfl
@[simp] theorem State.setTile_port_eq (t : Nat) (v : Tile) (j : Nat) : (s.setTile t v).port j = s.port j := rfl
@[simp] theorem State.setTile_link_eq (t : Nat) (v : Tile) (j : Nat) : (s.setTile t v).link j = s.link j := rfl
@[simp] theorem State.setTile_diePower_eq (t : Nat) (v : Tile) (j : Nat) : (s.setTile t v).diePower j = s.diePower j := rfl
@[simp] theorem State.setTile_image_eq (t : Nat) (v : Tile) (j : Nat) : (s.setTile t v).image j = s.image j := rfl
@[simp] theorem State.setTile_byte_eq (t : Nat) (v : Tile) (j : Nat) : (s.setTile t v).byte j = s.byte j := rfl
@[simp] theorem State.setTile_code_eq (t : Nat) (v : Tile) : (s.setTile t v).code = s.code := rfl
theorem State.setTile_tile (t : Nat) (v : Tile) (j : Nat) : (s.setTile t v).tile j = if j = t then v else s.tile j := by
  simp only [State.setTile, State.tile, tget_tset]
@[simp] theorem State.setTile_tile_self (t : Nat) (v : Tile) : (s.setTile t v).tile t = v := by simp [State.setTile_tile]
theorem State.setTile_tile_ne (t : Nat) (v : Tile) (j : Nat) (hj : j ≠ t) : (s.setTile t v).tile j = s.tile j := by
  simp [State.setTile_tile, hj]

/-! ### setFunc -/

@[simp] theorem State.setFunc_asm (n : Nat) (v : Func) : (s.setFunc n v).asm = s.asm := rfl
@[simp] theorem State.setFunc_mem (n : Nat) (v : Func) : (s.setFunc n v).mem = s.mem := rfl
@[simp] theorem State.setFunc_poison (n : Nat) (v : Func) : (s.setFunc n v).poison = s.poison := rfl
@[simp] theorem State.setFunc_badRings (n : Nat) (v : Func) : (s.setFunc n v).badRings = s.badRings := rfl
@[simp] theorem State.setFunc_tiles (n : Nat) (v : Func) : (s.setFunc n v).tiles = s.tiles := rfl
@[simp] theorem State.setFunc_queues (n : Nat) (v : Func) : (s.setFunc n v).queues = s.queues := rfl
@[simp] theorem State.setFunc_ert (n : Nat) (v : Func) : (s.setFunc n v).ert = s.ert := rfl
@[simp] theorem State.setFunc_pages (n : Nat) (v : Func) : (s.setFunc n v).pages = s.pages := rfl
@[simp] theorem State.setFunc_hbmStacks (n : Nat) (v : Func) : (s.setFunc n v).hbmStacks = s.hbmStacks := rfl
@[simp] theorem State.setFunc_dies (n : Nat) (v : Func) : (s.setFunc n v).dies = s.dies := rfl
@[simp] theorem State.setFunc_hubs (n : Nat) (v : Func) : (s.setFunc n v).hubs = s.hubs := rfl
@[simp] theorem State.setFunc_ports (n : Nat) (v : Func) : (s.setFunc n v).ports = s.ports := rfl
@[simp] theorem State.setFunc_links (n : Nat) (v : Func) : (s.setFunc n v).links = s.links := rfl
@[simp] theorem State.setFunc_herd (n : Nat) (v : Func) : (s.setFunc n v).herd = s.herd := rfl
@[simp] theorem State.setFunc_larwa (n : Nat) (v : Func) : (s.setFunc n v).larwa = s.larwa := rfl
@[simp] theorem State.setFunc_power (n : Nat) (v : Func) : (s.setFunc n v).power = s.power := rfl
@[simp] theorem State.setFunc_boot (n : Nat) (v : Func) : (s.setFunc n v).boot = s.boot := rfl
@[simp] theorem State.setFunc_nv (n : Nat) (v : Func) : (s.setFunc n v).nv = s.nv := rfl
@[simp] theorem State.setFunc_sec (n : Nat) (v : Func) : (s.setFunc n v).sec = s.sec := rfl
@[simp] theorem State.setFunc_base (n : Nat) (v : Func) : (s.setFunc n v).base = s.base := rfl
@[simp] theorem State.setFunc_images (n : Nat) (v : Func) : (s.setFunc n v).images = s.images := rfl
@[simp] theorem State.setFunc_imgWait (n : Nat) (v : Func) : (s.setFunc n v).imgWait = s.imgWait := rfl
@[simp] theorem State.setFunc_imgStat (n : Nat) (v : Func) : (s.setFunc n v).imgStat = s.imgStat := rfl
@[simp] theorem State.setFunc_errs (n : Nat) (v : Func) : (s.setFunc n v).errs = s.errs := rfl
@[simp] theorem State.setFunc_dbg (n : Nat) (v : Func) : (s.setFunc n v).dbg = s.dbg := rfl
@[simp] theorem State.setFunc_out (n : Nat) (v : Func) : (s.setFunc n v).out = s.out := rfl
@[simp] theorem State.setFunc_draws (n : Nat) (v : Func) : (s.setFunc n v).draws = s.draws := rfl
@[simp] theorem State.setFunc_pending (n : Nat) (v : Func) : (s.setFunc n v).pending = s.pending := rfl
@[simp] theorem State.setFunc_tile_eq (n : Nat) (v : Func) (j : Nat) : (s.setFunc n v).tile j = s.tile j := rfl
@[simp] theorem State.setFunc_queue_eq (n : Nat) (v : Func) (j : Nat) : (s.setFunc n v).queue j = s.queue j := rfl
@[simp] theorem State.setFunc_ertEntry_eq (n : Nat) (v : Func) (j : Nat) : (s.setFunc n v).ertEntry j = s.ertEntry j := rfl
@[simp] theorem State.setFunc_page_eq (n : Nat) (v : Func) (j : Nat) : (s.setFunc n v).page j = s.page j := rfl
@[simp] theorem State.setFunc_stack_eq (n : Nat) (v : Func) (j : Nat) : (s.setFunc n v).stack j = s.stack j := rfl
@[simp] theorem State.setFunc_die_eq (n : Nat) (v : Func) (j : Nat) : (s.setFunc n v).die j = s.die j := rfl
@[simp] theorem State.setFunc_hub_eq (n : Nat) (v : Func) (j : Nat) : (s.setFunc n v).hub j = s.hub j := rfl
@[simp] theorem State.setFunc_port_eq (n : Nat) (v : Func) (j : Nat) : (s.setFunc n v).port j = s.port j := rfl
@[simp] theorem State.setFunc_link_eq (n : Nat) (v : Func) (j : Nat) : (s.setFunc n v).link j = s.link j := rfl
@[simp] theorem State.setFunc_diePower_eq (n : Nat) (v : Func) (j : Nat) : (s.setFunc n v).diePower j = s.diePower j := rfl
@[simp] theorem State.setFunc_image_eq (n : Nat) (v : Func) (j : Nat) : (s.setFunc n v).image j = s.image j := rfl
@[simp] theorem State.setFunc_byte_eq (n : Nat) (v : Func) (j : Nat) : (s.setFunc n v).byte j = s.byte j := rfl
@[simp] theorem State.setFunc_code_eq (n : Nat) (v : Func) : (s.setFunc n v).code = s.code := rfl
theorem State.setFunc_func (n : Nat) (v : Func) (j : Nat) : (s.setFunc n v).func j = if j = n then v else s.func j := by
  simp only [State.setFunc, State.func, tget_tset]
@[simp] theorem State.setFunc_func_self (n : Nat) (v : Func) : (s.setFunc n v).func n = v := by simp [State.setFunc_func]
theorem State.setFunc_func_ne (n : Nat) (v : Func) (j : Nat) (hj : j ≠ n) : (s.setFunc n v).func j = s.func j := by
  simp [State.setFunc_func, hj]

/-! ### setQueue -/

@[simp] theorem State.setQueue_asm (q : Nat) (v : Queue) : (s.setQueue q v).asm = s.asm := rfl
@[simp] theorem State.setQueue_mem (q : Nat) (v : Queue) : (s.setQueue q v).mem = s.mem := rfl
@[simp] theorem State.setQueue_poison (q : Nat) (v : Queue) : (s.setQueue q v).poison = s.poison := rfl
@[simp] theorem State.setQueue_badRings (q : Nat) (v : Queue) : (s.setQueue q v).badRings = s.badRings := rfl
@[simp] theorem State.setQueue_tiles (q : Nat) (v : Queue) : (s.setQueue q v).tiles = s.tiles := rfl
@[simp] theorem State.setQueue_funcs (q : Nat) (v : Queue) : (s.setQueue q v).funcs = s.funcs := rfl
@[simp] theorem State.setQueue_ert (q : Nat) (v : Queue) : (s.setQueue q v).ert = s.ert := rfl
@[simp] theorem State.setQueue_pages (q : Nat) (v : Queue) : (s.setQueue q v).pages = s.pages := rfl
@[simp] theorem State.setQueue_hbmStacks (q : Nat) (v : Queue) : (s.setQueue q v).hbmStacks = s.hbmStacks := rfl
@[simp] theorem State.setQueue_dies (q : Nat) (v : Queue) : (s.setQueue q v).dies = s.dies := rfl
@[simp] theorem State.setQueue_hubs (q : Nat) (v : Queue) : (s.setQueue q v).hubs = s.hubs := rfl
@[simp] theorem State.setQueue_ports (q : Nat) (v : Queue) : (s.setQueue q v).ports = s.ports := rfl
@[simp] theorem State.setQueue_links (q : Nat) (v : Queue) : (s.setQueue q v).links = s.links := rfl
@[simp] theorem State.setQueue_herd (q : Nat) (v : Queue) : (s.setQueue q v).herd = s.herd := rfl
@[simp] theorem State.setQueue_larwa (q : Nat) (v : Queue) : (s.setQueue q v).larwa = s.larwa := rfl
@[simp] theorem State.setQueue_power (q : Nat) (v : Queue) : (s.setQueue q v).power = s.power := rfl
@[simp] theorem State.setQueue_boot (q : Nat) (v : Queue) : (s.setQueue q v).boot = s.boot := rfl
@[simp] theorem State.setQueue_nv (q : Nat) (v : Queue) : (s.setQueue q v).nv = s.nv := rfl
@[simp] theorem State.setQueue_sec (q : Nat) (v : Queue) : (s.setQueue q v).sec = s.sec := rfl
@[simp] theorem State.setQueue_base (q : Nat) (v : Queue) : (s.setQueue q v).base = s.base := rfl
@[simp] theorem State.setQueue_images (q : Nat) (v : Queue) : (s.setQueue q v).images = s.images := rfl
@[simp] theorem State.setQueue_imgWait (q : Nat) (v : Queue) : (s.setQueue q v).imgWait = s.imgWait := rfl
@[simp] theorem State.setQueue_imgStat (q : Nat) (v : Queue) : (s.setQueue q v).imgStat = s.imgStat := rfl
@[simp] theorem State.setQueue_errs (q : Nat) (v : Queue) : (s.setQueue q v).errs = s.errs := rfl
@[simp] theorem State.setQueue_dbg (q : Nat) (v : Queue) : (s.setQueue q v).dbg = s.dbg := rfl
@[simp] theorem State.setQueue_out (q : Nat) (v : Queue) : (s.setQueue q v).out = s.out := rfl
@[simp] theorem State.setQueue_draws (q : Nat) (v : Queue) : (s.setQueue q v).draws = s.draws := rfl
@[simp] theorem State.setQueue_pending (q : Nat) (v : Queue) : (s.setQueue q v).pending = s.pending := rfl
@[simp] theorem State.setQueue_tile_eq (q : Nat) (v : Queue) (j : Nat) : (s.setQueue q v).tile j = s.tile j := rfl
@[simp] theorem State.setQueue_func_eq (q : Nat) (v : Queue) (j : Nat) : (s.setQueue q v).func j = s.func j := rfl
@[simp] theorem State.setQueue_ertEntry_eq (q : Nat) (v : Queue) (j : Nat) : (s.setQueue q v).ertEntry j = s.ertEntry j := rfl
@[simp] theorem State.setQueue_page_eq (q : Nat) (v : Queue) (j : Nat) : (s.setQueue q v).page j = s.page j := rfl
@[simp] theorem State.setQueue_stack_eq (q : Nat) (v : Queue) (j : Nat) : (s.setQueue q v).stack j = s.stack j := rfl
@[simp] theorem State.setQueue_die_eq (q : Nat) (v : Queue) (j : Nat) : (s.setQueue q v).die j = s.die j := rfl
@[simp] theorem State.setQueue_hub_eq (q : Nat) (v : Queue) (j : Nat) : (s.setQueue q v).hub j = s.hub j := rfl
@[simp] theorem State.setQueue_port_eq (q : Nat) (v : Queue) (j : Nat) : (s.setQueue q v).port j = s.port j := rfl
@[simp] theorem State.setQueue_link_eq (q : Nat) (v : Queue) (j : Nat) : (s.setQueue q v).link j = s.link j := rfl
@[simp] theorem State.setQueue_diePower_eq (q : Nat) (v : Queue) (j : Nat) : (s.setQueue q v).diePower j = s.diePower j := rfl
@[simp] theorem State.setQueue_image_eq (q : Nat) (v : Queue) (j : Nat) : (s.setQueue q v).image j = s.image j := rfl
@[simp] theorem State.setQueue_byte_eq (q : Nat) (v : Queue) (j : Nat) : (s.setQueue q v).byte j = s.byte j := rfl
@[simp] theorem State.setQueue_code_eq (q : Nat) (v : Queue) : (s.setQueue q v).code = s.code := rfl
theorem State.setQueue_queue (q : Nat) (v : Queue) (j : Nat) : (s.setQueue q v).queue j = if j = q then v else s.queue j := by
  simp only [State.setQueue, State.queue, tget_tset]
@[simp] theorem State.setQueue_queue_self (q : Nat) (v : Queue) : (s.setQueue q v).queue q = v := by simp [State.setQueue_queue]
theorem State.setQueue_queue_ne (q : Nat) (v : Queue) (j : Nat) (hj : j ≠ q) : (s.setQueue q v).queue j = s.queue j := by
  simp [State.setQueue_queue, hj]

/-! ### setErt -/

@[simp] theorem State.setErt_asm (e : Nat) (v : ErtEntry) : (s.setErt e v).asm = s.asm := rfl
@[simp] theorem State.setErt_mem (e : Nat) (v : ErtEntry) : (s.setErt e v).mem = s.mem := rfl
@[simp] theorem State.setErt_poison (e : Nat) (v : ErtEntry) : (s.setErt e v).poison = s.poison := rfl
@[simp] theorem State.setErt_badRings (e : Nat) (v : ErtEntry) : (s.setErt e v).badRings = s.badRings := rfl
@[simp] theorem State.setErt_tiles (e : Nat) (v : ErtEntry) : (s.setErt e v).tiles = s.tiles := rfl
@[simp] theorem State.setErt_funcs (e : Nat) (v : ErtEntry) : (s.setErt e v).funcs = s.funcs := rfl
@[simp] theorem State.setErt_queues (e : Nat) (v : ErtEntry) : (s.setErt e v).queues = s.queues := rfl
@[simp] theorem State.setErt_pages (e : Nat) (v : ErtEntry) : (s.setErt e v).pages = s.pages := rfl
@[simp] theorem State.setErt_hbmStacks (e : Nat) (v : ErtEntry) : (s.setErt e v).hbmStacks = s.hbmStacks := rfl
@[simp] theorem State.setErt_dies (e : Nat) (v : ErtEntry) : (s.setErt e v).dies = s.dies := rfl
@[simp] theorem State.setErt_hubs (e : Nat) (v : ErtEntry) : (s.setErt e v).hubs = s.hubs := rfl
@[simp] theorem State.setErt_ports (e : Nat) (v : ErtEntry) : (s.setErt e v).ports = s.ports := rfl
@[simp] theorem State.setErt_links (e : Nat) (v : ErtEntry) : (s.setErt e v).links = s.links := rfl
@[simp] theorem State.setErt_herd (e : Nat) (v : ErtEntry) : (s.setErt e v).herd = s.herd := rfl
@[simp] theorem State.setErt_larwa (e : Nat) (v : ErtEntry) : (s.setErt e v).larwa = s.larwa := rfl
@[simp] theorem State.setErt_power (e : Nat) (v : ErtEntry) : (s.setErt e v).power = s.power := rfl
@[simp] theorem State.setErt_boot (e : Nat) (v : ErtEntry) : (s.setErt e v).boot = s.boot := rfl
@[simp] theorem State.setErt_nv (e : Nat) (v : ErtEntry) : (s.setErt e v).nv = s.nv := rfl
@[simp] theorem State.setErt_sec (e : Nat) (v : ErtEntry) : (s.setErt e v).sec = s.sec := rfl
@[simp] theorem State.setErt_base (e : Nat) (v : ErtEntry) : (s.setErt e v).base = s.base := rfl
@[simp] theorem State.setErt_images (e : Nat) (v : ErtEntry) : (s.setErt e v).images = s.images := rfl
@[simp] theorem State.setErt_imgWait (e : Nat) (v : ErtEntry) : (s.setErt e v).imgWait = s.imgWait := rfl
@[simp] theorem State.setErt_imgStat (e : Nat) (v : ErtEntry) : (s.setErt e v).imgStat = s.imgStat := rfl
@[simp] theorem State.setErt_errs (e : Nat) (v : ErtEntry) : (s.setErt e v).errs = s.errs := rfl
@[simp] theorem State.setErt_dbg (e : Nat) (v : ErtEntry) : (s.setErt e v).dbg = s.dbg := rfl
@[simp] theorem State.setErt_out (e : Nat) (v : ErtEntry) : (s.setErt e v).out = s.out := rfl
@[simp] theorem State.setErt_draws (e : Nat) (v : ErtEntry) : (s.setErt e v).draws = s.draws := rfl
@[simp] theorem State.setErt_pending (e : Nat) (v : ErtEntry) : (s.setErt e v).pending = s.pending := rfl
@[simp] theorem State.setErt_tile_eq (e : Nat) (v : ErtEntry) (j : Nat) : (s.setErt e v).tile j = s.tile j := rfl
@[simp] theorem State.setErt_func_eq (e : Nat) (v : ErtEntry) (j : Nat) : (s.setErt e v).func j = s.func j := rfl
@[simp] theorem State.setErt_queue_eq (e : Nat) (v : ErtEntry) (j : Nat) : (s.setErt e v).queue j = s.queue j := rfl
@[simp] theorem State.setErt_page_eq (e : Nat) (v : ErtEntry) (j : Nat) : (s.setErt e v).page j = s.page j := rfl
@[simp] theorem State.setErt_stack_eq (e : Nat) (v : ErtEntry) (j : Nat) : (s.setErt e v).stack j = s.stack j := rfl
@[simp] theorem State.setErt_die_eq (e : Nat) (v : ErtEntry) (j : Nat) : (s.setErt e v).die j = s.die j := rfl
@[simp] theorem State.setErt_hub_eq (e : Nat) (v : ErtEntry) (j : Nat) : (s.setErt e v).hub j = s.hub j := rfl
@[simp] theorem State.setErt_port_eq (e : Nat) (v : ErtEntry) (j : Nat) : (s.setErt e v).port j = s.port j := rfl
@[simp] theorem State.setErt_link_eq (e : Nat) (v : ErtEntry) (j : Nat) : (s.setErt e v).link j = s.link j := rfl
@[simp] theorem State.setErt_diePower_eq (e : Nat) (v : ErtEntry) (j : Nat) : (s.setErt e v).diePower j = s.diePower j := rfl
@[simp] theorem State.setErt_image_eq (e : Nat) (v : ErtEntry) (j : Nat) : (s.setErt e v).image j = s.image j := rfl
@[simp] theorem State.setErt_byte_eq (e : Nat) (v : ErtEntry) (j : Nat) : (s.setErt e v).byte j = s.byte j := rfl
@[simp] theorem State.setErt_code_eq (e : Nat) (v : ErtEntry) : (s.setErt e v).code = s.code := rfl
theorem State.setErt_ertEntry (e : Nat) (v : ErtEntry) (j : Nat) : (s.setErt e v).ertEntry j = if j = e then v else s.ertEntry j := by
  simp only [State.setErt, State.ertEntry, tget_tset]
@[simp] theorem State.setErt_ertEntry_self (e : Nat) (v : ErtEntry) : (s.setErt e v).ertEntry e = v := by simp [State.setErt_ertEntry]
theorem State.setErt_ertEntry_ne (e : Nat) (v : ErtEntry) (j : Nat) (hj : j ≠ e) : (s.setErt e v).ertEntry j = s.ertEntry j := by
  simp [State.setErt_ertEntry, hj]

/-! ### setPage -/

@[simp] theorem State.setPage_asm (p : Nat) (v : Page) : (s.setPage p v).asm = s.asm := rfl
@[simp] theorem State.setPage_mem (p : Nat) (v : Page) : (s.setPage p v).mem = s.mem := rfl
@[simp] theorem State.setPage_poison (p : Nat) (v : Page) : (s.setPage p v).poison = s.poison := rfl
@[simp] theorem State.setPage_badRings (p : Nat) (v : Page) : (s.setPage p v).badRings = s.badRings := rfl
@[simp] theorem State.setPage_tiles (p : Nat) (v : Page) : (s.setPage p v).tiles = s.tiles := rfl
@[simp] theorem State.setPage_funcs (p : Nat) (v : Page) : (s.setPage p v).funcs = s.funcs := rfl
@[simp] theorem State.setPage_queues (p : Nat) (v : Page) : (s.setPage p v).queues = s.queues := rfl
@[simp] theorem State.setPage_ert (p : Nat) (v : Page) : (s.setPage p v).ert = s.ert := rfl
@[simp] theorem State.setPage_hbmStacks (p : Nat) (v : Page) : (s.setPage p v).hbmStacks = s.hbmStacks := rfl
@[simp] theorem State.setPage_dies (p : Nat) (v : Page) : (s.setPage p v).dies = s.dies := rfl
@[simp] theorem State.setPage_hubs (p : Nat) (v : Page) : (s.setPage p v).hubs = s.hubs := rfl
@[simp] theorem State.setPage_ports (p : Nat) (v : Page) : (s.setPage p v).ports = s.ports := rfl
@[simp] theorem State.setPage_links (p : Nat) (v : Page) : (s.setPage p v).links = s.links := rfl
@[simp] theorem State.setPage_herd (p : Nat) (v : Page) : (s.setPage p v).herd = s.herd := rfl
@[simp] theorem State.setPage_larwa (p : Nat) (v : Page) : (s.setPage p v).larwa = s.larwa := rfl
@[simp] theorem State.setPage_power (p : Nat) (v : Page) : (s.setPage p v).power = s.power := rfl
@[simp] theorem State.setPage_boot (p : Nat) (v : Page) : (s.setPage p v).boot = s.boot := rfl
@[simp] theorem State.setPage_nv (p : Nat) (v : Page) : (s.setPage p v).nv = s.nv := rfl
@[simp] theorem State.setPage_sec (p : Nat) (v : Page) : (s.setPage p v).sec = s.sec := rfl
@[simp] theorem State.setPage_base (p : Nat) (v : Page) : (s.setPage p v).base = s.base := rfl
@[simp] theorem State.setPage_images (p : Nat) (v : Page) : (s.setPage p v).images = s.images := rfl
@[simp] theorem State.setPage_imgWait (p : Nat) (v : Page) : (s.setPage p v).imgWait = s.imgWait := rfl
@[simp] theorem State.setPage_imgStat (p : Nat) (v : Page) : (s.setPage p v).imgStat = s.imgStat := rfl
@[simp] theorem State.setPage_errs (p : Nat) (v : Page) : (s.setPage p v).errs = s.errs := rfl
@[simp] theorem State.setPage_dbg (p : Nat) (v : Page) : (s.setPage p v).dbg = s.dbg := rfl
@[simp] theorem State.setPage_out (p : Nat) (v : Page) : (s.setPage p v).out = s.out := rfl
@[simp] theorem State.setPage_draws (p : Nat) (v : Page) : (s.setPage p v).draws = s.draws := rfl
@[simp] theorem State.setPage_pending (p : Nat) (v : Page) : (s.setPage p v).pending = s.pending := rfl
@[simp] theorem State.setPage_tile_eq (p : Nat) (v : Page) (j : Nat) : (s.setPage p v).tile j = s.tile j := rfl
@[simp] theorem State.setPage_func_eq (p : Nat) (v : Page) (j : Nat) : (s.setPage p v).func j = s.func j := rfl
@[simp] theorem State.setPage_queue_eq (p : Nat) (v : Page) (j : Nat) : (s.setPage p v).queue j = s.queue j := rfl
@[simp] theorem State.setPage_ertEntry_eq (p : Nat) (v : Page) (j : Nat) : (s.setPage p v).ertEntry j = s.ertEntry j := rfl
@[simp] theorem State.setPage_stack_eq (p : Nat) (v : Page) (j : Nat) : (s.setPage p v).stack j = s.stack j := rfl
@[simp] theorem State.setPage_die_eq (p : Nat) (v : Page) (j : Nat) : (s.setPage p v).die j = s.die j := rfl
@[simp] theorem State.setPage_hub_eq (p : Nat) (v : Page) (j : Nat) : (s.setPage p v).hub j = s.hub j := rfl
@[simp] theorem State.setPage_port_eq (p : Nat) (v : Page) (j : Nat) : (s.setPage p v).port j = s.port j := rfl
@[simp] theorem State.setPage_link_eq (p : Nat) (v : Page) (j : Nat) : (s.setPage p v).link j = s.link j := rfl
@[simp] theorem State.setPage_diePower_eq (p : Nat) (v : Page) (j : Nat) : (s.setPage p v).diePower j = s.diePower j := rfl
@[simp] theorem State.setPage_image_eq (p : Nat) (v : Page) (j : Nat) : (s.setPage p v).image j = s.image j := rfl
@[simp] theorem State.setPage_byte_eq (p : Nat) (v : Page) (j : Nat) : (s.setPage p v).byte j = s.byte j := rfl
@[simp] theorem State.setPage_code_eq (p : Nat) (v : Page) : (s.setPage p v).code = s.code := rfl
theorem State.setPage_page (p : Nat) (v : Page) (j : Nat) : (s.setPage p v).page j = if j = p then v else s.page j := by
  simp only [State.setPage, State.page, tget_tset]
@[simp] theorem State.setPage_page_self (p : Nat) (v : Page) : (s.setPage p v).page p = v := by simp [State.setPage_page]
theorem State.setPage_page_ne (p : Nat) (v : Page) (j : Nat) (hj : j ≠ p) : (s.setPage p v).page j = s.page j := by
  simp [State.setPage_page, hj]

/-! ### setStack -/

@[simp] theorem State.setStack_asm (k : Nat) (v : Stack) : (s.setStack k v).asm = s.asm := rfl
@[simp] theorem State.setStack_mem (k : Nat) (v : Stack) : (s.setStack k v).mem = s.mem := rfl
@[simp] theorem State.setStack_poison (k : Nat) (v : Stack) : (s.setStack k v).poison = s.poison := rfl
@[simp] theorem State.setStack_badRings (k : Nat) (v : Stack) : (s.setStack k v).badRings = s.badRings := rfl
@[simp] theorem State.setStack_tiles (k : Nat) (v : Stack) : (s.setStack k v).tiles = s.tiles := rfl
@[simp] theorem State.setStack_funcs (k : Nat) (v : Stack) : (s.setStack k v).funcs = s.funcs := rfl
@[simp] theorem State.setStack_queues (k : Nat) (v : Stack) : (s.setStack k v).queues = s.queues := rfl
@[simp] theorem State.setStack_ert (k : Nat) (v : Stack) : (s.setStack k v).ert = s.ert := rfl
@[simp] theorem State.setStack_pages (k : Nat) (v : Stack) : (s.setStack k v).pages = s.pages := rfl
@[simp] theorem State.setStack_dies (k : Nat) (v : Stack) : (s.setStack k v).dies = s.dies := rfl
@[simp] theorem State.setStack_hubs (k : Nat) (v : Stack) : (s.setStack k v).hubs = s.hubs := rfl
@[simp] theorem State.setStack_ports (k : Nat) (v : Stack) : (s.setStack k v).ports = s.ports := rfl
@[simp] theorem State.setStack_links (k : Nat) (v : Stack) : (s.setStack k v).links = s.links := rfl
@[simp] theorem State.setStack_herd (k : Nat) (v : Stack) : (s.setStack k v).herd = s.herd := rfl
@[simp] theorem State.setStack_larwa (k : Nat) (v : Stack) : (s.setStack k v).larwa = s.larwa := rfl
@[simp] theorem State.setStack_power (k : Nat) (v : Stack) : (s.setStack k v).power = s.power := rfl
@[simp] theorem State.setStack_boot (k : Nat) (v : Stack) : (s.setStack k v).boot = s.boot := rfl
@[simp] theorem State.setStack_nv (k : Nat) (v : Stack) : (s.setStack k v).nv = s.nv := rfl
@[simp] theorem State.setStack_sec (k : Nat) (v : Stack) : (s.setStack k v).sec = s.sec := rfl
@[simp] theorem State.setStack_base (k : Nat) (v : Stack) : (s.setStack k v).base = s.base := rfl
@[simp] theorem State.setStack_images (k : Nat) (v : Stack) : (s.setStack k v).images = s.images := rfl
@[simp] theorem State.setStack_imgWait (k : Nat) (v : Stack) : (s.setStack k v).imgWait = s.imgWait := rfl
@[simp] theorem State.setStack_imgStat (k : Nat) (v : Stack) : (s.setStack k v).imgStat = s.imgStat := rfl
@[simp] theorem State.setStack_errs (k : Nat) (v : Stack) : (s.setStack k v).errs = s.errs := rfl
@[simp] theorem State.setStack_dbg (k : Nat) (v : Stack) : (s.setStack k v).dbg = s.dbg := rfl
@[simp] theorem State.setStack_out (k : Nat) (v : Stack) : (s.setStack k v).out = s.out := rfl
@[simp] theorem State.setStack_draws (k : Nat) (v : Stack) : (s.setStack k v).draws = s.draws := rfl
@[simp] theorem State.setStack_pending (k : Nat) (v : Stack) : (s.setStack k v).pending = s.pending := rfl
@[simp] theorem State.setStack_tile_eq (k : Nat) (v : Stack) (j : Nat) : (s.setStack k v).tile j = s.tile j := rfl
@[simp] theorem State.setStack_func_eq (k : Nat) (v : Stack) (j : Nat) : (s.setStack k v).func j = s.func j := rfl
@[simp] theorem State.setStack_queue_eq (k : Nat) (v : Stack) (j : Nat) : (s.setStack k v).queue j = s.queue j := rfl
@[simp] theorem State.setStack_ertEntry_eq (k : Nat) (v : Stack) (j : Nat) : (s.setStack k v).ertEntry j = s.ertEntry j := rfl
@[simp] theorem State.setStack_page_eq (k : Nat) (v : Stack) (j : Nat) : (s.setStack k v).page j = s.page j := rfl
@[simp] theorem State.setStack_die_eq (k : Nat) (v : Stack) (j : Nat) : (s.setStack k v).die j = s.die j := rfl
@[simp] theorem State.setStack_hub_eq (k : Nat) (v : Stack) (j : Nat) : (s.setStack k v).hub j = s.hub j := rfl
@[simp] theorem State.setStack_port_eq (k : Nat) (v : Stack) (j : Nat) : (s.setStack k v).port j = s.port j := rfl
@[simp] theorem State.setStack_link_eq (k : Nat) (v : Stack) (j : Nat) : (s.setStack k v).link j = s.link j := rfl
@[simp] theorem State.setStack_diePower_eq (k : Nat) (v : Stack) (j : Nat) : (s.setStack k v).diePower j = s.diePower j := rfl
@[simp] theorem State.setStack_image_eq (k : Nat) (v : Stack) (j : Nat) : (s.setStack k v).image j = s.image j := rfl
@[simp] theorem State.setStack_byte_eq (k : Nat) (v : Stack) (j : Nat) : (s.setStack k v).byte j = s.byte j := rfl
@[simp] theorem State.setStack_code_eq (k : Nat) (v : Stack) : (s.setStack k v).code = s.code := rfl
theorem State.setStack_stack (k : Nat) (v : Stack) (j : Nat) : (s.setStack k v).stack j = if j = k then v else s.stack j := by
  simp only [State.setStack, State.stack, tget_tset]
@[simp] theorem State.setStack_stack_self (k : Nat) (v : Stack) : (s.setStack k v).stack k = v := by simp [State.setStack_stack]
theorem State.setStack_stack_ne (k : Nat) (v : Stack) (j : Nat) (hj : j ≠ k) : (s.setStack k v).stack j = s.stack j := by
  simp [State.setStack_stack, hj]

/-! ### setDie -/

@[simp] theorem State.setDie_asm (d : Nat) (v : Die) : (s.setDie d v).asm = s.asm := rfl
@[simp] theorem State.setDie_mem (d : Nat) (v : Die) : (s.setDie d v).mem = s.mem := rfl
@[simp] theorem State.setDie_poison (d : Nat) (v : Die) : (s.setDie d v).poison = s.poison := rfl
@[simp] theorem State.setDie_badRings (d : Nat) (v : Die) : (s.setDie d v).badRings = s.badRings := rfl
@[simp] theorem State.setDie_tiles (d : Nat) (v : Die) : (s.setDie d v).tiles = s.tiles := rfl
@[simp] theorem State.setDie_funcs (d : Nat) (v : Die) : (s.setDie d v).funcs = s.funcs := rfl
@[simp] theorem State.setDie_queues (d : Nat) (v : Die) : (s.setDie d v).queues = s.queues := rfl
@[simp] theorem State.setDie_ert (d : Nat) (v : Die) : (s.setDie d v).ert = s.ert := rfl
@[simp] theorem State.setDie_pages (d : Nat) (v : Die) : (s.setDie d v).pages = s.pages := rfl
@[simp] theorem State.setDie_hbmStacks (d : Nat) (v : Die) : (s.setDie d v).hbmStacks = s.hbmStacks := rfl
@[simp] theorem State.setDie_hubs (d : Nat) (v : Die) : (s.setDie d v).hubs = s.hubs := rfl
@[simp] theorem State.setDie_ports (d : Nat) (v : Die) : (s.setDie d v).ports = s.ports := rfl
@[simp] theorem State.setDie_links (d : Nat) (v : Die) : (s.setDie d v).links = s.links := rfl
@[simp] theorem State.setDie_herd (d : Nat) (v : Die) : (s.setDie d v).herd = s.herd := rfl
@[simp] theorem State.setDie_larwa (d : Nat) (v : Die) : (s.setDie d v).larwa = s.larwa := rfl
@[simp] theorem State.setDie_power (d : Nat) (v : Die) : (s.setDie d v).power = s.power := rfl
@[simp] theorem State.setDie_boot (d : Nat) (v : Die) : (s.setDie d v).boot = s.boot := rfl
@[simp] theorem State.setDie_nv (d : Nat) (v : Die) : (s.setDie d v).nv = s.nv := rfl
@[simp] theorem State.setDie_sec (d : Nat) (v : Die) : (s.setDie d v).sec = s.sec := rfl
@[simp] theorem State.setDie_base (d : Nat) (v : Die) : (s.setDie d v).base = s.base := rfl
@[simp] theorem State.setDie_images (d : Nat) (v : Die) : (s.setDie d v).images = s.images := rfl
@[simp] theorem State.setDie_imgWait (d : Nat) (v : Die) : (s.setDie d v).imgWait = s.imgWait := rfl
@[simp] theorem State.setDie_imgStat (d : Nat) (v : Die) : (s.setDie d v).imgStat = s.imgStat := rfl
@[simp] theorem State.setDie_errs (d : Nat) (v : Die) : (s.setDie d v).errs = s.errs := rfl
@[simp] theorem State.setDie_dbg (d : Nat) (v : Die) : (s.setDie d v).dbg = s.dbg := rfl
@[simp] theorem State.setDie_out (d : Nat) (v : Die) : (s.setDie d v).out = s.out := rfl
@[simp] theorem State.setDie_draws (d : Nat) (v : Die) : (s.setDie d v).draws = s.draws := rfl
@[simp] theorem State.setDie_pending (d : Nat) (v : Die) : (s.setDie d v).pending = s.pending := rfl
@[simp] theorem State.setDie_tile_eq (d : Nat) (v : Die) (j : Nat) : (s.setDie d v).tile j = s.tile j := rfl
@[simp] theorem State.setDie_func_eq (d : Nat) (v : Die) (j : Nat) : (s.setDie d v).func j = s.func j := rfl
@[simp] theorem State.setDie_queue_eq (d : Nat) (v : Die) (j : Nat) : (s.setDie d v).queue j = s.queue j := rfl
@[simp] theorem State.setDie_ertEntry_eq (d : Nat) (v : Die) (j : Nat) : (s.setDie d v).ertEntry j = s.ertEntry j := rfl
@[simp] theorem State.setDie_page_eq (d : Nat) (v : Die) (j : Nat) : (s.setDie d v).page j = s.page j := rfl
@[simp] theorem State.setDie_stack_eq (d : Nat) (v : Die) (j : Nat) : (s.setDie d v).stack j = s.stack j := rfl
@[simp] theorem State.setDie_hub_eq (d : Nat) (v : Die) (j : Nat) : (s.setDie d v).hub j = s.hub j := rfl
@[simp] theorem State.setDie_port_eq (d : Nat) (v : Die) (j : Nat) : (s.setDie d v).port j = s.port j := rfl
@[simp] theorem State.setDie_link_eq (d : Nat) (v : Die) (j : Nat) : (s.setDie d v).link j = s.link j := rfl
@[simp] theorem State.setDie_diePower_eq (d : Nat) (v : Die) (j : Nat) : (s.setDie d v).diePower j = s.diePower j := rfl
@[simp] theorem State.setDie_image_eq (d : Nat) (v : Die) (j : Nat) : (s.setDie d v).image j = s.image j := rfl
@[simp] theorem State.setDie_byte_eq (d : Nat) (v : Die) (j : Nat) : (s.setDie d v).byte j = s.byte j := rfl
@[simp] theorem State.setDie_code_eq (d : Nat) (v : Die) : (s.setDie d v).code = s.code := rfl
theorem State.setDie_die (d : Nat) (v : Die) (j : Nat) : (s.setDie d v).die j = if j = d then v else s.die j := by
  simp only [State.setDie, State.die, tget_tset]
@[simp] theorem State.setDie_die_self (d : Nat) (v : Die) : (s.setDie d v).die d = v := by simp [State.setDie_die]
theorem State.setDie_die_ne (d : Nat) (v : Die) (j : Nat) (hj : j ≠ d) : (s.setDie d v).die j = s.die j := by
  simp [State.setDie_die, hj]

/-! ### setHub -/

@[simp] theorem State.setHub_asm (h : Nat) (v : Hub) : (s.setHub h v).asm = s.asm := rfl
@[simp] theorem State.setHub_mem (h : Nat) (v : Hub) : (s.setHub h v).mem = s.mem := rfl
@[simp] theorem State.setHub_poison (h : Nat) (v : Hub) : (s.setHub h v).poison = s.poison := rfl
@[simp] theorem State.setHub_badRings (h : Nat) (v : Hub) : (s.setHub h v).badRings = s.badRings := rfl
@[simp] theorem State.setHub_tiles (h : Nat) (v : Hub) : (s.setHub h v).tiles = s.tiles := rfl
@[simp] theorem State.setHub_funcs (h : Nat) (v : Hub) : (s.setHub h v).funcs = s.funcs := rfl
@[simp] theorem State.setHub_queues (h : Nat) (v : Hub) : (s.setHub h v).queues = s.queues := rfl
@[simp] theorem State.setHub_ert (h : Nat) (v : Hub) : (s.setHub h v).ert = s.ert := rfl
@[simp] theorem State.setHub_pages (h : Nat) (v : Hub) : (s.setHub h v).pages = s.pages := rfl
@[simp] theorem State.setHub_hbmStacks (h : Nat) (v : Hub) : (s.setHub h v).hbmStacks = s.hbmStacks := rfl
@[simp] theorem State.setHub_dies (h : Nat) (v : Hub) : (s.setHub h v).dies = s.dies := rfl
@[simp] theorem State.setHub_ports (h : Nat) (v : Hub) : (s.setHub h v).ports = s.ports := rfl
@[simp] theorem State.setHub_links (h : Nat) (v : Hub) : (s.setHub h v).links = s.links := rfl
@[simp] theorem State.setHub_herd (h : Nat) (v : Hub) : (s.setHub h v).herd = s.herd := rfl
@[simp] theorem State.setHub_larwa (h : Nat) (v : Hub) : (s.setHub h v).larwa = s.larwa := rfl
@[simp] theorem State.setHub_power (h : Nat) (v : Hub) : (s.setHub h v).power = s.power := rfl
@[simp] theorem State.setHub_boot (h : Nat) (v : Hub) : (s.setHub h v).boot = s.boot := rfl
@[simp] theorem State.setHub_nv (h : Nat) (v : Hub) : (s.setHub h v).nv = s.nv := rfl
@[simp] theorem State.setHub_sec (h : Nat) (v : Hub) : (s.setHub h v).sec = s.sec := rfl
@[simp] theorem State.setHub_base (h : Nat) (v : Hub) : (s.setHub h v).base = s.base := rfl
@[simp] theorem State.setHub_images (h : Nat) (v : Hub) : (s.setHub h v).images = s.images := rfl
@[simp] theorem State.setHub_imgWait (h : Nat) (v : Hub) : (s.setHub h v).imgWait = s.imgWait := rfl
@[simp] theorem State.setHub_imgStat (h : Nat) (v : Hub) : (s.setHub h v).imgStat = s.imgStat := rfl
@[simp] theorem State.setHub_errs (h : Nat) (v : Hub) : (s.setHub h v).errs = s.errs := rfl
@[simp] theorem State.setHub_dbg (h : Nat) (v : Hub) : (s.setHub h v).dbg = s.dbg := rfl
@[simp] theorem State.setHub_out (h : Nat) (v : Hub) : (s.setHub h v).out = s.out := rfl
@[simp] theorem State.setHub_draws (h : Nat) (v : Hub) : (s.setHub h v).draws = s.draws := rfl
@[simp] theorem State.setHub_pending (h : Nat) (v : Hub) : (s.setHub h v).pending = s.pending := rfl
@[simp] theorem State.setHub_tile_eq (h : Nat) (v : Hub) (j : Nat) : (s.setHub h v).tile j = s.tile j := rfl
@[simp] theorem State.setHub_func_eq (h : Nat) (v : Hub) (j : Nat) : (s.setHub h v).func j = s.func j := rfl
@[simp] theorem State.setHub_queue_eq (h : Nat) (v : Hub) (j : Nat) : (s.setHub h v).queue j = s.queue j := rfl
@[simp] theorem State.setHub_ertEntry_eq (h : Nat) (v : Hub) (j : Nat) : (s.setHub h v).ertEntry j = s.ertEntry j := rfl
@[simp] theorem State.setHub_page_eq (h : Nat) (v : Hub) (j : Nat) : (s.setHub h v).page j = s.page j := rfl
@[simp] theorem State.setHub_stack_eq (h : Nat) (v : Hub) (j : Nat) : (s.setHub h v).stack j = s.stack j := rfl
@[simp] theorem State.setHub_die_eq (h : Nat) (v : Hub) (j : Nat) : (s.setHub h v).die j = s.die j := rfl
@[simp] theorem State.setHub_port_eq (h : Nat) (v : Hub) (j : Nat) : (s.setHub h v).port j = s.port j := rfl
@[simp] theorem State.setHub_link_eq (h : Nat) (v : Hub) (j : Nat) : (s.setHub h v).link j = s.link j := rfl
@[simp] theorem State.setHub_diePower_eq (h : Nat) (v : Hub) (j : Nat) : (s.setHub h v).diePower j = s.diePower j := rfl
@[simp] theorem State.setHub_image_eq (h : Nat) (v : Hub) (j : Nat) : (s.setHub h v).image j = s.image j := rfl
@[simp] theorem State.setHub_byte_eq (h : Nat) (v : Hub) (j : Nat) : (s.setHub h v).byte j = s.byte j := rfl
@[simp] theorem State.setHub_code_eq (h : Nat) (v : Hub) : (s.setHub h v).code = s.code := rfl
theorem State.setHub_hub (h : Nat) (v : Hub) (j : Nat) : (s.setHub h v).hub j = if j = h then v else s.hub j := by
  simp only [State.setHub, State.hub, tget_tset]
@[simp] theorem State.setHub_hub_self (h : Nat) (v : Hub) : (s.setHub h v).hub h = v := by simp [State.setHub_hub]
theorem State.setHub_hub_ne (h : Nat) (v : Hub) (j : Nat) (hj : j ≠ h) : (s.setHub h v).hub j = s.hub j := by
  simp [State.setHub_hub, hj]

/-! ### setPort -/

@[simp] theorem State.setPort_asm (p : Nat) (v : Port) : (s.setPort p v).asm = s.asm := rfl
@[simp] theorem State.setPort_mem (p : Nat) (v : Port) : (s.setPort p v).mem = s.mem := rfl
@[simp] theorem State.setPort_poison (p : Nat) (v : Port) : (s.setPort p v).poison = s.poison := rfl
@[simp] theorem State.setPort_badRings (p : Nat) (v : Port) : (s.setPort p v).badRings = s.badRings := rfl
@[simp] theorem State.setPort_tiles (p : Nat) (v : Port) : (s.setPort p v).tiles = s.tiles := rfl
@[simp] theorem State.setPort_funcs (p : Nat) (v : Port) : (s.setPort p v).funcs = s.funcs := rfl
@[simp] theorem State.setPort_queues (p : Nat) (v : Port) : (s.setPort p v).queues = s.queues := rfl
@[simp] theorem State.setPort_ert (p : Nat) (v : Port) : (s.setPort p v).ert = s.ert := rfl
@[simp] theorem State.setPort_pages (p : Nat) (v : Port) : (s.setPort p v).pages = s.pages := rfl
@[simp] theorem State.setPort_hbmStacks (p : Nat) (v : Port) : (s.setPort p v).hbmStacks = s.hbmStacks := rfl
@[simp] theorem State.setPort_dies (p : Nat) (v : Port) : (s.setPort p v).dies = s.dies := rfl
@[simp] theorem State.setPort_hubs (p : Nat) (v : Port) : (s.setPort p v).hubs = s.hubs := rfl
@[simp] theorem State.setPort_links (p : Nat) (v : Port) : (s.setPort p v).links = s.links := rfl
@[simp] theorem State.setPort_herd (p : Nat) (v : Port) : (s.setPort p v).herd = s.herd := rfl
@[simp] theorem State.setPort_larwa (p : Nat) (v : Port) : (s.setPort p v).larwa = s.larwa := rfl
@[simp] theorem State.setPort_power (p : Nat) (v : Port) : (s.setPort p v).power = s.power := rfl
@[simp] theorem State.setPort_boot (p : Nat) (v : Port) : (s.setPort p v).boot = s.boot := rfl
@[simp] theorem State.setPort_nv (p : Nat) (v : Port) : (s.setPort p v).nv = s.nv := rfl
@[simp] theorem State.setPort_sec (p : Nat) (v : Port) : (s.setPort p v).sec = s.sec := rfl
@[simp] theorem State.setPort_base (p : Nat) (v : Port) : (s.setPort p v).base = s.base := rfl
@[simp] theorem State.setPort_images (p : Nat) (v : Port) : (s.setPort p v).images = s.images := rfl
@[simp] theorem State.setPort_imgWait (p : Nat) (v : Port) : (s.setPort p v).imgWait = s.imgWait := rfl
@[simp] theorem State.setPort_imgStat (p : Nat) (v : Port) : (s.setPort p v).imgStat = s.imgStat := rfl
@[simp] theorem State.setPort_errs (p : Nat) (v : Port) : (s.setPort p v).errs = s.errs := rfl
@[simp] theorem State.setPort_dbg (p : Nat) (v : Port) : (s.setPort p v).dbg = s.dbg := rfl
@[simp] theorem State.setPort_out (p : Nat) (v : Port) : (s.setPort p v).out = s.out := rfl
@[simp] theorem State.setPort_draws (p : Nat) (v : Port) : (s.setPort p v).draws = s.draws := rfl
@[simp] theorem State.setPort_pending (p : Nat) (v : Port) : (s.setPort p v).pending = s.pending := rfl
@[simp] theorem State.setPort_tile_eq (p : Nat) (v : Port) (j : Nat) : (s.setPort p v).tile j = s.tile j := rfl
@[simp] theorem State.setPort_func_eq (p : Nat) (v : Port) (j : Nat) : (s.setPort p v).func j = s.func j := rfl
@[simp] theorem State.setPort_queue_eq (p : Nat) (v : Port) (j : Nat) : (s.setPort p v).queue j = s.queue j := rfl
@[simp] theorem State.setPort_ertEntry_eq (p : Nat) (v : Port) (j : Nat) : (s.setPort p v).ertEntry j = s.ertEntry j := rfl
@[simp] theorem State.setPort_page_eq (p : Nat) (v : Port) (j : Nat) : (s.setPort p v).page j = s.page j := rfl
@[simp] theorem State.setPort_stack_eq (p : Nat) (v : Port) (j : Nat) : (s.setPort p v).stack j = s.stack j := rfl
@[simp] theorem State.setPort_die_eq (p : Nat) (v : Port) (j : Nat) : (s.setPort p v).die j = s.die j := rfl
@[simp] theorem State.setPort_hub_eq (p : Nat) (v : Port) (j : Nat) : (s.setPort p v).hub j = s.hub j := rfl
@[simp] theorem State.setPort_link_eq (p : Nat) (v : Port) (j : Nat) : (s.setPort p v).link j = s.link j := rfl
@[simp] theorem State.setPort_diePower_eq (p : Nat) (v : Port) (j : Nat) : (s.setPort p v).diePower j = s.diePower j := rfl
@[simp] theorem State.setPort_image_eq (p : Nat) (v : Port) (j : Nat) : (s.setPort p v).image j = s.image j := rfl
@[simp] theorem State.setPort_byte_eq (p : Nat) (v : Port) (j : Nat) : (s.setPort p v).byte j = s.byte j := rfl
@[simp] theorem State.setPort_code_eq (p : Nat) (v : Port) : (s.setPort p v).code = s.code := rfl
theorem State.setPort_port (p : Nat) (v : Port) (j : Nat) : (s.setPort p v).port j = if j = p then v else s.port j := by
  simp only [State.setPort, State.port, tget_tset]
@[simp] theorem State.setPort_port_self (p : Nat) (v : Port) : (s.setPort p v).port p = v := by simp [State.setPort_port]
theorem State.setPort_port_ne (p : Nat) (v : Port) (j : Nat) (hj : j ≠ p) : (s.setPort p v).port j = s.port j := by
  simp [State.setPort_port, hj]

/-! ### setLink -/

@[simp] theorem State.setLink_asm (l : Nat) (v : D2d) : (s.setLink l v).asm = s.asm := rfl
@[simp] theorem State.setLink_mem (l : Nat) (v : D2d) : (s.setLink l v).mem = s.mem := rfl
@[simp] theorem State.setLink_poison (l : Nat) (v : D2d) : (s.setLink l v).poison = s.poison := rfl
@[simp] theorem State.setLink_badRings (l : Nat) (v : D2d) : (s.setLink l v).badRings = s.badRings := rfl
@[simp] theorem State.setLink_tiles (l : Nat) (v : D2d) : (s.setLink l v).tiles = s.tiles := rfl
@[simp] theorem State.setLink_funcs (l : Nat) (v : D2d) : (s.setLink l v).funcs = s.funcs := rfl
@[simp] theorem State.setLink_queues (l : Nat) (v : D2d) : (s.setLink l v).queues = s.queues := rfl
@[simp] theorem State.setLink_ert (l : Nat) (v : D2d) : (s.setLink l v).ert = s.ert := rfl
@[simp] theorem State.setLink_pages (l : Nat) (v : D2d) : (s.setLink l v).pages = s.pages := rfl
@[simp] theorem State.setLink_hbmStacks (l : Nat) (v : D2d) : (s.setLink l v).hbmStacks = s.hbmStacks := rfl
@[simp] theorem State.setLink_dies (l : Nat) (v : D2d) : (s.setLink l v).dies = s.dies := rfl
@[simp] theorem State.setLink_hubs (l : Nat) (v : D2d) : (s.setLink l v).hubs = s.hubs := rfl
@[simp] theorem State.setLink_ports (l : Nat) (v : D2d) : (s.setLink l v).ports = s.ports := rfl
@[simp] theorem State.setLink_herd (l : Nat) (v : D2d) : (s.setLink l v).herd = s.herd := rfl
@[simp] theorem State.setLink_larwa (l : Nat) (v : D2d) : (s.setLink l v).larwa = s.larwa := rfl
@[simp] theorem State.setLink_power (l : Nat) (v : D2d) : (s.setLink l v).power = s.power := rfl
@[simp] theorem State.setLink_boot (l : Nat) (v : D2d) : (s.setLink l v).boot = s.boot := rfl
@[simp] theorem State.setLink_nv (l : Nat) (v : D2d) : (s.setLink l v).nv = s.nv := rfl
@[simp] theorem State.setLink_sec (l : Nat) (v : D2d) : (s.setLink l v).sec = s.sec := rfl
@[simp] theorem State.setLink_base (l : Nat) (v : D2d) : (s.setLink l v).base = s.base := rfl
@[simp] theorem State.setLink_images (l : Nat) (v : D2d) : (s.setLink l v).images = s.images := rfl
@[simp] theorem State.setLink_imgWait (l : Nat) (v : D2d) : (s.setLink l v).imgWait = s.imgWait := rfl
@[simp] theorem State.setLink_imgStat (l : Nat) (v : D2d) : (s.setLink l v).imgStat = s.imgStat := rfl
@[simp] theorem State.setLink_errs (l : Nat) (v : D2d) : (s.setLink l v).errs = s.errs := rfl
@[simp] theorem State.setLink_dbg (l : Nat) (v : D2d) : (s.setLink l v).dbg = s.dbg := rfl
@[simp] theorem State.setLink_out (l : Nat) (v : D2d) : (s.setLink l v).out = s.out := rfl
@[simp] theorem State.setLink_draws (l : Nat) (v : D2d) : (s.setLink l v).draws = s.draws := rfl
@[simp] theorem State.setLink_pending (l : Nat) (v : D2d) : (s.setLink l v).pending = s.pending := rfl
@[simp] theorem State.setLink_tile_eq (l : Nat) (v : D2d) (j : Nat) : (s.setLink l v).tile j = s.tile j := rfl
@[simp] theorem State.setLink_func_eq (l : Nat) (v : D2d) (j : Nat) : (s.setLink l v).func j = s.func j := rfl
@[simp] theorem State.setLink_queue_eq (l : Nat) (v : D2d) (j : Nat) : (s.setLink l v).queue j = s.queue j := rfl
@[simp] theorem State.setLink_ertEntry_eq (l : Nat) (v : D2d) (j : Nat) : (s.setLink l v).ertEntry j = s.ertEntry j := rfl
@[simp] theorem State.setLink_page_eq (l : Nat) (v : D2d) (j : Nat) : (s.setLink l v).page j = s.page j := rfl
@[simp] theorem State.setLink_stack_eq (l : Nat) (v : D2d) (j : Nat) : (s.setLink l v).stack j = s.stack j := rfl
@[simp] theorem State.setLink_die_eq (l : Nat) (v : D2d) (j : Nat) : (s.setLink l v).die j = s.die j := rfl
@[simp] theorem State.setLink_hub_eq (l : Nat) (v : D2d) (j : Nat) : (s.setLink l v).hub j = s.hub j := rfl
@[simp] theorem State.setLink_port_eq (l : Nat) (v : D2d) (j : Nat) : (s.setLink l v).port j = s.port j := rfl
@[simp] theorem State.setLink_diePower_eq (l : Nat) (v : D2d) (j : Nat) : (s.setLink l v).diePower j = s.diePower j := rfl
@[simp] theorem State.setLink_image_eq (l : Nat) (v : D2d) (j : Nat) : (s.setLink l v).image j = s.image j := rfl
@[simp] theorem State.setLink_byte_eq (l : Nat) (v : D2d) (j : Nat) : (s.setLink l v).byte j = s.byte j := rfl
@[simp] theorem State.setLink_code_eq (l : Nat) (v : D2d) : (s.setLink l v).code = s.code := rfl
theorem State.setLink_link (l : Nat) (v : D2d) (j : Nat) : (s.setLink l v).link j = if j = l then v else s.link j := by
  simp only [State.setLink, State.link, tget_tset]
@[simp] theorem State.setLink_link_self (l : Nat) (v : D2d) : (s.setLink l v).link l = v := by simp [State.setLink_link]
theorem State.setLink_link_ne (l : Nat) (v : D2d) (j : Nat) (hj : j ≠ l) : (s.setLink l v).link j = s.link j := by
  simp [State.setLink_link, hj]

/-! ### setDiePower -/

@[simp] theorem State.setDiePower_asm (d : Nat) (v : DiePower) : (s.setDiePower d v).asm = s.asm := rfl
@[simp] theorem State.setDiePower_mem (d : Nat) (v : DiePower) : (s.setDiePower d v).mem = s.mem := rfl
@[simp] theorem State.setDiePower_poison (d : Nat) (v : DiePower) : (s.setDiePower d v).poison = s.poison := rfl
@[simp] theorem State.setDiePower_badRings (d : Nat) (v : DiePower) : (s.setDiePower d v).badRings = s.badRings := rfl
@[simp] theorem State.setDiePower_tiles (d : Nat) (v : DiePower) : (s.setDiePower d v).tiles = s.tiles := rfl
@[simp] theorem State.setDiePower_funcs (d : Nat) (v : DiePower) : (s.setDiePower d v).funcs = s.funcs := rfl
@[simp] theorem State.setDiePower_queues (d : Nat) (v : DiePower) : (s.setDiePower d v).queues = s.queues := rfl
@[simp] theorem State.setDiePower_ert (d : Nat) (v : DiePower) : (s.setDiePower d v).ert = s.ert := rfl
@[simp] theorem State.setDiePower_pages (d : Nat) (v : DiePower) : (s.setDiePower d v).pages = s.pages := rfl
@[simp] theorem State.setDiePower_hbmStacks (d : Nat) (v : DiePower) : (s.setDiePower d v).hbmStacks = s.hbmStacks := rfl
@[simp] theorem State.setDiePower_dies (d : Nat) (v : DiePower) : (s.setDiePower d v).dies = s.dies := rfl
@[simp] theorem State.setDiePower_hubs (d : Nat) (v : DiePower) : (s.setDiePower d v).hubs = s.hubs := rfl
@[simp] theorem State.setDiePower_ports (d : Nat) (v : DiePower) : (s.setDiePower d v).ports = s.ports := rfl
@[simp] theorem State.setDiePower_links (d : Nat) (v : DiePower) : (s.setDiePower d v).links = s.links := rfl
@[simp] theorem State.setDiePower_herd (d : Nat) (v : DiePower) : (s.setDiePower d v).herd = s.herd := rfl
@[simp] theorem State.setDiePower_larwa (d : Nat) (v : DiePower) : (s.setDiePower d v).larwa = s.larwa := rfl
@[simp] theorem State.setDiePower_boot (d : Nat) (v : DiePower) : (s.setDiePower d v).boot = s.boot := rfl
@[simp] theorem State.setDiePower_nv (d : Nat) (v : DiePower) : (s.setDiePower d v).nv = s.nv := rfl
@[simp] theorem State.setDiePower_sec (d : Nat) (v : DiePower) : (s.setDiePower d v).sec = s.sec := rfl
@[simp] theorem State.setDiePower_base (d : Nat) (v : DiePower) : (s.setDiePower d v).base = s.base := rfl
@[simp] theorem State.setDiePower_images (d : Nat) (v : DiePower) : (s.setDiePower d v).images = s.images := rfl
@[simp] theorem State.setDiePower_imgWait (d : Nat) (v : DiePower) : (s.setDiePower d v).imgWait = s.imgWait := rfl
@[simp] theorem State.setDiePower_imgStat (d : Nat) (v : DiePower) : (s.setDiePower d v).imgStat = s.imgStat := rfl
@[simp] theorem State.setDiePower_errs (d : Nat) (v : DiePower) : (s.setDiePower d v).errs = s.errs := rfl
@[simp] theorem State.setDiePower_dbg (d : Nat) (v : DiePower) : (s.setDiePower d v).dbg = s.dbg := rfl
@[simp] theorem State.setDiePower_out (d : Nat) (v : DiePower) : (s.setDiePower d v).out = s.out := rfl
@[simp] theorem State.setDiePower_draws (d : Nat) (v : DiePower) : (s.setDiePower d v).draws = s.draws := rfl
@[simp] theorem State.setDiePower_pending (d : Nat) (v : DiePower) : (s.setDiePower d v).pending = s.pending := rfl
@[simp] theorem State.setDiePower_tile_eq (d : Nat) (v : DiePower) (j : Nat) : (s.setDiePower d v).tile j = s.tile j := rfl
@[simp] theorem State.setDiePower_func_eq (d : Nat) (v : DiePower) (j : Nat) : (s.setDiePower d v).func j = s.func j := rfl
@[simp] theorem State.setDiePower_queue_eq (d : Nat) (v : DiePower) (j : Nat) : (s.setDiePower d v).queue j = s.queue j := rfl
@[simp] theorem State.setDiePower_ertEntry_eq (d : Nat) (v : DiePower) (j : Nat) : (s.setDiePower d v).ertEntry j = s.ertEntry j := rfl
@[simp] theorem State.setDiePower_page_eq (d : Nat) (v : DiePower) (j : Nat) : (s.setDiePower d v).page j = s.page j := rfl
@[simp] theorem State.setDiePower_stack_eq (d : Nat) (v : DiePower) (j : Nat) : (s.setDiePower d v).stack j = s.stack j := rfl
@[simp] theorem State.setDiePower_die_eq (d : Nat) (v : DiePower) (j : Nat) : (s.setDiePower d v).die j = s.die j := rfl
@[simp] theorem State.setDiePower_hub_eq (d : Nat) (v : DiePower) (j : Nat) : (s.setDiePower d v).hub j = s.hub j := rfl
@[simp] theorem State.setDiePower_port_eq (d : Nat) (v : DiePower) (j : Nat) : (s.setDiePower d v).port j = s.port j := rfl
@[simp] theorem State.setDiePower_link_eq (d : Nat) (v : DiePower) (j : Nat) : (s.setDiePower d v).link j = s.link j := rfl
@[simp] theorem State.setDiePower_image_eq (d : Nat) (v : DiePower) (j : Nat) : (s.setDiePower d v).image j = s.image j := rfl
@[simp] theorem State.setDiePower_byte_eq (d : Nat) (v : DiePower) (j : Nat) : (s.setDiePower d v).byte j = s.byte j := rfl
@[simp] theorem State.setDiePower_code_eq (d : Nat) (v : DiePower) : (s.setDiePower d v).code = s.code := rfl
theorem State.setDiePower_diePower (d : Nat) (v : DiePower) (j : Nat) : (s.setDiePower d v).diePower j = if j = d then v else s.diePower j := by
  simp only [State.setDiePower, State.diePower, tget_tset]
@[simp] theorem State.setDiePower_diePower_self (d : Nat) (v : DiePower) : (s.setDiePower d v).diePower d = v := by simp [State.setDiePower_diePower]
theorem State.setDiePower_diePower_ne (d : Nat) (v : DiePower) (j : Nat) (hj : j ≠ d) : (s.setDiePower d v).diePower j = s.diePower j := by
  simp [State.setDiePower_diePower, hj]

/-! ### emit -/

@[simp] theorem State.emit_asm (o : Out) : (s.emit o).asm = s.asm := rfl
@[simp] theorem State.emit_mem (o : Out) : (s.emit o).mem = s.mem := rfl
@[simp] theorem State.emit_poison (o : Out) : (s.emit o).poison = s.poison := rfl
@[simp] theorem State.emit_badRings (o : Out) : (s.emit o).badRings = s.badRings := rfl
@[simp] theorem State.emit_tiles (o : Out) : (s.emit o).tiles = s.tiles := rfl
@[simp] theorem State.emit_funcs (o : Out) : (s.emit o).funcs = s.funcs := rfl
@[simp] theorem State.emit_queues (o : Out) : (s.emit o).queues = s.queues := rfl
@[simp] theorem State.emit_ert (o : Out) : (s.emit o).ert = s.ert := rfl
@[simp] theorem State.emit_pages (o : Out) : (s.emit o).pages = s.pages := rfl
@[simp] theorem State.emit_hbmStacks (o : Out) : (s.emit o).hbmStacks = s.hbmStacks := rfl
@[simp] theorem State.emit_dies (o : Out) : (s.emit o).dies = s.dies := rfl
@[simp] theorem State.emit_hubs (o : Out) : (s.emit o).hubs = s.hubs := rfl
@[simp] theorem State.emit_ports (o : Out) : (s.emit o).ports = s.ports := rfl
@[simp] theorem State.emit_links (o : Out) : (s.emit o).links = s.links := rfl
@[simp] theorem State.emit_herd (o : Out) : (s.emit o).herd = s.herd := rfl
@[simp] theorem State.emit_larwa (o : Out) : (s.emit o).larwa = s.larwa := rfl
@[simp] theorem State.emit_power (o : Out) : (s.emit o).power = s.power := rfl
@[simp] theorem State.emit_boot (o : Out) : (s.emit o).boot = s.boot := rfl
@[simp] theorem State.emit_nv (o : Out) : (s.emit o).nv = s.nv := rfl
@[simp] theorem State.emit_sec (o : Out) : (s.emit o).sec = s.sec := rfl
@[simp] theorem State.emit_base (o : Out) : (s.emit o).base = s.base := rfl
@[simp] theorem State.emit_images (o : Out) : (s.emit o).images = s.images := rfl
@[simp] theorem State.emit_imgWait (o : Out) : (s.emit o).imgWait = s.imgWait := rfl
@[simp] theorem State.emit_imgStat (o : Out) : (s.emit o).imgStat = s.imgStat := rfl
@[simp] theorem State.emit_errs (o : Out) : (s.emit o).errs = s.errs := rfl
@[simp] theorem State.emit_dbg (o : Out) : (s.emit o).dbg = s.dbg := rfl
@[simp] theorem State.emit_draws (o : Out) : (s.emit o).draws = s.draws := rfl
@[simp] theorem State.emit_pending (o : Out) : (s.emit o).pending = s.pending := rfl
@[simp] theorem State.emit_tile_eq (o : Out) (j : Nat) : (s.emit o).tile j = s.tile j := rfl
@[simp] theorem State.emit_func_eq (o : Out) (j : Nat) : (s.emit o).func j = s.func j := rfl
@[simp] theorem State.emit_queue_eq (o : Out) (j : Nat) : (s.emit o).queue j = s.queue j := rfl
@[simp] theorem State.emit_ertEntry_eq (o : Out) (j : Nat) : (s.emit o).ertEntry j = s.ertEntry j := rfl
@[simp] theorem State.emit_page_eq (o : Out) (j : Nat) : (s.emit o).page j = s.page j := rfl
@[simp] theorem State.emit_stack_eq (o : Out) (j : Nat) : (s.emit o).stack j = s.stack j := rfl
@[simp] theorem State.emit_die_eq (o : Out) (j : Nat) : (s.emit o).die j = s.die j := rfl
@[simp] theorem State.emit_hub_eq (o : Out) (j : Nat) : (s.emit o).hub j = s.hub j := rfl
@[simp] theorem State.emit_port_eq (o : Out) (j : Nat) : (s.emit o).port j = s.port j := rfl
@[simp] theorem State.emit_link_eq (o : Out) (j : Nat) : (s.emit o).link j = s.link j := rfl
@[simp] theorem State.emit_diePower_eq (o : Out) (j : Nat) : (s.emit o).diePower j = s.diePower j := rfl
@[simp] theorem State.emit_image_eq (o : Out) (j : Nat) : (s.emit o).image j = s.image j := rfl
@[simp] theorem State.emit_byte_eq (o : Out) (j : Nat) : (s.emit o).byte j = s.byte j := rfl
@[simp] theorem State.emit_code_eq (o : Out) : (s.emit o).code = s.code := rfl

/-! ### write -/

@[simp] theorem State.write_asm (a : Nat) (bs : List Byte) : (s.write a bs).asm = s.asm := rfl
@[simp] theorem State.write_badRings (a : Nat) (bs : List Byte) : (s.write a bs).badRings = s.badRings := rfl
@[simp] theorem State.write_tiles (a : Nat) (bs : List Byte) : (s.write a bs).tiles = s.tiles := rfl
@[simp] theorem State.write_funcs (a : Nat) (bs : List Byte) : (s.write a bs).funcs = s.funcs := rfl
@[simp] theorem State.write_queues (a : Nat) (bs : List Byte) : (s.write a bs).queues = s.queues := rfl
@[simp] theorem State.write_ert (a : Nat) (bs : List Byte) : (s.write a bs).ert = s.ert := rfl
@[simp] theorem State.write_pages (a : Nat) (bs : List Byte) : (s.write a bs).pages = s.pages := rfl
@[simp] theorem State.write_hbmStacks (a : Nat) (bs : List Byte) : (s.write a bs).hbmStacks = s.hbmStacks := rfl
@[simp] theorem State.write_dies (a : Nat) (bs : List Byte) : (s.write a bs).dies = s.dies := rfl
@[simp] theorem State.write_hubs (a : Nat) (bs : List Byte) : (s.write a bs).hubs = s.hubs := rfl
@[simp] theorem State.write_ports (a : Nat) (bs : List Byte) : (s.write a bs).ports = s.ports := rfl
@[simp] theorem State.write_links (a : Nat) (bs : List Byte) : (s.write a bs).links = s.links := rfl
@[simp] theorem State.write_herd (a : Nat) (bs : List Byte) : (s.write a bs).herd = s.herd := rfl
@[simp] theorem State.write_larwa (a : Nat) (bs : List Byte) : (s.write a bs).larwa = s.larwa := rfl
@[simp] theorem State.write_power (a : Nat) (bs : List Byte) : (s.write a bs).power = s.power := rfl
@[simp] theorem State.write_boot (a : Nat) (bs : List Byte) : (s.write a bs).boot = s.boot := rfl
@[simp] theorem State.write_nv (a : Nat) (bs : List Byte) : (s.write a bs).nv = s.nv := rfl
@[simp] theorem State.write_sec (a : Nat) (bs : List Byte) : (s.write a bs).sec = s.sec := rfl
@[simp] theorem State.write_base (a : Nat) (bs : List Byte) : (s.write a bs).base = s.base := rfl
@[simp] theorem State.write_images (a : Nat) (bs : List Byte) : (s.write a bs).images = s.images := rfl
@[simp] theorem State.write_imgWait (a : Nat) (bs : List Byte) : (s.write a bs).imgWait = s.imgWait := rfl
@[simp] theorem State.write_imgStat (a : Nat) (bs : List Byte) : (s.write a bs).imgStat = s.imgStat := rfl
@[simp] theorem State.write_errs (a : Nat) (bs : List Byte) : (s.write a bs).errs = s.errs := rfl
@[simp] theorem State.write_dbg (a : Nat) (bs : List Byte) : (s.write a bs).dbg = s.dbg := rfl
@[simp] theorem State.write_out (a : Nat) (bs : List Byte) : (s.write a bs).out = s.out := rfl
@[simp] theorem State.write_draws (a : Nat) (bs : List Byte) : (s.write a bs).draws = s.draws := rfl
@[simp] theorem State.write_pending (a : Nat) (bs : List Byte) : (s.write a bs).pending = s.pending := rfl
@[simp] theorem State.write_tile_eq (a : Nat) (bs : List Byte) (j : Nat) : (s.write a bs).tile j = s.tile j := rfl
@[simp] theorem State.write_func_eq (a : Nat) (bs : List Byte) (j : Nat) : (s.write a bs).func j = s.func j := rfl
@[simp] theorem State.write_queue_eq (a : Nat) (bs : List Byte) (j : Nat) : (s.write a bs).queue j = s.queue j := rfl
@[simp] theorem State.write_ertEntry_eq (a : Nat) (bs : List Byte) (j : Nat) : (s.write a bs).ertEntry j = s.ertEntry j := rfl
@[simp] theorem State.write_page_eq (a : Nat) (bs : List Byte) (j : Nat) : (s.write a bs).page j = s.page j := rfl
@[simp] theorem State.write_stack_eq (a : Nat) (bs : List Byte) (j : Nat) : (s.write a bs).stack j = s.stack j := rfl
@[simp] theorem State.write_die_eq (a : Nat) (bs : List Byte) (j : Nat) : (s.write a bs).die j = s.die j := rfl
@[simp] theorem State.write_hub_eq (a : Nat) (bs : List Byte) (j : Nat) : (s.write a bs).hub j = s.hub j := rfl
@[simp] theorem State.write_port_eq (a : Nat) (bs : List Byte) (j : Nat) : (s.write a bs).port j = s.port j := rfl
@[simp] theorem State.write_link_eq (a : Nat) (bs : List Byte) (j : Nat) : (s.write a bs).link j = s.link j := rfl
@[simp] theorem State.write_diePower_eq (a : Nat) (bs : List Byte) (j : Nat) : (s.write a bs).diePower j = s.diePower j := rfl
@[simp] theorem State.write_image_eq (a : Nat) (bs : List Byte) (j : Nat) : (s.write a bs).image j = s.image j := rfl
@[simp] theorem State.write_code_eq (a : Nat) (bs : List Byte) : (s.write a bs).code = s.code := rfl

/-! ### zero -/

@[simp] theorem State.zero_asm (lo hi : Nat) : (s.zero lo hi).asm = s.asm := rfl
@[simp] theorem State.zero_badRings (lo hi : Nat) : (s.zero lo hi).badRings = s.badRings := rfl
@[simp] theorem State.zero_tiles (lo hi : Nat) : (s.zero lo hi).tiles = s.tiles := rfl
@[simp] theorem State.zero_funcs (lo hi : Nat) : (s.zero lo hi).funcs = s.funcs := rfl
@[simp] theorem State.zero_queues (lo hi : Nat) : (s.zero lo hi).queues = s.queues := rfl
@[simp] theorem State.zero_ert (lo hi : Nat) : (s.zero lo hi).ert = s.ert := rfl
@[simp] theorem State.zero_pages (lo hi : Nat) : (s.zero lo hi).pages = s.pages := rfl
@[simp] theorem State.zero_hbmStacks (lo hi : Nat) : (s.zero lo hi).hbmStacks = s.hbmStacks := rfl
@[simp] theorem State.zero_dies (lo hi : Nat) : (s.zero lo hi).dies = s.dies := rfl
@[simp] theorem State.zero_hubs (lo hi : Nat) : (s.zero lo hi).hubs = s.hubs := rfl
@[simp] theorem State.zero_ports (lo hi : Nat) : (s.zero lo hi).ports = s.ports := rfl
@[simp] theorem State.zero_links (lo hi : Nat) : (s.zero lo hi).links = s.links := rfl
@[simp] theorem State.zero_herd (lo hi : Nat) : (s.zero lo hi).herd = s.herd := rfl
@[simp] theorem State.zero_larwa (lo hi : Nat) : (s.zero lo hi).larwa = s.larwa := rfl
@[simp] theorem State.zero_power (lo hi : Nat) : (s.zero lo hi).power = s.power := rfl
@[simp] theorem State.zero_boot (lo hi : Nat) : (s.zero lo hi).boot = s.boot := rfl
@[simp] theorem State.zero_nv (lo hi : Nat) : (s.zero lo hi).nv = s.nv := rfl
@[simp] theorem State.zero_sec (lo hi : Nat) : (s.zero lo hi).sec = s.sec := rfl
@[simp] theorem State.zero_base (lo hi : Nat) : (s.zero lo hi).base = s.base := rfl
@[simp] theorem State.zero_images (lo hi : Nat) : (s.zero lo hi).images = s.images := rfl
@[simp] theorem State.zero_imgWait (lo hi : Nat) : (s.zero lo hi).imgWait = s.imgWait := rfl
@[simp] theorem State.zero_imgStat (lo hi : Nat) : (s.zero lo hi).imgStat = s.imgStat := rfl
@[simp] theorem State.zero_errs (lo hi : Nat) : (s.zero lo hi).errs = s.errs := rfl
@[simp] theorem State.zero_dbg (lo hi : Nat) : (s.zero lo hi).dbg = s.dbg := rfl
@[simp] theorem State.zero_out (lo hi : Nat) : (s.zero lo hi).out = s.out := rfl
@[simp] theorem State.zero_draws (lo hi : Nat) : (s.zero lo hi).draws = s.draws := rfl
@[simp] theorem State.zero_pending (lo hi : Nat) : (s.zero lo hi).pending = s.pending := rfl
@[simp] theorem State.zero_tile_eq (lo hi : Nat) (j : Nat) : (s.zero lo hi).tile j = s.tile j := rfl
@[simp] theorem State.zero_func_eq (lo hi : Nat) (j : Nat) : (s.zero lo hi).func j = s.func j := rfl
@[simp] theorem State.zero_queue_eq (lo hi : Nat) (j : Nat) : (s.zero lo hi).queue j = s.queue j := rfl
@[simp] theorem State.zero_ertEntry_eq (lo hi : Nat) (j : Nat) : (s.zero lo hi).ertEntry j = s.ertEntry j := rfl
@[simp] theorem State.zero_page_eq (lo hi : Nat) (j : Nat) : (s.zero lo hi).page j = s.page j := rfl
@[simp] theorem State.zero_stack_eq (lo hi : Nat) (j : Nat) : (s.zero lo hi).stack j = s.stack j := rfl
@[simp] theorem State.zero_die_eq (lo hi : Nat) (j : Nat) : (s.zero lo hi).die j = s.die j := rfl
@[simp] theorem State.zero_hub_eq (lo hi : Nat) (j : Nat) : (s.zero lo hi).hub j = s.hub j := rfl
@[simp] theorem State.zero_port_eq (lo hi : Nat) (j : Nat) : (s.zero lo hi).port j = s.port j := rfl
@[simp] theorem State.zero_link_eq (lo hi : Nat) (j : Nat) : (s.zero lo hi).link j = s.link j := rfl
@[simp] theorem State.zero_diePower_eq (lo hi : Nat) (j : Nat) : (s.zero lo hi).diePower j = s.diePower j := rfl
@[simp] theorem State.zero_image_eq (lo hi : Nat) (j : Nat) : (s.zero lo hi).image j = s.image j := rfl
@[simp] theorem State.zero_code_eq (lo hi : Nat) : (s.zero lo hi).code = s.code := rfl

/-! ### report -/

@[simp] theorem State.report_asm (p : Report) : (s.report p).asm = s.asm := rfl
@[simp] theorem State.report_mem (p : Report) : (s.report p).mem = s.mem := rfl
@[simp] theorem State.report_poison (p : Report) : (s.report p).poison = s.poison := rfl
@[simp] theorem State.report_badRings (p : Report) : (s.report p).badRings = s.badRings := rfl
@[simp] theorem State.report_tiles (p : Report) : (s.report p).tiles = s.tiles := rfl
@[simp] theorem State.report_funcs (p : Report) : (s.report p).funcs = s.funcs := rfl
@[simp] theorem State.report_queues (p : Report) : (s.report p).queues = s.queues := rfl
@[simp] theorem State.report_ert (p : Report) : (s.report p).ert = s.ert := rfl
@[simp] theorem State.report_pages (p : Report) : (s.report p).pages = s.pages := rfl
@[simp] theorem State.report_hbmStacks (p : Report) : (s.report p).hbmStacks = s.hbmStacks := rfl
@[simp] theorem State.report_dies (p : Report) : (s.report p).dies = s.dies := rfl
@[simp] theorem State.report_hubs (p : Report) : (s.report p).hubs = s.hubs := rfl
@[simp] theorem State.report_ports (p : Report) : (s.report p).ports = s.ports := rfl
@[simp] theorem State.report_links (p : Report) : (s.report p).links = s.links := rfl
@[simp] theorem State.report_herd (p : Report) : (s.report p).herd = s.herd := rfl
@[simp] theorem State.report_larwa (p : Report) : (s.report p).larwa = s.larwa := rfl
@[simp] theorem State.report_power (p : Report) : (s.report p).power = s.power := rfl
@[simp] theorem State.report_boot (p : Report) : (s.report p).boot = s.boot := rfl
@[simp] theorem State.report_nv (p : Report) : (s.report p).nv = s.nv := rfl
@[simp] theorem State.report_sec (p : Report) : (s.report p).sec = s.sec := rfl
@[simp] theorem State.report_base (p : Report) : (s.report p).base = s.base := rfl
@[simp] theorem State.report_images (p : Report) : (s.report p).images = s.images := rfl
@[simp] theorem State.report_imgWait (p : Report) : (s.report p).imgWait = s.imgWait := rfl
@[simp] theorem State.report_imgStat (p : Report) : (s.report p).imgStat = s.imgStat := rfl
@[simp] theorem State.report_dbg (p : Report) : (s.report p).dbg = s.dbg := rfl
@[simp] theorem State.report_out (p : Report) : (s.report p).out = s.out := rfl
@[simp] theorem State.report_draws (p : Report) : (s.report p).draws = s.draws := rfl
@[simp] theorem State.report_pending (p : Report) : (s.report p).pending = s.pending := rfl
@[simp] theorem State.report_tile_eq (p : Report) (j : Nat) : (s.report p).tile j = s.tile j := rfl
@[simp] theorem State.report_func_eq (p : Report) (j : Nat) : (s.report p).func j = s.func j := rfl
@[simp] theorem State.report_queue_eq (p : Report) (j : Nat) : (s.report p).queue j = s.queue j := rfl
@[simp] theorem State.report_ertEntry_eq (p : Report) (j : Nat) : (s.report p).ertEntry j = s.ertEntry j := rfl
@[simp] theorem State.report_page_eq (p : Report) (j : Nat) : (s.report p).page j = s.page j := rfl
@[simp] theorem State.report_stack_eq (p : Report) (j : Nat) : (s.report p).stack j = s.stack j := rfl
@[simp] theorem State.report_die_eq (p : Report) (j : Nat) : (s.report p).die j = s.die j := rfl
@[simp] theorem State.report_hub_eq (p : Report) (j : Nat) : (s.report p).hub j = s.hub j := rfl
@[simp] theorem State.report_port_eq (p : Report) (j : Nat) : (s.report p).port j = s.port j := rfl
@[simp] theorem State.report_link_eq (p : Report) (j : Nat) : (s.report p).link j = s.link j := rfl
@[simp] theorem State.report_diePower_eq (p : Report) (j : Nat) : (s.report p).diePower j = s.diePower j := rfl
@[simp] theorem State.report_image_eq (p : Report) (j : Nat) : (s.report p).image j = s.image j := rfl
@[simp] theorem State.report_byte_eq (p : Report) (j : Nat) : (s.report p).byte j = s.byte j := rfl
@[simp] theorem State.report_code_eq (p : Report) : (s.report p).code = s.code := rfl

/-! ### Memory -/

/-- A byte after a write: the byte written inside the range, the old one outside. -/
theorem State.write_byte (a : Nat) (bs : List Byte) (j : Nat) :
    (s.write a bs).byte j = if a ≤ j ∧ j < a + bs.length then bs.getD (j - a) 0 else s.byte j :=
  tget_tsetList 0 bs s.mem a j

/-- A byte after a range is zeroed. -/
theorem State.zero_byte (lo hi j : Nat) :
    (s.zero lo hi).byte j = if lo ≤ j ∧ j < hi then 0 else s.byte j := tget_tclear 0 s.mem lo hi j

theorem State.write_memWf (a : Nat) (bs : List Byte) (h : Memory.wf s.mem = true) : Memory.wf (s.write a bs).mem = true :=
  twf_tsetList bs a h

theorem State.zero_memWf (lo hi : Nat) (h : Memory.wf s.mem = true) : Memory.wf (s.zero lo hi).mem = true :=
  twf_tclear lo hi h

theorem State.addPoison_memWf (a : Nat) (h : Memory.wf s.mem = true) : Memory.wf (s.addPoison a).mem = true := by
  unfold State.addPoison
  dsimp only
  split
  · exact h
  · exact twf_tsetList _ _ h

/-- Reading back exactly what was written. -/
theorem State.read_write (a : Nat) (bs : List Byte) : (s.write a bs).read a bs.length = bs := by
  apply List.ext_getElem
  · simp [State.read]
  · intro i h1 h2
    simp only [State.read, List.getElem_map, List.getElem_range, State.write_byte]
    have h3 : a ≤ a + i ∧ a + i < a + bs.length := by omega
    rw [if_pos h3]
    have h4 : a + i - a = i := by omega
    rw [h4]; simp [List.getD, h2]

/-- Holding a record never lists more than 1,024 (R437). -/
theorem Errors.hold_length (e : Errors) (r : ErrRec) (h : e.held.length ≤ 1024) : (e.hold r).held.length ≤ 1024 := by
  unfold Errors.hold
  split
  · simp; omega
  · simp; omega

@[simp] theorem Errors.count_held (e : Errors) (p : Report) : (e.count p).held = e.held := by
  unfold Errors.count; split
  · rfl
  · split <;> rfl

theorem State.report_held (p : Report) (h : s.errs.held.length ≤ 1024) : (s.report p).errs.held.length ≤ 1024 := by
  unfold State.report
  simp only [Errors.count_held]
  exact Errors.hold_length _ _ h

end Sys2Proof.Machine
end

