-- ==== Sys2Proof/Laws/Memory.lean ====
section
/-! SUPPORT. What each memory operation leaves at each byte, and that every one of them keeps the canonical form of memory. -/
namespace Sys2Proof.Machine

/-! ### The canonical form -/

theorem reset_mem_wf : Memory.wf State.reset.mem = true := rfl

theorem Memory.wf_fold {β : Type} (f : State → β → State)
    (hf : ∀ s b, Memory.wf s.mem = true → Memory.wf (f s b).mem = true) (bs : List β) :
    ∀ s : State, Memory.wf s.mem = true → Memory.wf (bs.foldl f s).mem = true := by
  induction bs with
  | nil => exact fun _ h => h
  | cons b bs ih => exact fun s h => ih _ (hf s b h)

theorem State.write_wf (s : State) (a : Nat) (bs : List Byte) (h : Memory.wf s.mem = true) :
    Memory.wf (s.write a bs).mem = true := twf_tsetList bs a h

theorem State.zero_wf (s : State) (lo hi : Nat) (h : Memory.wf s.mem = true) : Memory.wf (s.zero lo hi).mem = true :=
  twf_tclear lo hi h

theorem State.addPoison_wf (s : State) (a : Nat) (h : Memory.wf s.mem = true) : Memory.wf (s.addPoison a).mem = true := by
  unfold State.addPoison
  dsimp only
  split
  · exact h
  · exact twf_tsetList _ _ h

theorem State.copyBytes_wf (s : State) (src dst n : Nat) (h : Memory.wf s.mem = true) :
    Memory.wf (s.copyBytes src dst n).mem = true := by
  have step : ∀ (cs : List (Nat × Byte)) (m : Table Byte), twf 0 m = true →
      twf 0 (cs.foldl (fun (m : Table Byte) e => tset 0 m (dst + (e.1 - src)) e.2) m) = true := by
    intro cs
    induction cs with
    | nil => exact fun _ hm => hm
    | cons e cs ih => exact fun m hm => ih _ (twf_tset _ _ hm)
  exact step _ _ (s.zero_wf dst (dst + n) h)

theorem State.copyPages_wf (s : State) (fn src dst n : Nat) (h : Memory.wf s.mem = true) :
    Memory.wf (s.copyPages fn src dst n).mem = true := by
  refine Memory.wf_fold _ (fun t k ht => ?_) _ s h
  split
  · exact t.copyBytes_wf _ _ _ ht
  · exact ht

theorem State.writeVA_wf (s : State) (fn va : Nat) (bs : List Byte) (h : Memory.wf s.mem = true) :
    Memory.wf (s.writeVA fn va bs).mem = true := by
  refine Memory.wf_fold _ (fun t p ht => ?_) _ s h
  dsimp only
  split
  · exact t.write_wf _ _ ht
  · exact ht

theorem State.writeRanges_wf (s : State) (rs : List (Nat × Nat)) (bs : List Byte) (h : Memory.wf s.mem = true) :
    Memory.wf (s.writeRanges rs bs).mem = true := by
  have step : ∀ (rs : List (Nat × Nat)) (acc : State × List Byte), Memory.wf acc.1.mem = true →
      Memory.wf (rs.foldl (fun (acc : State × List Byte) r =>
        (acc.1.write r.1 (acc.2.take r.2), acc.2.drop r.2)) acc).1.mem = true := by
    intro rs
    induction rs with
    | nil => exact fun _ ha => ha
    | cons r rs ih => exact fun acc ha => ih _ (acc.1.write_wf _ _ ha)
  exact step rs (s, bs) h

theorem State.powerLost_wf (s : State) (cause : Nat) (supply : Supply) (h : Memory.wf s.mem = true) :
    Memory.wf (s.powerLost cause supply).mem = true := twf_filter _ h

/-! ### Bytes after each operation -/

theorem State.write_byte_out (s : State) (a : Nat) (bs : List Byte) (z : Nat) (h : z < a ∨ a + bs.length ≤ z) :
    (s.write a bs).byte z = s.byte z := by
  rw [State.write_byte, if_neg (by omega)]

theorem State.powerLost_byte (s : State) (cause : Nat) (supply : Supply) (z : Nat) :
    (s.powerLost cause supply).byte z = if companionBase ≤ z then s.byte z else 0 := by
  have h := tget_filter_key (0 : Byte) (fun k => decide (companionBase ≤ k)) s.mem z
  simp only [decide_eq_true_eq] at h
  exact h

theorem State.read_length (s : State) (a n : Nat) : (s.read a n).length = n := by simp [State.read]

theorem State.read_write_self (s : State) (a : Nat) (bs : List Byte) : (s.write a bs).read a bs.length = bs := by
  apply List.ext_getElem (by rw [State.read_length])
  intro i h1 h2
  simp only [State.read, List.getElem_map, List.getElem_range, State.write_byte]
  rw [if_pos ⟨Nat.le_add_right a i, Nat.add_lt_add_left h2 a⟩, Nat.add_sub_cancel_left]
  simp [h2]

/-- Reading away from the written bytes gives what it gave before. -/
theorem State.read_write_out (s : State) (a : Nat) (bs : List Byte) (b n : Nat) (h : b + n ≤ a ∨ a + bs.length ≤ b) :
    (s.write a bs).read b n = s.read b n := by
  simp only [State.read]
  apply List.map_congr_left
  intro i hi
  rw [List.mem_range] at hi
  exact s.write_byte_out a bs (b + i) (by omega)

end Sys2Proof.Machine
end

