-- ==== Sys2Proof/Laws/Complete.lean ====
section
/-! SUPPORT. Everything that writing a completion record, ending a job and moving a function to DRAINING can change. -/
namespace Sys2Proof.Machine

/-! ### Completion records -/

/-- At most queues, companion memory with its poison, and outputs have changed. -/
def CplOnly (s t : State) : Prop :=
  t = { s with mem := t.mem, poison := t.poison, queues := t.queues, out := t.out } ∧ HostOnly s t

theorem CplOnly.refl (s : State) : CplOnly s s := ⟨rfl, fun _ _ => rfl⟩

theorem CplOnly.trans {s t u : State} (h : CplOnly s t) (k : CplOnly t u) : CplOnly s u := by
  refine ⟨?_, fun z hz => (k.2 z hz).trans (h.2 z hz)⟩
  have h1 := h.1
  have k1 := k.1
  clear h k
  cases s; cases t; cases u
  simp only [State.mk.injEq, true_and] at h1 k1 ⊢
  simp_all

theorem CplOnly.fold {β : Type} (f : State → β → State) (hf : ∀ s b, CplOnly s (f s b)) (bs : List β) :
    ∀ s : State, CplOnly s (bs.foldl f s) := by
  induction bs with
  | nil => exact CplOnly.refl
  | cons b bs ih => exact fun s => (hf s b).trans (ih _)

theorem State.setQueue_cpl (s : State) (n : Nat) (q : Queue) : CplOnly s (s.setQueue n q) := ⟨rfl, fun _ _ => rfl⟩

theorem State.emit_cpl (s : State) (o : Out) : CplOnly s (s.emit o) := ⟨rfl, fun _ _ => rfl⟩

theorem State.interrupt_cpl (s : State) (path vec : Nat) : CplOnly s (s.interrupt path vec) := by
  unfold State.interrupt
  split
  · exact .refl s
  · exact s.emit_cpl _

theorem State.write_cpl (s : State) (a : Nat) (bs : List Byte) (h : companionBase ≤ a) : CplOnly s (s.write a bs) :=
  ⟨rfl, fun z hz => s.write_byte_out a bs z (.inl (Nat.lt_of_lt_of_le hz h))⟩

theorem State.writeCpl_cpl (s : State) (n : Nat) : CplOnly s (s.writeCpl n) := by
  unfold State.writeCpl
  dsimp only
  split
  · exact .refl s
  · split
    · exact .refl s
    · split
      · exact s.setQueue_cpl _ _
      · have h := fun k q => (s.write_cpl (hostDpa (s.queue n).cplAddr) (cplBytes (s.queue n).chead (s.queue n).log2Cpl k)
          (by simp [hostDpa])).trans (State.setQueue_cpl _ n q)
        split
        · exact (h _ _).trans (State.interrupt_cpl _ _ _)
        · exact h _ _

theorem State.flushQueue_cpl (s : State) (n : Nat) : CplOnly s (s.flushQueue n) :=
  CplOnly.fold _ (fun s _ => s.writeCpl_cpl n) _ s

theorem State.settleDestroy_cpl (s : State) (n : Nat) : CplOnly s (s.settleDestroy n) := by
  unfold State.settleDestroy
  dsimp only
  split
  · split
    · exact ((s.setQueue_cpl _ _).trans (State.setQueue_cpl _ _ _)).trans (State.flushQueue_cpl _ _)
    · split
      · exact s.setQueue_cpl _ _
      · exact .refl s
  · exact .refl s

theorem State.complete_cpl (s : State) (c : Cmd) (st : Nat) (r : List Byte) : CplOnly s (s.complete c st r) :=
  ((s.setQueue_cpl _ _).trans (State.flushQueue_cpl _ _)).trans (State.settleDestroy_cpl _ _)

theorem State.completeAll_cpl (s : State) (cs : List Cmd) (st : Nat) (r : List Byte) : CplOnly s (s.completeAll cs st r) :=
  CplOnly.fold _ (fun s c => s.complete_cpl c st r) cs s

theorem CplOnly.func {s t : State} (h : CplOnly s t) (n : Nat) : t.func n = s.func n := by
  unfold State.func; rw [h.1]

theorem CplOnly.tile {s t : State} (h : CplOnly s t) (n : Nat) : t.tile n = s.tile n := by
  unfold State.tile; rw [h.1]

/-! ### Ending a job -/

/-- At most one function, the tiles, the hub dies' windows, the debug block and what a completion changes have changed. -/
def JobOnly (s t : State) (fn : Nat) : Prop :=
  t = { s with funcs := t.funcs, tiles := t.tiles, hubs := t.hubs, dbg := t.dbg, mem := t.mem, poison := t.poison
               queues := t.queues, out := t.out } ∧
  HostOnly s t ∧ ∀ j, j ≠ fn → t.func j = s.func j

theorem JobOnly.refl (s : State) (fn : Nat) : JobOnly s s fn := ⟨rfl, fun _ _ => rfl, fun _ _ => rfl⟩

theorem JobOnly.trans {s t u : State} {fn : Nat} (h : JobOnly s t fn) (k : JobOnly t u fn) : JobOnly s u fn := by
  refine ⟨?_, fun z hz => (k.2.1 z hz).trans (h.2.1 z hz), fun j hj => (k.2.2 j hj).trans (h.2.2 j hj)⟩
  have h1 := h.1
  have k1 := k.1
  clear h k
  cases s; cases t; cases u
  simp only [State.mk.injEq, true_and] at h1 k1 ⊢
  simp_all

theorem CplOnly.job {s t : State} (h : CplOnly s t) (fn : Nat) : JobOnly s t fn := by
  refine ⟨?_, h.2, fun j _ => h.func j⟩
  have h1 := h.1
  clear h
  cases s; cases t
  simp only [State.mk.injEq, true_and] at h1 ⊢
  simp_all

theorem JobOnly.fold {β : Type} {fn : Nat} (f : State → β → State) (hf : ∀ s b, JobOnly s (f s b) fn) (bs : List β) :
    ∀ s : State, JobOnly s (bs.foldl f s) fn := by
  induction bs with
  | nil => exact fun s => JobOnly.refl s fn
  | cons b bs ih => exact fun s => (hf s b).trans (ih _)

theorem State.setFunc_job (s : State) (fn : Nat) (f : Func) : JobOnly s (s.setFunc fn f) fn :=
  ⟨rfl, fun _ _ => rfl, fun j hj => by simp [State.setFunc_func, hj]⟩

theorem State.onTile_job (s : State) (fn n : Nat) (f : Tile → Tile) : JobOnly s (s.onTile n f) fn :=
  ⟨rfl, fun _ _ => rfl, fun _ _ => rfl⟩

theorem State.setHub_job (s : State) (fn h : Nat) (v : Hub) : JobOnly s (s.setHub h v) fn :=
  ⟨rfl, fun _ _ => rfl, fun _ _ => rfl⟩

theorem State.onTiles_job (s : State) (fn : Nat) (f : Nat → Tile → Tile) : JobOnly s (s.onTiles f) fn := by
  unfold State.onTiles
  exact JobOnly.fold _ (fun s n => s.onTile_job fn n _) _ s

theorem State.clearSteps_job (s : State) (fn k : Nat) : JobOnly s (s.clearSteps k) fn := s.onTiles_job fn _

theorem State.endJob_job (s : State) (fn st : Nat) : JobOnly s (s.endJob fn st) fn := by
  unfold State.endJob
  exact ((((s.setFunc_job fn _).trans (State.clearSteps_job _ fn _)).trans (State.onTiles_job _ fn _)).trans
    ((State.completeAll_cpl _ _ _ _).job fn)).trans ((State.completeAll_cpl _ _ _ _).job fn)

theorem State.stopSequencers_job (s : State) (fn : Nat) : JobOnly s (s.stopSequencers fn) fn := s.onTiles_job fn _

theorem State.closeWindows_job (s : State) (fn : Nat) : JobOnly s (s.closeWindows fn) fn := by
  unfold State.closeWindows
  exact JobOnly.fold _ (fun s h => s.setHub_job fn h _) _ s

theorem State.releaseDebug_job (s : State) (fn : Nat) : JobOnly s (s.releaseDebug fn) fn := by
  unfold State.releaseDebug
  exact (s.onTiles_job fn _).trans ⟨rfl, fun _ _ => rfl, fun _ _ => rfl⟩

/-- Moving a function to DRAINING changes nothing else than ending its job does, stopping its sequencers, releasing its halts
and closing its windows. -/
theorem State.drain_job (s : State) (fn : Nat) : JobOnly s (s.drain fn) fn := by
  unfold State.drain
  dsimp only
  split
  · exact (((((s.endJob_job fn _).trans (State.setFunc_job _ fn _)).trans (State.stopSequencers_job _ fn)).trans
      (State.releaseDebug_job _ fn)).trans (State.closeWindows_job _ fn)).trans ((State.completeAll_cpl _ _ _ _).job fn)
  · exact .refl s fn

/-! ### The function itself -/

theorem State.onTiles_func (s : State) (f : Nat → Tile → Tile) (n : Nat) : (s.onTiles f).func n = s.func n := by
  unfold State.onTiles
  generalize tkeys s.tiles = ks
  induction ks generalizing s with
  | nil => rfl
  | cons k ks ih => exact ih _

theorem State.closeWindows_func (s : State) (fn n : Nat) : (s.closeWindows fn).func n = s.func n := by
  unfold State.closeWindows
  generalize tkeys s.hubs = ks
  induction ks generalizing s with
  | nil => rfl
  | cons k ks ih => exact ih _

/-- What ending a job leaves of its function. -/
theorem State.endJob_func (s : State) (fn st : Nat) : (s.endJob fn st).func fn = { s.func fn with
    run := false, armed := false, stop := none, stopMore := [], resumeCmd := none, halted := false
    stopAtBoundary := 0, items := [], older := [], voteOpen := false, voteCast := false, voteBits := 0, voteOr := 0 } := by
  unfold State.endJob
  dsimp only
  rw [(State.completeAll_cpl _ _ _ _).func, (State.completeAll_cpl _ _ _ _).func, State.onTiles_func, State.clearSteps,
    State.onTiles_func, State.setFunc_func_self]

theorem State.drain_state (s : State) (fn : Nat) (h : (s.func fn).state = .on ∨ (s.func fn).state = .enabling) :
    ((s.drain fn).func fn).state = .draining := by
  unfold State.drain
  dsimp only
  rw [if_pos h, (State.completeAll_cpl _ _ _ _).func, State.closeWindows_func]
  unfold State.releaseDebug
  show (((State.stopSequencers _ fn).onTiles _).func fn).state = _
  rw [State.onTiles_func, State.stopSequencers, State.onTiles_func]
  simp [State.onFunc]

end Sys2Proof.Machine
end

