-- ==== Sys2Proof/Laws/Pages.lean ====
section
/-! SUPPORT. What keeping the retirement list changes, and what an uncorrectable error makes of its page (R307, R308). -/
namespace Sys2Proof.Machine

/-- An NV error touches no page. -/
theorem State.nvError_pages (s : State) (a b : Nat) : (s.nvError a b).pages = s.pages := by
  simp only [State.nvError, State.report]

/-- Writing the list changes no page. -/
theorem State.listWritten_pages (s : State) (failed : Bool) (wrote : Option (Nv × Nat)) :
    (s.listWritten failed wrote).pages = s.pages := by
  rcases wrote with _ | ⟨v, b⟩
  · exact State.nvError_pages _ _ _
  · cases failed
    · rfl
    · exact State.nvError_pages _ _ _

/-- Keeping the list changes no page. -/
@[simp] theorem State.writeRetList_pages (s : State) : s.writeRetList.pages = s.pages := by
  unfold State.writeRetList
  exact State.listWritten_pages _ _ _

@[simp] theorem State.writeRetList_page (s : State) (p : Nat) : s.writeRetList.page p = s.page p := by
  simp only [State.page, State.writeRetList_pages]

/-- A GOOD page becomes SUSPECT at its first uncorrectable error. -/
theorem State.advancePage_good {s : State} {p : Nat} (h : (s.page p).health = .good) :
    (s.advancePage p).page p = { s.page p with health := .suspect, ues := satAdd 8 (s.page p).ues 1 } := by
  unfold State.advancePage
  simp only [h, State.writeRetList_page, State.setPage_page, if_true]

/-- A SUSPECT page is retired at its next. -/
theorem State.advancePage_suspect {s : State} {p : Nat} (h : (s.page p).health = .suspect) :
    (s.advancePage p).page p =
      (State.retirePage (s.setPage p { s.page p with ues := satAdd 8 (s.page p).ues 1 }) p).page p := by
  unfold State.advancePage
  simp only [h, State.writeRetList_page]

end Sys2Proof.Machine
end

