-- ==== Sys2Proof/Laws/Tile.lean ====
section
/-! SUPPORT. What issuing a tile instruction comes to: the condition under which it issues, what holds it back, and what the
end of an instruction that read and wrote only plates leaves. -/
namespace Sys2Proof.Machine

/-- An instruction that issues runs its body. -/
theorem State.issue_eq {s : State} {a : At} {g : Eng} (h : Issues s a g) (unit : Nat) (u : Upset) (body : Part → Body) :
    s.issue g a unit u body =
      s.finishBody g a.tile a.entry (s.fnAt a) unit (s.seqAt a).iaddr u (body (s.partAt a)) := by
  obtain ⟨⟨ht, he, hv⟩, hh, hb⟩ := h
  simp only [State.fnAt, State.partAt, State.seqAt, State.tileAt, Held, Broken, not_or, not_and] at hv hh hb ⊢
  obtain ⟨h1, h2, h3, h4, h5, h6, h7⟩ := hh
  have hf : s.tileFitted a.tile = true := by simp [State.tileFitted, ht]
  have he' : ¬4 ≤ a.entry := by omega
  simp only [Bool.not_eq_true, Bool.not_eq_false] at h1 h2 h3 h4 h5 h7
  simp only [Decidable.not_not] at h6
  unfold State.issue
  simp only [hf, Bool.not_true, he', if_false, hv, h1, h2, h3, h4, h5, h6, h7, Bool.or_false, bne_self_eq_false,
    Bool.false_eq_true]
  cases hp : (tget {} (s.tile a.tile).seqs a.entry).passBp
  · have := hb hp
    simp only [Decidable.not_not] at this
    simp only [this, Bool.false_eq_true, if_false]
  · simp

/-- An instruction that is held back changes nothing. -/
theorem State.issue_held {s : State} {a : At} {g : Eng} (hp : Placed s a) (h : Held s a g) (unit : Nat) (u : Upset)
    (body : Part → Body) : s.issue g a unit u body = .next s := by
  obtain ⟨ht, he, hv⟩ := hp
  simp only [State.fnAt, State.partAt, State.seqAt, State.tileAt, Held] at hv h
  have hf : s.tileFitted a.tile = true := by simp [State.tileFitted, ht]
  have he' : ¬4 ≤ a.entry := by omega
  have hh : ((s.tile a.tile).outOfService || (s.tile a.tile).stalled || (tget {} (s.tile a.tile).seqs a.entry).stopped ||
      (tget {} (s.tile a.tile).seqs a.entry).halted || s.haltDue (tget {} (s.tile a.tile).part a.entry).func.toNat a.tile ||
      (s.func (tget {} (s.tile a.tile).part a.entry).func.toNat).state != .on ||
      !s.engGranted g a.tile (tget {} (s.tile a.tile).part a.entry).func.toNat) = true := by
    simp only [Bool.or_eq_true, bne_iff_ne, Bool.not_eq_true']
    rcases h with h | h | h | h | h | h | h <;> simp only [h, true_or, or_true, ne_eq, not_false_eq_true]
  unfold State.issue
  simp only [hf, Bool.not_true, he', if_false, hv, Bool.false_eq_true]
  rw [if_pos hh]

/-- A breakpoint that matches halts the tile in place of the instruction. -/
theorem State.issue_break {s : State} {a : At} {g : Eng} (hp : Placed s a) (h : ¬Held s a g) (hb : Broken s a) (unit : Nat)
    (u : Upset) (body : Part → Body) :
    s.issue g a unit u body =
      .next (s.hitBreak a.tile a.entry (s.fnAt a) (s.breakpoints a.tile (s.fnAt a) (s.seqAt a).iaddr)) := by
  obtain ⟨ht, he, hv⟩ := hp
  simp only [State.fnAt, State.partAt, State.seqAt, State.tileAt, Held, Broken, not_or] at hv h hb ⊢
  obtain ⟨h1, h2, h3, h4, h5, h6, h7⟩ := h
  have hf : s.tileFitted a.tile = true := by simp [State.tileFitted, ht]
  have he' : ¬4 ≤ a.entry := by omega
  simp only [Bool.not_eq_true, Bool.not_eq_false] at h1 h2 h3 h4 h5 h7
  simp only [Decidable.not_not] at h6
  unfold State.issue
  simp only [hf, Bool.not_true, he', if_false, hv, h1, h2, h3, h4, h5, h6, h7, Bool.or_false, bne_self_eq_false,
    Bool.false_eq_true, hb.1]
  cases hc : s.breakpoints a.tile (tget {} (s.tile a.tile).part a.entry).func.toNat
      (tget {} (s.tile a.tile).seqs a.entry).iaddr with
  | nil => exact absurd hc hb.2
  | cons n ns => rfl

@[simp] theorem State.watch_none (s : State) (fn kind unit : Nat) : s.watch fn kind unit [] [] = s := rfl

/-- No watchpoint is set: no access is recorded. -/
theorem State.watch_unwatched {s : State} (h : Unwatched s) (fn kind unit : Nat) (rs ws : List (Nat × Nat)) :
    s.watch fn kind unit rs ws = s := by
  have hw : ∀ (w : Bool) (r : Nat × Nat), s.watchpoints fn w r = [] := by
    intro w r
    simp [State.watchpoints, show s.dbg.wpBase = [] from h, tget, bitOf]
  have hz : ∀ (l : List (Nat × Nat)) (w : Bool), ((l.map fun r => (w, r, s.watchpoints fn w r)).filter
      fun (h : Bool × (Nat × Nat) × List Nat) => !h.2.2.isEmpty) = [] := by
    intro l w; simp [List.filter_eq_nil_iff, hw]
  unfold State.watch
  simp only [List.filter_append, hz, List.append_nil]

/-- The end of an instruction that met no upset and read and wrote only plates, on a tile without poison. -/
theorem State.finishBody_plates {s0 s : State} {t : Nat} (hp : (s0.tile t).platePoison = [])
    (g : Eng) (e fn unit : Nat) (iaddr : W32) (pr pw : List (Nat × Nat)) :
    s0.finishBody g t e fn unit iaddr .none (.done s [] [] pr pw) =
      .next ((s.onTile t fun x => { x with platePoison := x.platePoison.filter fun w =>
        !(pw.any fun r => decide (r.1 ≤ 2 * w ∧ 2 * w + 2 ≤ r.1 + r.2)) }).retire t e) := by
  simp [State.finishBody, hp]

/-- The end of an instruction that met no upset, where no word is poisoned. -/
theorem State.finishBody_clean {s0 s : State} {t : Nat} (hp : (s0.tile t).platePoison = []) (hs : s0.poison = [])
    (g : Eng) (e fn unit : Nat) (iaddr : W32) (rs ws pr pw : List (Nat × Nat)) :
    s0.finishBody g t e fn unit iaddr .none (.done s rs ws pr pw) =
      .next (((s.onTile t fun x => { x with platePoison := x.platePoison.filter fun w =>
        !(pw.any fun r => decide (r.1 ≤ 2 * w ∧ 2 * w + 2 ≤ r.1 + r.2)) }).retire t e).watch fn (if g = .me then 0 else 1) t
          rs ws) := by
  have h1 : ∀ r : Nat × Nat, s0.poisonedIn r.1 r.2 = none := by intro r; simp [State.poisonedIn, State.poisonsIn, hs]
  have h2 : ∀ r : Nat × Nat, s0.poisonedEdge r.1 r.2 = none := by intro r; simp [State.poisonedEdge, hs]
  have h3 : (rs.filterMap fun r => s0.poisonedIn r.1 r.2) = [] := by simp [List.filterMap_eq_nil_iff, h1]
  have h4 : (ws.filterMap fun r => s0.poisonedEdge r.1 r.2) = [] := by simp [List.filterMap_eq_nil_iff, h2]
  simp [State.finishBody, hp, h3, h4]

theorem State.onTile_tile (s : State) (t : Nat) (f : Tile → Tile) (j : Nat) :
    (s.onTile t f).tile j = if j = t then f (s.tile t) else s.tile j := by
  simp only [State.onTile, State.setTile_tile]

/-- A sequencer after it has moved past an instruction. -/
theorem State.retire_tile (s : State) (t e j : Nat) :
    (s.retire t e).tile j =
      if j = t then
        let q := tget {} (s.tile t).seqs e
        { s.tile t with
          seqs := tset {} (s.tile t).seqs e ({ q with iaddr := q.iaddr + 32, left := q.left - 1, passBp := false, beats := 0 }) }
      else s.tile j := by
  simp only [State.retire, State.onTile_tile]

/-- A readable source gives as many values as asked, each the source's own. -/
theorem Src.vals_length (x : Tile) (n : Nat) (r : Src) (h : r.ok = true) : (r.vals x n).length = n := by
  cases r <;> simp_all [Src.vals, Src.ok, Tile.elems, tgetList]

theorem Src.vals_get (x : Tile) (n : Nat) (r : Src) (h : r.ok = true) (i : Nat) (hi : i < (r.vals x n).length) : (r.vals x n)[i] = r.elem x i := by
  cases r <;> simp_all [Src.vals, Src.ok, Tile.elems, tgetList, Src.elem]

/-- Readable sources raise no fault. -/
theorem srcFault_ok (l : List Src) (h : ∀ r ∈ l, r.ok = true) : srcFault l = none := by
  induction l with
  | nil => rfl
  | cons r t ih =>
    have h1 := h r (by simp)
    have h2 := ih (fun r hr => h r (by simp [hr]))
    cases r <;> simp_all [srcFault, Src.ok]

/-- What storing a run comes to, where its instruction issued on a tile without poison: the run holds the values, the entry
has counted their events, the sequencer has moved on, and nothing else has changed. -/
theorem Part.store_runs {s : State} {a : At} {d n : Nat} {p : Part} {unit fn : Nat}
   (r : Nat → W32 × Ev) (hp : (s.tileAt a).platePoison = []) (reads : List (Nat × Nat)) (desc : W32)
   (hd : p.run desc n = some d) :
   ∃ t, s.finishBody .ve a.tile a.entry fn unit (s.seqAt a).iaddr .none
      (p.store s a.tile a.entry desc (((List.range n).map r).map Prod.fst) (sumEv (((List.range n).map r).map Prod.snd)) reads) = .next t ∧ 
      (OnlyTile s t a.tile ∧ (t.tileAt a) = { s.tileAt a with plates := (t.tileAt a).plates, events := (t.tileAt a).events, seqs := (t.tileAt a).seqs } ∧
  PlatesHold (s.tileAt a) (t.tileAt a) d n (fun i => (r i).1) ∧
  Counted (s.tileAt a) (t.tileAt a) a.entry (sumEv ((List.range n).map fun i => (r i).2)) ∧ Advanced s t a) := by
  unfold Part.store
  have hl : (((List.range n).map r).map Prod.fst).length = n := by simp
  rw [hl, hd]
  dsimp only
  rw [State.finishBody_plates hp]
  refine ⟨_, rfl, ⟨rfl, ?_⟩, ?_, ?_, ?_, ?_, ?_⟩
  · intro j hj
    simp [State.retire_tile, State.onTile_tile, hj]
  · simp only [State.tileAt, State.retire_tile, State.onTile_tile, if_true]
    simp only [Tile.countEv, Tile.setElems]
    have : (s.tile a.tile).platePoison = [] := hp
    simp [this]
  · intro j
    simp only [State.tileAt, State.retire_tile, State.onTile_tile, if_true]
    simp only [Tile.countEv, Tile.setElems, tget_tsetList]
    simp only [List.length_map, List.length_range]
    split
    · rename_i h
      have : j - d < n := by omega
      simp [List.getD, this]
    · rfl
  · intro k
    simp only [State.tileAt, State.retire_tile, State.onTile_tile, if_true]
    simp only [Tile.countEv, Tile.setElems, tget_tset]
    simp [Function.comp_def]
  · simp only [State.tileAt, State.seqAt, State.retire_tile, State.onTile_tile, if_true]
    simp only [Tile.countEv, Tile.setElems, tget_tset_self]
  · intro k hk
    simp only [State.tileAt, State.retire_tile, State.onTile_tile, if_true]
    simp only [Tile.countEv, Tile.setElems]
    rw [tget_tset_ne _ _ _ hk]


end Sys2Proof.Machine
end

