-- ==== Sys2Proof/Laws/TileCode.lean ====
section
/-! SUPPORT. Every tile instruction issues, and on a fitted tile answers a next state. -/
namespace Sys2Proof.Machine

/-- The end of an instruction is a next state. -/
theorem State.finishBody_next (s0 : State) (g : Eng) (t e fn unit : Nat) (iaddr : W32) (u : Upset) (b : Body) :
    ∃ s, s0.finishBody g t e fn unit iaddr u b = .next s := by
  unfold State.finishBody
  repeat (first | exact ⟨_, rfl⟩ | split)

/-- An instruction on a fitted tile answers a next state, whatever it does. -/
theorem State.issue_next {s : State} {a : At} (h : s.tileFitted a.tile = true) (g : Eng) (unit : Nat) (u : Upset)
    (body : Part → Body) : ∃ t, s.issue g a unit u body = .next t := by
  unfold State.issue State.noEvent
  simp only [h, Bool.not_true, Bool.false_eq_true, if_false]
  repeat (first | exact ⟨_, rfl⟩ | exact State.finishBody_next .. | split)

/-- The answer of a chain of tests is one of its answers. -/
theorem some_of_ite {α : Type} {c : Prop} [Decidable c] {x y : α} {rest : Option α} (h : (if c then some x else rest) = some y) :
    x = y ∨ rest = some y := by
  split at h
  · exact .inl (Option.some.inj h)
  · exact .inr h

/-- Every vector opcode issues its instruction. -/
theorem vectorOp_issue {n : Nat} {f : At → VOp → State → Answer} (hf : vectorOp n = some f) (a : At) (op : VOp) (s : State) :
    ∃ g unit u body, f a op s = s.issue g a unit u body := by
  unfold vectorOp at hf
  repeat
    rcases some_of_ite hf with rfl | hf
    · simp only [
      execVadd, execVsub, execVmul, execVfma, execVmax, execVmin, execVabs, execVneg, execVdiv, execVsqrt, execVrsqrt,
      execVrcp, execVexp, execVlog, execVcmp, execVsel, execVand, execVor, execVxor, execVshl, execVshr, execVcvt,
      execViota, execVmov, execVsets, execVld, execVst, execVrdacc, execVropen, execVred, execVrfold, execVrclr,
      execVevt, execVscan, execVsort, execVgath, execVscat, execVcomb, elementwise, vissue]
      exact ⟨_, _, _, _, rfl⟩
  cases hf

/-- Whatever 32 bytes spell, running them on a fitted tile answers a next state. -/
theorem State.runTile_next {s : State} {a : At} (h : s.tileFitted a.tile = true) (bs : List Byte) :
    ∃ t, s.runTile a bs = .next t := by
  unfold State.runTile
  dsimp only
  repeat (split; · exact State.issue_next h _ _ _ _)
  split
  · rename_i hf
    obtain ⟨g, unit, u, body, e⟩ := vectorOp_issue hf a (vopOf (tileWords bs)) s
    rw [e]; exact State.issue_next h _ _ _ _
  · exact State.issue_next h _ _ _ _
end Sys2Proof.Machine
end

