-- ==== Sys2Proof/Tests/Slice0.lean ====
section
/-! SUPPORT. Tests: an ill-formed term for each check of WellFormed; for each obligation with hypotheses, a state and operands
that meet them; and small checks of single commands, whose expected values are worked out from the manual. -/
set_option Elab.async false
namespace Sys2Proof.Tests
open Sys2Proof.Machine

/-! ### WellFormed refuses what is ill formed -/

def anOp : VOp :=
  { ty := 0, subop := 0, bsel := 0, csel := 0, sb := 0, sc := 0, sd := 0, chain := 0, count := 2, w1hi := 0, w1b15 := false,
    w2 := 0, w3 := 0, w4 := 0, w5 := 0x200, w6 := 0, w7 := 0 }
def here : At := { tile := 0, entry := 0 }
def aFrame : Frame := { fcsOk := true, dst := 0, src := 0, vid := none, etype := 0, body := [] }
def aPeer : Peer :=
  { s9Herd := true, rate := 0, etype := 0, herdId := 0, member := 0, digest := List.replicate 16 0, mac := 0, mpd := 0 }
def aReq : ChipletReq := { wellFormedTlp := true, write := false, addr := 0, len := 64, data := [] }
def someData : DieTelemetry := { vmeas := 700, idd := 0, temps := List.replicate 64 50, rate := 0, arrived := true }
def someTel : Telemetry :=
  { vin := 5000, iin := 0, pavg := 1000, dies := List.replicate 4 someData, stackTemps := List.replicate 12 50, droops := 0 }

theorem test_wf_accepts : (Instr.vadd here anOp).wf = true ∧ (Instr.portTrain 8 true aPeer).wf = true ∧
    (Instr.pmgControlPeriod someTel).wf = true := by decide
theorem test_wf_tile : (Instr.mclr { tile := 512, entry := 0 } 0).wf = false ∧ (Instr.tileStall 512).wf = false := by decide
theorem test_wf_entry : (Instr.vmov { tile := 0, entry := 4 } anOp).wf = false := by decide
theorem test_wf_function : (Instr.stepend 16).wf = false ∧ (Instr.slotRelease 16).wf = false := by decide
theorem test_wf_queue : (Instr.arm).wf = true ∧ (Instr.qcreate 1048576).wf = false := by decide
theorem test_wf_hub : (Instr.lwlOut 2).wf = false ∧ (Instr.tokenBucketFill 0 16).wf = false := by decide
theorem test_wf_die : (Instr.patrolSlow 4).wf = false ∧ (Instr.supplyFault 4 0).wf = false := by decide
theorem test_wf_stack : (Instr.stackFailed 12).wf = false := by decide
theorem test_wf_port : (Instr.retransmitTimeout 32).wf = false ∧ (Instr.laneShed 0 4).wf = false := by decide
theorem test_wf_link : (Instr.d2dRetrain 8).wf = false := by decide
theorem test_wf_crossing : (Instr.cdcReset 6 0).wf = false ∧ (Instr.cdcReset 0 7).wf = false := by decide
theorem test_wf_tripDie : (Instr.thermtrip 5 0 120 0).wf = false ∧ (Instr.thermtrip 0 64 120 0).wf = false ∧
    (Instr.thermtrip 0 0 256 0).wf = false ∧ (Instr.thermtrip 12 0 120 12).wf = false := by decide
theorem test_wf_address : (Instr.dbgRead32 (2 ^ 48)).wf = false ∧ (Instr.ceWriteback (2 ^ 48)).wf = false := by decide
theorem test_wf_vpn : (Instr.hostBiasFlip 0 (2 ^ 27) false).wf = false := by decide
theorem test_wf_ert : (Instr.expertFetchComplete 0 262144 false .none).wf = false := by decide
theorem test_wf_upset : (Instr.vld here anOp (.plateUE 65536)).wf = false ∧ (Instr.vld here anOp (.sramUE (2 ^ 48))).wf = false ∧
    (Instr.mule 0 0 {} (.ertUE 262144)).wf = false := by decide
theorem test_wf_frame : (Instr.ctrlFrameReceive 0 { aFrame with body := List.replicate 4113 0 }).wf = false := by decide +kernel
theorem test_wf_peer : (Instr.portTrain 0 true { aPeer with member := 512 }).wf = false ∧
    (Instr.portTrain 0 true { aPeer with digest := [] }).wf = false := by decide
theorem test_wf_requester : (Instr.registerWrite (.view 17 0) 0 4 0).wf = false ∧
    (Instr.registerWrite (.firmware 2) 0 4 0).wf = false ∧ (Instr.registerWrite .bmc 0 9 0).wf = false := by decide
theorem test_wf_telemetry : (Instr.pmgControlPeriod { someTel with dies := [{ someData with temps := [] }] }).wf = false ∧
    (Instr.pmgControlPeriod { someTel with stackTemps := List.replicate 13 0 }).wf = false := by decide
theorem test_wf_selftest : (Instr.selftestComplete { links := [(8, 0, 0)], badTiles := [], badPages := [], badStacks := [] }).wf = false ∧
    (Instr.selftestComplete { links := [], badTiles := [512], badPages := [], badStacks := [] }).wf = false ∧
    (Instr.selftestComplete { links := [], badTiles := [], badPages := [(0, 32768)], badStacks := [] }).wf = false ∧
    (Instr.selftestComplete { links := [], badTiles := [], badPages := [], badStacks := [12] }).wf = false := by decide
theorem test_wf_lengths : (Instr.shardReceive 0 .forward [] [] 0).wf = false ∧ (Instr.dbgAuth []).wf = false ∧
    (Instr.chipletRequest 0 { aReq with len := 4097 } .none).wf = false ∧ (Instr.chunkStateCheck 0 (2 ^ 32)).wf = false := by
  decide
theorem test_wf_range : (Instr.hostReset 3).wf = false ∧ (Instr.inputApplied 65536).wf = false := by decide

/-! ### A small module, ready, with function 0 on tile 0 -/

def part0 : Part :=
  { valid := true, func := 0, accMask := 15, plateBase := 0, plateCount := 16, sramBase := 0, sramCount := 32 }
def tile0 : Tile :=
  { part := [(0, part0)], seqs := [(0, { active := true, left := 8 })]
    plates := [(0, 0x3F800000#32), (1, 0x40000000#32), (64, 0x3F800000#32), (65, 0x3F800000#32)] }
/-- The module is READY, its tile 0 holds 1.0 and 2.0 in elements 0 and 1 and 1.0 in 64 and 65. -/
def onS : State :=
  { boot := { supply := .running, stage := .ready, pgood := true, pwrEn := true, present := true }
    power := { vin := 5000 }, sec := { idok := true, fwKey := [1] }
    tiles := [(0, tile0)], funcs := [(0, { state := .on, run := true })] }
/-- The state a command leads to, or the reset state where it stops. -/
def after (i : Instr) (s : State) : State :=
  match exec i s with
  | .next t => t
  | _ => {}
def elem (s : State) (k : Nat) : W32 := tget 0 (s.tile 0).plates k

/-! ### Tile instructions -/

/-- Sources A and B at elements 0 and 64 (plate 0), the destination at element 8. -/
def addOp : VOp := { anOp with w3 := 0x1000 }

theorem witness_issues : Issues onS here :=
  ⟨by unfold Placed; decide, by unfold Held; decide, by unfold Broken; decide⟩
theorem witness_clean : Clean onS here ∧ Unwatched onS := by unfold Clean Unwatched; decide
theorem witness_VectorTwoSources : ElementReady onS here addOp 2 [0, 1, 2] 0 8 ∧ ElementReady onS here addOp 2 [0, 1, 2] 7 8 ∧
    ElementReady onS here addOp 2 [0] 0 8 ∧ ElementReady onS here { addOp with ty := 2 } 2 [2] 0 8 ∧
    ElementReady onS here { addOp with ty := 1 } 2 [1] 0 8 :=
  ⟨⟨witness_issues, by decide⟩, ⟨witness_issues, by decide⟩, ⟨witness_issues, by decide⟩, ⟨witness_issues, by decide⟩,
    ⟨witness_issues, by decide⟩⟩
theorem witness_VectorOneSource : ElementReady onS here anOp 1 [0] 0 8 ∧ ElementReady onS here { anOp with ty := 1 } 1 [1] 0 8 ∧
    ElementReady onS here { anOp with ty := 2 } 0 [2] 0 8 :=
  ⟨⟨witness_issues, by decide⟩, ⟨witness_issues, by decide⟩, ⟨witness_issues, by decide⟩⟩
theorem witness_VectorThreeSources : ElementReady onS here { addOp with w4 := 0x1000 } 3 [0] 0 8 :=
  ⟨witness_issues, by decide⟩

/-- 1.0 + 1.0 = 2.0 and 2.0 + 1.0 = 3.0; 1.0 × 1.0 = 1.0 (R46, R127). -/
theorem test_vadd : elem (after (.vadd here addOp) onS) 8 = 0x40000000 ∧ elem (after (.vadd here addOp) onS) 9 = 0x40400000 := by
  decide
theorem test_vmul : elem (after (.vmul here addOp) onS) 8 = 0x3F800000 := by decide
/-- U32 addition saturates at 2^32 − 1 (R129); a shift by 32 or more gives 0 (R127). -/
theorem test_vadd_saturates :
    elem (after (.vadd here { addOp with ty := 2, bsel := 2, w6 := 0xFFFFFFFF }) onS) 8 = 0xFFFFFFFF := by decide
theorem test_vshl_wide : elem (after (.vshl here { addOp with ty := 2, bsel := 2, w6 := 32 }) onS) 8 = 0 := by decide

/-- VOP words that name tile SRAM at 0 in place of a destination run. -/
def memOp : VOp := { anOp with w5 := 0 }

theorem witness_VevtCopiesAndZeroes : Issues onS here ∧ Clean onS here ∧ anOp.w1b15 = false ∧ anOp.subop = 0 ∧
    ({ anOp with sd := 13 } : VOp).sd.toNat ≤ 13 :=
  ⟨witness_issues, witness_clean.1, by decide⟩
/-- VEVT reads the counts as U32 and zeroes them (R144). -/
def evS : State := { onS with tiles := [(0, { tile0 with events := [(0, { nonfin := 3, ovf := 1, inval := 2 })] })] }
theorem test_vevt : tget 0 ((after (.vevt here { anOp with sd := 13 }) evS).tile 0).scalars 15 = 2 ∧
    ((after (.vevt here anOp) evS).tile 0).events = [] := by decide

/-- Chain 0 is open for a tree of one span, with COUNT = 0, and in `chS 1` with COUNT = 1. -/
def chS (count : Nat) : State :=
  { onS with tiles := [(0, { tile0 with
      chains := [(0, { phase := .opened, desc := { wcode := 2 }, count := count
                       stack := if count = 0 then [] else [(0, { v := 0x3F800000, x := false })] })] })] }
theorem witness_chS : Issues (chS 0) here ∧ Issues (chS 1) here :=
  ⟨⟨by unfold Placed; decide, by unfold Held; decide, by unfold Broken; decide⟩,
    ⟨by unfold Placed; decide, by unfold Held; decide, by unfold Broken; decide⟩⟩
theorem witness_vec : VecReady onS here { anOp with count := 1 } [0, 1, 2] 0 :=
  ⟨witness_issues, witness_clean.1, witness_clean.2, by decide⟩
theorem witness_ScalarsAndChains_open : ((onS.tileAt here).chain 0 0).phase ≠ .opened ∧ isNode 1 0 0 = true ∧
    (0 : BitVec 32) = (0#5 ++ 0#27) ∧ (0x10000000#32) = 0#2 ++ 2#3 ++ 0#27 := by decide
theorem witness_ScalarsAndChains_fold : let ch := ((chS 1).tileAt here).chain 0 0
    ch.phase = .opened ∧ ch.count = ch.desc.parts ∧ memOp.w5 = 0 ∧ cvtRnd memOp.w1hi.toNat ≠ 3 ∧
    ((chS 1).partAt here).sramOk 0 32 = true := by decide
/-- VROPEN opens the chain with COUNT = 0 and VRFOLD brings its one span to a scalar (R135). -/
theorem test_vropen : (((after (.vropen here { memOp with w3 := 0x10000000 }) onS).tile 0).chain 0 0).phase = .opened := by decide
theorem test_vrfold : tget 0 ((after (.vrfold here memOp) (chS 1)).tile 0).scalars 0 = 0x3F800000 := by decide

def redOp : VOp := { anOp with w5 := 0 }
theorem witness_Reductions : VredReady (chS 0) here redOp ∧ VredReady (chS 0) here { redOp with subop := 3 } ∧
    VredReady (chS 0) here { redOp with subop := 7 } ∧ VredReady (chS 0) here { redOp with subop := 2 } ∧
    VredReady (chS 0) here { redOp with w4 := 0x10002, w5 := 0x200 } := by
  refine ⟨⟨⟨witness_chS.1, ?_, ?_, ?_⟩, ?_⟩, ⟨⟨witness_chS.1, ?_, ?_, ?_⟩, ?_⟩, ⟨⟨witness_chS.1, ?_, ?_, ?_⟩, ?_⟩,
    ⟨⟨witness_chS.1, ?_, ?_, ?_⟩, ?_⟩, ⟨⟨witness_chS.1, ?_, ?_, ?_⟩, ?_⟩⟩ <;>
    first | decide | (unfold Clean; decide) | (unfold Unwatched; decide) | (unfold RunIn SourceB; decide)
theorem witness_Reductions_push : ((((chS 0).tileAt here).chain 0 0).push (decide (2 % 32 = 0))
    (sumSpans 0 (vredA (chS 0) here redOp) (vredB (chS 0) here redOp)) false).isSome = true := by decide
/-- 1.0 + 2.0 as one span of a chain, and max and min of the run (R133). -/
theorem test_vred_max : tget 0 ((after (.vred here { redOp with subop := 3 }) onS).tile 0).scalars 0 = 0x40000000 := by decide
theorem test_vred_sum : (((after (.vred here redOp) (chS 0)).tile 0).chain 0 0).count = 1 := by decide

/-- Bank 0 is DONE with one cell of 1.0. -/
def bankS : State :=
  { onS with tiles := [(0, { tile0 with banks := [(0, { phase := .done, rows := 1, cols := 1, vals := [(0, 0x3F800000)] })] })] }
theorem witness_bankS : Issues bankS here ∧ Clean bankS here ∧ Unwatched bankS :=
  ⟨⟨by unfold Placed; decide, by unfold Held; decide, by unfold Broken; decide⟩, by unfold Clean; decide, by unfold Unwatched; decide⟩
theorem witness_BankRead : VecReady bankS here { anOp with count := 1 } [0, 1] 3 ∧ (bankS.partAt here).bankOk 0 = true ∧
    ((bankS.tileAt here).bank 0).phase = .done ∧ RunIn bankS here 0x200 1 :=
  ⟨⟨witness_bankS.1, witness_bankS.2.1, witness_bankS.2.2, by decide⟩, by decide, by decide, by unfold RunIn; decide⟩
/-- VRDACC rounds to FP32 the value of a bank's cell (R132). -/
theorem test_vrdacc : elem (after (.vrdacc here { anOp with count := 1 }) bankS) 8 = 0x3F800000 := by decide

def sortOp : VOp := { anOp with w3 := 0x1000, w4 := 0x400, subop := 1 }
theorem witness_SortIsStable : VecReady onS here sortOp [0, 1, 2] 1 ∧ RunIn onS here sortOp.w2 2 ∧ RunIn onS here sortOp.w3 2 ∧
    RunIn onS here sortOp.w4 2 ∧ RunIn onS here sortOp.w5 2 := by
  refine ⟨⟨witness_issues, witness_clean.1, witness_clean.2, ?_⟩, ?_⟩ <;> first | decide | (unfold RunIn; decide)
/-- Falling order puts 2.0 before 1.0 (R139); an inclusive scan of 1.0 and 2.0 ends in 3.0 (R138). -/
theorem test_vsort : elem (after (.vsort here sortOp) onS) 8 = 0x40000000 ∧ elem (after (.vsort here sortOp) onS) 9 = 0x3F800000 := by
  decide
theorem witness_Scan : VecReady onS here anOp [0, 1, 2] 11 ∧ RunIn onS here anOp.w2 2 ∧ RunIn onS here anOp.w5 2 := by
  refine ⟨⟨witness_issues, witness_clean.1, witness_clean.2, ?_⟩, ?_⟩ <;> first | decide | (unfold RunIn; decide)
theorem test_vscan : elem (after (.vscan here anOp) onS) 9 = 0x40400000 := by decide
theorem witness_GatherAndScatter : VecReady onS here { anOp with w6 := 16384 } [0, 1, 2] 0 ∧ RunIn onS here 0 16384 ∧
    RunIn onS here 0x200 2 ∧ (srcB anOp part0 tile0 0).ok = true := by
  refine ⟨⟨witness_issues, witness_clean.1, witness_clean.2, ?_⟩, ?_⟩ <;> first | decide | (unfold RunIn; decide)
/-- A gather past the table's end gives 0 (R140). -/
theorem test_vgath : elem (after (.vgath here { anOp with bsel := 2, w6 := 1 }) onS) 8 = 0 := by decide

theorem witness_conversions : VecReady onS here anOp [0, 1, 2] 0 ∧ convOk anOp = true ∧ RunIn onS here anOp.w2 2 ∧
    RunIn onS here anOp.w5 2 ∧ VmemReady onS here memOp := by
  refine ⟨⟨witness_issues, witness_clean.1, witness_clean.2, ?_⟩, ?_, ?_, ?_, ?_⟩ <;>
    first | decide | (unfold RunIn; decide) | (unfold VmemReady RunIn; decide)
/-- VST in F32 stores 1.0 in little-endian order, and VLD reads it back (R130). -/
theorem test_vst : (after (.vst here memOp .none) onS).read (tileAddr 0 0) 4 = [0, 0, 0x80, 0x3F] := by decide
theorem test_vcvt : elem (after (.vcvt here anOp) onS) 9 = 0x40000000 := by decide

/-- One record of tree 0, node (0, 0) of one span, 1 × 1, holding 1.0, at SRAM 64; its offset is listed at 0. -/
def combS : State :=
  let rec_ := recordBytes {} 1 1 [{ v := 0x3F800000, x := false }]
  ((onS.write (tileAddr 0 0) [64, 0, 0, 0]).write (tileAddr 0 64) rec_)
def combOp : VOp := { anOp with subop := 1, w3 := 1, w4 := 0x200, w5 := 0 }
theorem witness_Combine : VcombReady combS here combOp ∧ treeCheck (combHdrs combS here combOp) 0 0 = none ∧
    (combS.partAt here).sramOk 0x200 (recordSize 1 1) = true ∧
    treeCheck (combHdrs combS here { combOp with w7 := 1 }) 0 1 = some (0, 1) := by
  refine ⟨⟨⟨?_, ?_, ?_⟩, ?_, ?_, ?_⟩, ?_, ?_, ?_⟩ <;>
    first | decide | (unfold Placed; decide) | (unfold Held; decide) | (unfold Broken; decide) | (unfold Clean; decide) |
      (unfold Unwatched; decide)
theorem test_vcomb : (after (.vcomb here combOp .none) combS).read (tileAddr 0 (0x200 + 16)) 4 = [0, 0, 0x80, 0x3F] := by decide

theorem witness_BankOpenClearSave : (onS.partAt here).bankOk 3 = true ∧ ((onS.tileAt here).bank 3).phase ≠ .opened ∧
    isNode (2 ^ 27) 27 0 = true ∧ ((bankS.tileAt here).bank 0).phase = .done ∧
    (bankS.partAt here).sramOk 0 (recordSize 1 1) = true := by decide
def treeOp : MtreeOp := { bank := 3, int := false, tree := 5, level := 0, pos := 0, wcode := 2, nspanM1 := 0, stackAddr := 0 }
theorem test_mtree : (((after (.mtree here treeOp) onS).tile 0).bank 3).desc.tree = 5 := by decide
theorem test_mclr : (((after (.mclr here 0) bankS).tile 0).bank 0).phase = .idle := by decide
theorem test_msave : (after (.msave here 0 0) bankS).read (tileAddr 0 16) 4 = [0, 0, 0x80, 0x3F] := by decide

/-- Bank 0 is open for one span of 32, empty in `mmaS 0`, holding a sum in `mmaS 1`. -/
def mmaS (n : Nat) : State :=
  { onS with tiles := [(0, { tile0 with banks := [(0, { phase := .opened, desc := { wcode := 2 }, count := n, pad := n })] })] }
def mmaOp : MmaOp :=
  { bank := 0, layA := false, layB := false, sfmtA := 1, sfmtB := 1, sdescA := 0, sdescB := 0, rowsM1 := 0, colsM1 := 0,
    cvtA := 1, cvtB := 1, klen := 32, aAddr := 0, aStride := 2, bAddr := 2, bStride := 2, asAddr := 0, asStride := 0,
    bsAddr := 0, bsStride := 0 }
theorem witness_MmaPushes : MmaReady (mmaS 0) here mmaOp := by
  refine ⟨⟨?_, ?_, ?_⟩, ?_, ?_, ?_, ?_, ?_⟩ <;>
    first | decide | (unfold Placed; decide) | (unfold Held; decide) | (unfold Broken; decide) | (unfold Clean; decide) |
      (unfold Unwatched; decide)
theorem witness_BankFold : let b := ((mmaS 1).tileAt here).bank 0
    b.phase = .opened ∧ b.count = b.p ∧ b.int = false ∧ ((mmaS 1).partAt here).outsideOf [] = none := by decide
theorem test_mma : (((after (.mma here mmaOp .none) (mmaS 0)).tile 0).bank 0).count = 1 := by decide
theorem test_mdrain : (((after (.mdrain here 0 true .none) (mmaS 1)).tile 0).bank 0).phase = .done := by decide

/-- A halted sequencer holds the instruction; a breakpoint at address 0 stops it. -/
def haltS : State := { onS with tiles := [(0, { tile0 with seqs := [(0, { active := true, left := 8, halted := true })] })] }
def bpS : State := { onS with dbg := { bps := [(0, 0x8000000000000000#64)] } }
theorem witness_Held : Placed haltS here ∧ Held haltS here := by unfold Placed Held; decide
theorem witness_Broken : Placed bpS here ∧ ¬Held bpS here ∧ Broken bpS here := by unfold Placed Held Broken; decide +kernel
theorem test_held : (after (.vadd here addOp) haltS) = haltS := by decide
theorem witness_Faulted : (onS.partAt here).bankOk 0 = true ∧
    (({ onS with tiles := [(0, { tile0 with part := [(0, { part0 with accMask := 14 })] })] } : State).partAt here).bankOk 0 = false ∧
    part0.sramOk 0x1FFFFF 8 = false := by decide
/-- A COUNT of 0 is a sequence fault: the function drains and the fault register holds code 2 (R125, R143, R145). -/
theorem test_sequence : ((after (.vadd here { addOp with count := 0 }) onS).func 0).state = .draining ∧
    ((after (.vadd here { addOp with count := 0 }) onS).tile 0).veFault.code = 2 := by decide

/-! ### Schedule items -/

/-- One dense layer of one element, one step of six items, one transfer list of 4 bytes from tile SRAM to tile SRAM. -/
def anXfer : Xfer :=
  { srcSp := 3, dstSp := 3, port := 0, tc := 0, cvt := 0, mule := 0, src := 0, dst := 64, bytes := 4, sfmt := 0, ssdesc := 0,
    cast := none }
def entry (op arg : Nat) : StepEntry := { start := 0, due := 1, op := op, group := 0, arg := arg }
def denseLayer : Layer :=
  { layer := 0, expert := false, treat := 0, rows := 1, cols := 1, wtag := 0, mtag := 1, stage := 0, corr := false
    firstChunk := 0, nchunk := 1 }
def jobImg : FuncImage :=
  { steps := [{ var := 0, entries := [entry 1 0, entry 2 0, entry 3 0, entry 4 0, entry 5 0, { entry 6 0 with start := 4, due := 5 }] }]
    progs := [{ tfirst := 0, tcount := 1, offset := 0, instrs := [[0, 0, 0, 0, 0, 0, 0, 0]] }]
    xfers := [{ index := 0, xfers := [anXfer] }], layers := [denseLayer] }
def jobBase : BaseImage :=
  { groups := [{ group := 0, gkind := 0, first := 0, count := 1, mask := 0 }], grantRows := [[0]] }
def jobF (items : Table ItemSt) : Func := { state := .on, run := true, items := items }
def jobS (items : Table ItemSt) : State :=
  { onS with base := some jobBase, images := [(0, jobImg)], funcs := [(0, jobF items)] }
/-- Every item issued, and every item started. -/
def issuedS : State := jobS [(0, .issued), (1, .issued), (2, .issued), (3, .issued), (4, .issued), (5, .issued)]
def startedS : State := jobS [(0, .started), (1, .started), (2, .started), (3, .started), (4, .started), (5, .issued)]

theorem witness_VoteUcmdDemandItems : ItemReady issuedS 0 3 opVOTE .issued (entry 4 0) ∧
    ItemReady issuedS 0 2 opUCMD .issued (entry 3 0) ∧
    (∀ x ∈ issuedS.shareTiles 0 0, ∀ y ∈ issuedS.shareTiles 0 0, issuedS.cmdAddr 0 x = issuedS.cmdAddr 0 y ∨
      issuedS.cmdAddr 0 x + 32 ≤ issuedS.cmdAddr 0 y ∨ issuedS.cmdAddr 0 y + 32 ≤ issuedS.cmdAddr 0 x) ∧
    ItemReady issuedS 0 4 opDEMAND .issued (entry 5 0) ∧ issuedS.inputsReady 0 4 = true ∧ issuedS.shareTiles 0 0 = [(0, 0)] := by
  refine ⟨?_, ?_, ?_, ?_, ?_⟩ <;> first | decide +kernel | (unfold ItemReady; decide +kernel)
/-- The slot is granted to function 5. -/
def otherSlotS : State := { issuedS with base := some { jobBase with grantRows := [[5]] } }
theorem witness_VoteUcmdDemandItems_waits : otherSlotS.groupGranted 0 (entry 3 0) = false ∧ (otherSlotS.func 0).item 2 = .issued ∧
    otherSlotS.entry 0 2 = some (entry 3 0) ∧ (otherSlotS.func 0).run = true := by decide +kernel
/-- UCMD writes step 0, GEN 0 and applied-step count 1 (R186). -/
theorem test_ucmd : (after (.ucmd 0 2) issuedS).read (tileAddr 0 0) 12 = [0, 0, 0, 0, 0, 0, 0, 0, 1, 0, 0, 0] := by decide +kernel
theorem test_vote : ((after (.vote 0 3) issuedS).func 0).voteOpen = true := by decide
theorem test_demand : ((after (.demand 0 4) issuedS).func 0).item 4 = .complete := by decide

theorem witness_TileItems : ItemReady issuedS 0 0 opTILE .issued (entry 1 0) ∧ issuedS.inputsReady 0 0 = true ∧
    issuedS.shareTiles 0 0 ≠ [] ∧ issuedS.poison = [] ∧ (issuedS.func 0).state = .on := by
  refine ⟨?_, ?_, ?_⟩ <;> first | decide +kernel | (unfold ItemReady; decide +kernel)
def ucmdS : State := after (.ucmd 0 2) issuedS
theorem witness_TileItems_sweep : ItemReady ucmdS 0 0 opTILE .issued (entry 1 0) ∧
    ((ucmdS.ownedChunks 0).find? (fun x => x.id == 0)).isSome = true ∧
    updCmdGood (ucmdS.read (ucmdS.cmdAddr 0 (0, 0)) 32) = true ∧
    (ucmdS.ownedChunks 0).all (fun c => (ucmdS.image 0).sweeps c 1) = true ∧
    (ucmdS.func 0).jslots = [] := by
  refine ⟨?_, ?_, ?_, ?_, ?_⟩ <;> first | decide +kernel | (unfold ItemReady; decide +kernel)
/-- The roots of the step's one block are in. -/
def rootStat : BlockStat :=
  { layer := 0, lshard := 0, block := 0, gSq := {}, gMax := 0, gNf := 0, wSq := {}, wMax := 0, uSq := {}, uMax := 0, uNf := 0, root := true }
def sweepS : State := ucmdS.onFunc 0 fun f => { f with stats := [rootStat] }
theorem witness_TileItems_roots : ItemReady sweepS 0 0 opTILE .issued (entry 1 0) ∧
    (sweepS.ownedChunks 0).find? (fun x => x.id == 0) = (sweepS.ownedChunks 0).head? ∧
    (sweepS.ownedChunks 0).all (fun c => sweepS.rootsIn 0 c) = true ∧ (ucmdS.ownedChunks 0).any (fun c => ucmdS.rootsIn 0 c) = false ∧
    sweepS.ownedChunks 0 ≠ [] ∧ sweepS.shareTiles 0 0 ≠ [] ∧ sweepS.poison = [] ∧ (sweepS.func 0).state = .on ∧
    (sweepS.func 0).step = ((sweepS.func 0).runAt 0).step ∧
    updCmdGood (sweepS.read (sweepS.cmdAddr 0 (0, 0)) 32) = true ∧
    (sweepS.ownedChunks 0).all (fun c => (sweepS.image 0).sweeps c
      (updCmdOf (sweepS.read (sweepS.cmdAddr 0 (0, 0)) 32)).applied) = true ∧ (sweepS.func 0).jslots = [] := by
  refine ⟨?_, ?_, ?_, ?_, ?_, ?_, ?_, ?_, ?_, ?_, ?_, ?_⟩ <;> first | decide +kernel | (unfold ItemReady; decide +kernel)
/-- Every instruction of the section has issued. -/
def ranS : State := { startedS with tiles := [(0, { tile0 with seqs := [(0, { active := true, left := 0 })] })] }
theorem witness_TileItems_end : ItemReady ranS 0 0 opTILE .started (entry 1 0) ∧
    ∀ te ∈ ranS.shareTiles 0 0, let q := tget {} (ranS.tile te.1).seqs te.2
      q.active = true → q.left = 0 ∧ q.stopped = false ∧ q.halted = false := by
  refine ⟨?_, ?_⟩ <;> first | decide +kernel | (unfold ItemReady; decide +kernel)
theorem test_tile : (tget {} ((after (.tile 0 0 []) issuedS).tile 0).seqs 0).left = 1 := by decide
theorem test_tileSectionEnd : ((after (.tileSectionEnd 0 0) ranS).func 0).item 0 = .complete := by decide

theorem witness_MuleItems : ItemReady issuedS 0 1 opMULE .issued (entry 2 0) ∧ issuedS.inputsReady 0 1 = true ∧
    issuedS.poison = [] ∧ issuedS.copyPending 0 0 4 = false ∧ issuedS.dbg.muleHalt.contains 0 = false ∧ issuedS.dbg.haltAsked.contains (0, none) = false ∧ Unwatched issuedS ∧
    tget 0 (issuedS.func 0).muleNext 1 = 0 ∧ issuedS.xferBad jobBase anXfer = false ∧
    issuedS.endRanges 0 3 0 4 = some [(tileAddr 0 0, 4)] ∧ issuedS.endRanges 0 3 64 anXfer.dstBytes = some [(tileAddr 0 64, 4)] ∧
    issuedS.reachable ([(tileAddr 0 0, 4)] ++ [(tileAddr 0 64, 4)]) = true ∧
    issuedS.olderEpoch 0 ([(tileAddr 0 0, 4)] ++ [(tileAddr 0 64, 4)]) = false := by
  refine ⟨?_, ?_, ?_, ?_, ?_, ?_, ?_, ?_, ?_, ?_, ?_, ?_, ?_⟩ <;>
    first | decide | (unfold ItemReady; decide) | (unfold Unwatched; decide)
def movedS : State := { startedS with funcs := [(0, { startedS.func 0 with muleNext := [(1, 1)] })] }
theorem witness_MuleItems_complete : ItemReady movedS 0 1 opMULE .started (entry 2 0) ∧ movedS.listUnacked 0 0 = false ∧
    1 ≤ tget 0 (movedS.func 0).muleNext 1 ∧ (∀ x ∈ [anXfer], x.srcSp = 4 → x.bytes ≤ (movedS.func 0).arrived x) := by
  refine ⟨?_, ?_, ?_, ?_⟩ <;> first | decide +kernel | (unfold ItemReady; decide +kernel)
theorem test_mule : (after (.mule 0 1 {} .none) (issuedS.write (tileAddr 0 0) [5, 6, 7, 8])).read (tileAddr 0 64) 4 =
    [5, 6, 7, 8] := by decide
theorem test_muleListComplete : ((after (.muleListComplete 0 1) movedS).func 0).item 1 = .complete := by decide

/-! ### The herd's schedule -/

/-- Every item but STEPEND is complete; the function holds one ERT entry of HEAT 8. -/
def endS : State :=
  { jobS [(0, .complete), (1, .complete), (2, .complete), (3, .complete), (4, .complete), (5, .issued)] with
    ert := [(0, { valid := true, func := 0, heat := 8 })] }
theorem witness_StepBoundary : stepEndOf (endS.program 0) = some (5, 4) ∧ (endS.func 0).run = true ∧
    (endS.func 0).item 5 = .issued ∧ (∀ e ∈ (endS.program 0).zipIdx, e.2 ≠ 5 → (endS.func 0).item e.2 = .complete) ∧
    (endS.func 0).stopAtBoundary = 0 ∧ (endS.func 0).stops = [] ∧ bitOf (endS.func 0).voteOut.toNat 2 = false ∧
    (endS.image 0).job.skipLimit = 0 ∧ ((endS.entriesOf 0).map Prod.fst).Nodup := by
  refine ⟨?_, ?_, ?_, ?_, ?_, ?_, ?_, ?_, ?_⟩ <;> decide
/-- The transfer list is late: it runs on beside the next step (R250). -/
def lateEndS : State := endS.onFunc 0 fun f => f.setItem 1 .started
theorem witness_StepBoundary_late : stepEndOf (lateEndS.program 0) = some (5, 4) ∧ (lateEndS.func 0).run = true ∧
    (lateEndS.func 0).item 5 = .issued ∧ (∀ e ∈ (lateEndS.program 0).zipIdx, e.1.op = opVOTE → (lateEndS.func 0).item e.2 = .complete) ∧
    (lateEndS.func 0).item 1 = .started ∧ ((lateEndS.image 0).program (lateEndS.func 0).mbvar).length ≤ runBase := by
  refine ⟨?_, ?_, ?_, ?_, ?_, ?_⟩ <;> decide +kernel
theorem test_stependLate : ((after (.stepend 0) lateEndS).func 0).item (runBase + 1) = .started := by decide +kernel
/-- HEAT 8 ages to 8 − 1 = 7 (R231), and the next step begins at SCHED 4. -/
theorem test_stepend : ((after (.stepend 0) endS).ertEntry 0).heat = 7 ∧ ((after (.stepend 0) endS).func 0).stepFirst = 4 := by decide

/-- A herd of three members along x, FORMED, with H = 3: ports 0 and 4 reach the neighbours, and both records have come. -/
def herdBase : BaseImage := { jobBase with x := 3 }
def herdS : State :=
  { onS with base := some herdBase, images := [(0, jobImg)]
             ports := [(0, { state := .up, macInUse := some 1, rxSeq := 0 }), (4, { state := .up })]
             herd := { h := 3, lock := true, state := .formed, x := 3, slot := 5, sched := 9,
                       nbrs := [(0, { heard := true, sched := 9 }), (4, { heard := true, sched := 10 })] } }
theorem witness_SlotBoundary : herdS.unheard = [] ∧ herdS.herd.state = .formed ∧ bitOf herdS.herd.orVec.toNat 2 = false ∧
    onS.exchanging = false ∧ { herdS with herd := { herdS.herd with state := .syncing } }.unheard = [] := by decide +kernel
/-- SCHED passes the largest heard, 10; held where the wave of three slots back says so (R255). -/
theorem test_slot : (after (.herdSlotBoundary []) herdS).herd.sched = 11 ∧
    (after (.herdSlotBoundary []) { herdS with herd := { herdS.herd with orVec := 4 } }).herd.sched = 9 := by decide +kernel

/-- No record of the slot has come yet. -/
def waitS : State := { herdS with herd := { herdS.herd with nbrs := [] } }
def ctrlBody (member slot sched orv : Nat) : List Byte :=
  let b := beBytes 2 member ++ beBytes 6 slot ++ beBytes 4 sched ++ beBytes 2 orv ++ beBytes 2 1 ++ beBytes 2 2 ++ zeros 10
  ({ kind := 1, src := member } : HerdHdr).bytes ++ b ++ beBytes 4 (crc32c b).toNat
def ctrlFrame : Frame := { fcsOk := true, dst := 1, src := 0, vid := none, etype := 0x88B5, body := ctrlBody 1 5 10 6 }
theorem witness_ControlExchange : waitS.isHerdPort 0 = true ∧ (waitS.port 0).state = .up ∧
    waitS.frameFate 0 ctrlFrame = .take (herdHdr ctrlFrame.body) ∧ (herdHdr ctrlFrame.body).kind = kCTRL ∧
    ctrlReserved ctrlFrame.body 0 = false ∧ waitS.exchanging = true ∧ 0 ∈ waitS.livePorts ∧ (waitS.nbr 0).heard = false ∧
    (waitS.nbr 0).counted = false ∧ 0 ∈ waitS.unheard := by decide +kernel
theorem witness_ControlExchange_record : let r := slice ctrlFrame.body 16 32
    beAt r 28 4 = (crc32c (slice r 0 28)).toNat ∧ beAt r 2 6 = waitS.herd.slot ∧ beAt r 0 2 = waitS.peer 0 := by decide +kernel
theorem test_ctrl : (after (.ctrlFrameReceive 0 ctrlFrame) waitS).herd.orVec = 2 ∧
    ((after (.ctrlFrameReceive 0 ctrlFrame) waitS).nbr 0).sched = 10 := by decide +kernel
theorem test_miss : (after (.controlMiss 0) waitS).herd.orVec = 3 ∧ (after (.controlMiss 0) waitS).herd.misses = 1 := by decide +kernel

def lateS : State := { issuedS with herd := { sched := 3 } }
theorem witness_ItemStall : (lateS.program 0)[0]? = some (entry 1 0) ∧ (lateS.func 0).run = true ∧
    (lateS.func 0).late lateS.herd.sched 0 (entry 1 0) = true ∧ (lateS.func 0).state = .on := by decide
theorem test_holdTimeout : ((after (.holdTimeout 0 0) lateS).func 0).state = .draining := by decide

/-! ### The training step -/

/-- The one owned block's statistics are in: its gradient is not finite. -/
def statS : State :=
  { issuedS with funcs := [(0, { issuedS.func 0 with
      checked := [0]
      stats := [{ layer := 0, lshard := 0, block := 0, gSq := { v := 0x3F800000, x := false }, gMax := 0, gNf := 1, wSq := {}
                  wMax := 0, uSq := {}, uMax := 0, uNf := 0, root := true }] })] }
theorem witness_SkipVote_form : (statS.func 0).run = true ∧ (statS.func 0).voteCast = false ∧
    (statS.func 0).step = (statS.func 0).progStep ∧ (statS.stepNorms 0 []).isSome = true ∧ statS.voteReady 0 = true ∧
    statS.missingRoots 0 = [] ∧ issuedS.voteReady 0 = false ∧ (issuedS.stepNorms 0 []).isSome = true := by decide +kernel
/-- A non-finite gradient votes NONFIN, a norm above the ceiling votes NORM (R168). -/
theorem test_voteForm : ((after (.voteForm 0 [] [] []) statS).func 0).voteBits = 3 := by decide +kernel
/-- The exchange of VOTE has come to its decision slot with nothing voted, and with NORM voted. -/
def voteS (v : BitVec 8) : State :=
  { startedS with funcs := [(0, { startedS.func 0 with voteOpen := true, voteCast := true, voteLeft := 0, voteBits := v, voteOr := v })] }
theorem witness_SkipVote_decision : (((voteS 2).program 0).zipIdx.find? fun y => y.1.op == opVOTE && ((voteS 2).func 0).item y.2 == .started) =
    some (entry 4 0, 3) ∧ ((voteS 2).func 0).run = true ∧ ((voteS 2).func 0).voteOpen = true ∧
    ((voteS 2).func 0).voteCast = true ∧ ((voteS 2).func 0).voteLeft = 0 ∧ (voteS 2).poison = [] := by decide
theorem test_voteDecision : ((after (.voteDecision 0) (voteS 0)).func 0).applied = 1 ∧
    ((after (.voteDecision 0) (voteS 2)).func 0).applied = 0 ∧ ((after (.voteDecision 0) (voteS 2)).func 0).step = 1 := by
  decide +kernel

/-- A shard of 8 bytes with a good header: LAYER 0, LSHARD 0, GEN 0, STEP 0. -/
def shardPay : List Byte := [1, 2, 3, 4, 5, 6, 7, 8]
def shardHead : List Byte := let h := zeros 24 ++ leBytes 4 8; h ++ leBytes 4 (crc32c (h ++ shardPay)).toNat
theorem witness_ShardsAndBuckets_shard : (issuedS.func 0).run = true ∧ shardHead.length = 32 ∧
    issuedS.ownSram 0 (tileAddr 0 128) 8 = true ∧ (shardSeen shardHead).gen = (issuedS.func 0).gen ∧
    shardFormed shardHead shardPay = true ∧ leAt shardHead 8 4 = (issuedS.func 0).progStep.toNat ∧ (shardSeen shardHead).crc = crc32c (slice shardHead 0 28 ++ shardPay) ∧
    repeated (issuedS.func 0) 0 0 0 = false := by decide +kernel
/-- A torn shard is placed all the same and votes FAULT (R151, R153). -/
theorem test_shard : let t := after (.shardReceive 0 .forward shardHead shardPay (tileAddr 0 128)) issuedS
    let u := after (.shardReceive 0 .forward shardHead [9] (tileAddr 0 128)) issuedS
    t.read (tileAddr 0 128) 8 = shardPay ∧ (t.func 0).voteBits = 0 ∧ u.read (tileAddr 0 128) 1 = [9] ∧ (u.func 0).voteBits = 16 := by
  decide +kernel

/-- A bucket of the one record of tree 0, the weight-gradient tree of the layer's one block. -/
def treeS : State :=
  { issuedS with images := [(0, { jobImg with trees := [{ tree := 0, k := 0, wcode := 0, int := false, layer := 0, role := 1, parts := [] }] })] }
def bucketOf (n : Nat) (recs : List Byte) : List Byte :=
  let h := zeros 12 ++ leBytes 4 n ++ zeros 8 ++ leBytes 4 (crc32c recs).toNat ++ zeros 32
  h ++ leBytes 4 (crc32c h).toNat ++ recs
def oneRec : List Byte := recordBytes {} 1 1 [{ v := 0x3F800000, x := false }]
def goodBucket : List Byte := bucketOf 1 oneRec
def onePart : TreePart := parseRecord oneRec
def theBlock : Block := { expert := none, num := 0, brow := 0, bcol := 0, rows := 1, cols := 1, origin := 0, wide := 1 }
theorem witness_ShardsAndBuckets_root : 64 ≤ goodBucket.length ∧ leAt goodBucket 60 4 = (crc32c (slice goodBucket 0 60)).toNat ∧
    leAt goodBucket 24 4 = (crc32c (goodBucket.drop 64)).toNat ∧ leAt goodBucket 12 4 = 1 ∧
    bucketRecords 1 (goodBucket.drop 64) = [onePart] ∧ 16 ≤ (goodBucket.drop 64).length ∧
    (treeS.image 0).treeBlock onePart.tree.toNat = some (denseLayer, 0, 0, theBlock) ∧
    ((treeS.func 0).parts.filter fun q => q.tree == onePart.tree) = [] ∧
    offending onePart (onePart.nspanM1 + 1) 0 (onePart.nspanM1 + 1) [] [onePart] = none ∧
    uncovered (onePart.nspanM1 + 1) 0 (onePart.nspanM1 + 1) [onePart] = none := by
  refine ⟨?_, ?_, ?_, ?_, ?_, ?_, ?_, ?_, ?_, ?_⟩ <;> decide +kernel
theorem witness_ShardsAndBuckets_root' : onePart.rows = theBlock.rows ∧ onePart.cols = theBlock.cols ∧
    0 ∈ (treeS.image 0).job.ownedShards treeS.herd.count treeS.herd.member ∧
    (treeS.image 0).job.ownsStage treeS.herd.count treeS.herd.member denseLayer.stage = true ∧
    (treeS.func 0).gradBusy = false ∧ treeS.poison = [] ∧
    treeS.herd.stageTo treeS.herd.member ((treeS.image 0).ownerOf treeS.herd.count 0 0) = 3 ∧
    (∃ m ∈ treeS.herd.box treeS.herd.member 3, (treeS.image 0).tokenShards treeS.herd.count m denseLayer ≠ []) ∧
    (∀ m ∈ treeS.herd.box treeS.herd.member 3, ∀ j ∈ (treeS.image 0).tokenShards treeS.herd.count m denseLayer,
      uncovered (onePart.nspanM1 + 1) ((treeS.image 0).job.shardSpans (onePart.nspanM1 + 1) j).1
        ((treeS.image 0).job.shardSpans (onePart.nspanM1 + 1) j).2 [onePart] = none) := by
  refine ⟨?_, ?_, ?_, ?_, ?_, ?_, ?_, ?_, ?_⟩ <;> decide +kernel
theorem witness_ShardsAndBuckets_empty : 64 ≤ (bucketOf 0 []).length ∧ leAt (bucketOf 0 []) 12 4 = 0 ∧
    repeated (issuedS.func 0) 2 0 0 = false := by decide +kernel
theorem test_bucket : ((after (.bucketReceive 0 goodBucket) treeS).func 0).stats.map BlockStat.gMax = [0x3F800000] ∧
    ((after (.bucketReceive 0 (bucketOf 0 [] |>.set 40 1)) treeS).func 0).voteBits = 16 := by decide +kernel

/-- One parked expert of one page at VPN 0, mapped to page 32769, with the copy pool's one slot at VPN 1, page 32770. -/
def exImg : FuncImage :=
  { jobImg with
    experts := [{ layer := 1, k := 1, d := 1, cap := 2, ertBase := 0, experts := [{ lshard := 0, parked := true, homeVpn := 0, npage := 1 }] }] }
def exF : Func :=
  { issuedS.func 0 with
    poolSlots := 1, slotPages := 1, poolVpn := 1
    table := [(0, { valid := true, pfn := 1 }), (1, { valid := true, pfn := 2 })] }
def exS : State :=
  { issuedS with images := [(0, exImg)], funcs := [(0, exF)]
                 ert := [(0, { valid := true, parked := true, layer := 1, npage := 1 })] }
def dispBytes : List Byte :=
  let h := beBytes 2 1 ++ beBytes 2 0 ++ beBytes 4 0 ++ beBytes 2 1 ++ beBytes 2 1
  h ++ beBytes 4 (crc32c (h ++ [7, 7])).toNat ++ [7, 7]
theorem witness_ExpertTraffic_dispatch : (exS.image 0).expertLayer 1 = exImg.experts.head? ∧ (exS.image 0).ertOf 1 0 = some 0 ∧
    dispBytes.length = 16 + 1 * 2 ∧ beAt dispBytes 8 2 = 1 ∧
    (exS.image 0).ownerOf exS.herd.count 1 0 = exS.herd.member ∧ exS.ownSram 0 (tileAddr 0 256) 4 = true ∧
    beAt dispBytes 12 4 = (crc32c (slice dispBytes 0 12 ++ dispBytes.drop 16)).toNat := by decide +kernel
/-- The kept row is placed, the second slot is filled with +0 (R223). -/
def sentS : State := after (.dispatchRecordReceive 0 true 0 dispBytes 2 (tileAddr 0 256)) exS
theorem test_dispatch : sentS.read (tileAddr 0 256) 4 = [7, 7, 0, 0] := by decide +kernel
theorem witness_ExpertTraffic_demand : sentS.demanded 0 1 = [0] ∧ sentS.freeSlot 0 = some 0 ∧ (sentS.func 0).prefetches = [] ∧
    exS.demanded 0 1 = [] := by decide +kernel
def fetchS : State := after (.dispatchHeadersArrive 0 1) sentS
theorem test_demandFetch : (fetchS.ertEntry 0).copy = 1 := by decide +kernel
theorem witness_ExpertTraffic_fetch : (fetchS.func 0).fetches.find? (fun y => y.entry == 0) =
      some { entry := 0, slot := 0, lastgen := 0, demand := true } ∧ fetchS.homeUp 0 (fetchS.ertEntry 0) = true ∧
    fetchS.expertDone 0 (fetchS.ertEntry 0).layer (fetchS.ertEntry 0).expert 0 = true ∧ fetchS.poison = [] ∧
    MemOk fetchS ∧ (fetchS.ertEntry 0).npage = 1 ∧ fetchS.translate 0 0 = some (1 * pageSize) ∧
    fetchS.translate 0 (fetchS.slotVa 0 0 / pageSize * pageSize) = some (2 * pageSize) := by
  refine ⟨?_, ?_, ?_, ?_, ?_, ?_, ?_, ?_⟩ <;> first | decide +kernel | (unfold MemOk; decide +kernel)
theorem test_fetch : ((after (.expertFetchComplete 0 0 false .none) fetchS).ertEntry 0).copy = 2 := by decide +kernel

/-! ### The update journal -/

/-- VPN 0 is the journal's control page, VPN 70 the chunk state array; slot 0 holds chunk 0 of step 0. -/
def journalS (slots : List JSlot) : State :=
  { issuedS with
    images := [(0, { jobImg with job := { stateVpn := 70 } })]
    funcs := [(0, { issuedS.func 0 with
      jslots := slots, jhead := 1, table := [(0, { valid := true, pfn := 1 }), (70, { valid := true, pfn := 2 })] })] }
def aSlot (committed copied : Bool) : JSlot := { count := 0, chunk := 0, step := 0, committed := committed, copied := copied }
def aChunk : Chunk := { id := 0, layer := 0, lshard := 0, kind := .param, expert := none, first := 0, num := 1 }
theorem witness_Journal_commit : ((journalS [aSlot false false]).func 0).nextCommit = some (aSlot false false) ∧
    ((journalS [aSlot false false]).func 0).state = .on := by decide
theorem witness_Journal_copy : let s := journalS [aSlot true false]
    (s.ownedChunks 0).find? (fun y => y.id == aChunk.id) = some aChunk ∧ (s.func 0).snapWanted = [] ∧
    (s.func 0).copyHeld = false ∧ s.poison = [] ∧
    aChunk.id ∉ (s.func 0).pendingRoots ∧
    (s.func 0).jslots.find? (fun y => y.step == (s.func 0).gen && y.chunk == aChunk.id && y.committed && !y.copied) =
      some (aSlot true false) := by decide
/-- A snapshot of generation 3, wanted and not yet read, holds the copies of generation 0 back (R181). -/
def wantedS : State :=
  (journalS [aSlot true false]).onFunc 0 fun f => { f with snapWanted := [{ gen := 3, applied := 0, step := 3, mbvar := 0, ema := 0 }] }
theorem witness_Journal_held : (wantedS.func 0).copyHeld = true ∧ (wantedS.func 0).state = .on ∧ wantedS.poison = [] ∧
    (wantedS.ownedChunks 0).find? (fun y => y.id == aChunk.id) = some aChunk := by decide
theorem witness_Journal_release : ((journalS [aSlot true true]).func 0).jslots = [aSlot true true] ∧ (aSlot true true).copied = true := by decide
/-- The chunk's state word is absent (bad CRC) in `journalS []`, and right in the second state. -/
def wordS : State := (journalS []).write (2 * pageSize) (stateWord 0 0 0)
theorem witness_Journal_check : ((journalS []).ownedChunks 0).any (fun c => c.id == 0) = true ∧ ((journalS []).func 0).run = true ∧
    0 ∉ ((journalS []).func 0).pendingRoots ∧
    stateWordOk ((journalS []).readVA 0 (((journalS []).image 0).stateVa 0) 16) = false ∧
    stateWordOk (wordS.readVA 0 ((wordS.image 0).stateVa 0) 16) = true := by decide +kernel
theorem test_commitRecord : (after (.commitRecordWrite 0) (journalS [aSlot false false])).read (pageSize + 4096 + 64 * 64 + 28) 4 ≠
    [0, 0, 0, 0] := by decide +kernel
theorem test_commitCopy : stateWordOk ((after (.commitCopy 0 0) (journalS [aSlot true false])).read (2 * pageSize) 16) = true := by
  decide +kernel
theorem test_slotRelease : ((after (.slotRelease 0) (journalS [aSlot true true])).func 0).jtail = 1 := by decide
theorem test_chunkState : ((after (.chunkStateCheck 0 0) (journalS [])).func 0).voteBits = 4 := by decide +kernel

/-- A solo member's halted job: it waits for recovery, having decided nothing; in `skipS` it had decided to skip step 0. -/
def haltedS : State :=
  { journalS [] with
    funcs := [(0, { (journalS []).func 0 with run := false, halted := true, interrupted := true, jstate := 0 })]
    herd := { h := 1, state := .formed } }
def skipS : State := haltedS.writeDecision 0 { step := 0, outcome := 2, vote := 2, gen := 0, applied := 0 }
theorem witness_Recovery : let s := haltedS
    (s.func 0).state = .on ∧ (s.func 0).interrupted = true ∧ (s.func 0).run = false ∧ s.herd.state = .formed ∧
    ([] : List MemberRecovery).length + 1 = s.herd.count ∧ (s.func 0).jstate ≠ 6 ∧ s.lastDecision 0 [] = none ∧
    (s.func 0).halted = true := by decide +kernel
theorem witness_Recovery_skip : skipS.lastDecision 0 [] = some { step := 0, outcome := 2, vote := 2, gen := 0, applied := 0 } ∧
    (skipS.func 0).step = 0 ∧ skipS.poison = [] := by decide +kernel
/-- The step that was skipped is not done again; the job goes on from SCHED 4 on (R264). -/
theorem test_recovery : ((after (.journalRecovery 0 []) skipS).func 0).step = 1 ∧
    ((after (.journalRecovery 0 []) skipS).func 0).s0 = 4 := by decide +kernel
/-- Slot 0's committed entry of the decided step 0 has a header that does not fit its payload: it cannot be recovered. -/
def brokenS : State :=
  let s := { haltedS with funcs := [(0, { haltedS.func 0 with jslots := [aSlot true false], jstate := 0 })] }
  let s := s.write (pageSize + 4096) (leBytes 4 0 ++ zeros 20 ++ leBytes 4 0 ++ leBytes 4 7 ++ zeros 32)
  let s := s.writeCommit 0 0
  s.writeDecision 0 { step := 0, outcome := 0, vote := 0, gen := 0, applied := 1 }
theorem witness_Recovery_fails : ((brokenS.onFunc 0 fun f => { f with jstate := 5 }).recoverSteps 0 []).2 = some (0, 0) := by
  decide +kernel
theorem test_recoveryFails : ((after (.journalRecovery 0 []) brokenS).func 0).state = .draining := by decide +kernel

/-! ### Memory -/

theorem witness_PatrolAndCorrections : onS.inStack 0 = true ∧ 0 ∉ onS.poison ∧ (onS.addPoison 0).poison = [0] ∧
    (onS.page 0).health = .good ∧
    ((onS.setPage 0 { health := .suspect }).page 0).health = .suspect := by decide
theorem test_patrol : ((onS.advancePage 0).page 0).health = .suspect ∧
    (((onS.setPage 0 { health := .suspect }).advancePage 0).page 0).withdrawn = true ∧
    ((after (.patrolRead 0 (.hbmCE 0) true) onS).stack 0).ce = 1 := by
  refine ⟨?_, ?_, by decide +kernel⟩
  · rw [State.advancePage_good (by decide)]
  · rw [State.advancePage_suspect (by decide)]; decide +kernel
theorem test_ceWriteback : after (.ceWriteback 64) onS = onS := by decide
theorem witness_StackAndTileFailures : onS.dieFitted 3 = true ∧ onS.stackFitted 0 = true ∧ (onS.stack 0).failed = false ∧
    onS.tileFitted 0 = true ∧ (onS.tile 0).stalled = false ∧ (∃ e ∈ (onS.tile 0).seqs, onS.seqCanProceed 0 e.1 e.2 = true) ∧
    (∀ e ∈ (haltS.tile 0).seqs, haltS.seqCanProceed 0 e.1 e.2 = false) := by decide
theorem test_patrolSlow : ((after (.patrolSlow 3) onS).die 3).patrolSlow = true := by decide
theorem test_stackFailed : ((after (.stackFailed 0) onS).func 0).state = .draining ∧
    ((after (.stackFailed 11) onS).func 0).state = .on := by decide
theorem test_tileStall : ((after (.tileStall 0) onS).tile 0).stalled = true ∧ ((after (.tileStall 0) onS).func 0).state = .draining := by
  decide

/-- VPN 5 is a device-bias page of companion memory. -/
def biasS (asked : List Nat) : State :=
  { onS with funcs := [(0, { state := .on, table := [(5, { valid := true, pfn := BitVec.ofNat 27 (companionBase / pageSize) })], biasAsked := asked })] }
theorem witness_BiasFlips : let f := (biasS []).func 0
    f.state = .on ∧ (tget {} f.table 5).valid = true ∧ (tget {} f.table 5).companion = true ∧ (tget {} f.table 5).bias = false ∧
    5 ∉ f.flipped ∧ 5 ∈ ((biasS [5]).func 0).biasAsked := by decide
theorem test_biasFlip : ((after (.hostBiasFlip 0 5 true) (biasS [])).func 0).hostWr = 1 := by decide
theorem test_biasGrant : ((after (.deviceBiasGrant 0 5) (biasS [5])).func 0).biasAsked = [] := by decide

/-! ### Queues -/

/-- 64 bytes with the given fields: (offset, bytes, value). -/
def fieldBytes (fs : List (Nat × Nat × Nat)) : List Byte :=
  fs.foldl (fun b f => b.take f.1 ++ leBytes f.2.1 f.2.2 ++ b.drop (f.1 + f.2.1)) (zeros 64)
/-- A command on queue `q`. -/
def cmdOf (q op : Nat) (fs : List (Nat × Nat × Nat)) : Cmd := { q := q, entry := 0, opcode := op, tag := 9, bytes := fieldBytes fs }
/-- `base` with command `c` in progress on its ACTIVE queue, the Larwa links up. -/
def running (base : State) (c : Cmd) : State :=
  { base with
    queues := [(c.q, { ring := 0x10000, cpl := 0x20000, state := .active, log2Ent := 4, log2Cpl := 4, epoch := 1, running := some c
                       view := if c.q = 0 then 16 else 0, head := 1, tail := 1 })]
    hubs := [(0, { link := { state := .up } }), (1, { link := { state := .up } })] }
/-- STATUS of the newest completion record on queue `q`'s ring at 0x20000. -/
def status (s : State) : Nat := leAt (s.read (hostDpa 0x20000) 32) 8 1
/-- RESULT of it. -/
def result (s : State) (off n : Nat) : Nat := leAt (s.read (hostDpa 0x20000) 32) (12 + off) n

theorem witness_CompletionRecord : let s := running onS (cmdOf 512 0x42 [])
    (s.queue 512).running = some (cmdOf 512 0x42 []) ∧ Quiet s 512 ∧ s.cplReady (s.queue 512) = true ∧
    s.badRings.contains 512 = false := by
  refine ⟨?_, ?_, ?_, ?_⟩ <;> first | decide | (unfold Quiet; decide)
/-- The record's TAG, ENTRY, STATUS and PHASE (R334). -/
theorem test_complete : let t := (running onS (cmdOf 512 0x42 [])).complete (cmdOf 512 0x42 []) 3 []
    t.read (hostDpa 0x20000) 10 = [9, 0, 0, 0, 0, 0, 0, 0, 3, 1] ∧ t.out = [.interrupt 0 0] := by decide +kernel

/-- Queue 512 is ACTIVE with HEAD = TAIL = 0, and with one entry announced and, in `staleS k`, read stale k times before. -/
def idleQ : State :=
  { onS with queues := [(512, { ring := 0x10000, cpl := 0x20000, state := .active, log2Ent := 4, log2Cpl := 4, epoch := 1 })]
             hubs := [(0, { link := { state := .up } }), (1, { link := { state := .up } })] }
def readyQ : State := idleQ.onQueue 512 fun q => { q with tail := 1 }
def staleS (k : Nat) : State := readyQ.onQueue 512 fun q => { q with stale := true, rereads := k }
theorem witness_Doorbells : Quiet idleQ 512 ∧ (idleQ.queue 512).state = .active ∧ (idleQ.queue 513).state = .idle ∧
    Quiet idleQ 513 := by unfold Quiet; decide
theorem test_doorbell : ((after (.doorbellWrite 512 none 0x0000000000000005) idleQ).queue 512).tail = 5 ∧
    ((after (.doorbellWrite 512 none 0x0000000000000011) idleQ).queue 512).tail = 0 ∧
    ((after (.doorbellWrite 512 (some true) 1) idleQ).queue 512).ignored = 1 := by decide

/-- A RESUME entry with PHASE 1, SEQ 0, and its CRC. -/
def anEntry : List Byte := let b := (fieldBytes [(0, 1, 0x42), (1, 1, 1)]).take 62; b ++ leBytes 2 (crc16 b).toNat
theorem witness_EntryFetch : anEntry.length = 64 ∧ readyQ.fetchReady 512 = true ∧ (readyQ.queue 512).stale = false ∧
    entryFresh anEntry (readyQ.queue 512).head (readyQ.queue 512).log2Ent = true ∧
    opcodeArgs (leAt anEntry 0 1) = some (decide (512 = 0), []) ∧ reservedClear anEntry [] = true ∧
    entryFresh (zeros 64) 0 4 = false ∧ (staleS 7).fetchReady 512 = true ∧ ((staleS 7).queue 512).stale = true ∧
    ((staleS 7).queue 512).rereads = 7 ∧ (staleS 0).fetchReady 512 = true := by decide +kernel
theorem test_fetchEntry : (((after (.entryFetch 512 (.ok anEntry) .none) readyQ).queue 512).running.map Cmd.opcode) = some 0x42 := by
  decide +kernel
theorem test_reread : ((after (.entryReread 512 (.ok (zeros 64))) (staleS 7)).queue 512).state = .haltedError ∧
    ((after (.entryReread 512 (.ok anEntry)) (staleS 3)).queue 512).head = 1 := by decide +kernel

def qcreateC : Cmd := cmdOf 0 0x20 [(8, 4, 512), (12, 1, 4), (13, 1, 4), (24, 8, 0x100000), (32, 8, 0x200000)]
def qcreateS : State := { running onS qcreateC with images := [(0, { qfirst := 1, qcount := 1 })] }
theorem witness_QueueCommands_create : InProgress qcreateS 0 0x20 qcreateC ∧ qcreateS.queueFunc 512 = some 0 ∧
    qcreateC.arg 8 4 = 512 ∧ qcreateC.arg 12 1 = 4 ∧ qcreateC.arg 13 1 = 4 ∧ qcreateC.arg 14 1 = 0 ∧ qcreateC.arg 24 8 % 4096 = 0 ∧
    qcreateC.arg 32 8 % 4096 = 0 ∧ (qcreateS.func 0).state = .on ∧ (qcreateS.queue 512).state = .idle := by
  refine ⟨?_, ?_, ?_, ?_, ?_, ?_, ?_, ?_, ?_, ?_⟩ <;> first | decide +kernel | (unfold InProgress; decide +kernel)
theorem test_qcreate : ((after (.qcreate 0) qcreateS).queue 512).state = .active ∧ status (after (.qcreate 0) qcreateS) = 0 := by
  decide +kernel
def qdestroyC : Cmd := cmdOf 0 0x21 [(8, 4, 512)]
/-- `base` with queue 512 in state `q`. -/
def with512 (base : State) (q : Queue) : State := { base with queues := base.queues ++ [(512, q)] }
def qdestroyS : State := with512 (running onS qdestroyC) { state := .active, epoch := 1 }
theorem witness_QueueCommands_destroy : InProgress (running onS qdestroyC) 0 0x21 qdestroyC ∧
    ((running onS qdestroyC).queue 512).state = .idle ∧ InProgress qdestroyS 0 0x21 qdestroyC ∧
    (qdestroyS.queue 512).state = .active ∧ (qdestroyS.queue 512).running = none ∧ Quiet qdestroyS 512 ∧ Quiet qdestroyS 0 ∧
    (∀ fn, fn < 16 → (qdestroyS.func fn).enablingCmds = [] ∧ (qdestroyS.func fn).pendingCmds = [] ∧ (qdestroyS.func fn).snap = none) := by
  refine ⟨?_, ?_, ?_, ?_, ?_, ?_, ?_, ?_⟩ <;> first | decide +kernel | (unfold InProgress; decide +kernel) | (unfold Quiet; decide)
theorem test_qdestroy : ((after (.qdestroy 0) qdestroyS).queue 512).state = .idle ∧ status (after (.qdestroy 0) qdestroyS) = 0 := by
  decide +kernel
def qresumeC : Cmd := cmdOf 0 0x22 [(8, 4, 512), (12, 1, 1)]
def qresumeS : State := with512 (running onS qresumeC) { state := .haltedError, err := 5, head := 2, tail := 3 }
theorem witness_QueueCommands_resume : InProgress qresumeS 0 0x22 qresumeC ∧ (qresumeS.queue 512).state = .haltedError ∧
    (qresumeS.queue 512).err ≠ stDataError := by
  refine ⟨?_, ?_, ?_⟩ <;> first | decide +kernel | (unfold InProgress; decide +kernel)
theorem test_qresume : ((after (.qresume 0) qresumeS).queue 512).head = 3 ∧ result (after (.qresume 0) qresumeS) 0 4 = 3 := by
  decide +kernel
def armS : State := { onS with larwa := { aqRingLog2 := 4, aqCplLog2 := 5, aqRingBase := 3 } }
theorem witness_QueueCommands_arm : (armS.queue 0).state ≠ .active ∧ 4 ≤ armS.larwa.aqRingLog2.toNat ∧
    4 ≤ armS.larwa.aqCplLog2.toNat ∧ ((after .arm armS).queue 0).state = .active ∧ ((after .arm armS).queue 0).running = none ∧
    Quiet (after .arm armS) 0 := by
  refine ⟨?_, ?_, ?_, ?_, ?_, ?_⟩ <;> first | decide | (unfold Quiet; decide)
theorem test_arm : ((after .arm armS).queue 0).log2Cpl = 5 ∧ (after .arm (after .arm armS)).larwa.aqArmErr = true := by decide
theorem test_disarm : ((after .disarm (after .arm armS)).queue 0).state = .idle := by decide +kernel

/-! ### Functions -/

def enableC : Cmd := cmdOf 0 0x10 [(8, 1, 1)]
/-- Function 1 is OFF and has an image. -/
def enableS (b : State) : State := running { b with images := [(1, {})] } enableC
/-- Firmware holds its 16 pages; function 1 is ENABLING. -/
def firm : Table Page := (List.range 16).map fun p => (p, { use := .firmware })
def enbS (pages : Table Page) : State :=
  { onS with images := [(1, {})], pages := pages, funcs := [(1, { state := .enabling, epoch := 1, enablingCmds := [] })] }
theorem witness_FunctionLife_enable : InProgress (enableS onS) 0 0x10 enableC ∧ enableC.arg 8 1 = 1 ∧ enableC.arg 24 4 = 0 ∧
    (enableS onS).boot.stage ≠ .prepared ∧ (enableS onS).boot.remreq = false ∧ (enableS onS).boot.dead = false ∧
    (enableS onS).imgWait = none ∧ ((enableS onS).func 1).state = .off ∧ (tkeys (enableS onS).images).contains 1 = true ∧
    (tkeys (running onS enableC).images).contains 1 = false := by
  refine ⟨?_, ?_, ?_, ?_, ?_, ?_, ?_, ?_, ?_, ?_⟩ <;> first | decide +kernel | (unfold InProgress; decide +kernel)
theorem no_demand (l : List Nat) (k : Nat) : FuncImage.demand {} l k = 0 := by
  simp [FuncImage.demand, mapStacks, FuncImage.descCount, ceilDiv]
theorem no_findSome {α β : Type} (l : List α) : l.findSome? (fun _ => (none : Option β)) = none := by simp
/-- An image that maps nothing fits wherever firmware holds its 16 pages. -/
theorem empty_image_fits (s : State) (fn : Nat) (h : s.firmwarePages.length = 16) : s.enableRefusal fn {} [] = none := by
  unfold State.enableRefusal
  simp only [h, no_demand, Nat.lt_irrefl, Nat.not_lt_zero, if_false, no_findSome]
  rfl
theorem witness_FunctionLife_fits : (enbS firm).enableRefusal 1 ((enbS firm).image 1) ((enbS firm).func 1).hostPages = none :=
  empty_image_fits (enbS firm) 1 (by decide)
theorem witness_FunctionLife_short :
    (enbS []).enableRefusal 1 ((enbS []).image 1) ((enbS []).func 1).hostPages = some (0, 16) := by decide
def disableS : State := running onS (cmdOf 0 0x11 [(8, 1, 0)])
def drainS (st : FState) : State :=
  { onS with funcs := [(0, { state := st })], pages := [(7, { use := .mapped 0 })], mem := [(7 * pageSize, 5)]
             ert := [(3, { valid := true, func := 0 })] }
theorem witness_FunctionLife_disable : InProgress disableS 0 0x11 (cmdOf 0 0x11 [(8, 1, 0)]) ∧ (disableS.func 0).state = .on ∧
    ((drainS .draining).func 0).state = .draining ∧ (drainS .draining).queuesOf 0 = [] ∧
    ((drainS .scrubbing).func 0).state = .scrubbing ∧ ((drainS .scrubbing).func 0).pending = none ∧
    (∀ e ∈ (drainS .scrubbing).pages, e.2.use = .mapped 0 ∨ e.2.use = .descriptor 0 →
      ((drainS .scrubbing).page e.1).health ≠ .retired ∧ ((drainS .scrubbing).stack (e.1 / 32768)).failed = false) := by
  refine ⟨?_, ?_, ?_, ?_, ?_, ?_, ?_⟩ <;> first | decide +kernel | (unfold InProgress; decide +kernel)
theorem test_enable : ((after (.enable 0 (.ok [])) (enableS onS)).func 1).state = .enabling ∧
    status (after (.enable 0 (.ok [])) (running onS enableC)) = 1 := by decide +kernel
theorem test_enablingDone : ((after (.enablingDone 1) (enbS [])).func 1).state = .off := by decide
theorem test_disable : ((after (.disable 0) disableS).func 0).state = .draining ∧ result (after (.disable 0) disableS) 4 1 = 3 := by
  decide +kernel
theorem test_drainComplete : ((after (.drainComplete 0) (drainS .draining)).func 0).state = .scrubbing := by decide

/-- VPN 0 of function 0 is HBM page 1 by the MAP; the command copies 64 bytes at VA 0. -/
def copyC (op : Nat) : Cmd := cmdOf 512 op [(8, 8, 0x400000), (24, 4, 64)]
def copyS (op : Nat) : State :=
  running { onS with images := [(0, { map := [{ vpn := 0, npage := 1, tier := 0, stack := 0, bias := 0 }]
                                      job := { journalVpn := 100, ledgerVpn := 300, gbuf0Vpn := 400, gbuf1Vpn := 401 } })]
                     funcs := [(0, { state := .on, table := [(0, { valid := true, pfn := 1 })] })] } (copyC op)
theorem witness_Copies : InProgress (copyS 0x45) 512 0x45 (copyC 0x45) ∧ InProgress (copyS 0x46) 512 0x46 (copyC 0x46) ∧
    (copyS 0x45).copyBad 0 (copyC 0x45) = false ∧ (copyS 0x45).hostRangeUp 0x400000 64 = true ∧
    (copyS 0x45).closedRange 0 0 64 = false ∧ (copyS 0x46).poison = [] ∧ (copyS 0x45).cmdFunc (copyC 0x45) = 0 ∧
    ((copyS 0x45).func 0).state = .on ∧ (copyC 0x45).arg 24 4 = 64 ∧ (copyC 0x45).arg 8 8 = 0x400000 ∧ (copyC 0x45).arg 16 8 = 0 ∧
    (∀ p ∈ pagesOf 0 64, ∃ r ∈ ((copyS 0x45).image 0).map, r.tier = 0 ∧ r.vpn ≤ p ∧ p < r.vpn + r.npage) ∧
    (∀ p ∈ pagesOf 0x400000 64, (copyS 0x45).hpaUp (p * pageSize) = true) := by
  refine ⟨?_, ?_, ?_, ?_, ?_, ?_, ?_, ?_, ?_, ?_, ?_, ?_, ?_⟩ <;> first | decide +kernel | (unfold InProgress; decide +kernel)
theorem test_copyIn : (after (.copyIn 512 (.ok (List.replicate 64 7))) (copyS 0x45)).read pageSize 2 = [7, 7] := by decide +kernel
theorem test_copyOut : (after (.copyOut 512 .acked) ((copyS 0x46).write pageSize [9])).read (hostDpa 0x400000) 1 = [9] := by
  decide +kernel

/-! ### Images -/

/-- Fields one after another: (bytes, value). -/
def packed (fs : List (Nat × Nat)) : List Byte := fs.flatMap fun f => leBytes f.1 f.2
/-- A directory entry for function 1, every member. -/
def dirOf (type off len : Nat) : List Byte := packed [(2, type), (2, 1), (4, 0xFFFF), (4, off), (4, len)]
/-- A function image for function 1: FRES, MAP, JOB and a step program of one STEPEND, signed by an owner key. -/
def imgContent : List Byte :=
  packed [(4, 0x56444541), (4, 1), (2, 1), (2, 4), (4, 576), (4, 0xC24), (60, 2), (4, 128), (44, 448)] ++
  dirOf 0x10 192 32 ++ dirOf 0x11 224 32 ++ dirOf 0x12 256 160 ++ dirOf 0x1A 416 32 ++ zeros 32 ++
  packed [(4, 0), (5, 65), (7, 0xFF), (4, 65), (4, 1), (2, 1), (6, 1)] ++
  packed [(2, 8), (1, 1), (1, 1), (3, 1), (2, 1), (1, 24), (1, 6), (13, 6), (26, 1000), (1, 64), (5, 16), (4, 65), (4, 66), (4, 66),
    (4, 66), (8, 66), (1, 255), (15, 1), (4, 1), (60, 8)] ++
  packed [(4, 0), (12, 1), (4, 4), (4, 5), (8, 6)]
def ownerKey : Nat :=
  0x11DE24A2C251C777573CAC5EA025E467F208E51DBFF98FC54F6661CBE56583B037882F4A1CA297E60ABCDBC3836D84BC8FA696C77440F92D0F5837E90A00E7C5284B447754D5DEE88C986533B6901AEB3177686D0AE8FB33184414ABE6C1713A
def signedImg : List Byte := imgContent ++ leBytes 16 0xAA067434F8F00718E299A1E6C7D66639 ++
  beBytes 48 0x283C1D7365CE4788F29F8EBF234EDFFEAD6FE997FBEA5FFA2D58CC9DFA7B1C508B05526F55B9EBB2040F05B48FB6D0E1 ++
  beBytes 48 0x475C75389D52DD4E1610E18167176B1EDA2FE05CF85D9FA95182637E2EE2E3EE3662A03258CAB581C329C8FBF24CE500 ++ zeros 16
/-- A solo base image of digest 0 is in force and the key that signed `signedImg` is enrolled. -/
def ownedS : State :=
  { onS with
    base := some { digest := zeros 48, grantRows := [[0]] }
    sec := { onS.sec with owned := true, okeyEn := 1, okeys := (List.range 24).map fun w => (w, BitVec.ofNat 32 (leAt (beBytes 96 ownerKey) (4 * w) 4)) } }
/-- The image passes every stage of the check: its SHA-384 digest and its ECDSA P-384 signature verify (R272, R277). -/
theorem witness_image_passes : ownedS.checkImage signedImg = accepted := by decide +kernel
theorem witness_image_fails : (ownedS.checkImage (imgContent ++ zeros 128)).stage = 1 := by decide +kernel
def imageC (op : Nat) : Cmd := cmdOf 0 op [(8, 8, 0x400000), (16, 4, 576)]
theorem witness_CheckLoadAccept : let s := running ownedS (imageC 2)
    InProgress s 0 2 (imageC 2) ∧ s.imgWait = none ∧ s.boot.stage ≠ .prepared ∧
    s.imageSource true (imageC 2) (.ok signedImg) = .content signedImg ∧
    InProgress (running ownedS (imageC 1)) 0 1 (imageC 1) := by
  refine ⟨?_, ?_, ?_, ?_, ?_⟩ <;> first | decide +kernel | (unfold InProgress; decide +kernel)
def waitingS : State :=
  { running ownedS (imageC 2) with imgWait := some { cmd := some (imageC 2), image := signedImg, funcs := [1], store := false } }
theorem witness_CheckLoadAccept_accept : ({ waitingS with imgWait := none }.acceptCheck signedImg).stage = 0 ∧
    (imgHdr signedImg).kind ≠ 0 := by decide +kernel
theorem test_imageAccept : ((after .imageAccept waitingS).image 1).job.shards = 8 ∧ status (after .imageAccept waitingS) = 0 ∧
    result (after .imageAccept waitingS) 0 1 = 0 := by decide +kernel
theorem test_check : status (after (.check 0 (.ok (imgContent ++ zeros 128))) (running ownedS (imageC 1))) = 1 := by decide +kernel
theorem test_load : status (after (.load 0 .error) (running ownedS (imageC 2))) = 5 := by decide +kernel

def storeS (op : Nat) (fs : List (Nat × Nat × Nat)) : State := running ownedS (cmdOf 0 op fs)
def storeC : Cmd := cmdOf 0 3 [(8, 8, 0x400000), (16, 4, 576)]
theorem witness_StoreRemoveUnload : InProgress (running ownedS storeC) 0 3 storeC ∧ storeC.arg 20 4 ≠ retId ∧
    (running ownedS storeC).imageSource false storeC (.ok signedImg) = .content signedImg ∧ leAt signedImg 0 4 ≠ fwMagic ∧
    leAt signedImg 0 4 ≠ setMagic ∧ (({} : Nv).writeEntry 1 signedImg .done).isSome = true ∧
    (running ownedS storeC).nv.nextId = 1 ∧ (({} : Nv).writeEntry 1 signedImg .fails).isSome = true := by
  refine ⟨?_, ?_, ?_, ?_, ?_, ?_, ?_, ?_⟩ <;> first | decide +kernel | (unfold InProgress; decide +kernel)
theorem stage1_of_accepted (s : State) (b : List Byte) (h : s.checkImage b = accepted) : firstPlace (s.stage1 b) = none := by
  cases hs : firstPlace (s.stage1 b) with
  | none => rfl
  | some p =>
    have h2 : s.checkImage b = { stage := 1, outcome := 1, at_ := p } := by unfold State.checkImage; rw [hs]
    rw [h2] at h
    exact absurd (congrArg Verdict.stage h) (by simp [accepted])
theorem witness_StoreRemoveUnload_signed : firstPlace ((running ownedS storeC).stage1 signedImg) = none :=
  stage1_of_accepted ownedS signedImg witness_image_passes
def removeC : Cmd := cmdOf 0 4 [(20, 4, 7)]
def removeS : State :=
  { running onS removeC with nv := { library := [{ block := 0, blocks := 1, content := [], record := nvRecord 5 1 7 [] }] } }
def unloadC (whole : Nat) : Cmd := cmdOf 0 5 [(8, 2, 2), (10, 1, whole)]
def unloadS (whole : Nat) : State := running { ownedS with images := [(1, {})], funcs := [] } (unloadC whole)
theorem witness_StoreRemoveUnload_remove : InProgress removeS 0 4 removeC ∧ removeC.arg 20 4 ≠ retId ∧
    (removeS.nv.entry (removeC.arg 20 4)).isSome = true ∧ onS.nv.entry 7 = none ∧
    InProgress (unloadS 0) 0 5 (unloadC 0) ∧ InProgress (unloadS 1) 0 5 (unloadC 1) ∧ maskFuncs ((unloadC 0).arg 8 2) = [1] ∧
    (∀ n, n < 16 → ((unloadS 1).func n).state = .off) ∧ ((running onS (unloadC 1)).func 0).state ≠ .off := by
  refine ⟨?_, ?_, ?_, ?_, ?_, ?_, ?_, ?_, ?_⟩ <;> first | decide +kernel | (unfold InProgress; decide +kernel)
theorem test_store : status (after (.store 0 (.ok [1]) .done) (running ownedS (cmdOf 0 3 [(8, 8, 0x400000), (16, 4, 1)]))) = 1 := by
  decide +kernel
theorem test_remove : (removeS.nv.remove 7).library = [] ∧ status (after (.remove 0) (running onS removeC)) = 2 := by decide +kernel
theorem test_unload : (after (.unload 0) (unloadS 0)).images = [] ∧ (after (.unload 0) (unloadS 1)).base = none := by decide +kernel

/-! ### Jobs -/

def startC : Cmd := cmdOf 512 0x40 [(8, 4, 20)]
def stopC : Cmd := cmdOf 512 0x41 [(8, 1, 1), (12, 4, 30)]
def resumeC : Cmd := cmdOf 512 0x42 []
/-- A formed solo member whose Larwa links run at 64 GT/s on 16 lanes. -/
def formedS (c : Cmd) (f : Func) : State :=
  let s := running { onS with base := some jobBase, images := [(0, jobImg)], funcs := [(0, f)]
                              herd := { h := 1, state := .formed, sched := 9 } } c
  { s with hubs := [(0, { link := { state := .up, rate := 2, width := 16 } }), (1, { link := { state := .up, rate := 2, width := 16 } })] }
def idleF : Func := { state := .on, step := 5 }
theorem witness_JobCommands_start : let s := formedS startC idleF
    InProgress s 512 0x40 startC ∧ s.boot.stage ≠ .prepared ∧ s.boot.dead = false ∧ s.herd.state = .formed ∧
    (s.func 0).run = false ∧ (s.func 0).armed = false ∧ (s.func 0).halted = false ∧ (s.func 0).interrupted = false ∧
    serialBefore s.herd.sched (BitVec.ofNat 32 (startC.arg 8 4)) = true ∧ s.startUnit jobBase (s.image 0) = none := by
  refine ⟨?_, ?_, ?_, ?_, ?_, ?_, ?_, ?_, ?_, ?_⟩ <;> first | decide +kernel | (unfold InProgress; decide +kernel)
theorem witness_JobCommands : InProgress (formedS stopC idleF) 512 0x41 stopC ∧ stopC.arg 8 1 ≤ 1 ∧
    ((formedS stopC idleF).func 0).stops = [] ∧ InProgress (formedS stopC (jobF [])) 512 0x41 stopC ∧
    ((formedS stopC (jobF [])).func 0).run = true ∧
    InProgress (formedS resumeC { idleF with halted := true }) 512 0x42 resumeC := by
  refine ⟨?_, ?_, ?_, ?_, ?_, ?_⟩ <;> first | decide +kernel | (unfold InProgress; decide +kernel)
theorem test_start : ((after (.start 512) (formedS startC idleF)).func 0).armed = true ∧
    ((after (.start 512) (formedS startC idleF)).func 0).s0 = 20 := by decide +kernel
theorem test_stop : result (after (.stop 512) (formedS stopC idleF)) 0 4 = 5 ∧
    ((after (.stop 512) (formedS stopC (jobF []))).func 0).stop.map StopReq.sched = some 30 := by decide +kernel
theorem test_resume : ((after (.resume 512) (formedS resumeC { idleF with halted := true })).func 0).resumeCmd = some resumeC := by
  decide +kernel
theorem test_ledgerRd : ((after (.ledgerRdWrite 0 3) { onS with funcs := [(0, { ledWr := 5 })] }).func 0).ledRd = 3 ∧
    ((after (.ledgerRdWrite 0 6) { onS with funcs := [(0, { ledWr := 5 })] }).func 0).ledRd = 0 := by decide

/-- A function without layers ships an empty stream: on Ethernet one frame of manifest, over the bus port at address 0x1000. -/
def shipImg : FuncImage := { job := {} }
def shipC (op path port addr : Nat) : Cmd := cmdOf 512 op [(8, 1, path), (9, 1, port), (16, 8, addr)]
def shipS (c : Cmd) : State :=
  let s := running { onS with base := some jobBase, images := [(0, shipImg)], funcs := [(0, { state := .on })]
                              ports := [(24, { state := .up, width := 4 })] } c
  { s with hubs := [(0, { link := { state := .up }, bus := { gen := 5 } }), (1, { link := { state := .up } })] }
theorem witness_SnapshotAndRestore_snapshot : let s := shipS (shipC 0x43 0 0 0x1000)
    InProgress s 512 0x43 (shipC 0x43 0 0 0x1000) ∧ (s.func 0).snap = none ∧ (s.shipTarget 0 0 0 (leBytes 16 0x1000)).2 = none ∧
    s.shipReady 0 (s.func 0).gen = true ∧ s.poison = [] ∧ Quiet s 512 := by
  refine ⟨?_, ?_, ?_, ?_, ?_, ?_⟩ <;> first | decide +kernel | (unfold InProgress; decide +kernel) | (unfold Quiet; decide +kernel)
def shippedS : State := after (.snapshot 512) (shipS (shipC 0x43 0 0 0x1000))
theorem witness_SnapshotAndRestore_complete : ((shippedS.func 0).snap.map Shipment.restore) = some false ∧
    ((shippedS.func 0).snap.map Shipment.overEthernet) = some false ∧ (shippedS.func 0).snapWanted = [] := by decide +kernel
/-- The manifest of that snapshot, restored as generation 0: one logical-shard list of 8, no chunks. -/
def manifestOf : List Byte := (((shippedS.func 0).snap.map Shipment.frames).getD []).flatten
theorem witness_SnapshotAndRestore_restore : let s := shipS (shipC 0x44 0 0 0)
    InProgress s 512 0x44 (shipC 0x44 0 0 0) ∧ (s.shipTarget 0 0 0 (zeros 16)).2 = none ∧
    ((s.judgeRestore 0 0 manifestOf).map fun r => r.2.1) = some stSuccess ∧
    InProgress (shipS (shipC 0x44 1 24 0)) 512 0x44 (shipC 0x44 1 24 0) ∧
    ((shipS (shipC 0x44 1 24 0)).shipTarget 0 1 24 (zeros 16)).2 = none ∧ Quiet (shipS (shipC 0x44 1 24 0)) 512 := by
  refine ⟨?_, ?_, ?_, ?_, ?_, ?_⟩ <;> first | decide +kernel | (unfold InProgress; decide +kernel) | (unfold Quiet; decide +kernel)
theorem test_snapshotComplete : status (after (.snapshotComplete 0 false) shippedS) = 0 ∧
    status (after (.snapshotComplete 0 true) shippedS) = 6 := by decide +kernel
theorem test_restore : ((after (.restore 512 (.ok manifestOf)) (shipS (shipC 0x44 0 0 0))).func 0).step = 1 ∧
    status (after (.restore 512 (.ok (zeros 64))) (shipS (shipC 0x44 0 0 0))) = 9 := by decide +kernel

/-! ### The error ring and small controls -/

def errS : State :=
  let s := (running onS (cmdOf 0 0x42 [])).report { code := eBias, cls := clsNotice, a := 7 }
  { s with errs := { s.errs with arm := true, armEpoch := 1, ringLog2 := 6, ringBase := 0x20 } }
theorem witness_ErrorRing : errS.errReady = true ∧ 6 ≤ errS.errs.ringLog2.toNat ∧ errS.errs.held.length = 1 ∧
    (0 : BitVec 5).toNat < 6 ∧ onS.errReady = false := by decide +kernel
theorem test_errorRecord : (after (.errorRecordWrite .acked) errS).read (hostDpa 0x20000) 2 = [0x43, 0] ∧
    (after (.errorRecordWrite .acked) errS).errs.wr = 1 ∧ (after (.errorRecordWrite .error) errS).errs.wr = 0 := by decide +kernel
theorem test_errctl : (after .errctlArm onS).errs.arm = false ∧ (after .errctlArm errS).errs.arm = true ∧
    (after (.errptrRdWrite 1) errS).errs.rd = 0 := by decide +kernel

/-- No base image is in force, so no power budget is exceeded; the fields 700 and 800 are legal, 599 is not. -/
theorem witness_ControlRegisters : onS.tileFitted 511 = true ∧
    ((onS.base.map BaseImage.speed).bind (overPower onS.code 1500)).isSome = false ∧
    bits (0x2BC0320 : Nat) 25 16 = 700 ∧ bits (0x2BC0320 : Nat) 9 0 = 800 := by decide
theorem test_meCtl : (((after (.meCtlClr 0 1) bankS).tile 0).bank 0).phase = .idle ∧
    (((after (.meCtlClr 0 2) bankS).tile 0).bank 0).phase = .done := by decide
theorem test_veCtl : ((after (.veCtlClr 0 1) evS).tile 0).events = [] ∧ ((after (.veCtlClr 0 2) evS).tile 0).events ≠ [] := by decide
theorem test_plimit : (after (.plimitWrite 1500) onS).power.limit = 1500 := by decide
theorem test_tlimit : (after (.tlimitWrite 69) onS).power.cfgerr = true ∧ (after (.tlimitWrite 70) onS).power.tlimit = 70 := by decide
theorem test_vcfg : (after (.vcfgWrite 0x2BC0320) onS).power.vtarget = 800 ∧ (after (.vcfgWrite 0x2BC0257) onS).power.cfgerr = true := by
  decide

/-! ### Ethernet -/

/-- In `herdS` port 0 is enabled at rate 0; 0x81 asks for rate 1, 0x80 for none, 0x01 clears ENABLE. -/
theorem witness_PortConfiguration : herdS.isPort 0 = true ∧ (herdS.port 0).enable = true ∧ bitOf 0x81 7 = true ∧
    bitOf 0x01 7 = false ∧ BitVec.ofNat 2 0x81 ≠ (herdS.port 0).rate ∧ herdS.isSwitched 0 = false ∧
    herdS.usedPorts.contains 0 = true ∧ herdS.exchanging = true ∧ (herdS.nbr 0).failed = false ∧
    (∀ q ∈ herdS.usedPorts, herdS.peer q = herdS.peer 0 → q = 0 ∨ (herdS.nbr q).failed = true) ∧
    (herdS.func 0).state = .on ∧ (herdS.func 0).run = true := by decide +kernel
theorem test_portcfg : ((after (.portcfgWrite 0 0x81) herdS).port 0).rate = 0 ∧ ((after (.portcfgWrite 0 0x81) herdS).port 0).cfgerr = true ∧
    ((after (.portcfgWrite 0 1) herdS).func 0).state = .draining := by decide +kernel

def upPeer : Peer := { aPeer with etype := 0x88B5, member := 1, digest := zeros 16, mpd := 300 }
/-- LINKING, with port 4 verified already. -/
def linkS : State :=
  { herdS with base := some { herdBase with digest := zeros 48 }, ports := [(0, { state := .training })]
               herd := { herdS.herd with state := .linking, nbrs := [(4, { verified := true })] } }
theorem witness_PortTraining : linkS.isPort 0 = true ∧ linkS.boot.supply = .running ∧ (linkS.port 0).enable = true ∧
    (linkS.port 0).state = .training ∧ linkS.isSwitched 24 = true ∧ linkS.isSwitched 0 = false ∧ upPeer.s9Herd = true ∧
    upPeer.rate = (linkS.port 0).rate ∧ upPeer.etype = (linkS.hub 0).etype ∧ linkS.herd.state = .linking ∧
    linkS.usedPorts.contains 0 = true ∧ linkS.base.map BaseImage.herdId = some upPeer.herdId ∧ upPeer.member = linkS.peer 0 ∧
    linkS.base.map (fun b => b.digest.take 16) = some upPeer.digest ∧ (∀ q ∈ linkS.usedPorts, q ≠ 0 → (linkS.nbr q).verified = true) ∧
    linkS.usedPorts.contains 8 = false := by decide +kernel
theorem test_portTrain : (after (.portTrain 0 true upPeer) linkS).herd.state = .syncing ∧
    ((after (.portTrain 0 true { upPeer with member := 2 }) linkS).nbr 0).verified = false ∧
    ((after (.portTrain 0 true { upPeer with rate := 1 }) linkS).port 0).state = .training := by decide +kernel

/-- Member 0's time root is member 2, reached by port 4 (x minus, one hop). -/
def timeS (lock : Bool) (good : Nat) : State :=
  { herdS with base := some { herdBase with root := 2 }
               herd := { herdS.herd with lock := lock, goodSyncs := good, state := if lock then .formed else .syncing, time := 10240 } }
theorem witness_HerdTime : (timeS true 0).isHerdPort 4 = true ∧ ((timeS true 0).port 4).state = .up ∧ (timeS true 0).exchanging = true ∧
    (timeS true 0).parentPort = some 4 ∧ (timeS true 0).parentPort ≠ some 0 ∧ (timeS false 63).exchanging = true ∧
    (timeS false 63).herd.offTime = false := by decide +kernel
theorem test_ptp : (after (.ptpMessageReceive 4 300 20) (timeS false 63)).herd.lock = true ∧
    (after (.ptpMessageReceive 4 300 20) (timeS false 62)).herd.lock = false ∧
    (after (.ptpMessageReceive 4 300 (-21)) (timeS true 0)).herd.time = 10261 ∧
    (after (.ptpMessageReceive 4 300 (-21)) (timeS true 0)).herd.lock = false := by decide +kernel
theorem test_sync : ((after .ptpSyncInterval herdS).out.contains (.ptp 0)) = true ∧ (after .ptpSyncInterval herdS).out.length = 2 := by
  decide +kernel

/-- List 3 receives on port 0, as its transfer 0, 4 bytes into tile SRAM at 64. -/
def rxXfer : Xfer := { anXfer with srcSp := 4, dstSp := 3, port := 0, src := 3, dst := 64 }
def dataS : State := { herdS with images := [(0, { jobImg with xfers := [{ index := 3, xfers := [rxXfer] }] })] }
def dataFrame (seq : W32) (payload : List Byte) : Frame :=
  { fcsOk := true, dst := 1, src := 0, vid := none, etype := 0x88B5, body := herdFrame { kind := 0, fn := 0, src := 1, seq := seq, list := 3 } payload }
theorem witness_HerdLinkFrames_frames : dataS.isHerdPort 0 = true ∧ (dataS.port 0).state = .up ∧
    dataS.frameFate 0 (dataFrame 0 [1, 2, 3, 4]) = .take (herdHdr (dataFrame 0 [1, 2, 3, 4]).body) ∧
    (herdHdr (dataFrame 0 [1, 2, 3, 4]).body).nak = false ∧ (dataS.port 0).replay = [] ∧ (dataS.port 0).unsent = [] ∧
    (dataS.port 0).episode = none ∧ (herdHdr (dataFrame 0 [1, 2, 3, 4]).body).ack = (dataS.port 0).txSeq ∧
    (herdHdr (dataFrame 0 [1, 2, 3, 4]).body).seq = (dataS.port 0).rxSeq ∧
    (dataS.image 0).receiver 0 3 0 = some ({ index := 3, xfers := [rxXfer] }, rxXfer) ∧ (dataS.func 0).state = .on ∧
    (dataS.endRanges 0 3 64 rxXfer.dstBytes).isSome = true ∧ dataS.poison = [] ∧
    dataS.frameFate 0 { dataFrame 0 [] with fcsOk := false } = .error ∧
    dataS.frameFate 0 { dataFrame 0 [] with vid := some 1 } = .drop := by decide +kernel
theorem test_data : (after (.dataFrameReceive 0 (dataFrame 0 [1, 2, 3, 4])) dataS).read (tileAddr 0 64) 4 = [1, 2, 3, 4] ∧
    ((after (.dataFrameReceive 0 (dataFrame 0 [1, 2, 3, 4])) dataS).port 0).rxSeq = 1 ∧
    ((after (.dataFrameReceive 0 (dataFrame 1 [1, 2, 3, 4])) dataS).port 0).nak = true := by decide +kernel
/-- A frame that waits for its acknowledgement, two of four lanes of a port in use. -/
def sentFrameS : State :=
  { herdS with ports := [(0, { state := .up, width := 4, txSeq := 1, replay := [{ seq := 0, tc := 7, bytes := (dataFrame 0 [9]).body }] }),
                         (4, { state := .up })] }
theorem witness_HerdLinkFrames_links : (sentFrameS.port 0).replay ≠ [] ∧ (sentFrameS.port 0).state = .up ∧
    ((after (.retransmitTimeout 0) sentFrameS).port 0).episode.isSome = true ∧
    ((after (.retransmitTimeout 0) sentFrameS).nbr 0).failed = false ∧
    cleanGroup sentFrameS.portLanes 4 0 = some 0 ∧ (cleanGroup sentFrameS.portLanes 2 2).isSome = true ∧
    cleanGroup sentFrameS.portLanes 1 14 = some 0 ∧ cleanGroup sentFrameS.portLanes 1 15 = none := by decide +kernel
theorem test_retransmit : ((after (.retransmitTimeout 0) sentFrameS).port 0).resent = 1 ∧
    ((after (.retxEpisodeTimeout 0) (after (.retransmitTimeout 0) sentFrameS)).port 0).state = .failed := by decide +kernel
theorem test_laneShed : ((after (.laneShed 0 1) sentFrameS).port 0).width = 2 ∧ ((after (.laneShed 0 1) sentFrameS).port 0).sheds = 1 := by
  decide +kernel

def aShip (restore : Bool) : Shipment :=
  { cmd := none, gen := 0, overEthernet := true, port := 24, dmac := 5, stream := 9, tc := 0, restore := restore
    frames := if restore then [] else [[1], [2]], sent := if restore then 0 else 2, acked := 0, timeouts := 0 }
def streamS (restore : Bool) (timeouts : Nat) : State :=
  { onS with ports := [(24, { state := .up, macInUse := some 1 })]
             funcs := [(0, { state := .on, snap := some { aShip restore with timeouts := timeouts } })] }
def streamFrame (kind : Nat) (seq ack : W32) (payload : List Byte) : Frame :=
  { fcsOk := true, dst := 1, src := 5, vid := none, etype := 0x88B5
    body := herdFrame { kind := kind, fn := 0, seq := seq, ack := ack, list := 9 } payload }
theorem witness_Streams : ((streamS true 0).port 24).state = .up ∧ (streamS true 0).isSwitched 24 = true ∧
    (let fr := streamFrame 2 0 0 [7];
      (streamS true 0).switchedFate 24 fr = .take (herdHdr fr.body) ∧
      (streamS true 0).streamOf 24 fr (herdHdr fr.body) true = some (0, aShip true) ∧
      ((streamS true 0).judgeRestore 0 0 ((fr.body.drop 16).take 4096)).isNone = true) ∧
    (let fr := streamFrame 3 0 1 [];
      (streamS false 0).switchedFate 24 fr = .take (herdHdr fr.body) ∧ (herdHdr fr.body).nak = false ∧
      (streamS false 0).streamOf 24 fr (herdHdr fr.body) false = some (0, aShip false) ∧ (herdHdr fr.body).ack = 1) ∧
    (streamS false 0).isHerdPort 24 = false ∧ ((streamS false 0).port 24).entryFor none = some 16 := by decide +kernel
theorem test_streamAck : (((after (.streamAckReceive 24 (streamFrame 3 0 1 [])) (streamS false 3)).func 0).snap.map
    fun h => (h.acked, h.timeouts)) = some (1, 0) := by decide +kernel
theorem test_stream : let f (seq : W32) := after (.streamFrameReceive 24 (streamFrame 2 seq 0 [7]) 0) (streamS true 0);
    ((f 0).func 0).snap.map (fun h => h.acked) = some 1 ∧ ((f 1).func 0).snap.map (fun h => h.acked) = some 0 := by decide +kernel
theorem test_streamTimeout : ((after (.streamTimeout 24 9) (streamS false 15)).func 0).snap = none ∧
    ((after (.streamTimeout 24 9) (streamS false 14)).func 0).snap.isSome = true := by decide +kernel
theorem test_pfc : ((after (.pfcReceive 24 3 1) { streamS false 0 with ports := [(24, { state := .up, paused := 6 })] }).port 24).paused = 5 := by
  decide +kernel

/-! ### Power, boot and removal -/

/-- Standing by with input, PWR_EN low; and with no input. -/
def standS : State := { boot := { supply := .standby, present := true }, power := { vin := 5000 } }
theorem witness_ResetsAndSupply : onS.boot.supply = .running ∧ onS.boot.pwrEn = true ∧ standS.boot.pwrEn = false ∧
    standS.boot.supply = .standby ∧ standS.boot.trip.valid = false ∧ 4600 ≤ standS.power.vin ∧
    { standS with boot := { standS.boot with pwrEn := true } }.boot.supply ≠ .running ∧ State.reset.boot.present = false ∧
    State.reset.boot.supply = .unpowered ∧ CanStart onS ∧ ¬CanStart standS := by
  refine ⟨?_, ?_, ?_, ?_, ?_, ?_, ?_, ?_, ?_, ?_, ?_⟩ <;> first | decide | (unfold CanStart; decide)
theorem test_inputTrip : (after .inputHighTrip onS).boot.cause = 5 ∧ (after .inputLowTrip onS).boot.supply = .unpowered := by decide
theorem test_pwrEn : (after .pwrEnFall onS).boot.cause = 6 ∧ (after (.pwrEnRise true) standS).boot.supply = .standby ∧
    (after (.pwrEnRise false) standS).boot.supply = .running := by decide +kernel
theorem test_inputApplied : (after (.inputApplied 5000) State.reset).boot.supply = .standby ∧
    (after .prsntNLow State.reset).boot.present = true := by decide
theorem test_modRst : (after (.modRstN false) { onS with boot := { onS.boot with trip := { valid := true } } }).boot.supply = .standby ∧
    (after (.modRstN true) { onS with boot := { onS.boot with trip := { valid := true } } }).boot.supply = .running ∧
    (after .mgctlReset onS).boot.cause = 2 := by decide +kernel

theorem witness_Removal : onS.boot.supply ≠ .unpowered ∧ onS.boot.remreq = false ∧ (onS.func 0).state ≠ .off ∧
    (∀ n, n < 16 → ({ onS with funcs := [] }.func n).state = .off) ∧
    { onS with boot := { onS.boot with remreq := true } }.boot.stage ≠ .prepared ∧ onS.isPort 0 = true := by decide
def prepS : State := after .removalPrepared (after .remreq { onS with funcs := [] })
theorem witness_Removal_prepared : prepS.boot.stage = .prepared ∧ prepS.boot.pgood = true := by decide
theorem test_remreq : (after .remreq onS).boot.err = 0x10 ∧ prepS.boot.attn = true ∧ (after .remcancel prepS).boot.stage = .ready ∧
    ((after .remcancel prepS).lwl 1).state = .training := by decide

/-- No firmware copy is held: no image is acceptable where none is there. Acceptable firmware verifies under the hash that the
mask ROM holds, a free value (Config.vendorHash), so the clauses that need one are witnessed over any such image. -/
def romS : State := { onS with boot := { onS.boot with stage := .bootrom } }
theorem witness_PowerUpSequence_none : romS.boot.stage = .bootrom ∧ romS.pickFirmware = none ∧ romS.sec.idfail = false := by
  decide +kernel
theorem witness_PowerUpSequence_firmware (c : NvCopy) (hv : nvValid 1 c.content c.record = true)
    (h : fwAcceptable 0 c.content = true) :
    { romS with nv := { romS.nv with fwA := some c } }.pickFirmware = some (1, c.content) ∧
    { romS with nv := { romS.nv with fwA := some c } }.reloadFirmware = some (1, c.content) := by
  constructor
  · simp [State.pickFirmware, State.pickSettings, State.floorOf, Nv.pairOrder, Nv.copy, Nv.slot, romS, onS, hv, h, copySeq,
      Option.filter]
  · simp [State.reloadFirmware, Nv.pairOrder, Nv.copy, Nv.slot, romS, onS, hv, h, copySeq, Option.filter]
def linksFound : SelfTest :=
  { links := (List.range 8).map fun l => (l, linkMods l, 2), badTiles := [], badPages := [], badStacks := [] }
def testS : State := { onS with boot := { onS.boot with stage := .firmware } }
theorem witness_PowerUpSequence_selftest : testS.boot.stage = .firmware ∧
    testS.foundOk { linksFound with links := linksFound.links.filter fun x => testS.linkFitted x.1 } = true ∧
    (∀ l, l < 8 → testS.linkFitted l = true → 1 ≤ linkMods l) ∧ testS.foundOk { linksFound with links := [] } = true ∧
    testS.linkFitted 0 = true ∧ (∀ l, l < 8 → (testS.link l).state ≠ .failed) := by decide +kernel
theorem test_selftest :
    (after (.selftestComplete { linksFound with links := linksFound.links.filter fun x => testS.linkFitted x.1 }) testS).boot.stage = .ready ∧
    (after (.selftestComplete { linksFound with links := [] }) testS).boot.err = 3 := by decide +kernel
theorem witness_PowerUpSequence_restart : onS.firmwareRuns = true ∧ (after .watchdogExpiry onS).boot.restart = some 7 ∧
    (onS.func 0).run = true := by decide
theorem test_watchdog : (after .watchdogExpiry { onS with boot := { onS.boot with restart := some 9 } }).boot.restart = some 9 := by decide
/-- An unsigned component is refused in RECOVERY. -/
def recS : State := { standS with boot := { standS.boot with stage := .recovery } }
theorem witness_PowerUpSequence_pldm : recS.boot.stage = .recovery ∧ recS.boot.supply ≠ .unpowered ∧
    ¬fwAcceptable (recS.floorOf recS.pickSettings) [] = true ∧ recS.nv.pairSeq 1 ≠ 0xFFFFFFFF := by decide +kernel
theorem test_pldm : (after (.pldmFirmwareUpdate [] .done) recS).out = [.pldm false] := by decide +kernel
theorem test_firmwareStart : (after .firmwareStart romS).boot.stage = .recovery ∧ (after .firmwareStart romS).boot.err = 1 := by
  decide +kernel

/-- Every die at 750 mV under the default floor of 700 mV. -/
def warmS : State := { onS with power := { onS.power with dies := [(0, { vset := 750 }), (1, { vset := 750 })], limit := 2000 } }
theorem witness_PowerManagement : warmS.coreOn = true ∧ someTel.dies.length = warmS.code.dies ∧
    (∀ y ∈ someTel.dies, y.temps.length = 64) ∧ someTel.stackTemps.length ≤ 12 ∧ warmS.dieFitted 0 = true ∧
    (warmS.diePower 0).lost = false ∧ warmS.tripLimit 0 0 = some 115 ∧ warmS.tripLimit 12 3 = some 105 ∧
    warmS.boot.supply = .running := by decide
def slowS : State := { warmS with base := some { herdBase with speed := [{ die := 0, vmv := 700, rate := 1500 }] } }
theorem witness_PowerManagement_shortfall : slowS.base.isSome = true ∧ (slowS.diePower 0).short = false ∧ 1400 < slowS.assumed 0 ∧
    slowS.floor 0 ≤ (slowS.diePower 0).vset ∧ (slowS.diePower 0).tmax ≤ 105 ∧
    ((after (.speedShortfall 0 1400) slowS).diePower 0).short = true := by decide
theorem test_control : ((after (.pmgControlPeriod someTel) warmS).diePower 0).vset = 755 ∧
    ((after (.pmgControlPeriod { someTel with pavg := 2001 }) warmS).diePower 0).vset = 740 := by decide +kernel
theorem test_shortfall : ((after (.speedShortfall 0 1400) slowS).diePower 0).comp = 760 ∧
    ((after (.compensationRaise 0 1450) (after (.speedShortfall 0 1400) slowS)).diePower 0).comp = 770 := by decide
theorem test_trip : (after (.thermtrip 12 0 105 3) warmS).boot.trip.stack = 3 ∧ (after (.thermtrip 0 5 115 0) warmS).boot.cause = 3 ∧
    (after (.supplyFault 0 500) warmS).boot.cause = 4 ∧ ((after (.telemetryLoss 0) warmS).diePower 0).vset = 700 := by decide +kernel

/-! ### The Larwa links, the bus ports and the package -/

def allPass : LaneTest := { supported := true, lanes := 0xFFFF, control := true }
def noPass : LaneTest := { supported := false, lanes := 0, control := false }
def linkAt (st : LwlState) : State :=
  { issuedS with hubs := [(0, { link := { state := st, rate := 2, width := 16 } })], larwa := { hostEpoch := some 7 }
                 queues := [(512, { state := .active, ring := 0, cpl := 0x8000000 })] }
theorem witness_LarwaLinks : (linkAt .training).hubFitted 0 = true ∧ ((linkAt .training).lwl 0).state = .training ∧
    ((linkAt .up).lwl 0).state = .up ∧ ((linkAt .retrain).lwl 0).state = .retrain ∧ ((linkAt .out).lwl 0).state = .out ∧
    trainLanes noPass noPass noPass = none ∧ (trainLanes allPass allPass allPass).isSome = true ∧
    (linkAt .up).larwa.hostEpoch = some 7 ∧ (linkAt .up).boot.supply = .running ∧ ((linkAt .up).hub 0).bus.gen = 0 ∧
    ((linkAt .up).queue 512).state = .active ∧ (linkAt .up).ringOn 0 ((linkAt .up).queue 512) = true ∧
    ({ linkAt .up with hubs := [(0, { bus := { gen := 4 } })] }.hub 0).bus.gen ≠ 0 := by decide +kernel
theorem witness_LarwaLinks_quiet : Quiet (linkAt .retrain) 512 ∧ NoGroups (linkAt .retrain) := by
  constructor <;> first | (unfold Quiet; decide) | (unfold NoGroups; decide)
/-- A transfer list that reads companion memory over link 0. -/
def farS : State :=
  { linkAt .retrain with
      images := [(0, { jobImg with
        xfers := [{ index := 0, xfers := [{ anXfer with srcSp := 1, src := 0 }] }] })]
      funcs := [(0, { (linkAt .retrain).func 0 with table := [(0, { valid := true, bias := true, pfn := BitVec.ofNat 27 (companionBase / pageSize) })] })] }
theorem witness_LarwaLinks_job : farS.jobOn 0 0 = true ∧ (farS.func 0).run = true ∧ (farS.func 0).state = .on := by decide +kernel
theorem test_lwlTrain : ((after (.lwlTrain 0 noPass { allPass with lanes := 0x00F0 } allPass 7) (linkAt .training)).lwl 0).width = 4 ∧
    (after (.lwlTrain 0 allPass allPass allPass 8) (linkAt .training)).larwa.epoch = 2 := by decide +kernel
theorem test_lwlRetrain : ((after (.lwlRetrain 0) (linkAt .up)).lwl 0).state = .retrain ∧
    ((after (.lwlRetrainComplete 0 noPass allPass noPass 7 10) (linkAt .retrain)).lwl 0).rate = 1 ∧
    ((after (.lwlOut 0) (linkAt .retrain)).queue 512).state = .haltedLink := by decide +kernel
theorem test_hostReset : ((after (.hostReset 0) (linkAt .up)).queue 512).state = .haltedHost ∧
    ((after (.linkOutHostReset 0) (linkAt .out)).lwl 0).state = .training ∧
    (after (.lwlRstN 0) (linkAt .up)).larwa.epoch = 2 := by decide +kernel
theorem test_bus : ((after (.busPortTrain 0 6 8) onS).hub 0).bus.width = 8 ∧
    ((after (.busPortReset 0) (after (.busPortTrain 0 6 8) onS)).hub 0).bus.gen = 0 ∧
    (after (.pcieConfigurationRequest 0) (after (.busPortTrain 0 6 8) onS)).out = [.configNormal 0] := by decide

def dieS (st : D2dState) : State := { onS with links := [(0, { state := st, mods := 4, gen := 2 })] }
def siteS (c : ChipState) (fails : Nat) : State := { onS with hubs := [(0, { chip := c, chipFails := fails })] }
theorem witness_PackageLinks : (dieS .up).linkFitted 0 = true ∧ ((dieS .up).link 0).state = .up ∧ 1 < linkMods 0 ∧
    ((dieS .retrain).link 0).state = .retrain ∧ ((dieS .up).func 0).state = .on ∧ (siteS .up 0).hubFitted 0 = true ∧
    ((siteS .up 0).hub 0).chip = .up ∧ ((siteS .training 2).hub 0).chip = .training ∧ (siteS .training 2).boot.supply = .running ∧
    onS.crossingFitted 0 0 = true ∧ onS.alive 0 0 = false := by decide
theorem test_d2d : ((after (.d2dRetrain 0) (dieS .up)).link 0).state = .retrain ∧
    ((after (.d2dRetrainComplete 0 1 25) (dieS .retrain)).link 0).mods = 1 ∧ ((after (.d2dFailed 0) (dieS .up)).func 0).state = .draining := by
  decide +kernel
theorem test_site : ((after (.chipletReset 0) (siteS .up 0)).hub 0).chip = .down ∧
    ((after (.chipletSiteTrain 0 true 2) (siteS .training 2)).hub 0).chipRate = 2 ∧
    ((after (.chipletSiteTrain 0 false 0) (siteS .training 2)).hub 0).chip = .faulted := by decide
theorem test_crossing : ((after (.cdcAliveTimeout 0 0) onS).die 0).brrst = 1 ∧ (after (.cdcClockReturn 0 0) onS).alive 0 0 = true ∧
    (after (.cdcReset 0 0) (after (.cdcClockReturn 0 0) onS)).alive 0 0 = false := by decide

/-- Window 0 gives function 0's page 0 in HBM, for writes and reads, with 64 tokens. -/
def winS (wr : Bool) (rate : BitVec 16) : State :=
  { onS with hubs := [(0, { chip := .up, windows := [(0, { valid := true, wr := wr, rd := true, npage := 1, rate := rate, tokens := 64 })] })]
             images := [(0, { job := { journalVpn := 100, ledgerVpn := 200 } })]
             funcs := [(0, { state := .on, table := [(0, { valid := true, pfn := 2 })] })] }
def putReq : ChipletReq := { aReq with write := true, data := zeros 63 ++ [5] }
theorem witness_ChipletRequests : (winS true 1).hubFitted 0 = true ∧ ((winS true 1).hub 0).chip = .up ∧ (winS true 1).withheld 0 = false ∧
    putReq.data.length = putReq.len ∧ aReq.write = false ∧ (winS false 1).violation 0 putReq = some 2 ∧
    (winS true 1).violation 0 putReq = none ∧ ((winS true 1).window 0 (reqWin putReq)).covers putReq = true ∧
    (winS true 1).violation 0 aReq = none ∧ ((winS true 0).window 0 (reqWin aReq)).covers aReq = false ∧
    (winS true 1).poison = [] ∧ ((winS true 1).window 0 0).rate ≠ 0 ∧ ((winS true 1).window 0 0).waiting = none := by decide +kernel
def slowWinS : State := after (.chipletRequest 0 putReq .none) ((winS true 1).setWindow 0 0 { (winS true 1).window 0 0 with tokens := 0 })
theorem witness_ChipletRequests_waiting : (slowWinS.window 0 0).waiting = some putReq ∧ reqWin putReq = 0 ∧
    slowWinS.violation 0 putReq = none ∧ (slowWinS.window 0 0).rate ≠ 0 := by decide +kernel
theorem test_chiplet : (after (.chipletRequest 0 putReq .none) (winS true 1)).read (2 * pageSize + 63) 1 = [5] ∧
    ((after (.chipletRequest 0 putReq .none) (winS true 1)).window 0 0).tokens = 0 ∧
    ((after (.chipletRequest 0 putReq .none) (winS false 1)).hub 0).viol = 1 ∧
    (after (.chipletRequest 0 aReq .none) (winS true 1)).out = [.chiplet 0 false false (zeros 64)] := by decide +kernel
theorem test_tokenBucket : (after (.tokenBucketFill 0 0) slowWinS).read (2 * pageSize + 63) 1 = [5] := by decide +kernel
theorem test_fwwin : let t := after (.fwwinWrite 0 3 0xE000000000100001) (winS true 1)
    (t.window 0 3).npage = 1 ∧ (t.window 0 3).vpn = 1 ∧
    ((after (.fwwinWrite 0 3 0xE000000000000000) (winS true 1)).hub 0).cfgerr = true := by decide

/-! ### Management, debug and the invariant -/

/-- HUB_MODULE_CODE's address; PMG_TLIMIT's is in page 0 of PMG_, at 8. -/
def aRegister : Nat := regBase
def pmgPage : Nat := regBase + 0x200000
/-- The driver's view of function 0 holds PMG_'s page, for writes; function 1's holds it for reads only. -/
def viewS : State :=
  { onS with
      base := some { jobBase with
        digest := [1], pages := [{ func := 0, write := true, page := pmgPage }, { func := 1, write := false, page := pmgPage }] }
      hubs := [(0, { alive := 127, link := { state := .up } }), (1, { alive := 127 })]
      dies := (List.range 4).map fun d => (d, { alive := 127 }) }
theorem witness_ManagementMessages : viewS.sec.idok = true ∧ viewS.sec.idfail = false ∧ onS.base = none ∧
    viewS.base.map BaseImage.digest = some [1] ∧ viewS.boot.supply = .running ∧ (viewS.bmcTarget aRegister).isSome = true ∧
    (viewS.bmcTarget aRegister).map Prod.fst ≠ some .mgCtl ∧ viewS.bmcTarget 0 = none ∧ viewS.hubFitted 0 = true ∧
    (viewS.lwl 0).state = .up ∧ (viewS.viewPages 0)[1]? = none ∧ (viewS.viewPages 0)[0]? = some (pmgPage, true) ∧
    (viewS.viewPages 1)[0]? = some (pmgPage, false) ∧ viewS.target (pmgPage + 8 - regBase) 4 = .reg .tlimit (pmgPage + 8 - regBase) 4 ∧
    viewS.pathAlive 0 (pmgPage + 8) = true ∧ viewS.stalledAt (pmgPage + 8) = false := by decide +kernel
/-- HUB_MGCTL's address: the one register an MCTP write acts through. -/
def mgAddress : Nat := regBase + 0x804
theorem witness_ManagementMessages_mgctl : (viewS.bmcTarget mgAddress).map Prod.fst = some .mgCtl ∧ bitOf (4 : W32).toNat 2 = true ∧
    (8 : W32).toNat % 8 = 0 ∧ (1 : W32).toNat % 8 = 1 ∧ (2 : W32).toNat % 8 = 2 := by decide +kernel
theorem test_mctpReset : (after (.mctpRegisterWrite mgAddress 4) viewS).boot.cause = 2 ∧
    (after (.mctpRegisterWrite mgAddress 1) viewS).boot.err = 0x10 := by decide +kernel
theorem test_viewWrite : (after (.registerWrite (.view 0 0) 8 4 80) viewS).power.tlimit = 80 ∧
    (after (.registerWrite (.view 1 0) 8 4 80) viewS).power.tlimit = 100 ∧
    (after (.registerWrite (.view 1 0) 8 4 80) viewS).errs.held.length = 1 := by decide +kernel
theorem test_mctp : (after (.mctpRegisterRead 0) viewS).errs.held.length = 1 ∧ (after (.mctpRegisterWrite aRegister 1) viewS).errs.held = [] := by
  decide +kernel
theorem test_spdm : (after (.getVersion []) viewS).out = [.spdm (.version 1 3)] ∧
    (after (.getMeasurements 6) onS).out = [.spdm (.measurements [(6, zeros 48)])] ∧
    (after (.spdmUnsupportedRequest 0xE4) viewS).out = [.spdm .unsupportedRequest] := by decide +kernel

/-- Debug level 2 over every function; page 2 of HBM is function 0's, page 3 nobody's. -/
def dbgS (level : Nat) : State :=
  { viewS with sec := { viewS.sec with ownerLevel := level, ownerMask := 0xFFFF }, pages := [(2, { use := .mapped 0 })] }
theorem witness_DebugPort_access : (dbgS 2).boot.supply = .running ∧ (dbgS 2).memPermit false 0x400000 4 = .allowed (some 0) ∧
    (dbgS 2).memPermit true 0x400000 8 = .allowed (some 0) ∧ (dbgS 1).memPermit true 0x400000 4 = .denied ∧
    (dbgS 2).memPermit false 0x600000 4 = .denied ∧ (dbgS 2).pathAlive 0 0x400000 = true ∧ (dbgS 2).stalledAt 0x400000 = false ∧
    (dbgS 2).poison = [] ∧ (match (dbgS 2).region 0x400000 with | .hbm p => p | _ => 0) = 2 ∧ (dbgS 2).sec.level ≠ 3 ∧
    { (dbgS 2).sec with vendor := true }.level = 3 ∧ (dbgS 0).sec.grants 1 0 = false ∧ (dbgS 0).sec.grants 2 0 = false := by decide +kernel
theorem test_dbgMemory : (after (.dbgWrite32 0x400004 7) (dbgS 2)).read 0x400004 1 = [7] ∧
    (after (.dbgRead64 0x400000) (after (.dbgWrite32 0x400004 7) (dbgS 2))).dbg.accData = 0x700000000 ∧
    (after (.dbgWrite64 0x400000 7) (dbgS 1)).dbg.accStatus = 3 ∧
    (after (.dbgRead32 0x600000) (dbgS 2)).dbg.accStatus = 3 := by decide +kernel
/-- A token's fields name the nonce and the identity hash, free values: accepted tokens are witnessed over any that is accepted. -/
theorem witness_DebugPort_token : (zeros 256).length = 256 ∧ (dbgS 2).tokenGrants (zeros 256) = none := by
  constructor
  · decide +kernel
  · have h : (dbgS 2).tokenFits (zeros 256) = false := by
      have h0 : (leAt (zeros 256) 0 4 == 0x41474244) = false := by decide +kernel
      simp only [State.tokenFits, h0, Bool.false_and]
    simp only [State.tokenGrants, h, Bool.not_false, if_true]
theorem witness_DebugPort_granted (level : Nat) (token : List Byte) (h : (dbgS level).tokenFits token = true) (hl : leAt token 4 1 ≤ 2)
    (hs : tokenSigned (dbgS level).ownerKeys token = true) :
    ((dbgS level).tokenGrants token).map Security.level = some (leAt token 4 1) := by
  have e : (dbgS level).tokenGrants token = some { (dbgS level).sec with
      ownerLevel := leAt token 4 1
      ownerMask := if leAt token 4 1 = 0 then 0 else BitVec.ofNat 16 (leAt token 6 2), vendor := false } := by
    simp only [State.tokenGrants, h, hl, hs, Bool.not_true, if_false, and_self, if_true, Bool.false_eq_true]
  simp only [e, Option.map_some]; rfl
/-- Function 0's tile is halted, its bank not poisoned. -/
def heldS : State := { dbgS 2 with tiles := [(0, { tile0 with seqs := [(0, { active := true, left := 8, halted := true })] })] }
theorem witness_DebugPort_elements : (heldS.tile 0).entryOf 0 = some 0 ∧ (tget {} (heldS.tile 0).seqs 0).halted = true ∧
    heldS.dbg.twSpace = 0 ∧ heldS.dbg.twElem.toNat < 2048 ∧ (heldS.tile 0).platePoison = [] ∧ heldS.sec.grants 1 0 = true ∧
    heldS.sec.grants 2 0 = true ∧ part0.plateBase.toNat * 4 ≤ heldS.dbg.twPlate.toNat ∧
    heldS.dbg.twPlate.toNat < (part0.plateBase.toNat + part0.plateCount.toNat) * 4 := by decide
theorem test_twdata : (after (.dbgTwdataAccess false 0) heldS).dbg.accData = 0x3F800000 ∧
    elem (after (.dbgTwdataAccess true 7) heldS) 0 = 7 ∧ (after (.dbgTwdataAccess true 7) heldS).dbg.twElem = 1 := by decide +kernel
/-- A halt of function 0 on tile 0 has been asked for. -/
def askS : State := { dbgS 2 with dbg := { haltAsked := [(0, some 0)] } }
theorem witness_DebugPort_halts : (dbgS 2).dbg.all = false ∧ ((dbgS 2).tile 0).entryOf 0 = some 0 ∧
    (dbgS 2).dbg.haltAsked.contains (0, some 0) = false ∧ askS.dbg.haltAsked = [(0, some 0)] ∧ askS.sec.grants 2 0 = true ∧
    (tget {} ((dbgS 2).tile 0).seqs 0).halted = false ∧ (tget {} (heldS.tile 0).seqs 0).active = true ∧
    (tget {} (heldS.tile 0).seqs 0).left ≠ 0 ∧ heldS.tileFitted 0 = true := by decide
theorem test_halt : (after .dbgHalt (dbgS 2)).dbg.haltAsked = [(0, some 0)] ∧
    (tget {} ((after .haltComplete askS).tile 0).seqs 0).reason = 1 ∧
    (tget {} ((after .dbgResume heldS).tile 0).seqs 0).halted = false := by decide +kernel
theorem test_tap : (after .idcode onS).dbg.tap = .idcode ∧ (after .bypass onS).out = [.scan .bypass 0] ∧
    (after .tapReset { onS with dbg := { tap := .bypass } }).dbg.tap = .idcode ∧ (after .extest onS).out = [.scan .bypass 0] := by
  decide +kernel

theorem witness_EveryStepKeeps : MemOk onS ∧ ErrorsOk onS ∧
    step { onS with pending := [.watchdogExpiry] } = .next (after .watchdogExpiry onS) := by
  refine ⟨?_, ?_, ?_⟩ <;> first | rfl | (unfold MemOk; decide) | (unfold ErrorsOk; decide)

end Sys2Proof.Tests
end

section
/-! SUPPORT. What reporting an error, losing power and starting again leave, for any statement about them. -/
namespace Sys2Proof.Machine

/-! ### Error records (R435, R437) -/

theorem Errors.mem_hold (e : Errors) (r : ErrRec) : r ∈ (e.hold r).held := by
  unfold Errors.hold
  split <;> simp

/-- A report changes the error block alone. -/
theorem State.report_eq (s : State) (p : Report) : s.report p = { s with errs := (s.report p).errs } := rfl

theorem State.report_recorded (s : State) (p : Report) : Recorded (s.report p) p.code p.cls p.func := by
  unfold State.report Recorded
  simp only [Errors.count_held]
  exact ⟨_, Errors.mem_hold _ _, rfl, rfl, rfl⟩

/-- A command that ends in a report holds its record and changes nothing else. -/
theorem runs_report {i : Instr} {s : State} {p : Report} (h : exec i s = .next (s.report p)) :
    Runs i s fun t => t = { s with errs := t.errs } ∧ Recorded t p.code p.cls p.func :=
  ⟨_, h, s.report_eq p, s.report_recorded p⟩

/-- A register access error changes the error block alone (R15). -/
theorem State.regError_eq (s : State) (who : Requester) (a : Nat) :
    s.regError who a = { s with errs := (s.regError who a).errs } := by
  unfold State.regError
  split
  · rfl
  · exact s.report_eq _

theorem State.regError_recorded {s : State} (who : Requester) (a : Nat) (h : s.boot.supply = .running) :
    Recorded (s.regError who a) eRegAccess clsNotice none := by
  rw [State.regError, if_neg (fun hn => hn h)]
  exact s.report_recorded _

theorem runs_regError {i : Instr} {s : State} {who : Requester} {a : Nat} (h : exec i s = .next (s.regError who a))
    (hr : s.boot.supply = .running) :
    Runs i s fun t => t = { s with errs := t.errs } ∧ Recorded t eRegAccess clsNotice none :=
  ⟨_, h, s.regError_eq who a, State.regError_recorded who a hr⟩

/-! ### Loss of power and the start after it (R403, R408 to R411) -/

theorem State.powerLost_lost (s : State) (cause : Nat) (supply : Supply) : Lost s (s.powerLost cause supply) cause := by
  refine ⟨rfl, fun z hz => ?_, fun _ => rfl, fun _ => rfl, rfl, rfl, rfl, rfl, rfl, rfl, rfl, rfl, rfl, rfl, rfl, rfl⟩
  rw [State.powerLost_byte, if_neg (Nat.not_le.mpr hz)]

theorem State.powerLost_hostKept (s : State) (cause : Nat) (supply : Supply) : HostKept s (s.powerLost cause supply) :=
  fun z hz => by rw [State.powerLost_byte, if_pos hz]

/-- What the start depends on outlasts a loss of power that leaves input present. -/
theorem State.powerLost_canStart (s : State) (cause : Nat) : CanStart (s.powerLost cause .standby) ↔ CanStart s := Iff.rfl

theorem State.startSequence_of_canStart {s : State} (hs : s.boot.supply ≠ .unpowered) (h : CanStart s) :
    s.startSequence = { s with boot := s.startSequence.boot, sec := s.startSequence.sec } ∧ Started s.startSequence ∧
    s.startSequence.boot.cause = s.boot.cause ∧ s.startSequence.sec.ownerLevel = s.sec.ownerLevel ∧
    s.startSequence.sec.vendor = s.sec.vendor := by
  obtain ⟨hen, hrise, htrip, hvin⟩ := h
  simp [State.startSequence, Started, hs, hen, hrise, htrip, hvin]

theorem State.startSequence_of_not_canStart {s : State} (h : ¬CanStart s) : s.startSequence = s := by
  unfold State.startSequence
  refine if_neg fun hc => h ?_
  obtain ⟨-, hen, hrise, htrip, hvin⟩ := hc
  exact ⟨hen, by simpa using hrise, by simpa using htrip, hvin⟩

/-- Starting the power-up sequence brings nothing back that a loss of power took. -/
theorem Lost.startSequence {s t : State} {cause : Nat} (h : Lost s t cause) (ht : t.boot.supply ≠ .unpowered) :
    Lost s t.startSequence cause := by
  by_cases hc : CanStart t
  · obtain ⟨heq, -, hcause, hlevel, hvendor⟩ := State.startSequence_of_canStart ht hc
    obtain ⟨c, bytes, funcs, queues, base, images, errs, level, vendor, rest⟩ := h
    unfold Lost
    rw [hcause, hlevel, hvendor, heq]
    exact ⟨c, bytes, funcs, queues, base, images, errs, level, vendor, rest⟩
  · rwa [State.startSequence_of_not_canStart hc]

theorem State.startSequence_byte (s : State) (z : Nat) : s.startSequence.byte z = s.byte z := by
  unfold State.startSequence
  dsimp only
  split <;> rfl

theorem State.moduleReset_lost (s : State) (cause : Nat) : Lost s (s.moduleReset cause) cause :=
  (s.powerLost_lost cause .standby).startSequence (by simp [State.powerLost])

theorem State.moduleReset_hostKept (s : State) (cause : Nat) : HostKept s (s.moduleReset cause) :=
  fun z hz => (State.startSequence_byte _ z).trans (s.powerLost_hostKept cause .standby z hz)

theorem State.moduleReset_startsIf (s : State) (cause : Nat) : StartsIf (CanStart s) (s.moduleReset cause) := by
  refine ⟨fun h => ?_, fun h => ?_⟩
  · obtain ⟨-, started, -⟩ :=
      State.startSequence_of_canStart (by simp [State.powerLost]) ((s.powerLost_canStart cause).mpr h)
    exact started
  · rw [State.moduleReset, State.startSequence_of_not_canStart (mt (s.powerLost_canStart cause).mp h)]
    exact ⟨rfl, rfl⟩

end Sys2Proof.Machine
end

section
/-! Attestation, the management registers and register writes through a view (R15, R324, R422 to R424, R428, R429, R434). -/
namespace Sys2Proof.Machine

/-! ### SPDM (R422, R423) -/

section
variable {s : State} (hok : s.sec.idok = true) (hfail : s.sec.idfail = false)
include hok hfail

/-- With its identity known, the module answers every request. -/
theorem State.spdm_of_identity (f : State → State × SpdmAnswer) : s.spdm f = .next ((f s).1.emit (.spdm (f s).2)) := by
  simp [State.spdm, hok, hfail]

/-- A request that changes nothing is answered, and that is all. -/
theorem runs_spdm {i : Instr} {a : SpdmAnswer} (hi : exec i s = s.spdm fun t => (t, a)) :
    Runs i s fun t => t = { s with out := .spdm a :: s.out } := by
  rw [State.spdm_of_identity hok hfail] at hi
  exact ⟨_, hi, rfl⟩

theorem runs_getMeasurements {k : Nat} {b : List Byte} (h0 : k ≠ 0) (hFF : k ≠ 0xFF) (hb : s.measurement k = some b) :
    Runs (.getMeasurements k) s fun t => t = { s with out := .spdm (.measurements [(k, b)]) :: s.out } := by
  refine ⟨s.emit (.spdm (.measurements [(k, b)])), ?_, rfl⟩
  show execGetMeasurements k s = _
  rw [execGetMeasurements, State.spdm_of_identity hok hfail]
  simp only [if_neg h0, if_neg hFF, hb]

theorem runs_challenge (m : List Byte) :
    Runs (.challenge m) s fun t => t = { s with
      sec := { s.sec with signs := s.sec.signs + 1 }
      out := .spdm (.challengeAuth (Config.spdmNonce s.sec.signs)
        (Config.identitySign s.sec.signs (m ++ Config.spdmNonce s.sec.signs))) :: s.out } := by
  refine ⟨_, ?_, rfl⟩
  show execChallenge m s = _
  rw [execChallenge, State.spdm_of_identity hok hfail]
  rfl

end

/-- Block 6 is the digest of the base image in force, which is not empty where an image is. -/
theorem State.measurement_base {s : State} {b : BaseImage} (hb : s.base = some b) (hd : b.digest ≠ []) :
    s.measurement 6 = some b.digest := by
  simp [State.measurement, hb, orZeros, hd]

theorem State.measurement_no_base {s : State} (hb : s.base = none) : s.measurement 6 = some (zeros 48) := by
  simp [State.measurement, hb, orZeros]

/-! ### MCTP (R428, R429, R434) -/

section
variable {s : State} (hp : s.boot.supply ≠ .unpowered)
include hp

theorem execMctpControl_of_powered (m : List Byte) : execMctpControl m s = .next (s.emit (.mctp (Config.mctpControlBody m))) :=
  if_neg hp

theorem execMctpRegisterRead_some {addr b : Nat} {r : Reg} (h : s.bmcTarget addr = some (r, b)) :
    execMctpRegisterRead addr s =
      .next (s.emit (.regRead (BitVec.ofNat 64 (readPart (addr - regBase) 4 b (s.regRead r))))) := by
  rw [execMctpRegisterRead, if_neg hp, h]

theorem execMctpRegisterRead_none {addr : Nat} (h : s.bmcTarget addr = none) :
    execMctpRegisterRead addr s = .next ((s.regError .bmc addr).emit (.regRead 0)) := by
  rw [execMctpRegisterRead, if_neg hp, h]

theorem execMctpRegisterWrite_mgCtl {addr b : Nat} (h : s.bmcTarget addr = some (.mgCtl, b)) (v : W32) :
    execMctpRegisterWrite addr v s = s.writeMgctl v.toNat := by
  rw [execMctpRegisterWrite, if_neg hp, h]

theorem execMctpRegisterWrite_readOnly {addr b : Nat} {r : Reg} (h : s.bmcTarget addr = some (r, b)) (hr : r ≠ .mgCtl)
    (v : W32) :
    execMctpRegisterWrite addr v s = .next s := by
  rw [execMctpRegisterWrite, if_neg hp, h]
  split
  next heq => cases heq; exact absurd rfl hr
  next => rfl
  next heq => cases heq

theorem execMctpRegisterWrite_none {addr : Nat} (h : s.bmcTarget addr = none) (v : W32) :
    execMctpRegisterWrite addr v s = .next (s.regError .bmc addr) := by
  rw [execMctpRegisterWrite, if_neg hp, h]

/-- RESET of HUB_MGCTL, bit 2, wins over the two bits below it (R434). -/
theorem State.writeMgctl_reset {v : Nat} (hv : bitOf v 2 = true) : s.writeMgctl v = .next (s.moduleReset 2) := by
  rw [State.writeMgctl, if_pos hv, execMgctlReset, if_neg hp]

end

/-! #### HUB_MGCTL without RESET: REMREQ is bit 0 and REMCANCEL bit 1 -/

theorem execRemcancel_next (s : State) : ∃ t, execRemcancel s = .next t := by
  unfold execRemcancel
  split
  · exact ⟨_, rfl⟩
  · exact ⟨_, rfl⟩

/-- The three low bits of a number are those of its remainder by 8. -/
theorem bitOf_mod_eight (v : Nat) :
    bitOf v 0 = bitOf (v % 8) 0 ∧ bitOf v 1 = bitOf (v % 8) 1 ∧ bitOf v 2 = bitOf (v % 8) 2 := by
  refine ⟨?_, ?_, ?_⟩ <;> exact congrArg (· == 1) (by omega)

theorem State.writeMgctl_none (s : State) {v : Nat} (hv : v % 8 = 0) : s.writeMgctl v = .next s := by
  obtain ⟨b0, b1, b2⟩ := bitOf_mod_eight v
  rw [State.writeMgctl, b0, b1, b2, hv]
  rfl

theorem State.writeMgctl_remreq (s : State) {v : Nat} (hv : v % 8 = 1) : s.writeMgctl v = execRemreq s := by
  obtain ⟨b0, b1, b2⟩ := bitOf_mod_eight v
  rw [State.writeMgctl, b0, b1, b2, hv]
  rfl

theorem State.writeMgctl_remcancel (s : State) {v : Nat} (hv : v % 8 = 2) : s.writeMgctl v = execRemcancel s := by
  obtain ⟨b0, b1, b2⟩ := bitOf_mod_eight v
  obtain ⟨t, ht⟩ := execRemcancel_next s
  rw [State.writeMgctl, b0, b1, b2, hv, ht]
  rfl

/-! ### Writes through a view (R15, R324) -/

/-- A driver's write reaches its view where the hub die is fitted and its link is UP. -/
theorem exec_registerWrite_view {s : State} {v hub off : Nat} (n : Nat) (x : W64) (hh : s.hubFitted hub = true) (hv : v ≤ 16)
    (ho : off < 2 ^ 24) (hup : (s.lwl hub).state = .up) :
    exec (.registerWrite (.view v hub) off n x) s = s.viewWrite v hub off n x := by
  have hrange : ¬(16 < v ∨ 2 ^ 24 ≤ off) := by omega
  show execRegisterWrite (.view v hub) off n x s = _
  simp only [execRegisterWrite, hh, hup, hrange, Bool.not_true, Bool.false_eq_true, ne_eq, not_true_eq_false, false_and, if_false]

section
variable {s : State} {off : Nat} (v hub n : Nat) (x : W64) (ho : off < 0x800000)
include ho

theorem State.viewWrite_no_page (h : (s.viewPages v)[off / 4096]? = none) : s.viewWrite v hub off n x =
    .next (s.report { code := eRegAccess, cls := clsNotice, unit := hub, a := 2 ^ 63 + off, b := v }) := by
  rw [State.viewWrite, if_neg (Nat.not_le.mpr ho), h]

variable {page b w : Nat} {r : Reg}

/-- On a page that is there, a register is written if the page has WRITE, a view reaches the register, every clock on the
path runs, the tile is not stalled and the value asks for nothing reserved. -/
theorem State.viewWrite_page {wr : Bool} (hpage : (s.viewPages v)[off / 4096]? = some (page, wr))
    (hreg : s.target (page + off % 4096 - regBase) n = .reg r b w) :
    s.viewWrite v hub off n x =
      if !wr || r.driverBarred || !s.pathAlive hub (page + off % 4096) || s.stalledAt (page + off % 4096) ||
          s.regRefuses r (regWriteOf (page + off % 4096 - regBase) n b x) then
        .next (s.regError (.view v hub) (page + off % 4096))
      else s.regWrite r (regWriteOf (page + off % 4096 - regBase) n b x) := by
  rw [State.viewWrite, if_neg (Nat.not_le.mpr ho), hpage]
  -- The kernel would compute the register map at an address that is not a literal, so the map is made a variable.
  obtain ⟨target, htarget⟩ : ∃ f, f = State.target s := ⟨_, rfl⟩
  rw [← htarget] at hreg ⊢
  simp only [hreg]

theorem State.viewWrite_read_only (hpage : (s.viewPages v)[off / 4096]? = some (page, false))
    (hreg : s.target (page + off % 4096 - regBase) n = .reg r b w) :
    s.viewWrite v hub off n x = .next (s.regError (.view v hub) (page + off % 4096)) := by
  rw [State.viewWrite_page v hub n x ho hpage hreg, if_pos (by simp)]

theorem State.viewWrite_granted (hpage : (s.viewPages v)[off / 4096]? = some (page, true))
    (hreg : s.target (page + off % 4096 - regBase) n = .reg r b w) (hbar : r.driverBarred = false)
    (hpath : s.pathAlive hub (page + off % 4096) = true) (hstall : s.stalledAt (page + off % 4096) = false)
    (hasked : s.regRefuses r (regWriteOf (page + off % 4096 - regBase) n b x) = false) :
    s.viewWrite v hub off n x = s.regWrite r (regWriteOf (page + off % 4096 - regBase) n b x) := by
  rw [State.viewWrite_page v hub n x ho hpage hreg, if_neg (by simp [hbar, hpath, hstall, hasked])]

end

/-- The low byte of a 32-bit write at a register's base is the low byte written. -/
theorem regWriteOf_merge_byte (o old : Nat) (x : W64) :
    ((regWriteOf o 4 o x).merge old % 2 ^ 32) % 256 = x.toNat % 256 := by
  simp only [regWriteOf, RegWrite.merge, fieldAt, Nat.reduceEqDiff, if_false, if_true]
  omega

/-- A 32-bit write of PMG_TLIMIT from 70 to 105 sets the limit (R399). -/
theorem State.regWrite_tlimit (s : State) (o : Nat) (x : W64) (hlo : 70 ≤ x.toNat % 256) (hhi : x.toNat % 256 ≤ 105) :
    s.regWrite .tlimit (regWriteOf o 4 o x) =
      .next { s with power := { s.power with tlimit := BitVec.ofNat 8 (x.toNat % 256) } } := by
  simp only [State.regWrite, State.writeTlimit, BitVec.toNat_ofNat, regWriteOf_merge_byte, if_pos (And.intro hlo hhi)]

/-! ### The obligation -/

/-- Settles O57: each SPDM answer from the one lemma on requests, MCTP accesses by what the address names, and view writes by
what the view's page grants. The forms of the SPDM and MCTP answers are those of assumption 64. -/
theorem managementMessages : Obligations.ManagementMessages := by
  intro s m addr
  refine ⟨fun hok hfail => ?_, fun hp => ?_, fun v hub off x hh hv ho hup => ?_⟩
  · refine ⟨runs_spdm hok hfail rfl, runs_spdm hok hfail rfl, runs_spdm hok hfail rfl,
      runs_spdm hok hfail rfl, fun _ _ => runs_spdm hok hfail rfl, runs_challenge hok hfail m,
      runs_getMeasurements hok hfail (by decide) (by decide) rfl, runs_getMeasurements hok hfail (by decide) (by decide) rfl,
      fun hb => ?_, fun b hb hd => ?_, fun _ => runs_spdm hok hfail rfl⟩
    · exact runs_getMeasurements hok hfail (by decide) (by decide) (State.measurement_no_base hb)
    · exact runs_getMeasurements hok hfail (by decide) (by decide) (State.measurement_base hb hd)
  · refine ⟨⟨_, execMctpControl_of_powered hp m, rfl⟩, fun r b ht => ⟨?read, ?readOnly, ?mgCtl⟩,
      fun ht hrun => ⟨?readNone, ?writeNone⟩⟩
    case read => exact ⟨_, execMctpRegisterRead_some hp ht, rfl⟩
    case readOnly => exact fun hr v => execMctpRegisterWrite_readOnly hp ht hr v
    case mgCtl =>
      rintro rfl v
      have hw : exec (.mctpRegisterWrite addr v) s = s.writeMgctl v.toNat := execMctpRegisterWrite_mgCtl hp ht v
      refine ⟨fun h2 => ?_, fun h0 => hw.trans (s.writeMgctl_none h0), fun h1 => hw.trans (s.writeMgctl_remreq h1),
        fun h2 => hw.trans (s.writeMgctl_remcancel h2)⟩
      exact ⟨_, hw.trans (State.writeMgctl_reset hp h2), s.moduleReset_lost 2,
        s.moduleReset_hostKept 2, s.moduleReset_startsIf 2⟩
    case readNone =>
      refine ⟨_, execMctpRegisterRead_none hp ht, ?_, State.regError_recorded .bmc addr hrun⟩
      rw [s.regError_eq .bmc addr]
      rfl
    case writeNone => exact fun v => runs_regError (execMctpRegisterWrite_none hp ht v) hrun
  · have hview := exec_registerWrite_view (off := off) 4 x hh hv (by omega) hup
    refine ⟨fun hpage => ?_, fun page r b w hpage hreg hrun => ?_, fun page w hpage hreg hpath hstall hlo hhi => ?_⟩
    · exact runs_report (hview.trans (State.viewWrite_no_page v hub 4 x ho hpage))
    · exact runs_regError (hview.trans (State.viewWrite_read_only v hub 4 x ho hpage hreg)) hrun
    · have hset := State.viewWrite_granted v hub 4 x ho hpage hreg rfl hpath hstall rfl
      exact ⟨_, (hview.trans hset).trans (s.regWrite_tlimit _ x hlo hhi), rfl⟩

end Sys2Proof.Machine
end

section
/-! SUPPORT. What moving functions to DRAINING leaves of the tiles and of the rest of the state (R339). -/
namespace Sys2Proof.Machine

/-! ### The tiles -/

/-- The tile is as it was, but for its sequencers and step registers. -/
def Tile.Kept (x y : Tile) : Prop := y = { x with seqs := y.seqs, step := y.step }

theorem Tile.Kept.refl (x : Tile) : x.Kept x := rfl

theorem Tile.Kept.trans {x y z : Tile} (h : x.Kept y) (k : y.Kept z) : x.Kept z := by
  unfold Tile.Kept at h k ⊢
  rw [k, h]

theorem Tile.Kept.plates {x y : Tile} (h : x.Kept y) : y.plates = x.plates := by rw [h]
theorem Tile.Kept.banks {x y : Tile} (h : x.Kept y) : y.banks = x.banks := by rw [h]
theorem Tile.Kept.meFault {x y : Tile} (h : x.Kept y) : y.meFault = x.meFault := by rw [h]
theorem Tile.Kept.veFault {x y : Tile} (h : x.Kept y) : y.veFault = x.veFault := by rw [h]
theorem Tile.Kept.stalled {x y : Tile} (h : x.Kept y) : y.stalled = x.stalled := by rw [h]
theorem Tile.Kept.eccSuspect {x y : Tile} (h : x.Kept y) : y.eccSuspect = x.eccSuspect := by rw [h]
theorem Tile.Kept.outOfService {x y : Tile} (h : x.Kept y) : y.outOfService = x.outOfService := by rw [h]

/-- Every tile is kept. -/
def TilesKept (s t : State) : Prop := ∀ n, (s.tile n).Kept (t.tile n)

theorem TilesKept.refl (s : State) : TilesKept s s := fun _ => .refl _

theorem TilesKept.trans {s t u : State} (h : TilesKept s t) (k : TilesKept t u) : TilesKept s u :=
  fun n => (h n).trans (k n)

/-- An update that touches no tile keeps them all. -/
theorem TilesKept.of_eq {s t : State} (h : ∀ n, t.tile n = s.tile n) : TilesKept s t :=
  fun n => by rw [h n]; exact .refl _

theorem CplOnly.tilesKept {s t : State} (h : CplOnly s t) : TilesKept s t := .of_eq h.tile

theorem TilesKept.fold {β : Type} (f : State → β → State) (hf : ∀ s b, TilesKept s (f s b)) (bs : List β) :
    ∀ s : State, TilesKept s (bs.foldl f s) := by
  induction bs with
  | nil => exact TilesKept.refl
  | cons b bs ih => exact fun s => (hf s b).trans (ih _)

theorem State.onTile_tilesKept (s : State) (n : Nat) (f : Tile → Tile) (hf : ∀ x : Tile, x.Kept (f x)) :
    TilesKept s (s.onTile n f) := by
  intro j
  rw [State.onTile_tile]
  split
  next h => rw [h]; exact hf _
  next => exact .refl _

theorem State.onTiles_tilesKept (s : State) (f : Nat → Tile → Tile)
    (hf : ∀ n (x : Tile), x.Kept (f n x) := by intros; rfl) :
    TilesKept s (s.onTiles f) :=
  TilesKept.fold _ (fun s n => s.onTile_tilesKept n _ (hf n)) _ s

theorem State.setFunc_tilesKept (s : State) (fn : Nat) (f : Func) : TilesKept s (s.setFunc fn f) := .of_eq fun _ => rfl

theorem State.setHub_tilesKept (s : State) (h : Nat) (v : Hub) : TilesKept s (s.setHub h v) := .of_eq fun _ => rfl

theorem State.endJob_tilesKept (s : State) (fn st : Nat) : TilesKept s (s.endJob fn st) := by
  unfold State.endJob State.clearSteps
  exact ((((s.setFunc_tilesKept fn _).trans (State.onTiles_tilesKept _ _)).trans (State.onTiles_tilesKept _ _)).trans
    (State.completeAll_cpl _ _ _ _).tilesKept).trans (State.completeAll_cpl _ _ _ _).tilesKept

theorem State.closeWindows_tilesKept (s : State) (fn : Nat) : TilesKept s (s.closeWindows fn) := by
  unfold State.closeWindows
  exact TilesKept.fold _ (fun s h => s.setHub_tilesKept h _) _ s

theorem State.releaseDebug_tilesKept (s : State) (fn : Nat) : TilesKept s (s.releaseDebug fn) := by
  unfold State.releaseDebug
  exact (s.onTiles_tilesKept _).trans (.of_eq fun _ => rfl)

theorem State.stopSequencers_tilesKept (s : State) (fn : Nat) : TilesKept s (s.stopSequencers fn) := s.onTiles_tilesKept _

theorem State.drain_tilesKept (s : State) (fn : Nat) : TilesKept s (s.drain fn) := by
  unfold State.drain
  dsimp only
  split
  · exact (((((s.endJob_tilesKept fn _).trans (State.setFunc_tilesKept _ fn _)).trans
      (State.stopSequencers_tilesKept _ fn)).trans (State.releaseDebug_tilesKept _ fn)).trans
      (State.closeWindows_tilesKept _ fn)).trans (State.completeAll_cpl _ _ _ _).tilesKept
  · exact .refl s

/-! ### Any number of functions -/

/-- Between `s` and `t` functions have at most moved to DRAINING: no error record, stack or byte of the module's memory has
changed, and a function that was DRAINING stands as it stood. -/
structure Drained (s t : State) : Prop where
  errs : t.errs = s.errs
  hbmStacks : t.hbmStacks = s.hbmStacks
  host : HostOnly s t
  tiles : TilesKept s t
  settled : ∀ j, (s.func j).state = .draining → t.func j = s.func j

theorem Drained.refl (s : State) : Drained s s := ⟨rfl, rfl, fun _ _ => rfl, .refl s, fun _ _ => rfl⟩

theorem Drained.trans {s t u : State} (h : Drained s t) (k : Drained t u) : Drained s u where
  errs := k.errs.trans h.errs
  hbmStacks := k.hbmStacks.trans h.hbmStacks
  host z hz := (k.host z hz).trans (h.host z hz)
  tiles := h.tiles.trans k.tiles
  settled j hj := (k.settled j (by rw [h.settled j hj, hj])).trans (h.settled j hj)

theorem State.drain_of_draining {s : State} {fn : Nat} (h : (s.func fn).state = .draining) : s.drain fn = s := by
  simp [State.drain, h]

theorem State.drain_drained (s : State) (fn : Nat) : Drained s (s.drain fn) := by
  obtain ⟨heq, hhost, hfuncs⟩ := s.drain_job fn
  refine ⟨by rw [heq], by rw [heq], hhost, s.drain_tilesKept fn, fun j hj => ?_⟩
  by_cases h : j = fn
  · subst h; rw [State.drain_of_draining hj]
  · exact hfuncs j h

/-- Each function of a list moves to DRAINING. -/
theorem State.drainEach_drained (fs : List Nat) : ∀ s : State, Drained s (fs.foldl (fun s n => s.drain n) s) := by
  induction fs with
  | nil => exact Drained.refl
  | cons n fs ih => exact fun s => (s.drain_drained n).trans (ih _)

theorem State.drainEach_state {fn : Nat} {fs : List Nat} (hm : fn ∈ fs) :
    ∀ s : State, (s.func fn).state = .on → ((fs.foldl (fun s n => s.drain n) s).func fn).state = .draining := by
  induction fs with
  | nil => cases hm
  | cons n fs ih =>
    intro s hon
    rw [List.foldl_cons]
    by_cases h : fn = n
    · subst h
      have hd := s.drain_state fn (.inl hon)
      rw [(State.drainEach_drained fs _).settled fn hd, hd]
    · refine ih (List.mem_of_ne_of_mem h hm) _ ?_
      obtain ⟨-, -, hfuncs⟩ := s.drain_job n
      rw [hfuncs fn h, hon]

/-- A job that runs does not outlast the draining of its function. -/
theorem State.drain_run {s : State} {fn : Nat} (h : (s.func fn).state = .on) : ((s.drain fn).func fn).run = false := by
  unfold State.drain State.releaseDebug
  dsimp only
  rw [if_pos (.inl h), (State.completeAll_cpl _ _ _ _).func, State.closeWindows_func]
  show (((State.stopSequencers _ fn).onTiles _).func fn).run = _
  rw [State.onTiles_func, State.stopSequencers, State.onTiles_func]
  simp [State.onFunc, State.endJob_func]

theorem Drained.stack {s t : State} (h : Drained s t) (k : Nat) : t.stack k = s.stack k := by
  unfold State.stack
  rw [h.hbmStacks]

theorem Drained.recorded {s t : State} (h : Drained s t) {code cls : Nat} {fn : Option Nat} (hr : Recorded s code cls fn) :
    Recorded t code cls fn := by
  unfold Recorded at hr ⊢
  rwa [h.errs]

end Sys2Proof.Machine
end

section
/-! Slow patrol, failed stacks and stalled tiles (R28, R304, R306). -/
namespace Sys2Proof.Machine

theorem State.mem_stackUsers_lt {s : State} {k fn : Nat} (h : fn < 16) (hu : k = 0 ∨ fn ∈ s.stackUsers k) :
    fn ∈ if k = 0 then funcIds else s.stackUsers k := by
  split
  next => exact List.mem_range.mpr h
  next hk => exact hu.resolve_left hk

theorem runs_stackFailed {s : State} {k : Nat} (hfit : s.stackFitted k = true) (hup : (s.stack k).failed = false) :
    Runs (.stackFailed k) s fun t =>
      (t.stack k).failed = true ∧ Recorded t eStackFailed clsFunction none ∧ HostOnly s t ∧
      ∀ fn, fn < 16 → (s.func fn).state = .on → (k = 0 ∨ fn ∈ s.stackUsers k) → (t.func fn).state = .draining := by
  have hx : exec (.stackFailed k) s = .next (s.failStack k) := by
    show execStackFailed k s = _
    simp [execStackFailed, hfit, hup]
  refine ⟨_, hx, ?_⟩
  unfold State.failStack
  dsimp only
  have hd := State.drainEach_drained (if k = 0 then funcIds else s.stackUsers k)
    ((s.setStack k { s.stack k with failed := true }).report
      { code := eStackFailed, cls := clsFunction, unit := k, loss := true })
  refine ⟨?_, hd.recorded (State.report_recorded _ _), hd.host, fun fn h16 hon hu => ?_⟩
  · rw [hd.stack, State.report_stack_eq, State.setStack_stack_self]
  · exact State.drainEach_state (State.mem_stackUsers_lt h16 hu) _ hon

theorem noEffect_tileStall {s : State} {n : Nat} (hfit : s.tileFitted n = true) (hup : (s.tile n).stalled = false)
    (h : ∀ e ∈ (s.tile n).seqs, s.seqCanProceed n e.1 e.2 = false) : NoEffect (.tileStall n) s := by
  have hn : (s.tile n).seqs.any (fun e => s.seqCanProceed n e.1 e.2) = false := by
    rw [List.any_eq_false]
    exact fun e he => by rw [h e he]; decide
  show execTileStall n s = .next s
  simp [execTileStall, hfit, hup, hn, State.noEvent]

/-- The record of a stall names the tile and the functions that hold a share on it (R439). -/
def stallReport (n : Nat) (fs : List Nat) : Report :=
  { code := eTileStall, cls := clsFunction, unit := n, loss := true
    a := fs.foldl (fun (m : BitVec 16) f => m ||| BitVec.ofNat 16 (2 ^ f)) 0 |>.toNat }

theorem runs_tileStall {s : State} {n : Nat} (hfit : s.tileFitted n = true) (hup : (s.tile n).stalled = false)
    (h : ∃ e ∈ (s.tile n).seqs, s.seqCanProceed n e.1 e.2 = true) :
    Runs (.tileStall n) s fun t =>
      (t.tile n).stalled = true ∧ Recorded t eTileStall clsFunction none ∧ HostOnly s t ∧
      ∀ fn ∈ (s.tile n).funcs, (s.func fn).state = .on → (t.func fn).state = .draining := by
  have hx : exec (.tileStall n) s = .next ((s.tile n).funcs.foldl (fun s f => s.drain f)
      ((s.onTile n fun x => { x with stalled := true }).report (stallReport n (s.tile n).funcs))) := by
    show execTileStall n s = _
    simp only [execTileStall, hfit, hup, List.any_eq_true.mpr h, Bool.not_true, Bool.false_eq_true, if_false, if_true,
      stallReport]
  have hd := State.drainEach_drained (s.tile n).funcs
    ((s.onTile n fun x => { x with stalled := true }).report (stallReport n (s.tile n).funcs))
  refine ⟨_, hx, ?_, hd.recorded (State.report_recorded _ _), hd.host, fun fn hm hon => State.drainEach_state hm _ hon⟩
  rw [(hd.tiles n).stalled]
  exact congrArg Tile.stalled (s.setTile_tile_self n _)

/-- Settles O31: a failed stack and a stalled tile each report, then drain the functions that they name one after the other. -/
theorem stackAndTileFailures : Obligations.StackAndTileFailures := by
  intro s d k n
  refine ⟨fun hfit => ⟨_, if_pos hfit, rfl⟩, runs_stackFailed,
    fun hfit hup => ⟨noEffect_tileStall hfit hup, runs_tileStall hfit hup⟩⟩

end Sys2Proof.Machine
end

section
/-! Where a tile instruction does not run: held back, broken off at a breakpoint, or faulted (R28, R35, R36, R111, R116, R142,
R143, R443, R452). -/
namespace Sys2Proof.Machine

/-! ### Breakpoints (R452) -/

theorem bitOf_toNat {w : Nat} (v : BitVec w) (n : Nat) : bitOf v.toNat n = v.getLsbD n := by
  rw [BitVec.getLsbD, Nat.testBit_eq_decide_div_mod_eq]
  rfl

/-- Setting the bits of a list in a register of 16 leaves each of them set. -/
theorem getLsbD_setBits (ns : List Nat) (k : Nat) : ∀ v : BitVec 16,
    (ns.foldl (fun v n => v ||| BitVec.ofNat 16 (2 ^ n)) v).getLsbD k = (v.getLsbD k || decide (k < 16 ∧ k ∈ ns)) := by
  induction ns with
  | nil => simp
  | cons n ns ih =>
    intro v
    rw [List.foldl_cons, ih, BitVec.getLsbD_or, BitVec.getLsbD_ofNat, Nat.testBit_two_pow, Bool.or_assoc]
    by_cases h : k = n
    · subst h; by_cases h16 : k < 16 <;> simp [h16]
    · simp [h, Ne.symm h]

theorem State.onTiles_only (s : State) (f : Nat → Tile → Tile) : s.onTiles f = { s with tiles := (s.onTiles f).tiles } := by
  unfold State.onTiles
  exact List.foldlRecOn (motive := fun t : State => t = { s with tiles := t.tiles }) _ _ rfl
    fun t h n _ => congrArg (State.onTile · n (f n)) h

/-- The sequencer of entry `e` halted, if the function owns it; what was halted keeps its reason. -/
def Tile.haltSeq (x : Tile) (fn reason : Nat) (m : Table Sequencer) (e : Nat) : Table Sequencer :=
  if x.owns fn e then
    let q := tget {} m e
    tset {} m e { q with halted := true, reason := if q.halted then q.reason else BitVec.ofNat 3 reason }
  else m

theorem Tile.haltSeq_halted (x : Tile) (fn reason : Nat) {m : Table Sequencer} {k : Nat} (e : Nat)
    (h : (tget {} m k).halted = true) : (tget {} (x.haltSeq fn reason m e) k).halted = true := by
  unfold Tile.haltSeq
  split
  · rw [tget_tset]
    split
    · rfl
    · exact h
  · exact h

/-- Sequencers have at most halted: memory and the breakpoints hit are as they were, and so are the tiles otherwise. -/
structure HaltsOnly (s t : State) : Prop where
  tiles : TilesKept s t
  halted : ∀ n e, (tget {} (s.tile n).seqs e).halted = true → (tget {} (t.tile n).seqs e).halted = true
  mem : t.mem = s.mem
  bphit : t.dbg.bphit = s.dbg.bphit

theorem HaltsOnly.refl (s : State) : HaltsOnly s s := ⟨.refl s, fun _ _ h => h, rfl, rfl⟩

theorem State.haltAll_haltsOnly (s : State) (fn reason : Nat) : HaltsOnly s (s.haltAll fn reason) := by
  unfold State.haltAll
  refine ⟨s.onTiles_tilesKept _, fun n e h => ?_, by rw [State.onTiles_only], by rw [State.onTiles_only]⟩
  refine List.foldlRecOn (motive := fun t : State => (tget {} (t.tile n).seqs e).halted = true) _ _ h fun t ht k _ => ?_
  rw [State.onTile_tile]
  split
  next hn =>
    subst hn
    exact List.foldlRecOn (motive := fun m : Table Sequencer => (tget {} m e).halted = true) _
      ((t.tile n).haltSeq fn reason) ht fun m hm i _ => (t.tile n).haltSeq_halted fn reason i hm
  next => exact ht

/-- What a breakpoint makes of the state before its function's other tiles halt with it, if they do. -/
def State.breakAt (s : State) (t e : Nat) (ns : List Nat) : State :=
  let s := s.onTile t fun x => { x with seqs := tset {} x.seqs e { tget {} x.seqs e with halted := true, reason := 2 } }
  { s with dbg := { s.dbg with bphit := ns.foldl (fun v n => v ||| BitVec.ofNat 16 (2 ^ n)) s.dbg.bphit } }

theorem State.breakAt_bphit (s : State) (t e : Nat) {ns : List Nat} {n : Nat} (h16 : n < 16) (hn : n ∈ ns) :
    bitOf (s.breakAt t e ns).dbg.bphit.toNat n = true := by
  rw [bitOf_toNat]
  exact (getLsbD_setBits ns n _).trans (by simp [h16, hn])

theorem State.hitBreak_haltsOnly (s : State) (t e fn : Nat) (ns : List Nat) :
    HaltsOnly (s.breakAt t e ns) (s.hitBreak t e fn ns) := by
  show HaltsOnly _ (if _ then (s.breakAt t e ns).haltAll fn 2 else s.breakAt t e ns)
  split
  · exact State.haltAll_haltsOnly _ fn 2
  · exact .refl _

theorem State.breakpoints_lt {s : State} {t fn n : Nat} {iaddr : W32} (h : n ∈ s.breakpoints t fn iaddr) : n < 16 :=
  List.mem_range.mp (List.mem_filter.mp h).1

/-- A breakpoint halts the sequencer, sets the bit of each breakpoint that matched, and leaves plates and memory. -/
theorem State.hitBreak_spec (s : State) (a : At) :
    let t := s.hitBreak a.tile a.entry (s.fnAt a) (s.breakpoints a.tile (s.fnAt a) (s.seqAt a).iaddr)
    (t.seqAt a).halted = true ∧ (t.tileAt a).plates = (s.tileAt a).plates ∧ SameMemory s t ∧
      ∀ n ∈ s.breakpoints a.tile (s.fnAt a) (s.seqAt a).iaddr, bitOf t.dbg.bphit.toNat n = true := by
  generalize hns : s.breakpoints a.tile (s.fnAt a) (s.seqAt a).iaddr = ns
  obtain ⟨tiles, halted, mem, bphit⟩ := s.hitBreak_haltsOnly a.tile a.entry (s.fnAt a) ns
  have htile : (s.breakAt a.tile a.entry ns).tile a.tile = { s.tile a.tile with
      seqs := tset {} (s.tile a.tile).seqs a.entry { tget {} (s.tile a.tile).seqs a.entry with halted := true, reason := 2 } } :=
    s.setTile_tile_self _ _
  refine ⟨halted _ _ ?_, ?_, fun z => ?_, fun n hn => ?_⟩
  · rw [htile, tget_tset_self]
  · rw [State.tileAt, (tiles a.tile).plates, htile]; rfl
  · rw [State.byte, mem]; rfl
  · rw [bphit]
    exact s.breakAt_bphit _ _ (State.breakpoints_lt (hns ▸ hn)) hn

/-! ### Faults (R35, R111, R116, R143, R443) -/

/-- From state `s` an instruction of function `fn` has failed on tile `n`: the function is DRAINING without its job, the record
is held, and the tile is `x` but for its sequencers and step registers. -/
structure Failed (s t : State) (n fn code : Nat) (x : Tile) : Prop where
  state : (t.func fn).state = .draining
  run : (t.func fn).run = false
  recorded : Recorded t code clsFunction (some fn)
  host : HostOnly s t
  tile : x.Kept (t.tile n)

/-- Every failure of an instruction marks its tile, stops the sequencer, makes a record and drains the function. -/
theorem State.failed_of_drain {s : State} {n fn : Nat} (e : Nat) (f : Tile → Tile) (p : Report) (hon : (s.func fn).state = .on)
    (hcls : p.cls = clsFunction) (hfunc : p.func = some fn) :
    Failed s ((((s.onTile n f).stopSeq n e).report p).drain fn) n fn p.code (f (s.tile n)) := by
  have hd := State.drain_drained (((s.onTile n f).stopSeq n e).report p) fn
  refine ⟨State.drain_state _ fn (.inl hon), State.drain_run hon, hd.recorded ?_, hd.host, Tile.Kept.trans ?_ (hd.tiles n)⟩
  · have hr := State.report_recorded ((s.onTile n f).stopSeq n e) p
    rwa [hcls, hfunc] at hr
  · rw [State.report_tile_eq, State.stopSeq, State.onTile_tile, if_pos rfl, State.onTile_tile, if_pos rfl]
    rfl

/-- Taking the tile out of service besides leaves the failure as it is (R116). -/
theorem Failed.retireTile {s t : State} {n fn code : Nat} {x : Tile} (h : Failed s t n fn code x) :
    Failed s (t.retireTile n) n fn code { x with outOfService := true } := by
  have hd : Drained (t.onTile n fun x => { x with outOfService := true }) (t.retireTile n) := State.drainEach_drained _ _
  have hf : (t.retireTile n).func fn = t.func fn := hd.settled fn h.state
  refine ⟨by rw [hf, h.state], by rw [hf, h.run], hd.recorded h.recorded, fun z hz => (hd.host z hz).trans (h.host z hz),
    Tile.Kept.trans ?_ (hd.tiles n)⟩
  rw [State.onTile_tile, if_pos rfl]
  exact congrArg (fun y : Tile => { y with outOfService := true }) h.tile

section
variable {s : State} {n fn : Nat} (hon : (s.func fn).state = .on) (g : Eng) (e unit : Nat) (iaddr : W32)
include hon

theorem State.tilePartition_failed (name : Nat) :
    Failed s (s.tilePartition g n e fn unit iaddr name) n fn ePartition ((s.tile n).fault g iaddr fn unit 1) :=
  State.failed_of_drain e _ _ hon rfl rfl

theorem State.tileSequence_failed : ∃ x, Failed s (s.tileSequence g n e fn unit iaddr) n fn eSequence x ∧
    x = { (s.tile n).fault g iaddr fn unit 2 with
      seqFaults := x.seqFaults, eccSuspect := x.eccSuspect, outOfService := x.outOfService } := by
  unfold State.tileSequence
  dsimp only
  split
  · exact ⟨_, (State.failed_of_drain e _ _ hon rfl rfl).retireTile, rfl⟩
  · exact ⟨_, State.failed_of_drain e _ _ hon rfl rfl, rfl⟩

theorem State.tileUE_failed (dpa : Nat) : ∃ x, Failed s (s.tileUE n e fn dpa) n fn eSramUE x ∧
    x = { s.tile n with eccSuspect := true, eccUE := x.eccUE, outOfService := x.outOfService } ∧
    ((s.tile n).eccSuspect = true → x.outOfService = true) := by
  unfold State.tileUE
  dsimp only
  split
  next => exact ⟨_, (State.failed_of_drain e _ _ hon rfl rfl).retireTile, rfl, fun _ => rfl⟩
  next hs => exact ⟨_, State.failed_of_drain e _ _ hon rfl rfl, rfl, fun h => absurd h hs⟩

end

theorem Tile.fault_plates (x : Tile) (g : Eng) (iaddr : W32) (fn unit code : Nat) :
    (x.fault g iaddr fn unit code).plates = x.plates := by cases g <;> rfl

theorem Tile.fault_banks (x : Tile) (g : Eng) (iaddr : W32) (fn unit code : Nat) :
    (x.fault g iaddr fn unit code).banks = x.banks := by cases g <;> rfl

/-- A fault register takes a fault unless it still holds one (R119, R145). -/
theorem FaultReg.fill_spec (r : FaultReg) (iaddr : W32) {fn : Nat} (unit code : Nat) (hfn : fn < 16) :
    let r' := r.fill iaddr fn unit code
    if r.valid = true then r' = r
    else r'.valid = true ∧ r'.iaddr = iaddr ∧ r'.func.toNat = fn ∧ r'.code = BitVec.ofNat 8 code := by
  dsimp only
  split
  next h => exact if_pos h
  next h =>
    rw [FaultReg.fill, if_neg h]
    exact ⟨rfl, rfl, Nat.mod_eq_of_lt hfn, rfl⟩

theorem State.fnAt_lt (s : State) (a : At) : s.fnAt a < 16 := (s.partAt a).func.isLt

theorem Issues.on {s : State} {a : At} {g : Eng} (h : Issues s a g) : (s.func (s.fnAt a)).state = .on := by
  obtain ⟨-, hh, -⟩ := h
  exact Decidable.byContradiction fun hoff => hh (.inr (.inr (.inr (.inr (.inr (.inl hoff))))))

theorem State.addPoison_func (s : State) (z fn : Nat) : (s.addPoison z).func fn = s.func fn := by
  unfold State.addPoison
  dsimp only
  split <;> rfl

theorem State.addPoison_tile (s : State) (z n : Nat) : (s.addPoison z).tile n = s.tile n := by
  unfold State.addPoison
  dsimp only
  split <;> rfl

theorem Failed.faulted {s t : State} {a : At} {fn code : Nat} {x : Tile} (h : Failed s t a.tile fn code x)
    (hp : x.plates = (s.tileAt a).plates) (hb : x.banks = (s.tileAt a).banks) :
    (t.func fn).state = .draining ∧ (t.func fn).run = false ∧ Recorded t code clsFunction (some fn) ∧
    (t.tileAt a).plates = (s.tileAt a).plates ∧ (t.tileAt a).banks = (s.tileAt a).banks :=
  ⟨h.state, h.run, h.recorded, h.tile.plates.trans hp, h.tile.banks.trans hb⟩

/-! ### The common form of vector instructions (R121, R125) -/

theorem frameOk_eq_false {op : VOp} (h : op.w1b15 = true ∨ op.count.toNat = 0 ∨ op.ty.toNat = 3) : frameOk op = false := by
  unfold frameOk countOk
  rcases h with h | h | h
  · simp [h]
  · simp [h]
  · have hty : op.ty = 3 := BitVec.eq_of_toNat_eq h
    simp [hty]

theorem vissue_of_held {s : State} {a : At} (hp : Placed s a) (h : Held s a) (op : VOp) (u : Upset) (tys : List Nat) (sub : Nat)
    (body : Part → Body) : vissue a op u tys sub s body = .next s := State.issue_held hp h _ _ _

theorem vissue_of_broken {s : State} {a : At} (hp : Placed s a) (h : ¬Held s a) (hb : Broken s a) (op : VOp) (u : Upset)
    (tys : List Nat) (sub : Nat) (body : Part → Body) :
    vissue a op u tys sub s body =
      .next (s.hitBreak a.tile a.entry (s.fnAt a) (s.breakpoints a.tile (s.fnAt a) (s.seqAt a).iaddr)) :=
  State.issue_break hp h hb _ _ _

/-- A vector instruction whose common fields are legal issues and runs its body. -/
theorem vissue_of_ready {s : State} {a : At} {op : VOp} {tys : List Nat} {sub : Nat} (h : VecReady s a op tys sub)
    (h3 : 3 ∉ tys) (u : Upset) (body : Part → Body) :
    vissue a op u tys sub s body =
      s.finishBody .ve a.tile a.entry (s.fnAt a) op.chain.toNat (s.seqAt a).iaddr u (body (s.partAt a)) := by
  obtain ⟨hissues, -, -, h1, h2, h15, hty, hsub⟩ := h
  have hne : op.ty ≠ 3#2 := fun h => h3 (by rw [h] at hty; exact hty)
  rw [vissue, State.issue_eq hissues]
  simp [frameOk, countOk, h1, h2, h15, hne, hty, Nat.not_lt.mpr hsub]

/-- A vector instruction with a reserved value comes to a sequence fault (R44, R121, R125, R127, R444). -/
theorem vissue_of_reserved {s : State} {a : At} {op : VOp} {tys : List Nat} {sub : Nat} (h : Issues s a)
    (hbad : frameOk op = false ∨ sub < op.subop.toNat) (u : Upset) (body : Part → Body) :
    vissue a op u tys sub s body =
      .next (s.tileSequence .ve a.tile a.entry (s.fnAt a) op.chain.toNat (s.seqAt a).iaddr) := by
  rw [vissue, State.issue_eq h, if_pos (by rcases hbad with hf | hs <;> simp [*])]
  rfl

/-! ### VLD -/

section
variable {s : State} {a : At} {op : VOp} (h : VecReady s a op [0] 0)
include h

theorem VecReady.on : (s.func (s.fnAt a)).state = .on := by
  obtain ⟨hissues, -⟩ := h
  exact hissues.on

theorem VecReady.ty_eq_zero : op.ty = 0 := by
  obtain ⟨-, -, -, -, -, -, hty, -⟩ := h
  exact BitVec.eq_of_toNat_eq (List.mem_singleton.mp hty)

theorem VecReady.vld : VecReady s a op tyFI 0 := by
  obtain ⟨hissues, hclean, hwatch, h1, h2, h15, hty, hsub⟩ := h
  exact ⟨hissues, hclean, hwatch, h1, h2, h15, List.mem_cons.mpr (.inl (List.mem_singleton.mp hty)), hsub⟩

/-- VLD that reads past its share is a partition fault named by its address (R35, R130). -/
theorem exec_vld_of_outside (u : Upset) (hconv : convOk op = true)
    (hrun : runOk op.w2 = true) (hal : alignedFor (fmtWidth (cvtFmt op.w1hi.toNat)) (sramAddr op) = true)
    (hout : (s.partAt a).sramOk (sramAddr op) (packedBytes (fmtWidth (cvtFmt op.w1hi.toNat)) op.count.toNat) = false) :
    exec (.vld a op u) s =
      .next (s.tilePartition .ve a.tile a.entry (s.fnAt a) op.chain.toNat (s.seqAt a).iaddr (sramAddr op)) := by
  show execVld a op u s = _
  rw [execVld, vissue_of_ready h.vld (by decide)]
  simp [h.ty_eq_zero, hconv, hrun, hal, hout, State.finishBody]

/-- An uncorrectable word among the bytes that a VLD reads stops it (R443). -/
theorem exec_vld_of_sramUE {z : Nat} (hm : VmemReady s a op) (hlo : (s.partAt a).sram a.tile (sramAddr op) ≤ z)
    (hhi : z < (s.partAt a).sram a.tile (sramAddr op) + packedBytes (fmtWidth (cvtFmt op.w1hi.toNat)) op.count.toNat) :
    exec (.vld a op (.sramUE z)) s = .next ((s.addPoison z).tileUE a.tile a.entry (s.fnAt a) (poisonOf z)) := by
  obtain ⟨hconv, ⟨hrun, hin⟩, hal, hsram, hscale⟩ := hm
  obtain ⟨d, hd⟩ := Option.isSome_iff_exists.mp hin
  show execVld a op (.sramUE z) s = _
  rw [execVld, vissue_of_ready h.vld (by decide)]
  by_cases hsc : scaleBytes op op.count.toNat = 0
  · simp [h.ty_eq_zero, hconv, hrun, hal, hsram, hd, hsc, State.finishBody, inRanges, hlo, hhi]
  · simp [h.ty_eq_zero, hconv, hrun, hal, hsram, hd, hsc, hscale hsc, State.finishBody, inRanges, hlo, hhi]

end

/-! ### MCLR -/

/-- MCLR of a bank that is not the entry's is a partition fault named by the bank (R35, R118). -/
theorem exec_mclr_of_outside {s : State} {a : At} {bank : BitVec 2} (h : Issues s a .me)
    (hb : (s.partAt a).bankOk bank.toNat = false) :
    exec (.mclr a bank) s =
      .next (s.tilePartition .me a.tile a.entry (s.fnAt a) bank.toNat (s.seqAt a).iaddr bank.toNat) := by
  show execMclr a bank s = _
  rw [execMclr, State.issue_eq h]
  simp [hb, State.finishBody]

/-! ### The obligation -/

/-- Settles O17: what holds an instruction back and what breaks it off are decided before its body, and every fault marks its
tile, reports and drains its function. That a reserved value is a sequence fault is R444 as assumption 14 reads it. -/
theorem heldBrokenAndFaulted : Obligations.HeldBrokenAndFaulted := by
  refine ⟨fun s a hp => ⟨fun hh op u => ⟨?vadd, ?vld, ?vcomb, ?vred⟩, fun hh m k u bank => ⟨?mma, ?mtree, ?mdrain⟩,
    fun hh hb op => ?broken⟩, fun s a op bank => ⟨fun h hbad => ?sequence, fun h hb => ?bank,
      fun h hconv hrun hal hout => ?address, fun z h hm hlo hhi => ?sramUE⟩⟩
  case vadd => exact show execVadd a op s = _ from vissue_of_held hp hh ..
  case vld => exact show execVld a op u s = _ from vissue_of_held hp hh ..
  case vcomb => exact show execVcomb a op u s = _ from State.issue_held hp hh _ _ _
  case vred => exact show execVred a op s = _ from vissue_of_held hp hh ..
  case mma => exact show execMma a m u s = _ from State.issue_held hp hh _ _ _
  case mtree => exact show execMtree a k s = _ from State.issue_held hp hh _ _ _
  case mdrain => exact show execMdrain a bank true u s = _ from State.issue_held hp hh _ _ _
  case broken => exact ⟨_, show execVadd a op s = _ from vissue_of_broken hp hh hb .., s.hitBreak_spec a⟩
  case sequence =>
    have hbad : frameOk op = false ∨ 0 < op.subop.toNat := by
      rcases hbad with hw | hc | ht | hs
      · exact .inl (frameOk_eq_false (.inl hw))
      · exact .inl (frameOk_eq_false (.inr (.inl hc)))
      · exact .inl (frameOk_eq_false (.inr (.inr ht)))
      · exact .inr hs
    obtain ⟨x, hx, heq⟩ := State.tileSequence_failed h.on .ve a.entry op.chain.toNat (s.seqAt a).iaddr (n := a.tile)
    refine ⟨_, vissue_of_reserved h hbad _ _, hx.faulted ?_ ?_, hx.host, ?_⟩
    · rw [heq]; exact Tile.fault_plates ..
    · rw [heq]; exact Tile.fault_banks ..
    · have hr : (State.tileAt _ a).veFault = _ := hx.tile.veFault
      rw [heq] at hr
      rw [hr]
      exact FaultReg.fill_spec _ _ _ _ (s.fnAt_lt a)
  case bank =>
    have hx := State.tilePartition_failed h.on .me a.entry bank.toNat (s.seqAt a).iaddr bank.toNat (n := a.tile)
    refine ⟨_, exec_mclr_of_outside h hb, hx.faulted (Tile.fault_plates ..) (Tile.fault_banks ..), hx.host, ?_⟩
    have hr : (State.tileAt _ a).meFault = _ := hx.tile.meFault
    rw [hr]
    exact FaultReg.fill_spec _ _ _ _ (s.fnAt_lt a)
  case address =>
    have hx := State.tilePartition_failed (VecReady.on h) .ve a.entry op.chain.toNat (s.seqAt a).iaddr (sramAddr op) (n := a.tile)
    exact ⟨_, exec_vld_of_outside h _ hconv hrun hal hout, hx.faulted (Tile.fault_plates ..) (Tile.fault_banks ..), hx.host⟩
  case sramUE =>
    have hon : ((s.addPoison z).func (s.fnAt a)).state = .on := by rw [State.addPoison_func, VecReady.on h]
    obtain ⟨x, hx, heq, hout⟩ := State.tileUE_failed hon a.entry (poisonOf z) (n := a.tile)
    rw [State.addPoison_tile] at heq hout
    refine ⟨_, exec_vld_of_sramUE h hm hlo hhi, ?_, ?_, fun hs => ?_⟩
    · exact ⟨hx.state, hx.run, hx.recorded, hx.tile.plates.trans (by rw [heq]; rfl), hx.tile.banks.trans (by rw [heq]; rfl)⟩
    · exact hx.tile.eccSuspect.trans (by rw [heq])
    · exact hx.tile.outOfService.trans (hout hs)

end Sys2Proof.Machine
end

section
/-! A MULE item of one transfer, and the end of its list (R34, R249, R250, R458). -/
namespace Sys2Proof.Machine

/-! ### Items (R248 to R250) -/

theorem mem_tkeys_of_tget_ne {α : Type} {d : α} {t : Table α} {k : Nat} (h : tget d t k ≠ d) : k ∈ tkeys t := by
  induction t with
  | nil => exact absurd rfl h
  | cons e t ih =>
    obtain ⟨j, v⟩ := e
    by_cases hj : j = k
    · simp [tkeys, hj]
    · simp only [tget, if_neg hj] at h
      exact List.mem_cons_of_mem _ (ih h)

/-- An item set to any state but WAITING stands there. -/
theorem Func.setItem_item (f : Func) (k : Nat) {v : ItemSt} (h : v ≠ .waiting) : (f.setItem k v).item k = v := by
  have hget : tget .waiting (f.setItem k v).items k = v := tget_tset_self _ _ _ _
  have hkey : k ∈ tkeys (f.setItem k v).items := mem_tkeys_of_tget_ne (by rw [hget]; exact h)
  rw [Func.item, if_pos (.inr (List.contains_iff_mem.mpr hkey)), hget]

/-- An item that is ready acts. -/
theorem State.withItem_ready {s : State} {fn idx op : Nat} {want : ItemSt} {e : StepEntry} (h : ItemReady s fn idx op want e)
    (act : Func → StepEntry → Answer) : s.withItem fn idx op want act = act (s.func fn) e := by
  obtain ⟨hfn, hentry, hop, hrun, hitem, hissued⟩ := h
  have hgo : (want == .issued && !(s.groupGranted fn e && s.inputsReady fn idx)) = false := by
    by_cases hw : want = .issued
    · obtain ⟨hgrant, hinputs⟩ := hissued hw
      simp [hgrant, hinputs]
    · simp [hw]
  simp only [State.withItem, if_neg (Nat.not_le.mpr hfn), hentry, hop, hrun, hitem, hgo, ne_eq, not_true_eq_false,
    bne_self_eq_false, Bool.not_true, Bool.or_false, Bool.false_eq_true, if_false]

/-! ### The end of a list (R249) -/

theorem Func.takeArrived_items (xs : List Xfer) (f : Func) : (xs.foldl Func.takeArrived f).items = f.items :=
  List.foldlRecOn (motive := fun g : Func => g.items = f.items) _ _ rfl fun _ h _ _ => h

theorem Func.item_congr {f g : Func} (h : g.items = f.items) (k : Nat) : g.item k = f.item k := by
  rw [Func.item, Func.item, h]

theorem State.setFunc_onlyFunc (s : State) (fn : Nat) (f : Func) : OnlyFunc s (s.setFunc fn f) fn :=
  ⟨rfl, fun j hj => s.setFunc_func_ne fn f j hj⟩

theorem runs_muleListComplete {s : State} {fn idx : Nat} {e : StepEntry} {l : XferList}
    (h : ItemReady s fn idx opMULE .started e) (hl : (s.image fn).xferList e.arg = some l)
    (hdone : l.xfers.length ≤ tget 0 (s.func fn).muleNext idx) (hacked : s.listUnacked fn l.index = false)
    (hfilled : ∀ x ∈ l.xfers, x.srcSp = 4 → x.bytes ≤ (s.func fn).arrived x) :
    Runs (.muleListComplete fn idx) s fun t => OnlyFunc s t fn ∧ (t.func fn).item idx = .complete := by
  have hrx : ((l.xfers.filter fun x => x.srcSp == 4).any fun x => decide ((s.func fn).arrived x < x.bytes)) = false := by
    simpa using hfilled
  have hx : exec (.muleListComplete fn idx) s = .next (s.setFunc fn
      ((l.xfers.filter fun x => x.srcSp == 4).foldl Func.takeArrived ((s.func fn).setItem idx .complete))) := by
    show execMuleListComplete fn idx s = _
    rw [execMuleListComplete, State.withItem_ready h]
    simp only [hl, hrx, hacked, decide_eq_false (Nat.not_lt.mpr hdone), Bool.or_false, Bool.false_eq_true, if_false]
  refine ⟨_, hx, s.setFunc_onlyFunc fn _, ?_⟩
  rw [State.setFunc_func_self, Func.item_congr (Func.takeArrived_items _ _), Func.setItem_item _ _ (by decide)]

/-! ### One transfer between memories (R34, R274, R458) -/

/-! #### What the start of an item has no part in -/

/-- Item `idx` of function `fn` has started. -/
def State.started (s : State) (fn idx : Nat) : State := s.setFunc fn ((s.func fn).setItem idx .started)

theorem State.started_func (s : State) (fn idx : Nat) : (s.started fn idx).func fn = (s.func fn).setItem idx .started :=
  State.setFunc_func_self ..

section
variable (s : State) (fn idx : Nat)

theorem State.endRanges_started (sp va n : Nat) :
    (s.started fn idx).endRanges fn sp va n = s.endRanges fn sp va n := by
  have ht : ((s.started fn idx).func fn).table = (s.func fn).table := by
    rw [State.started_func]; rfl
  have hm : (s.started fn idx).mapped fn va n = s.mapped fn va n := by
    simp only [State.mapped, ht]
  have hr : (s.started fn idx).rangesVA fn va n = s.rangesVA fn va n := by
    simp only [State.rangesVA, State.translate, ht]
  unfold State.endRanges
  rw [hm, hr]
  rfl

theorem State.copyPending_started (va n : Nat) :
    (s.started fn idx).copyPending fn va n = s.copyPending fn va n := by
  unfold State.copyPending
  rw [State.started_func]
  rfl

theorem State.olderEpoch_started (rs : List (Nat × Nat)) :
    (s.started fn idx).olderEpoch fn rs = s.olderEpoch fn rs := by
  unfold State.olderEpoch
  rw [State.started_func]
  rfl

end

/-! #### The transfer -/

/-- Nothing keeps transfer `x` of function `fn` from moving its bytes between memories at once: from ranges `rs` to the bytes
from `d` on. -/
structure Movable (s : State) (fn : Nat) (x : Xfer) (rs : List (Nat × Nat)) (d : Nat) : Prop where
  on : (s.func fn).state = .on
  unwatched : Unwatched s
  clean : s.poison = []
  srcSp : x.srcSp ≤ 3
  dstSp : x.dstSp ≤ 3
  expert : x.srcSp ≤ 1 → s.expertAt fn x.src = none
  src : s.endRanges fn x.srcSp x.src x.bytes = some rs
  dst : s.endRanges fn x.dstSp x.dst x.dstBytes = some [(d, x.dstBytes)]
  reachable : s.reachable (rs ++ [(d, x.dstBytes)]) = true
  epoch : s.olderEpoch fn (rs ++ [(d, x.dstBytes)]) = false
  copied : x.srcSp ≤ 1 → s.copyPending fn x.src x.bytes = false

/-- The bytes that transfer `x` of an item of step `step` writes. -/
def State.xferOut (s : State) (fn : Nat) (step : W32) (x : Xfer) (rs : List (Nat × Nat)) : List Byte :=
  ((x.convert (s.image fn).job.seed step.toNat (s.readRanges rs)).1).take x.dstBytes

theorem OnlyFunc.trans {s t u : State} {fn : Nat} (h : OnlyFunc s t fn) (k : OnlyFunc t u fn) : OnlyFunc s u fn := by
  obtain ⟨h1, h2⟩ := h
  obtain ⟨k1, k2⟩ := k
  refine ⟨?_, fun j hj => (k2 j hj).trans (h2 j hj)⟩
  rw [k1, h1]

section
variable {s : State} {fn : Nat} {x : Xfer} {rs : List (Nat × Nat)} {d : Nat} (h : Movable s fn x rs d)
include h

/-- The start of its item does not hold a transfer up. -/
theorem Movable.start (idx : Nat) : Movable (s.started fn idx) fn x rs d where
  on := by rw [State.started_func]; exact h.on
  unwatched := h.unwatched
  clean := h.clean
  srcSp := h.srcSp
  dstSp := h.dstSp
  expert := h.expert
  src := (s.endRanges_started ..).trans h.src
  dst := (s.endRanges_started ..).trans h.dst
  reachable := h.reachable
  epoch := (s.olderEpoch_started ..).trans h.epoch
  copied hs := (s.copyPending_started ..).trans (h.copied hs)

/-- Moving the bytes writes them, after counting the events of a cast. -/
theorem Movable.moveBytes (list k : Nat) (step : W32) : ∃ u, OnlyFunc s u fn ∧ (u.func fn).items = (s.func fn).items ∧
    s.moveBytes fn list k step x rs [(d, x.dstBytes)] false = u.write d (s.xferOut fn step x rs) := by
  have hd : x.dstSp ≠ 4 := by have := h.dstSp; omega
  refine ⟨if x.cast.isSome then s.setFunc fn { s.func fn with
    mevt := (s.func fn).mevt.bump (x.convert (s.image fn).job.seed step.toNat (s.readRanges rs)).2 } else s, ?_, ?_, ?_⟩
  · split
    · exact s.setFunc_onlyFunc fn _
    · exact ⟨rfl, fun _ _ => rfl⟩
  · split
    · rw [State.setFunc_func_self]
    · rfl
  · rw [State.moveBytes, if_neg Bool.false_ne_true]
    dsimp only
    rw [if_neg hd]
    rfl

theorem Movable.moveOne (list k : Nat) (step : W32) :
    s.moveOne fn list k step x x.src false = .done (s.moveBytes fn list k step x rs [(d, x.dstBytes)] false) := by
  have hreach := h.reachable
  rw [State.reachable, List.all_append, Bool.and_eq_true] at hreach
  obtain ⟨hsrc, hdst⟩ := hreach
  have hs : s.reachable rs = true := hsrc
  have ht : s.reachable [(d, x.dstBytes)] = true := hdst
  have hpend : (decide (x.srcSp ≤ 1) && s.copyPending fn x.src x.bytes) = false := by
    by_cases hs : x.srcSp ≤ 1
    · rw [h.copied hs, Bool.and_false]
    · simp [hs]
  have hpoison : (rs.flatMap fun r => s.poisonsIn r.1 r.2) ++ s.edges [(d, x.dstBytes)] = [] := by
    simp [State.poisonsIn, State.edges, h.clean]
  obtain ⟨u, ⟨hu, -⟩, -, hmove⟩ := h.moveBytes list k step
  have hwatch : Unwatched (s.moveBytes fn list k step x rs [(d, x.dstBytes)] false) := by
    rw [hmove, hu]; exact h.unwatched
  simp only [State.moveOne, h.src, h.dst, hs, ht, h.epoch, hpend, hpoison, State.xferPoison, h.on, State.watch_unwatched hwatch,
    Bool.not_true, Bool.not_false, Bool.and_true, Bool.or_false, Bool.false_eq_true, if_false, List.eraseDups_nil,
    List.foldl_nil, ne_eq, not_true_eq_false]

/-- A list whose one transfer may move makes it and is through. -/
theorem Movable.runList {b : BaseImage} {l : XferList} {idx : Nat} (hb : s.base = some b) (hbad : s.xferBad b x = false)
    (hl : l.xfers = [x]) (hnext : tget 0 (s.func fn).muleNext idx = 0) : (s.runList fn idx l .none).s =
      (s.moveBytes fn l.index 0 ((s.func fn).runAt idx).step x rs [(d, x.dstBytes)] false).onFunc fn fun f =>
        { f with muleNext := tset 0 f.muleNext idx 1 } := by
  have hsrc := h.srcSp
  have hdst := h.dstSp
  have h4 : x.srcSp ≠ 4 := by omega
  have hports : ¬(4 < x.srcSp ∨ 4 < x.dstSp) := by omega
  have hdep : (s.func fn).dependsOpen l x = false := by simp [Func.dependsOpen, hl, h4]
  have hexpert : (if x.srcSp ≤ 1 then s.expertAt fn x.src else none) = none := by
    split
    next hs => exact h.expert hs
    next => rfl
  have hrun : s.runXfer fn ((s.func fn).runAt idx).step l 0 x =
      .done (s.moveBytes fn l.index 0 ((s.func fn).runAt idx).step x rs [(d, x.dstBytes)] false) := by
    rw [State.runXfer, hb]
    simp [hports, hbad, h4, hdep, hexpert, h.moveOne]
  simp [State.runList, hnext, hl, MuleRun.next, upsetAddr, hrun]

end

/-- What stands after a write that only one function's record went before, where nothing is poisoned, and a change of that
record. -/
theorem OnlyFunc.write {s u : State} {fn : Nat} (h : OnlyFunc s u fn) (hs : s.poison = []) (d : Nat) (bs : List Byte)
    (g : Func → Func) :
    let t := (u.write d bs).onFunc fn g
    t = { s with funcs := t.funcs, mem := t.mem } ∧ (∀ j, j ≠ fn → t.func j = s.func j) ∧ Stored s t d bs := by
  obtain ⟨heq, hfuncs⟩ := h
  refine ⟨?_, fun j hj => (State.setFunc_func_ne _ fn _ j hj).trans (hfuncs j hj), fun z => (u.write_byte d bs z).trans ?_⟩
  · have hu : u.poison = [] := by rw [heq]; exact hs
    have hp : (u.write d bs).poison = s.poison := by simp only [State.write, hu, hs, List.filter_nil]
    have hw : u.write d bs = { s with funcs := u.funcs, mem := (u.write d bs).mem } := by
      rw [← hp, heq]
      rfl
    rw [hw]
    rfl
  · rw [heq]
    rfl

/-- A MULE item of one transfer moves its bytes and counts it. -/
theorem runs_mule {s : State} {fn idx : Nat} {e : StepEntry} {l : XferList} {x : Xfer} {b : BaseImage} {d : Nat}
    {rs : List (Nat × Nat)} (hready : ItemReady s fn idx opMULE .issued e) (h : Movable s fn x rs d)
    (hl : (s.image fn).xferList e.arg = some l) (hhalt : s.dbg.muleHalt.contains fn = false)
    (hasked : s.dbg.haltAsked.contains (fn, none) = false) (hx : l.xfers = [x])
    (hnext : tget 0 (s.func fn).muleNext idx = 0) (hb : s.base = some b) (hbad : s.xferBad b x = false) :
    Runs (.mule fn idx {} .none) s fun t =>
      t = { s with funcs := t.funcs, mem := t.mem } ∧ (∀ j, j ≠ fn → t.func j = s.func j) ∧
      (t.func fn).item idx = .started ∧ tget 0 (t.func fn).muleNext idx = 1 ∧
      Stored s t d (s.xferOut fn ((s.func fn).runAt idx).step x rs) := by
  have ⟨_, _, _, _, hitem, hissued⟩ := hready
  obtain ⟨hgrant, -⟩ := hissued rfl
  have hm : Movable (s.started fn idx) fn x rs d := h.start idx
  have hexec : exec (.mule fn idx {} .none) s = .next ((s.started fn idx).runList fn idx l .none).s := by
    show execMule fn idx {} .none s = _
    rw [execMule, if_neg (by rw [hitem]; decide), State.withItem_ready hready]
    simp only [hl, hgrant, hhalt, hasked]
    rfl
  have hout : (s.started fn idx).xferOut fn (((s.started fn idx).func fn).runAt idx).step x rs =
      s.xferOut fn ((s.func fn).runAt idx).step x rs := by
    rw [State.started_func]
    rfl
  obtain ⟨u, hu, hitems, hmove⟩ := hm.moveBytes l.index 0 (((s.started fn idx).func fn).runAt idx).step
  rw [hm.runList hb hbad hx (by rw [State.started_func]; exact hnext), hmove, hout] at hexec
  obtain ⟨honly, hfuncs, hstored⟩ := ((s.setFunc_onlyFunc fn _).trans hu).write h.clean d
    (s.xferOut fn ((s.func fn).runAt idx).step x rs) fun f => { f with muleNext := tset 0 f.muleNext idx 1 }
  refine ⟨_, hexec, honly, hfuncs, ?_, ?_, hstored⟩
  · rw [State.onFunc, State.setFunc_func_self, ← Func.setItem_item (s.func fn) idx (v := .started) (by decide)]
    exact Func.item_congr (hitems.trans (by rw [State.started_func])) idx
  · rw [State.onFunc, State.setFunc_func_self]
    exact tget_tset_self 0 _ idx 1

/-! ### The obligation -/

/-- Settles O20: the one transfer of a list that nothing holds up is a write of its converted bytes, and a list that is all done
completes its item. -/
theorem muleItems : Obligations.MuleItems := by
  intro s fn idx e l f hl
  refine ⟨?_, fun h hdone hacked hfilled => runs_muleListComplete h hl hdone hacked hfilled⟩
  intro x b d rs hready hon hhalt hasked hwatch hclean hx hnext hb hbad hsp hdp hexpert hsrc hdst hreach hepoch hcopied
  exact runs_mule hready ⟨hon, hwatch, hclean, hsp, hdp, hexpert, hsrc, hdst, hreach, hepoch, hcopied⟩ hl hhalt hasked hx
    hnext hb hbad

end Sys2Proof.Machine
end

section
/-! SUPPORT. The end of a tile instruction whose body ran through: what it leaves, from what the body changed. -/
namespace Sys2Proof.Machine

/-! ### What a body changed -/

/-- Nothing but the bytes of memory has changed. -/
def MemOnly (s u : State) : Prop := u = { s with mem := u.mem }

theorem MemOnly.refl (s : State) : MemOnly s s := rfl

theorem MemOnly.trans {s u v : State} (h : MemOnly s u) (k : MemOnly u v) : MemOnly s v := by
  unfold MemOnly at h k ⊢
  rw [k, h]

theorem MemOnly.fold {β : Type} (f : State → β → State) (hf : ∀ u b, u.poison = [] → MemOnly u (f u b)) (bs : List β) :
    ∀ {s : State}, s.poison = [] → MemOnly s (bs.foldl f s) := by
  induction bs with
  | nil => exact fun _ => .refl _
  | cons b bs ih =>
    intro s hs
    have hfirst := hf s b hs
    exact hfirst.trans (ih (by rw [hfirst]; exact hs))

theorem MemOnly.tile {s u : State} (h : MemOnly s u) (n : Nat) : u.tile n = s.tile n := by rw [h]; rfl

/-- A write that meets no poison changes bytes alone. -/
theorem State.write_memOnly {s : State} (hs : s.poison = []) (d : Nat) (bs : List Byte) : MemOnly s (s.write d bs) := by
  simp [MemOnly, State.write, hs]

theorem State.zero_memOnly {s : State} (hs : s.poison = []) (lo hi : Nat) : MemOnly s (s.zero lo hi) := by
  simp [MemOnly, State.zero, hs]

/-- Nothing but memory and tile `n` has changed, and the tile is `y`. -/
structure TileAltered (s u : State) (n : Nat) (y : Tile) : Prop where
  rest : u = { s with tiles := u.tiles, mem := u.mem }
  others : ∀ j, j ≠ n → u.tile j = s.tile j
  tile : u.tile n = y

theorem MemOnly.setTile {s u : State} (h : MemOnly s u) (n : Nat) (y : Tile) : TileAltered s (u.setTile n y) n y where
  rest := by rw [h]; rfl
  others j hj := (u.setTile_tile_ne n y j hj).trans (h.tile j)
  tile := u.setTile_tile_self n y

theorem State.setTile_altered (s : State) (n : Nat) (y : Tile) : TileAltered s (s.setTile n y) n y :=
  (MemOnly.refl s).setTile n y

theorem MemOnly.onTile {s u : State} (h : MemOnly s u) (n : Nat) (f : Tile → Tile) :
    TileAltered s (u.onTile n f) n (f (s.tile n)) := by
  have hset := h.setTile n (f (u.tile n))
  rw [h.tile n] at hset
  rwa [State.onTile, h.tile n]

theorem TileAltered.unwatched {s u : State} {n : Nat} {y : Tile} (h : TileAltered s u n y) (hw : Unwatched s) :
    Unwatched u := by rw [h.rest]; exact hw

theorem TileAltered.write {s u : State} {n : Nat} {y : Tile} (h : TileAltered s u n y) (hs : s.poison = []) (d : Nat)
    (bs : List Byte) : TileAltered s (u.write d bs) n y where
  rest := by
    have hu : u.poison = [] := by rw [h.rest]; exact hs
    rw [State.write_memOnly hu d bs, h.rest]
  others := h.others
  tile := h.tile

/-! ### The tile's words and sequencers -/

@[simp] theorem Tile.countEv_platePoison (x : Tile) (e : Nat) (v : Ev) : (x.countEv e v).platePoison = x.platePoison := rfl
@[simp] theorem Tile.countEv_seqs (x : Tile) (e : Nat) (v : Ev) : (x.countEv e v).seqs = x.seqs := rfl
@[simp] theorem Tile.setElems_platePoison (x : Tile) (d : Nat) (vs : List W32) :
    (x.setElems d vs).platePoison = x.platePoison := rfl
@[simp] theorem Tile.setElems_seqs (x : Tile) (d : Nat) (vs : List W32) : (x.setElems d vs).seqs = x.seqs := rfl
@[simp] theorem Tile.setBank_platePoison (x : Tile) (n : Nat) (b : Bank) :
    (x.setBank n b).platePoison = x.platePoison := rfl
@[simp] theorem Tile.setBank_seqs (x : Tile) (n : Nat) (b : Bank) : (x.setBank n b).seqs = x.seqs := rfl

/-! ### The end of the instruction -/

/-- The body ran through and left state `u`, whatever it read and wrote. -/
def Body.Ends (b : Body) (u : State) : Prop := ∃ rs ws pr pw, b = .done u rs ws pr pw

theorem Body.ends_done (u : State) (rs ws pr pw : List (Nat × Nat)) : (Body.done u rs ws pr pw).Ends u :=
  ⟨rs, ws, pr, pw, rfl⟩

theorem Advanced.congr {s u t : State} {a : At} (h : (u.tileAt a).seqs = (s.tileAt a).seqs) (k : Advanced u t a) :
    Advanced s t a := by
  unfold Advanced State.seqAt at k ⊢
  rwa [h] at k

/-- An instruction whose body ran through, on readable words that nothing watches, ends with its sequencer's advance. -/
theorem State.finishBody_done {s u : State} {a : At} (hc : Clean s a) (hw : Unwatched u) (hp : (u.tileAt a).platePoison = [])
    (g : Eng) (fn unit : Nat) (iaddr : W32) (rs ws pr pw : List (Nat × Nat)) :
    ∃ t, s.finishBody g a.tile a.entry fn unit iaddr .none (.done u rs ws pr pw) = .next t ∧
      TileDone u a (u.tileAt a) t := by
  obtain ⟨hplates, hwords⟩ := hc
  rw [State.finishBody_clean hplates hwords,
    State.watch_unwatched (show Unwatched ((u.onTile a.tile _).retire a.tile a.entry) from hw)]
  have hp : (u.tile a.tile).platePoison = [] := hp
  refine ⟨_, rfl, ⟨rfl, fun j hj => ?_⟩, ?_, ?_, fun e he => ?_⟩
  · simp [State.retire_tile, State.onTile_tile, hj]
  · simp [State.tileAt, State.retire_tile, State.onTile_tile, hp]
  · simp [State.seqAt, State.tileAt, State.retire_tile, State.onTile_tile]
  · simp [State.tileAt, State.retire_tile, State.onTile_tile, tget_tset_ne _ _ _ he]

section
variable {s : State} {a : At} {g : Eng} {unit : Nat} {body : Part → Body} {u : State} (hi : Issues s a g)
  (hc : Clean s a) (hb : (body (s.partAt a)).Ends u)
include hi hc hb

theorem State.issue_done (hw : Unwatched u) (hp : (u.tileAt a).platePoison = []) {P : State → Prop}
    (hP : ∀ t, TileDone u a (u.tileAt a) t → P t) : ∃ t, s.issue g a unit .none body = .next t ∧ P t := by
  obtain ⟨rs, ws, pr, pw, hb⟩ := hb
  obtain ⟨t, ht, hdone⟩ := State.finishBody_done hc hw hp g (s.fnAt a) unit (s.seqAt a).iaddr rs ws pr pw
  exact ⟨t, by rw [State.issue_eq hi, hb, ht], hP t hdone⟩

/-- A body that changed its tile and memory alone, neither marking plates as poisoned nor moving a sequencer. -/
theorem State.issue_altered {y : Tile} (hw : Unwatched s) (hu : TileAltered s u a.tile y)
    (hp : y.platePoison = (s.tileAt a).platePoison) (hq : y.seqs = (s.tileAt a).seqs) {P : State → Prop}
    (hP : ∀ t, TileStored s a y t → t.mem = u.mem → P t) : ∃ t, s.issue g a unit .none body = .next t ∧ P t := by
  have hy : u.tileAt a = y := hu.tile
  refine State.issue_done hi hc hb (hu.unwatched hw) (by rw [hy, hp]; exact hc.1) fun t ⟨⟨hrest, hothers⟩, htile, hadv⟩ => ?_
  refine hP t ⟨?_, fun j hj => (hothers j hj).trans (hu.others j hj), by rw [htile, hy], hadv.congr (by rw [hy, hq])⟩ ?_
  · rw [hrest, hu.rest]
  · rw [hrest]

end

theorem Runs.mono {i : Instr} {s : State} {P Q : State → Prop} (h : Runs i s P) (hpq : ∀ t, P t → Q t) : Runs i s Q := by
  obtain ⟨t, ht, hp⟩ := h
  exact ⟨t, ht, hpq t hp⟩

theorem sameMemory_of_mem {s t : State} (h : t.mem = s.mem) : SameMemory s t := fun _ => by rw [State.byte, h]; rfl

theorem TileStored.tileDone {s t : State} {a : At} {y : Tile} (h : TileStored s a y t) (hm : t.mem = s.mem) :
    TileDone s a y t := by
  obtain ⟨hrest, hothers, htile, hadv⟩ := h
  exact ⟨⟨by rw [hm] at hrest; exact hrest, hothers⟩, htile, hadv⟩

/-- The bytes written by a body are those the instruction leaves. -/
theorem stored_of_mem_write {s u t : State} (hu : u.mem = s.mem) {d : Nat} {bs : List Byte} (h : t.mem = (u.write d bs).mem) :
    Stored s t d bs := fun z => by
  have hz : t.byte z = (u.write d bs).byte z := by rw [State.byte, h]; rfl
  rw [hz, State.write_byte, State.byte, hu]; rfl

/-- A bank that was put into its tile is what the bank reads, and the other banks read as before. -/
theorem TileStored.onlyBank {s t : State} {a : At} {n : Nat} {b : Bank} (h : TileStored s a ((s.tileAt a).setBank n b) t) :
    OnlyBank s t a n ∧ (t.tileAt a).bank n = b := by
  obtain ⟨hrest, hothers, htile, hadv⟩ := h
  have hbank : ∀ k, (t.tileAt a).bank k = ((s.tileAt a).setBank n b).bank k := fun k => by rw [htile]; rfl
  refine ⟨⟨hrest, hothers, ?_, fun k hk => ?_, hadv⟩, ?_⟩
  · rw [htile]; rfl
  · rw [hbank]; exact tget_tset_ne _ _ _ hk
  · rw [hbank]; exact tget_tset_self _ _ _ _

end Sys2Proof.Machine
end

section
/-! The fold of a bank and the push of a product (R79, R83, R86, R105, R109). -/
namespace Sys2Proof.Machine

/-! ### Merges of blocks (R79, R82, R83, R85) -/

/-- Merging blocks from the left in a float tree is node addition, output by output. -/
theorem Merge.fold_float_nodes (frame : Nat → List Node) (ls : List Nat) (m : Merge) :
    (ls.foldl (fun m l => m.add false (frame l)) m).nodes =
      ls.foldl (fun ns l => ((frame l).zip ns).map fun x => (addNode x.1 x.2).1) m.nodes :=
  (List.foldl_hom Merge.nodes fun _ _ => rfl).symm

/-- An integer node does not overflow a second time: it saturates and is replayed (R86). -/
theorem Merge.fold_int_again (frame : Nat → List Node) (ls : List Nat) {m : Merge} (hm : m.again = []) :
    (ls.foldl (fun m l => m.add true (frame l)) m).again = [] := by
  induction ls generalizing m with
  | nil => exact hm
  | cons l ls ih => exact ih (by simp [Merge.add, mergeAgain, orFlags, hm])

theorem Bank.foldAll_float_nodes {b : Bank} (hb : b.int = false) (s : State) (at0 : Nat) :
    (b.foldAll s at0).nodes =
      b.foldLevels.foldl (fun ns l => ((b.readFrame s at0 l).zip ns).map fun x => (addNode x.1 x.2).1) b.nodes := by
  rw [Bank.foldAll, hb, Merge.fold_float_nodes]

/-! ### MDRAIN with FOLD (R86, R109) -/

/-- The replay ends with shift 1, with shift 2, or clamped with shift 2 (R86). -/
theorem replay_snd (x y : List (List (List Int))) (rows cols : Nat) :
    (replay x y rows cols).2 = (1, false) ∨ (replay x y rows cols).2 = (2, false) ∨ (replay x y rows cols).2 = (2, true) := by
  unfold replay
  rcases intBlock false 1 x y rows cols with ⟨v, _ | _⟩
  · exact .inl rfl
  · rcases intBlock false 2 x y rows cols with ⟨w, _ | _⟩
    · exact .inr (.inl rfl)
    · exact .inr (.inr rfl)

/-- What a bank holds after a replay that came to outputs, a shift and SAT. -/
def Bank.replayed (b : Bank) (r : List Int × Nat × Bool) : Bank :=
  let b := { b.setNodes (r.1.map fun v => { v := BitVec.ofInt 32 v }) with phase := .done, shift := r.2.1, sat := r.2.2 }
  if r.2.2 then b.countEv evOvf else b

theorem Bank.replayed_spec (b : Bank) (r : List Int × Nat × Bool) :
    (b.replayed r).phase = .done ∧ (b.replayed r).shift = r.2.1 ∧ (b.replayed r).sat = r.2.2 ∧
    (b.replayed r).ovf = if r.2.2 then satAdd 16 b.ovf 1 else b.ovf := by
  obtain ⟨vs, sh, _ | _⟩ := r <;> exact ⟨rfl, rfl, rfl, rfl⟩

section
variable {s : State} {t e n : Nat} {b : Bank} {p : Part}

theorem foldBody_float (hint : b.int = false)
    (hout : p.outsideOf (b.foldLevels.map fun l => ((b.frame l : Int), b.frameBytes)) = none) :
    (foldBody s t e n b .none p).Ends (s.onTile t fun x => x.setBank n
      { (((b.setNodes (b.foldAll s (p.sram t 0)).nodes).overflowAgain (b.foldAll s (p.sram t 0)).again).countEv
        (foldEvents (b.foldAll s (p.sram t 0)).nodes)) with phase := .done }) := by
  simp [foldBody, withResidue, hint, hout, Body.ends_done]

theorem foldBody_int (hint : b.int = true) (hsat : (b.foldAll s (p.sram t 0)).sat = false)
    (hout : p.outsideOf (b.foldLevels.map fun l => ((b.frame l : Int), b.frameBytes)) = none) :
    (foldBody s t e n b .none p).Ends (s.onTile t fun x => x.setBank n
      { b.setNodes (b.foldAll s (p.sram t 0)).nodes with phase := .done }) := by
  simp [foldBody, withResidue, hint, hsat, hout, Body.ends_done]

/-- A saturated integer bank is replayed from its recorded panels. -/
theorem foldBody_replay (hint : b.int = true) (hsat : (b.foldAll s (p.sram t 0)).sat = true)
    (hout : p.outsideOf ((b.foldLevels.map fun l => ((b.frame l : Int), b.frameBytes)) ++
      (b.mmas.map fun op => mmaPanels op 0 0).flatMap fun q => q.1.ranges ++ q.2.ranges) = none) :
    ∃ x y, (foldBody s t e n b .none p).Ends
      (s.onTile t fun z => z.setBank n (b.replayed (replay x y b.rows b.cols))) := by
  simp only [foldBody, withResidue, hint, hsat, Bool.and_self, if_true, hout]
  exact ⟨_, _, Body.ends_done ..⟩

end

section
variable {s : State} {a : At} {bank : BitVec 2} {b' : Bank} (hi : Issues s a .me) (hc : Clean s a) (hw : Unwatched s)
  (hbank : (s.partAt a).bankOk bank.toNat = true) (hopen : ((s.tileAt a).bank bank.toNat).phase = .opened)
  (hcount : ((s.tileAt a).bank bank.toNat).count = ((s.tileAt a).bank bank.toNat).p)
include hi hc hw hbank hopen hcount

/-- MDRAIN with FOLD on an open bank that has its spans does to the bank what the fold's body does (R109). -/
theorem runs_mdrain_fold
    (hfold : (foldBody s a.tile a.entry bank.toNat ((s.tileAt a).bank bank.toNat) .none (s.partAt a)).Ends
      (s.onTile a.tile fun x => x.setBank bank.toNat b')) :
    Runs (.mdrain a bank true .none) s fun t =>
      OnlyBank s t a bank.toNat ∧ SameMemory s t ∧ (t.tileAt a).bank bank.toNat = b' := by
  show ∃ t, execMdrain a bank true .none s = .next t ∧ _
  unfold State.tileAt at hopen hcount hfold
  refine State.issue_altered hi hc ?_ hw ((MemOnly.refl s).onTile a.tile fun x => x.setBank bank.toNat b')
    (Tile.setBank_platePoison ..) (Tile.setBank_seqs ..) fun t hst hm => ?_
  · simpa [hbank, hopen, hcount] using hfold
  · obtain ⟨honly, hread⟩ := hst.onlyBank
    exact ⟨honly, sameMemory_of_mem hm, hread⟩

end

/-- Settles O15: the fold merges the frames from the left, and a bank whose integer tree saturated is replayed. -/
theorem bankFold : Obligations.BankFold := by
  intro s a bank hi hc hw hbank b frames panels at0 m after hopen hcount
  refine ⟨fun hint hout => ?float, fun hint hsat hout => ?int, fun hint hsat hout => ?replay⟩
  case float =>
    have hnodes := Bank.foldAll_float_nodes hint s at0
    refine (runs_mdrain_fold hi hc hw hbank hopen hcount (foldBody_float hint hout)).mono fun t ⟨honly, hmem, hread⟩ => ?_
    exact ⟨hnodes, honly, hmem, by rw [← hnodes]; exact hread⟩
  case int => exact runs_mdrain_fold hi hc hw hbank hopen hcount (foldBody_int hint hsat hout)
  case replay =>
    obtain ⟨x, y, hfold⟩ := foldBody_replay (s := s) (t := a.tile) hint hsat hout
    refine (runs_mdrain_fold hi hc hw hbank hopen hcount hfold).mono fun t ⟨honly, hmem, hread⟩ => ?_
    have hafter : after t = b.replayed (replay x y b.rows b.cols) := hread
    obtain ⟨hphase, hshift, hsat', hovf⟩ := b.replayed_spec (replay x y b.rows b.cols)
    rw [hafter, hphase, hshift, hsat', hovf]
    refine ⟨honly, hmem, rfl, ?_⟩
    rcases replay_snd x y b.rows b.cols with h | h | h <;> simp [h]

end Sys2Proof.Machine
end

section
/-! The push of a product into an open bank (R79, R83, R99, R105, R106, R113). -/
namespace Sys2Proof.Machine

/-! ### A push (R79, R105, R106) -/

/-- Each output that overflows a second time, and has not before, counts one overflow and one non-finite result (R83). -/
theorem Bank.overflowAgain_events (b : Bank) (fs : List Bool) :
    ∃ k, (b.overflowAgain fs).nonfin = satAdd 16 b.nonfin k ∧ (b.overflowAgain fs).ovf = satAdd 16 b.ovf k ∧
      (fs = [] → k = 0) :=
  ⟨_, rfl, rfl, fun h => by rw [h]; rfl⟩

theorem Bank.writeFrame_memOnly (b : Bank) {s : State} (hs : s.poison = []) (at0 l : Nat) (ns : List Node) :
    MemOnly s (b.writeFrame s at0 l ns) := by
  have hzero := State.zero_memOnly hs (at0 + b.frame l) (at0 + b.frame l + b.frameBytes)
  have hvals := hzero.trans (MemOnly.fold (fun u x => u.write (at0 + b.frame l + cellKey b.cols x.2 * 4) (leBytes 4 x.1.v.toNat))
    (fun u _ hu => u.write_memOnly hu _ _) ns.zipIdx (by rw [hzero]; exact hs))
  unfold Bank.writeFrame
  dsimp only
  split
  · exact hvals
  · refine hvals.trans (MemOnly.fold _ (fun u x hu => ?_) _ (by rw [hvals]; exact hs))
    split
    · exact u.write_memOnly hu _ _
    · exact .refl u

section
variable (b : Bank) (s : State) (at0 m spans : Nat) (ns : List Node) (again : List Bool)

/-- The state in which a push merges: the bank's outputs are in their frame where a lower level comes before them. -/
def Bank.spilled : State :=
  match (pushFrames b.pad m).1 with
  | some l => b.writeFrame s at0 l b.nodes
  | none => s

/-- What a push comes to: the block, merged with the bank's outputs and the frames of the levels it closes. -/
def Bank.merged : Merge :=
  let block : Merge := { nodes := ns, again := again }
  (pushFrames b.pad m).2.foldl (fun r l => r.add b.int (b.readFrame (b.spilled s at0 m) at0 l))
    (if b.pad = 0 ∨ m < lowBit b.pad then block else block.add b.int b.nodes)

theorem Bank.push_eq : b.push s at0 m spans ns again =
    ({ (b.setNodes (b.merged s at0 m ns again).nodes).overflowAgain (b.merged s at0 m ns again).again with
       count := b.count + spans
       pad := b.pad + 2 ^ m
       satSeen := b.satSeen || (b.merged s at0 m ns again).sat }, b.spilled s at0 m) := by
  unfold Bank.push Bank.merged Bank.spilled
  rcases pushFrames b.pad m with ⟨wr, rd⟩
  rfl

/-- A push changes at most the bytes of a stack frame. -/
theorem Bank.spilled_memOnly (hs : s.poison = []) : MemOnly s (b.spilled s at0 m) := by
  unfold Bank.spilled
  split
  · exact b.writeFrame_memOnly hs at0 _ b.nodes
  · exact .refl s

theorem Bank.spilled_empty (hpad : b.pad = 0) : b.spilled s at0 m = s := by simp [Bank.spilled, pushFrames, hpad]

/-- A push into an empty bank stores the block itself (R79). -/
theorem Bank.merged_empty (hpad : b.pad = 0) : b.merged s at0 m ns again = { nodes := ns, again := again } := by
  simp [Bank.merged, pushFrames, hpad]

/-- No output of an integer tree overflows a second time. -/
theorem Bank.merged_int_again (hint : b.int = true) (ha : again = []) : (b.merged s at0 m ns again).again = [] := by
  rw [Bank.merged, hint, ha, Merge.fold_int_again]
  split <;> rfl

end

/-! ### MMA (R99, R105, R113) -/

/-- The block of nodes an MMA pushes, and whether an integer one of them saturates (R76 to R82, R85). -/
def mmaBlock (s : State) (a : At) (op : MmaOp) : List Node × Bool :=
  let b := (s.tileAt a).bank op.bank.toNat
  let v := mmaRows s a op
  if b.int then intNodes (v.1.map fun r => r.map XVal.toInt) (v.2.map fun r => r.map XVal.toInt)
  else (floatNodes b.w v.1 v.2, false)

/-- Which of them overflowed a second time within the block (R83). -/
def mmaAgain (s : State) (a : At) (op : MmaOp) : List Bool :=
  let b := (s.tileAt a).bank op.bank.toNat
  if b.int then [] else floatAgain b.w (mmaRows s a op).1 (mmaRows s a op).2

/-- The bank as an MMA's push finds it: of the block's shape, with the loads' events counted and an integer MMA recorded. -/
def Bank.loaded (b : Bank) (op : MmaOp) (ev : Ev) (sat : Bool) : Bank :=
  { b with
    rows := op.rowsM1.toNat + 1
    cols := op.colsM1.toNat + 1
    satSeen := b.satSeen || sat
    mmas := if b.int then b.mmas ++ [op] else b.mmas }.countEv ev

/-- The push of an MMA: the bank and the memory it leaves. -/
def mmaPush (s : State) (a : At) (op : MmaOp) : Bank × State :=
  let b := (s.tileAt a).bank op.bank.toNat
  let spans := ceilDiv op.klen.toNat b.w
  (b.loaded op (mmaEv s a op) (mmaBlock s a op).2).push s ((s.partAt a).sram a.tile 0) (pushLevel spans) spans
    (mmaBlock s a op).1 (mmaAgain s a op)

section
variable (b : Bank) (op : MmaOp) (ev : Ev) (sat : Bool) (s : State) (at0 m spans : Nat) (ns : List Node) (again : List Bool)

/-- What an MMA's push leaves of a bank besides its outputs: an integer tree counts no second overflow (R83). -/
theorem Bank.loaded_push_spec (hagain : b.int = true → again = []) :
    let b' := ((b.loaded op ev sat).push s at0 m spans ns again).1
    b'.phase = b.phase ∧ b'.desc = b.desc ∧ b'.count = b.count + spans ∧ b'.pad = b.pad + 2 ^ m ∧
    b'.rows = op.rowsM1.toNat + 1 ∧ b'.cols = op.colsM1.toNat + 1 ∧
    ∃ k, b'.nonfin = satAdd 16 (satAdd 16 b.nonfin ev.nonfin) k ∧ b'.ovf = satAdd 16 (satAdd 16 b.ovf ev.ovf) k ∧
      (b.int = true → k = 0) := by
  let r := (b.loaded op ev sat).merged s at0 m ns again
  obtain ⟨k, hn, ho, hk⟩ := ((b.loaded op ev sat).setNodes r.nodes).overflowAgain_events r.again
  rw [Bank.push_eq]
  exact ⟨rfl, rfl, rfl, rfl, rfl, rfl, k, hn, ho, fun hint => hk (Bank.merged_int_again _ _ _ _ _ _ hint (hagain hint))⟩

/-- An MMA into an empty bank stores its block there and touches no memory (R79). -/
theorem Bank.loaded_push_empty (hpad : b.pad = 0) :
    (b.loaded op ev sat).push s at0 m spans ns again =
      ({ ((b.loaded op ev sat).setNodes ns).overflowAgain again with count := b.count + spans, pad := b.pad + 2 ^ m }, s) := by
  have hloaded : (b.loaded op ev sat).pad = 0 := hpad
  rw [Bank.push_eq, Bank.merged_empty _ _ _ _ _ _ hloaded, Bank.spilled_empty _ _ _ _ hloaded, Bool.or_false]
  rfl

end

theorem mmaBody_ends {s : State} {a : At} {op : MmaOp} (h : MmaReady s a op) :
    (mmaBody s a.tile a.entry op .none (s.partAt a)).Ends
      ((mmaPush s a op).2.onTile a.tile fun x => x.setBank op.bank.toNat (mmaPush s a op).1) := by
  obtain ⟨-, -, -, hbank, haccepts, hout⟩ := h
  simp only [State.tileAt, State.fnAt] at haccepts hout
  simp only [mmaBody, withResidue, hbank, haccepts, hout, Bool.not_true, Bool.false_eq_true, if_false]
  exact Body.ends_done ..

section
variable {s : State} {a : At} {op : MmaOp}

theorem mmaPush_memOnly (hs : s.poison = []) : MemOnly s (mmaPush s a op).2 := by
  rw [mmaPush, Bank.push_eq]
  exact Bank.spilled_memOnly _ _ _ _ hs

/-- MMA does to its bank and to memory what the push of its block does (R105). -/
theorem runs_mma (h : MmaReady s a op) : Runs (.mma a op .none) s fun t =>
    OnlyBank s t a op.bank.toNat ∧ (t.tileAt a).bank op.bank.toNat = (mmaPush s a op).1 ∧ t.mem = (mmaPush s a op).2.mem := by
  show ∃ t, execMma a op .none s = .next t ∧ _
  have hends := mmaBody_ends h
  obtain ⟨hi, hc, hw, -⟩ := h
  refine State.issue_altered hi hc hends hw ((mmaPush_memOnly hc.2).onTile a.tile _)
    (Tile.setBank_platePoison ..) (Tile.setBank_seqs ..) fun t hst hm => ?_
  obtain ⟨honly, hread⟩ := hst.onlyBank
  exact ⟨honly, hread, hm⟩

end

theorem MmaReady.opened {s : State} {a : At} {op : MmaOp} (h : MmaReady s a op) :
    ((s.tileAt a).bank op.bank.toNat).phase = .opened := by
  obtain ⟨-, -, -, -, haccepts, -⟩ := h
  simp only [Bank.accepts, Bool.and_eq_true, beq_iff_eq] at haccepts
  obtain ⟨⟨⟨⟨⟨⟨⟨hopen, -⟩, -⟩, -⟩, -⟩, -⟩, -⟩, -⟩ := haccepts
  exact hopen

/-- Settles O16: an MMA is one push of its block into the bank. The events of the loads are counted as assumptions 72 and 73
read R60 and R113. -/
theorem mmaPushes : Obligations.MmaPushes := by
  intro s a op h n b spans v
  refine (runs_mma h).mono fun t ⟨honly, hread, hm⟩ => ?_
  intro b'
  have hb' : b' = (mmaPush s a op).1 := hread
  clear_value b'
  subst hb'
  have hspec := b.loaded_push_spec op (mmaEv s a op) (mmaBlock s a op).2 s ((s.partAt a).sram a.tile 0) (pushLevel spans)
    spans (mmaBlock s a op).1 (mmaAgain s a op) fun hint => if_pos hint
  obtain ⟨hphase, hdesc, hcount, hlevel, hrows, hcols, hev⟩ := hspec
  refine ⟨honly, hphase.trans h.opened, hdesc, hcount, hlevel, hrows, hcols, hev, fun hpad hint => ?events,
    fun hpad => ?memory, fun hpad hint => ?float, fun hpad hint => ?int⟩
  all_goals have hpush : mmaPush s a op = _ := b.loaded_push_empty _ _ _ _ _ _ _ _ _ hpad
  case memory => exact sameMemory_of_mem (by rw [hm, hpush])
  case events =>
    have hagain : mmaAgain s a op = floatAgain b.w v.1 v.2 := by rw [mmaAgain, hint]; rfl
    rw [hpush, hagain]
    exact ⟨rfl, rfl, rfl⟩
  case float =>
    have hblock : (mmaBlock s a op).1 = floatNodes b.w v.1 v.2 := by rw [mmaBlock, hint]; rfl
    rw [hpush, hblock]
    exact ⟨rfl, rfl⟩
  case int =>
    have hblock : (mmaBlock s a op).1 =
        (intNodes (v.1.map fun r => r.map XVal.toInt) (v.2.map fun r => r.map XVal.toInt)).1 := by rw [mmaBlock, hint]; rfl
    rw [hpush, hblock]
    exact ⟨rfl, rfl, if_pos hint⟩

end Sys2Proof.Machine
end

section
/-! The combine of partial records, and the tree mismatch (R92, R94, R137). -/
namespace Sys2Proof.Machine

/-! ### Events (R83, R84, R129) -/

theorem map_zipIdx_map_range {α β : Type} (f : Nat → α) (g : α × Nat → β) (n : Nat) :
    ((List.range n).map f).zipIdx.map g = (List.range n).map fun i => g (f i, i) := by
  apply List.ext_getElem
  · simp
  · intro i h1 h2
    simp

/-- The events as the body lists them, by node and by input, are those of the outputs one by one. -/
theorem combEv_eq (s : State) (a : At) (op : VOp) (cells n level pos : Nat) :
    (sumEv (((List.range cells).map fun i => combineNode n (combRecs s a op cells) i level pos).zipIdx.map fun x =>
      liftEv (x.1.1.x && !((List.range cells).map fun i =>
        (combRecs s a op cells).any fun r => (r.nodes.getD i {}).x).getD x.2 false) (decide (x.1.2.ovf ≠ 0)))).plus
      { nonfin := (((List.range cells).map fun i =>
          (combRecs s a op cells).any fun r => nonfinite (r.nodes.getD i {}).v).filter id).length } =
      combEv s a op cells n level pos := by
  have hlift : ∀ i ∈ List.range cells, ((List.range cells).map fun i =>
      (combRecs s a op cells).any fun r => (r.nodes.getD i {}).x).getD i false =
      (combRecs s a op cells).any fun r => (r.nodes.getD i {}).x := fun i hi => by
    simp [List.getD, List.mem_range.mp hi]
  rw [map_zipIdx_map_range, combEv, ← List.countP_eq_length_filter, List.countP_map]
  rw [List.map_congr_left fun i hi => by rw [hlift i hi]]
  rfl

/-! ### The body (R137) -/

/-- The target node of a VCOMB. -/
def combLevel (op : VOp) : Nat := bits op.w7.toNat 31 27
def combPos (op : VOp) : Nat := bits op.w7.toNat 26 0

/-- The first record, with which the others agree. -/
def combFirst (s : State) (a : At) (op : VOp) : TreePart := (combHdrs s a op).headD (parseRecord [])

/-- The outputs of the combine: how many, their nodes and their events (R92). -/
def combCells (s : State) (a : At) (op : VOp) : Nat := (combFirst s a op).rows * (combFirst s a op).cols
def combNodes (s : State) (a : At) (op : VOp) : List Node :=
  ((List.range (combCells s a op)).map fun i =>
    combineNode ((combFirst s a op).nspanM1 + 1) (combRecs s a op (combCells s a op)) i (combLevel op) (combPos op)).map Prod.fst
def combOutEv (s : State) (a : At) (op : VOp) : Ev :=
  combEv s a op (combCells s a op) ((combFirst s a op).nspanM1 + 1) (combLevel op) (combPos op)

/-- The descriptor of the record a combine writes (R91). -/
def combDesc (s : State) (a : At) (op : VOp) : TreeDesc :=
  let first := combFirst s a op
  { tree := first.tree, level := BitVec.ofNat 5 (combLevel op), pos := BitVec.ofNat 27 (combPos op),
    wcode := BitVec.ofNat 3 first.wcode, nspanM1 := BitVec.ofNat 27 first.nspanM1 }

/-- The state a tree mismatch leaves (R94). -/
def combMismatch (s : State) (a : At) (op : VOp) (m : Mismatch) : State :=
  s.treeMismatch a.tile a.entry (s.fnAt a) op.chain.toNat (combFirst s a op).tree m

section
variable {s : State} {a : At} {op : VOp}

/-- A legal VCOMB passes the checks of its fields. -/
theorem VcombReady.fields (h : VcombReady s a op) (hrun : op.subop ≠ 1 → runOk op.w5 = true) :
    (bits op.w3.toNat 5 0 < 1 || 32 < bits op.w3.toNat 5 0 || bits op.w3.toNat 31 6 ≠ 0 || op.w2 ≠ 0 || !frameOk op ||
      cvtReserved op.w1hi.toNat || (!decide (op.subop = 1) && !runOk op.w5)) = false := by
  obtain ⟨-, -, -, -, hframe, hw2, hcvt, hlo, hhi, hw3, -⟩ := h
  have hlast : (!decide (op.subop = 1) && !runOk op.w5) = false := by
    by_cases hs : op.subop = 1
    · rw [decide_eq_true hs]; rfl
    · rw [hrun hs]; exact Bool.and_false _
  rw [hlast]
  simp [hframe, hw2, hcvt, hw3, hhi, Nat.one_le_iff_ne_zero.mp hlo]

theorem find_outside_eq_none {p : Part} {l : List Nat} {n : Nat} (h : ∀ o ∈ l, p.sramOk o n = true) :
    (l.find? fun o => !p.sramOk o n) = none := by
  simpa using h

theorem VcombReady.list (h : VcombReady s a op) :
    (s.partAt a).sramOk (bits op.w6.toNat 20 0) (4 * bits op.w3.toNat 5 0) = true := by
  obtain ⟨-, -, -, -, -, -, -, -, -, -, hlist, -⟩ := h
  exact hlist

theorem VcombReady.headers (h : VcombReady s a op) :
    ((combOffs s a op).find? fun o => !(s.partAt a).sramOk o 16) = none := by
  obtain ⟨-, -, -, -, -, -, -, -, -, -, -, hoffs⟩ := h
  exact find_outside_eq_none hoffs

/-- Where the records do not pass the check of R94, the body reports the mismatch. -/
theorem vcombBody_mismatch (h : VcombReady s a op) (hrun : op.subop ≠ 1 → runOk op.w5 = true) {m : Mismatch}
    (hm : treeCheck (combHdrs s a op) (combLevel op) (combPos op) = some m)
    (hon : ((combMismatch s a op m).func (s.fnAt a)).state = .on) :
    (vcombBody s a op (s.partAt a)).Ends (combMismatch s a op m) := by
  have hheaders := h.headers
  unfold vcombBody
  dsimp only
  rw [h.fields hrun, h.list]
  unfold combMismatch combFirst combHdrs combOffs State.fnAt combLevel combPos at *
  simp only [hheaders, hm, hon, Bool.false_eq_true, if_false, Bool.not_true, if_true]
  exact Body.ends_done ..

section
variable (h : VcombReady s a op) (hm : treeCheck (combHdrs s a op) (combLevel op) (combPos op) = none)
  (hneed : ∀ o ∈ combOffs s a op,
    (s.partAt a).sramOk o (16 + combCells s a op * 4 + ceilDiv (combCells s a op) 8) = true)
include h hm hneed

theorem vcombBody_record (hsub : op.subop = 1) (hdst : (s.partAt a).sramOk (bits op.w4.toNat 20 0)
      (recordSize (combFirst s a op).rows (combFirst s a op).cols) = true) :
    (vcombBody s a op (s.partAt a)).Ends
      ((s.setTile a.tile ((s.tileAt a).countEv a.entry (combOutEv s a op))).write
        ((s.partAt a).sram a.tile (bits op.w4.toNat 20 0))
        (recordBytes (combDesc s a op) (combFirst s a op).rows (combFirst s a op).cols (combNodes s a op))) := by
  have hheaders := h.headers
  have hrecs := find_outside_eq_none hneed
  have hev := combEv_eq s a op (combCells s a op) ((combFirst s a op).nspanM1 + 1) (combLevel op) (combPos op)
  unfold vcombBody
  dsimp only
  rw [h.fields fun hne => absurd hsub hne, h.list]
  unfold combOutEv combNodes combDesc
  rw [← hev]
  unfold combRecs combCells combFirst combHdrs combOffs combLevel combPos at *
  simp only [hheaders, hm, hrecs, hsub, hdst, Bool.false_eq_true, if_false, Bool.not_true, if_true]
  exact Body.ends_done ..

theorem vcombBody_run (hsub : op.subop ≠ 1) (hlevel : combLevel op = clog2 ((combFirst s a op).nspanM1 + 1))
    (hpos : combPos op = 0) (hcount : op.count.toNat = combCells s a op) (hrun : RunIn s a op.w5 (combCells s a op)) :
    (vcombBody s a op (s.partAt a)).Ends
      (s.setTile a.tile (((s.tileAt a).setElems (runStart s a op.w5 (combCells s a op))
        (((combNodes s a op).map (readOut op.w1hi.toNat)).map Prod.fst)).countEv a.entry
        ((combOutEv s a op).plus (sumEv (((combNodes s a op).map (readOut op.w1hi.toNat)).map Prod.snd))))) := by
  obtain ⟨hok, hin⟩ := hrun
  obtain ⟨d, hd⟩ := Option.isSome_iff_exists.mp hin
  have hstart : runStart s a op.w5 (combCells s a op) = d := by rw [runStart, hd]; rfl
  have hheaders := h.headers
  have hrecs := find_outside_eq_none hneed
  have hev := combEv_eq s a op (combCells s a op) ((combFirst s a op).nspanM1 + 1) (combLevel op) (combPos op)
  have htarget : ¬(combLevel op ≠ clog2 ((combFirst s a op).nspanM1 + 1) ∨ combPos op ≠ 0 ∨
      op.count.toNat ≠ combCells s a op) := by simp [hlevel, hpos, hcount]
  rw [hstart]
  unfold vcombBody
  dsimp only
  rw [h.fields fun _ => hok, h.list]
  unfold combOutEv combNodes
  rw [← hev]
  clear hlevel hpos hcount hstart
  unfold combRecs combCells combFirst combHdrs combOffs combLevel combPos at *
  simp only [hheaders, hm, hrecs, hsub, htarget, hd, Bool.false_eq_true, if_false, Bool.not_true]
  exact Body.ends_done ..

end

end

/-! ### The mismatch (R94) -/

section
variable {s : State} {t e fn unit : Nat} {tree : W32} {m : Mismatch}

/-- A mismatch that the step before did not see leaves its function's state. -/
theorem State.treeMismatch_func (hfirst : repeated (s.func fn) 3 tree.toNat 0 = false) :
    (s.treeMismatch t e fn unit tree m).func fn = ((s.func fn).raise 4).noteFail 3 tree.toNat 0 := by
  simp [State.treeMismatch, hfirst, State.onFunc]

theorem State.treeMismatch_tile (hfirst : repeated (s.func fn) 3 tree.toNat 0 = false) :
    (s.treeMismatch t e fn unit tree m).tile t = { ((s.tile t).fault .ve ((s.tile t).seq e).iaddr fn unit 3) with
      treeFault := { tree := tree, level := BitVec.ofNat 5 m.1, pos := BitVec.ofNat 27 m.2 } } := by
  simp [State.treeMismatch, hfirst, State.onFunc]

theorem State.treeMismatch_mem (hfirst : repeated (s.func fn) 3 tree.toNat 0 = false) :
    (s.treeMismatch t e fn unit tree m).mem = s.mem := by
  simp [State.treeMismatch, hfirst, State.onFunc]

theorem State.treeMismatch_dbg (hfirst : repeated (s.func fn) 3 tree.toNat 0 = false) :
    (s.treeMismatch t e fn unit tree m).dbg = s.dbg := by
  simp [State.treeMismatch, hfirst, State.onFunc]

end

theorem Func.raise_voteBits (f : Func) {bit : Nat} (h : bit < 8) : bitOf (f.raise bit).voteBits.toNat bit = true := by
  simp only [bitOf_toNat, Func.raise, BitVec.getLsbD_or, BitVec.getLsbD_ofNat, Nat.testBit_two_pow_self, h, decide_true,
    Bool.and_self, Bool.or_true]

theorem Tile.fault_platePoison (x : Tile) (g : Eng) (iaddr : W32) (fn unit code : Nat) :
    (x.fault g iaddr fn unit code).platePoison = x.platePoison := by cases g <;> rfl

/-! ### The obligation -/

section
variable {s : State} {a : At} {op : VOp} (h : VcombReady s a op)
include h

theorem VcombReady.exec_eq (hsub : op.subop.toNat ≤ 1) :
    exec (.vcomb a op .none) s = s.issue .ve a op.chain.toNat .none (vcombBody s a op) := by
  obtain ⟨-, -, -, hty, -⟩ := h
  show execVcomb a op .none s = _
  simp [execVcomb, hty, Nat.not_lt.mpr hsub]

/-- A first tree mismatch is reported, raises the step's FAULT vote and changes neither plates nor memory (R94, R168). -/
theorem runs_vcomb_mismatch (hsub : op.subop.toNat ≤ 1) (hrun : op.subop ≠ 1 → runOk op.w5 = true) {m : Mismatch}
    (hm : treeCheck (combHdrs s a op) (combLevel op) (combPos op) = some m)
    (hfirst : repeated (s.func (s.fnAt a)) 3 (combFirst s a op).tree.toNat 0 = false) :
    Runs (.vcomb a op .none) s fun t =>
      (t.tileAt a).plates = (s.tileAt a).plates ∧ SameMemory s t ∧
      (t.tileAt a).treeFault =
        { tree := (combFirst s a op).tree, level := BitVec.ofNat 5 m.1, pos := BitVec.ofNat 27 m.2 } ∧
      bitOf (t.func (s.fnAt a)).voteBits.toNat 4 = true := by
  have hfunc : (combMismatch s a op m).func (s.fnAt a) = _ := State.treeMismatch_func hfirst
  have htile : (combMismatch s a op m).tileAt a = _ := State.treeMismatch_tile hfirst
  have hexec := h.exec_eq hsub
  obtain ⟨hi, hc, hw, -⟩ := id h
  have hon : ((combMismatch s a op m).func (s.fnAt a)).state = .on := by rw [hfunc]; exact hi.on
  have hwatch : Unwatched (combMismatch s a op m) := by
    unfold Unwatched combMismatch
    rw [State.treeMismatch_dbg hfirst]
    exact hw
  unfold Runs
  rw [hexec]
  refine State.issue_done hi hc (vcombBody_mismatch h hrun hm hon) hwatch ?clean fun t ⟨⟨hrest, _⟩, hy, _⟩ => ?done
  case clean =>
    rw [htile]
    exact (Tile.fault_platePoison ..).trans hc.1
  case done =>
    rw [hy, htile]
    refine ⟨Tile.fault_plates .., sameMemory_of_mem ?_, rfl, ?_⟩
    · rw [hrest]
      exact State.treeMismatch_mem hfirst
    · have ht : t.func (s.fnAt a) = (combMismatch s a op m).func (s.fnAt a) := by rw [hrest]; rfl
      rw [ht, hfunc]
      exact Func.raise_voteBits _ (by decide)

end

/-- Settles O13: the body of VCOMB ends in a record, in a run or in a mismatch. The events of an output, and the span count the
target is checked against, are R83, R84, R94 and R129 as assumption 72 reads them. -/
theorem combine : Obligations.Combine := by
  intro s a op h x p level pos first cells recs n outs desc d ev
  have houts : outs = combNodes s a op := by rw [combNodes, List.map_map]; rfl
  obtain ⟨hi, hc, hw, -⟩ := id h
  refine ⟨fun hm hneed => ⟨fun hsub hdst => ?record, fun hsub hlevel hpos hcount hrun => ?run⟩,
    fun m hm hsub hok hfirst => ?mismatch⟩
  case record =>
    unfold Runs
    rw [h.exec_eq (by rw [hsub]; decide), houts]
    exact State.issue_altered hi hc (vcombBody_record h hm hneed hsub hdst) hw ((s.setTile_altered _ _).write hc.2 _ _)
      (by simp) (by simp) fun t hst hmem => ⟨hst, stored_of_mem_write (u := s.setTile ..) rfl hmem⟩
  case run =>
    unfold Runs
    rw [h.exec_eq (by rw [hsub]; decide), houts]
    exact State.issue_altered hi hc (vcombBody_run h hm hneed (by rw [hsub]; decide) hlevel hpos hcount hrun) hw
      (s.setTile_altered _ _) (by simp) (by simp) fun t hst hmem => hst.tileDone hmem
  case mismatch => exact runs_vcomb_mismatch h hsub (fun hne => hok (by bv_omega)) hm hfirst

end Sys2Proof.Machine
end

section
/-! MTREE, MCLR, MSAVE and the MDRAIN that passes (R91, R103, R104, R109, R110). -/
namespace Sys2Proof.Machine

/-! ### The length of a partial record (R91, R110) -/

theorem leBytes_length (n v : Nat) : (leBytes n v).length = n := by
  induction n generalizing v with
  | zero => rfl
  | succ n ih => rw [leBytes, List.length_cons, ih]

/-- A list cut into groups of eight has one group for each eight elements begun. -/
theorem chunksOf_eight_length {α : Type} : ∀ {f : Nat} {l : List α}, l.length ≤ f → (chunksOf 8 f l).length = ceilDiv l.length 8
  | 0, [], _ => by simp [chunksOf, ceilDiv]
  | f + 1, [], _ => by simp [chunksOf, ceilDiv]
  | f + 1, x :: xs, h => by
    have hrest : ((x :: xs).drop 8).length ≤ f := by
      rw [List.length_drop]
      rw [List.length_cons] at h ⊢
      omega
    rw [chunksOf, List.length_cons, chunksOf_eight_length hrest, List.length_drop, List.length_cons, ceilDiv, ceilDiv]
    · omega
    · simp

theorem length_flatMap_leBytes {α : Type} (n : Nat) (f : α → Nat) (l : List α) :
    (l.flatMap fun x => leBytes n (f x)).length = l.length * n := by
  simp only [List.length_flatMap, leBytes_length, List.map_const', List.sum_replicate_nat]

theorem le_roundUp_32 (v : Nat) : v ≤ roundUp v 32 := by
  unfold roundUp
  omega

/-- The record of a block of ROWS × COLS outputs has the bytes that R110 gives. -/
theorem recordBytes_length (d : TreeDesc) {rows cols : Nat} {ns : List Node} (h : ns.length = rows * cols) :
    (recordBytes d rows cols ns).length = recordSize rows cols := by
  simp only [recordBytes, recordSize, zeros, List.length_append, List.length_replicate, leBytes_length,
    length_flatMap_leBytes, chunksOf_eight_length (Nat.le_of_eq h), h]
  rw [Nat.add_sub_cancel' (le_roundUp_32 _)]
  congr 1
  omega

theorem Bank.nodes_length (b : Bank) : b.nodes.length = b.rows * b.cols := by simp [Bank.nodes]

/-! ### The instructions -/

/-- A tile is altered to itself where nothing has changed. -/
theorem TileAltered.refl (s : State) (n : Nat) : TileAltered s s n (s.tile n) := ⟨rfl, fun _ _ => rfl, rfl⟩

section
variable {s : State} {a : At} (hi : Issues s a .me) (hc : Clean s a) (hw : Unwatched s)
include hi hc hw

/-- An instruction whose body rewrites one bank, and touches nothing else, leaves its tile with that bank. -/
theorem State.issue_setBank {unit n : Nat} {body : Part → Body} {b : Bank}
    (hb : (body (s.partAt a)).Ends (s.setTile a.tile ((s.tileAt a).setBank n b))) :
    ∃ t, s.issue .me a unit .none body = .next t ∧ TileDone s a ((s.tileAt a).setBank n b) t :=
  State.issue_altered hi hc hb hw (s.setTile_altered _ _) (Tile.setBank_platePoison ..) (Tile.setBank_seqs ..)
    fun _ hst hm => hst.tileDone hm

/-- An instruction whose body changes nothing passes. -/
theorem State.issue_pass {unit : Nat} {body : Part → Body} (hb : (body (s.partAt a)).Ends s) :
    ∃ t, s.issue .me a unit .none body = .next t ∧ TileDone s a (s.tileAt a) t :=
  State.issue_done hi hc hb hw hc.1 fun _ h => h

/-- MTREE on a bank that is not open leaves it open, empty and with its event counts at 0 (R103, R113). -/
theorem runs_mtree {op : MtreeOp} (hbank : (s.partAt a).bankOk op.bank.toNat = true)
    (hphase : ((s.tileAt a).bank op.bank.toNat).phase ≠ .opened) (hcode : op.wcode.toNat ≤ 4)
    (hframes : (s.partAt a).outsideOf (mtreeFrames op) = none)
    (hnode : isNode (op.nspanM1.toNat + 1) op.level.toNat op.pos.toNat = true) :
    Runs (.mtree a op) s (TileDone s a ((s.tileAt a).setBank op.bank.toNat
      { phase := .opened, int := op.int, stackAddr := op.stackAddr,
        desc := { tree := op.tree, level := op.level, pos := op.pos, wcode := op.wcode, nspanM1 := op.nspanM1 } })) := by
  unfold State.tileAt at hphase
  show ∃ t, execMtree a op s = .next t ∧ _
  refine State.issue_setBank hi hc hw ?_
  simpa [State.onTile, State.tileAt, hbank, hphase, Nat.not_lt.mpr hcode, hframes, hnode] using Body.ends_done ..

section
variable {bank : BitVec 2} (hbank : (s.partAt a).bankOk bank.toNat = true)
include hbank

/-- MCLR leaves of the bank what `Bank.clear` keeps of it (R104, R110). -/
theorem runs_mclr : Runs (.mclr a bank) s
    (TileDone s a ((s.tileAt a).setBank bank.toNat ((s.tileAt a).bank bank.toNat).clear)) := by
  show ∃ t, execMclr a bank s = .next t ∧ _
  refine State.issue_setBank hi hc hw ?_
  simpa [State.onTile, State.tileAt, hbank] using Body.ends_done ..

/-- MSAVE writes the record of a DONE bank and changes nothing else (R110). -/
theorem runs_msave {dst : BitVec 16} (hdone : ((s.tileAt a).bank bank.toNat).phase = .done)
    (hdst : (s.partAt a).sramOk (dst.toNat * 32)
      (recordSize ((s.tileAt a).bank bank.toNat).rows ((s.tileAt a).bank bank.toNat).cols) = true) :
    Runs (.msave a bank dst) s fun t =>
      let b := (s.tileAt a).bank bank.toNat
      TileStored s a (s.tileAt a) t ∧
      Stored s t ((s.partAt a).sram a.tile (dst.toNat * 32)) (recordBytes b.desc b.rows b.cols b.nodes) := by
  unfold State.tileAt at hdone hdst
  show ∃ t, execMsave a bank dst s = .next t ∧ _
  refine State.issue_altered hi hc ?_ hw ((TileAltered.refl s a.tile).write hc.2 _ _) rfl rfl
    fun t hst hm => ⟨hst, stored_of_mem_write rfl hm⟩
  simpa [State.tileAt, hbank, hdone, hdst] using Body.ends_done ..

/-- MDRAIN without FOLD passes, whatever the bank holds (R104, R109). -/
theorem runs_mdrain_noFold : Runs (.mdrain a bank false .none) s (TileDone s a (s.tileAt a)) := by
  show ∃ t, execMdrain a bank false .none s = .next t ∧ _
  refine State.issue_pass hi hc hw ?_
  simpa [hbank] using Body.ends_done ..

/-- MDRAIN with FOLD on a bank that is folded already passes (R104, R109). -/
theorem runs_mdrain_done (hdone : ((s.tileAt a).bank bank.toNat).phase = .done) :
    Runs (.mdrain a bank true .none) s (TileDone s a (s.tileAt a)) := by
  unfold State.tileAt at hdone
  show ∃ t, execMdrain a bank true .none s = .next t ∧ _
  refine State.issue_pass hi hc hw ?_
  simpa [hbank, hdone] using Body.ends_done ..

end

end

/-- Settles O14: each instruction's body, on a bank of the entry, ends in the state the rule gives, and a record has the length
of R110. -/
theorem bankOpenClearSave : Obligations.BankOpenClearSave := by
  intro s a hi hc hw x p
  refine ⟨fun _ => runs_mtree hi hc hw,
    fun bank hbank => ⟨runs_mclr hi hc hw hbank, fun dst hdone hdst => ?msave, runs_mdrain_noFold hi hc hw hbank,
      runs_mdrain_done hi hc hw hbank⟩⟩
  case msave =>
    exact (runs_msave hi hc hw hbank hdone hdst).mono fun t ⟨hst, hrec⟩ =>
      ⟨hst, hrec, recordBytes_length _ (Bank.nodes_length _)⟩

end Sys2Proof.Machine
end

section
/-! The control registers of a tile's engines and of the power manager (R118, R142, R398, R399). -/
namespace Sys2Proof.Machine

/-! ### ME_CTL and VE_CTL (R118, R142) -/

theorem State.onTile_onlyTile (s : State) (n : Nat) (f : Tile → Tile) : OnlyTile s (s.onTile n f) n :=
  ⟨rfl, fun j hj => s.setTile_tile_ne n _ j hj⟩

theorem State.onTile_tile_self (s : State) (n : Nat) (f : Tile → Tile) : (s.onTile n f).tile n = f (s.tile n) :=
  s.setTile_tile_self n _

/-- What one step of ME_CTL.CLR does to the banks: bank `k` is cleared if the mask names it. -/
def clearBankOf (mask : Nat) (m : Table Bank) (k : Nat) : Table Bank :=
  if bitOf mask k then tset {} m k (tget {} m k).clear else m

theorem tget_clearBankOf (mask : Nat) (m : Table Bank) (k j : Nat) :
    tget {} (clearBankOf mask m k) j = if j = k ∧ bitOf mask j = true then (tget {} m j).clear else tget {} m j := by
  unfold clearBankOf
  by_cases hk : bitOf mask k = true
  · rw [if_pos hk, tget_tset]
    by_cases hj : j = k
    · subst hj; simp [hk]
    · simp [hj]
  · rw [if_neg hk, if_neg]
    rintro ⟨rfl, hj⟩
    exact hk hj

theorem Bank.clear_clear (b : Bank) : b.clear.clear = b.clear := rfl

/-- Clearing the banks of a list clears those of them that the mask names, however often the list holds them. -/
theorem tget_foldl_clearBankOf (mask : Nat) (ks : List Nat) (j : Nat) : ∀ m : Table Bank,
    tget {} (ks.foldl (clearBankOf mask) m) j =
      if j ∈ ks ∧ bitOf mask j = true then (tget {} m j).clear else tget {} m j := by
  induction ks with
  | nil => simp
  | cons k ks ih =>
    intro m
    rw [List.foldl_cons, ih, tget_clearBankOf]
    by_cases hm : bitOf mask j = true
    · by_cases hj : j = k
      · subst hj; simp [hm, Bank.clear_clear]
      · simp [hm, hj]
    · simp [hm]

/-- Every bank that the mask names is cleared: one that the table does not list is empty already. -/
theorem State.clearBanks_bank (s : State) (n mask b : Nat) :
    ((s.clearBanks n mask).tile n).bank b = if bitOf mask b then ((s.tile n).bank b).clear else (s.tile n).bank b := by
  rw [State.clearBanks, State.onTile_tile_self]
  refine (tget_foldl_clearBankOf mask (tkeys (s.tile n).banks) b (s.tile n).banks).trans ?_
  by_cases hkey : b ∈ tkeys (s.tile n).banks
  · simp only [hkey, true_and]; rfl
  · have hempty : (s.tile n).bank b = {} := Decidable.byContradiction fun hne => hkey (mem_tkeys_of_tget_ne hne)
    rw [if_neg fun h => hkey h.1, hempty]
    exact hempty.trans (ite_self _).symm

/-- What is left of a table after the keys that a mask names, by `g`, have been dropped. -/
theorem tget_filter_mask {α : Type} (d : α) (mask : Nat) (g : Nat → Nat) (t : Table α) (k : Nat) :
    tget d (t.filter fun c => !bitOf mask (g c.1)) k = if bitOf mask (g k) then d else tget d t k := by
  rw [tget_filter_key d fun k => !bitOf mask (g k)]
  cases bitOf mask (g k) <;> rfl

theorem runs_meCtlClr {s : State} {n : Nat} (hfit : s.tileFitted n = true) (mask : BitVec 4) :
    Runs (.meCtlClr n mask) s fun t => OnlyTile s t n ∧ t.tile n = { s.tile n with banks := (t.tile n).banks } ∧
      ∀ b, (t.tile n).bank b = if bitOf mask.toNat b then ((s.tile n).bank b).clear else (s.tile n).bank b := by
  refine ⟨s.clearBanks n mask.toNat, if_pos hfit, s.onTile_onlyTile n _, ?_, s.clearBanks_bank n mask.toNat⟩
  rw [State.clearBanks, State.onTile_tile_self]

theorem runs_veCtlClr {s : State} {n : Nat} (hfit : s.tileFitted n = true) (mask : BitVec 4) :
    Runs (.veCtlClr n mask) s fun t => OnlyTile s t n ∧
      t.tile n =
        { s.tile n with chains := (t.tile n).chains, scalars := (t.tile n).scalars, events := (t.tile n).events } ∧
      (∀ k, tget 0 (t.tile n).scalars k = if bitOf mask.toNat (k / 16) then 0 else tget 0 (s.tile n).scalars k) ∧
      (∀ k, tget {} (t.tile n).chains k = if bitOf mask.toNat (k / 4) then {} else tget {} (s.tile n).chains k) ∧
      ∀ k, tget {} (t.tile n).events k = if bitOf mask.toNat k then {} else tget {} (s.tile n).events k := by
  refine ⟨s.clearEntries n mask.toNat, if_pos hfit, s.onTile_onlyTile n _, ?_⟩
  rw [State.clearEntries, State.onTile_tile_self]
  exact ⟨rfl, tget_filter_mask _ mask.toNat (· / 16) _, tget_filter_mask _ mask.toNat (· / 4) _,
    tget_filter_mask _ mask.toNat id _⟩

/-! ### The limit registers of the power manager (R398, R399) -/

section
variable {s : State} {v : W32}

theorem State.writePlimit_accepted
    (h : ((s.base.map BaseImage.speed).bind (overPower s.code (v.toNat % 4096))).isSome = false) :
    s.writePlimit v = { s with power := { s.power with
      cfgerr := s.power.cfgerr && !v.getLsbD 12, limit := BitVec.ofNat 12 (v.toNat % 4096) } } :=
  if_neg (by simp [h])

theorem State.writePlimit_ignored
    (h : ((s.base.map BaseImage.speed).bind (overPower s.code (v.toNat % 4096))).isSome = true) :
    s.writePlimit v = { s with power := { s.power with cfgerr := true } } := if_pos h

theorem State.writeTlimit_accepted (hlo : 70 ≤ v.toNat % 256) (hhi : v.toNat % 256 ≤ 105) :
    s.writeTlimit v = { s with power := { s.power with tlimit := BitVec.ofNat 8 (v.toNat % 256) } } :=
  if_pos ⟨hlo, hhi⟩

theorem State.writeTlimit_ignored (h : v.toNat % 256 < 70 ∨ 105 < v.toNat % 256) :
    s.writeTlimit v = { s with power := { s.power with cfgerr := true } } := if_neg (by omega)

theorem State.writeVcfg_accepted (hf : 600 ≤ bits v.toNat 25 16) (hf' : bits v.toNat 25 16 ≤ 900)
    (hg : 600 ≤ bits v.toNat 9 0) (hg' : bits v.toNat 9 0 ≤ 900) :
    s.writeVcfg v = { s with power := { s.power with
      vfloorDef := BitVec.ofNat 10 (bits v.toNat 25 16), vtarget := BitVec.ofNat 10 (bits v.toNat 9 0) } } :=
  if_pos ⟨hf, hf', hg, hg'⟩

theorem State.writeVcfg_ignored (h : bits v.toNat 25 16 < 600 ∨ 900 < bits v.toNat 25 16 ∨
      bits v.toNat 9 0 < 600 ∨ 900 < bits v.toNat 9 0) :
    s.writeVcfg v = { s with power := { s.power with cfgerr := true } } := if_neg (by omega)

end

/-- Settles O44: the tile registers by what a table holds after its masked keys are cleared, the limit registers by the range
of the value written. -/
theorem controlRegisters : Obligations.ControlRegisters := by
  refine ⟨fun s n mask hfit => ⟨runs_meCtlClr hfit mask, runs_veCtlClr hfit mask⟩, fun s v => ?_⟩
  exact ⟨fun h => ⟨_, rfl, State.writePlimit_accepted h⟩, fun h => ⟨_, rfl, State.writePlimit_ignored h⟩,
    fun hlo hhi => ⟨_, rfl, State.writeTlimit_accepted hlo hhi⟩, fun h => ⟨_, rfl, State.writeTlimit_ignored h⟩,
    fun hf hf' hg hg' => ⟨_, rfl, State.writeVcfg_accepted hf hf' hg hg'⟩,
    fun h => ⟨_, rfl, State.writeVcfg_ignored h⟩⟩

end Sys2Proof.Machine
end

section
/-! STEPEND: the end of a step and the beginning of the next one (R231, R248, R250, R258). -/
namespace Sys2Proof.Machine

/-! ### Tables and lists -/

/-- A filter that keeps the listed value at a key keeps what the key reads, even where later entries repeat the key. -/
theorem tget_filter_of_pos {α : Type} {d : α} {p : Nat × α → Bool} {t : Table α} {k : Nat} (hk : tget d t k ≠ d)
    (hp : p (k, tget d t k) = true) : tget d (t.filter p) k = tget d t k := by
  induction t with
  | nil => rfl
  | cons e t ih =>
    obtain ⟨j, v⟩ := e
    by_cases hj : j = k
    · subst hj
      have hkeep : p (j, v) = true := by simpa only [tget, if_true] using hp
      rw [List.filter_cons_of_pos hkeep, tget, tget]
      simp only [if_true]
    · simp only [tget, if_neg hj] at hk hp ⊢
      rw [List.filter_cons]
      split
      · simpa only [tget, if_neg hj] using ih hk hp
      · exact ih hk hp

theorem tget_map_add {α : Type} (d : α) (t : Table α) (n k : Nat) :
    tget d (t.map fun e => (e.1 + n, e.2)) (k + n) = tget d t k := by
  induction t with
  | nil => rfl
  | cons e t ih => simp only [List.map_cons, tget, ih, Nat.add_right_cancel_iff]

theorem mem_of_tget_ne {α : Type} {d : α} {t : Table α} {k : Nat} (h : tget d t k ≠ d) : (k, tget d t k) ∈ t := by
  induction t with
  | nil => exact absurd rfl h
  | cons e t ih =>
    obtain ⟨j, v⟩ := e
    by_cases hj : j = k
    · simp [tget, hj]
    · simp only [tget, if_neg hj] at h ⊢
      exact List.mem_cons_of_mem _ (ih h)

theorem le_foldl_max {α : Type} (g : α → Nat) (l : List α) (n : Nat) :
    n ≤ l.foldl (fun n e => max n (g e)) n ∧ ∀ x ∈ l, g x ≤ l.foldl (fun n e => max n (g e)) n := by
  induction l generalizing n with
  | nil => simp
  | cons y l ih =>
    obtain ⟨hstart, hrest⟩ := ih (max n (g y))
    refine ⟨Nat.le_trans (Nat.le_max_left _ _) hstart, fun x hx => ?_⟩
    rcases List.mem_cons.mp hx with rfl | hx
    · exact Nat.le_trans (Nat.le_max_right _ _) hstart
    · exact hrest x hx

/-! ### Items and the steps they belong to -/

theorem Func.item_of_lt (f : Func) {k : Nat} (h : k < runBase) : f.item k = tget .waiting f.items k := if_pos (.inl h)

/-- An item that its table lists stands where the table says, whatever step it is of. -/
theorem Func.item_of_tget {f : Func} {k : Nat} (h : tget .waiting f.items k ≠ .waiting) :
    f.item k = tget .waiting f.items k := if_pos (.inr (List.contains_iff_mem.mpr (mem_tkeys_of_tget_ne h)))

theorem State.entry_of_lt (s : State) (fn : Nat) {k : Nat} (h : k < runBase) : s.entry fn k = (s.program fn)[k]? := by
  rw [State.entry, Func.runAt, if_pos h, Nat.mod_eq_of_lt h, State.program]

/-- An item of the step before is an entry of that step's program. -/
theorem State.entry_of_older {s : State} {fn k : Nat} {r : StepRun} (h : k < runBase)
    (hr : (s.func fn).older[0]? = some r) : s.entry fn (runBase + k) = ((s.image fn).program r.var)[k]? := by
  have hdiv : (runBase + k) / runBase - 1 = 0 := by unfold runBase at h ⊢; omega
  have hmod : (runBase + k) % runBase = k := by unfold runBase at h ⊢; omega
  rw [State.entry, Func.runAt, if_neg (by omega), hdiv, hmod, List.getD_eq_getElem?_getD, hr, Option.getD_some]

/-! ### What stays of a step's items when the next one begins (R250) -/

section
variable (f : Func) {k : Nat}

theorem Func.keepItems_fresh (h : k < runBase) : tget .waiting f.keepItems.items k = .waiting := by
  refine Decidable.byContradiction fun hne => ?_
  have hk := mem_tkeys_of_tget_ne hne
  simp only [Func.keepItems, tkeys, List.map_map, List.mem_map, Function.comp] at hk
  obtain ⟨e, -, rfl⟩ := hk
  omega

section
variable (h : tget .waiting f.items k = .issued ∨ tget .waiting f.items k = .started)
include h

/-- An item that has issued and is not complete is kept. -/
theorem Func.keepItems_item : tget .waiting f.keepItems.items (k + runBase) = tget .waiting f.items k := by
  rw [Func.keepItems]
  dsimp only
  rw [tget_map_add]
  refine tget_filter_of_pos ?_ ?_
  · rcases h with h | h <;> simp [h]
  · rcases h with h | h <;> simp [h]

theorem Func.keepItems_older :
    f.keepItems.older[0]? = some { first := f.stepFirst, step := f.progStep, var := f.progVar } := by
  have hne : tget .waiting f.items k ≠ .waiting := by rcases h with h | h <;> simp [h]
  have hleft : (k, tget .waiting f.items k) ∈ f.items.filter fun e => e.2 == .issued || e.2 == .started :=
    List.mem_filter.mpr ⟨mem_of_tget_ne hne, by rcases h with h | h <;> simp [h]⟩
  have hrun : 0 < (k + runBase) / runBase := by unfold runBase; omega
  have hmax := (le_foldl_max (fun e : Nat × ItemSt => (e.1 + runBase) / runBase) _ 0).2 _ hleft
  rw [Func.keepItems]
  dsimp only
  rw [List.getElem?_take_of_lt (Nat.lt_of_lt_of_le hrun hmax), List.getElem?_cons_zero]

end

end

/-! ### Issuing the entries that are due (R255) -/

/-- Entry `x` issues if it waits and its START has come. -/
def Func.issueIfDue (sched : W32) (f : Func) (x : StepEntry × Nat) : Func :=
  if f.item x.2 = .waiting ∧ serialLe (f.position x.1.start) sched then f.setItem x.2 .issued else f

theorem State.issueDue_eq {s : State} {fn : Nat} (h : (s.func fn).run = true) : s.issueDue fn =
    s.setFunc fn ((s.program fn).zipIdx.foldl (Func.issueIfDue s.herd.sched) (s.func fn)) := if_pos h

theorem Func.issueIfDue_cases (sched : W32) (f : Func) (x : StepEntry × Nat) :
    f.issueIfDue sched x = f ∨ f.issueIfDue sched x = f.setItem x.2 .issued := by
  unfold Func.issueIfDue
  split
  · exact .inr rfl
  · exact .inl rfl

section
variable (sched : W32) (xs : List (StepEntry × Nat)) (f : Func)

/-- Issuing changes the items alone. -/
theorem Func.issueAll_rest :
    xs.foldl (Func.issueIfDue sched) f = { f with items := (xs.foldl (Func.issueIfDue sched) f).items } := by
  refine List.foldlRecOn (motive := fun g : Func => g = { f with items := g.items }) xs _ rfl fun g hg x _ => ?_
  rcases g.issueIfDue_cases sched x with h | h
  · rwa [h]
  · rw [h, hg]
    rfl

/-- Issuing leaves an item as it is or moves it from WAITING to ISSUED: no item stands anywhere else. -/
theorem Func.issueAll_waiting_or_issued {k : Nat}
    (h : tget .waiting f.items k = .waiting ∨ tget .waiting f.items k = .issued) :
    tget .waiting (xs.foldl (Func.issueIfDue sched) f).items k = .waiting ∨
      tget .waiting (xs.foldl (Func.issueIfDue sched) f).items k = .issued := by
  refine List.foldlRecOn
    (motive := fun g : Func => tget .waiting g.items k = .waiting ∨ tget .waiting g.items k = .issued) xs _ h fun g hg x _ => ?_
  rcases g.issueIfDue_cases sched x with hx | hx
  · rwa [hx]
  · rw [hx, Func.setItem, tget_tset]
    split
    · exact .inr rfl
    · exact hg

/-- Issuing does not touch an item that is no entry of the program. -/
theorem Func.issueAll_other {k : Nat} (h : ∀ x ∈ xs, x.2 ≠ k) :
    tget .waiting (xs.foldl (Func.issueIfDue sched) f).items k = tget .waiting f.items k := by
  refine List.foldlRecOn
    (motive := fun g : Func => tget .waiting g.items k = tget .waiting f.items k) xs _ rfl fun g hg x hx => ?_
  rcases g.issueIfDue_cases sched x with hi | hi
  · rwa [hi]
  · rw [hi, Func.setItem, tget_tset_ne _ _ _ (h x hx).symm, hg]

end

/-! ### What the beginning of a step changes -/

/-- At most one function and the tiles have changed. -/
def StepOnly (s t : State) (fn : Nat) : Prop :=
  t = { s with funcs := t.funcs, tiles := t.tiles } ∧ ∀ j, j ≠ fn → t.func j = s.func j

theorem StepOnly.refl (s : State) (fn : Nat) : StepOnly s s fn := ⟨rfl, fun _ _ => rfl⟩

theorem StepOnly.trans {s t u : State} {fn : Nat} (h : StepOnly s t fn) (k : StepOnly t u fn) :
    StepOnly s u fn := by
  obtain ⟨hrest, hothers⟩ := h
  obtain ⟨krest, kothers⟩ := k
  exact ⟨by rw [krest, hrest], fun j hj => (kothers j hj).trans (hothers j hj)⟩

theorem StepOnly.image {s t : State} {fn : Nat} (h : StepOnly s t fn) (n : Nat) : t.image n = s.image n := by
  rw [h.1]
  rfl

theorem StepOnly.ertEntry {s t : State} {fn : Nat} (h : StepOnly s t fn) (x : Nat) : t.ertEntry x = s.ertEntry x := by
  rw [h.1]
  rfl

theorem OnlyFunc.stepOnly {s t : State} {fn : Nat} (h : OnlyFunc s t fn) : StepOnly s t fn := by
  obtain ⟨hrest, hothers⟩ := h
  exact ⟨by rw [hrest], hothers⟩

theorem State.onFunc_onlyFunc (s : State) (fn : Nat) (g : Func → Func) : OnlyFunc s (s.onFunc fn g) fn :=
  s.setFunc_onlyFunc fn _

theorem State.endBatch_onlyFunc (s : State) (fn : Nat) (ended : DispatchSeen → Bool) : OnlyFunc s (s.endBatch fn ended) fn := by
  rw [State.endBatch]
  exact s.onFunc_onlyFunc fn _

theorem State.onTiles_stepOnly (s : State) (g : Nat → Tile → Tile) (fn : Nat) : StepOnly s (s.onTiles g) fn :=
  ⟨by rw [State.onTiles_only], fun j _ => s.onTiles_func g j⟩

theorem State.issueDue_stepOnly (s : State) (fn : Nat) : StepOnly s (s.issueDue fn) fn := by
  unfold State.issueDue
  dsimp only
  split
  · exact (s.setFunc_onlyFunc fn _).stepOnly
  · exact .refl s fn

/-! ### HEAT (R231) -/

/-- Each entry of a list is put back into the table, rewritten. -/
def State.rewriteErt (v : Nat × ErtEntry → ErtEntry) (es : List (Nat × ErtEntry)) (s : State) : State :=
  es.foldl (fun s e => s.setErt e.1 (v e)) s

section
variable (v : Nat × ErtEntry → ErtEntry)

theorem State.rewriteErt_rest (es : List (Nat × ErtEntry)) (s : State) :
    State.rewriteErt v es s = { s with ert := (State.rewriteErt v es s).ert } :=
  List.foldlRecOn (motive := fun t : State => t = { s with ert := t.ert }) es _ rfl fun t ht e _ => by
    rw [ht]
    rfl

theorem State.rewriteErt_other {es : List (Nat × ErtEntry)} {x : Nat} (h : x ∉ es.map Prod.fst) (s : State) :
    (State.rewriteErt v es s).ertEntry x = s.ertEntry x := by
  refine List.foldlRecOn (motive := fun t : State => t.ertEntry x = s.ertEntry x) es _ rfl fun t ht e he => ?_
  have hx : x ≠ e.1 := fun hx => h (hx ▸ List.mem_map_of_mem he)
  rw [State.setErt_ertEntry_ne _ _ _ _ hx, ht]

theorem State.rewriteErt_mem {es : List (Nat × ErtEntry)} (h : (es.map Prod.fst).Nodup) {e : Nat × ErtEntry} (he : e ∈ es)
    (s : State) : (State.rewriteErt v es s).ertEntry e.1 = v e := by
  induction es generalizing s with
  | nil => exact absurd he List.not_mem_nil
  | cons y es ih =>
    obtain ⟨hy, hes⟩ := List.nodup_cons.mp h
    rcases List.mem_cons.mp he with rfl | he
    · exact (State.rewriteErt_other v hy _).trans (s.setErt_ertEntry_self _ _)
    · exact ih hes he _

end

/-- The entry of a function's expert with its HEAT aged. -/
def Func.aged (f : Func) (e : Nat × ErtEntry) : ErtEntry := { e.2 with heat := heatNext e.2.heat (tget 0 f.routedStep e.1) }

theorem State.heatUpdate_eq (s : State) (fn : Nat) : s.heatUpdate fn =
    ({ s with ert := (State.rewriteErt (s.func fn).aged (s.entriesOf fn) s).ert }).setFunc fn
      { s.func fn with routedStep := [] } := by
  show (State.rewriteErt (s.func fn).aged (s.entriesOf fn) s).onFunc fn (fun f => { f with routedStep := [] }) = _
  rw [State.rewriteErt_rest]
  rfl

theorem State.heatUpdate_func (s : State) (fn : Nat) : (s.heatUpdate fn).func fn = { s.func fn with routedStep := [] } := by
  rw [State.heatUpdate_eq, State.setFunc_func_self]

theorem State.heatUpdate_ertEntry {s : State} {fn : Nat} (h : ((s.entriesOf fn).map Prod.fst).Nodup)
    {e : Nat × ErtEntry} (he : e ∈ s.entriesOf fn) : (s.heatUpdate fn).ertEntry e.1 = (s.func fn).aged e := by
  rw [State.heatUpdate_eq]
  exact State.rewriteErt_mem _ h he s

theorem State.heatUpdate_entry (s : State) (fn k : Nat) : (s.heatUpdate fn).entry fn k = s.entry fn k := by
  rw [State.entry, State.heatUpdate_func, State.heatUpdate_eq]
  rfl

/-! ### The boundary (R172, R194, R248, R258) -/

/-- What a function's record becomes at the boundary, before it is settled what follows: STEPEND is dropped from its items. -/
def State.boundaryRecord (s : State) (fn : Nat) : Func :=
  { s.func fn with
    routedStep := []
    biasAsked := ((s.func fn).biasAsked ++ (s.func fn).flipped).eraseDups
    items := (s.func fn).items.filter fun e => (s.entry fn e.1).any fun x => x.op != opSTEPEND }

/-- The state in which it is settled what follows the boundary. -/
def State.atBoundary (s : State) (fn : Nat) : State := (s.heatUpdate fn).setFunc fn (s.boundaryRecord fn)

theorem State.atBoundary_func (s : State) (fn : Nat) : (s.atBoundary fn).func fn = s.boundaryRecord fn :=
  State.setFunc_func_self ..

theorem State.atBoundary_rest (s : State) (fn : Nat) :
    s.atBoundary fn = { s with funcs := (s.atBoundary fn).funcs, ert := (s.atBoundary fn).ert } := by
  rw [State.atBoundary, State.heatUpdate_eq]
  rfl

theorem State.atBoundary_others (s : State) {fn j : Nat} (hj : j ≠ fn) : (s.atBoundary fn).func j = s.func j := by
  rw [State.atBoundary, State.setFunc_func_ne _ _ _ _ hj, State.heatUpdate_eq, State.setFunc_func_ne _ _ _ _ hj]
  rfl

theorem State.atBoundary_image (s : State) (fn n : Nat) : (s.atBoundary fn).image n = s.image n := by
  rw [State.atBoundary_rest]
  rfl

theorem State.atBoundary_ertEntry {s : State} {fn : Nat} (h : ((s.entriesOf fn).map Prod.fst).Nodup)
    {e : Nat × ErtEntry} (he : e ∈ s.entriesOf fn) : (s.atBoundary fn).ertEntry e.1 = (s.func fn).aged e :=
  (State.setFunc_ertEntry_eq _ _ _ _).trans (State.heatUpdate_ertEntry h he)

theorem State.atBoundary_program (s : State) (fn : Nat) : (s.atBoundary fn).program fn = s.program fn := by
  rw [State.program, State.atBoundary_func, State.atBoundary_image]
  rfl

theorem State.boundaryRecord_item (s : State) (fn : Nat) {k : Nat} {x : StepEntry} (hk : k < runBase)
    (hx : (s.program fn)[k]? = some x) (hop : x.op ≠ opSTEPEND) :
    tget .waiting (s.boundaryRecord fn).items k = (s.func fn).item k := by
  have hkeep : ((s.entry fn k).any fun x => x.op != opSTEPEND) = true := by simp [s.entry_of_lt fn hk, hx, hop]
  rw [Func.item_of_lt _ hk, State.boundaryRecord]
  dsimp only
  rw [tget_filter_key ItemSt.waiting (fun k => (s.entry fn k).any fun x => x.op != opSTEPEND), if_pos hkeep]

theorem State.stepBoundary_of_none {s : State} {fn len : Nat}
    (h : (s.atBoundary fn).boundaryStop fn ((s.func fn).position len) = none) :
    s.stepBoundary fn len = (s.atBoundary fn).beginStep fn ((s.func fn).position len) := by
  have hat : ((s.heatUpdate fn).onFunc fn fun f => { f with
      biasAsked := (f.biasAsked ++ f.flipped).eraseDups
      items := f.items.filter fun e => ((s.heatUpdate fn).entry fn e.1).any fun x => x.op != opSTEPEND }) = s.atBoundary fn := by
    simp only [State.onFunc, State.heatUpdate_func, State.heatUpdate_entry]
    rfl
  have hpos : ((s.atBoundary fn).func fn).position len = (s.func fn).position len := by rw [State.atBoundary_func]; rfl
  rw [State.stepBoundary, hat, hpos, h]

theorem State.boundaryStop_eq_none {s : State} {fn : Nat} (at_ : W32) (hcap : (s.func fn).stopAtBoundary = 0)
    (hstops : (s.func fn).stops = [])
    (hvote : (s.program fn).any (fun e => e.op == opVOTE) = true → bitOf (s.func fn).voteOut.toNat 2 = false ∧
      ((s.image fn).job.skipLimit = 0 ∨ (s.func fn).skiprun < (s.image fn).job.skipLimit)) :
    s.boundaryStop fn at_ = none := by
  have hskew : ((s.program fn).any (fun e => e.op == opVOTE) && bitOf (s.func fn).voteOut.toNat 2) = false := by
    rw [Bool.and_eq_false_imp]
    exact fun h => (hvote h).1
  have hskip : ¬((s.program fn).any (fun e => e.op == opVOTE) = true ∧ (s.image fn).job.skipLimit ≠ 0 ∧
      (s.image fn).job.skipLimit ≤ (s.func fn).skiprun) := by
    rintro ⟨hv, hne, hle⟩
    have := (hvote hv).2
    omega
  simp only [State.boundaryStop, hcap, hskew, if_neg hskip, Func.stopsAt, hstops, List.any_nil, Nat.reduceEqDiff,
    Bool.false_eq_true, if_false]

/-! ### The beginning of a step -/

/-- Record `g` is that of a step begun at SCHED `first`, after record `f`. -/
structure StepBegun (f g : Func) (first : W32) : Prop where
  run : g.run = f.run
  stepFirst : g.stepFirst = first
  stepSlots : g.stepSlots = 0
  voteBits : g.voteBits = f.voteBits
  voteCast : g.voteCast = false
  voteOpen : g.voteOpen = false
  stats : g.stats = []
  shards : g.shards = []
  checked : g.checked = []
  jstep0 : g.jstep0 = f.jhead
  progStep : g.progStep = f.step
  progVar : g.progVar = f.mbvar
  older : g.older = f.keepItems.older

theorem StepBegun.withItems {f g : Func} {first : W32} (h : StepBegun f g first) (items : Table ItemSt) :
    StepBegun f { g with items := items } first :=
  ⟨h.run, h.stepFirst, h.stepSlots, h.voteBits, h.voteCast, h.voteOpen, h.stats, h.shards, h.checked, h.jstep0, h.progStep,
    h.progVar, h.older⟩

/-- A step begins with the cleared record and the items kept from before; then the entries that are due issue. -/
theorem State.beginStep_eq (s : State) (fn : Nat) (first : W32) :
    ∃ u, s.beginStep fn first = u.issueDue fn ∧ StepOnly s u fn ∧ StepBegun (s.func fn) (u.func fn) first ∧
      (u.func fn).items = (s.func fn).keepItems.items := by
  refine ⟨_, rfl, ?_, ?_, ?_⟩
  · refine StepOnly.trans ?_ (State.onTiles_stepOnly _ _ fn)
    exact ((s.endBatch_onlyFunc fn _).trans (State.onFunc_onlyFunc _ fn _)).stepOnly
  · rw [State.onTiles_func, State.onFunc, State.setFunc_func_self, State.endBatch, State.onFunc, State.setFunc_func_self]
    exact ⟨rfl, rfl, rfl, rfl, rfl, rfl, rfl, rfl, rfl, rfl, rfl, rfl, rfl⟩
  · rw [State.onTiles_func, State.onFunc, State.setFunc_func_self, State.endBatch, State.onFunc, State.setFunc_func_self]
    rfl

/-- Which items a step begins with: its own wait or have issued, and those left of the step before stand as they did. -/
structure ItemsBegun (f g : Func) (entries : Nat) : Prop where
  own : ∀ k, k < runBase → g.item k = .waiting ∨ g.item k = .issued
  late : entries ≤ runBase → ∀ k, tget .waiting f.items k = .issued ∨ tget .waiting f.items k = .started →
    g.item (runBase + k) = tget .waiting f.items k

theorem ItemsBegun.of_issueAll {f g : Func} (h : g.items = f.keepItems.items) (sched : W32) (prog : List StepEntry) :
    ItemsBegun f (prog.zipIdx.foldl (Func.issueIfDue sched) g) prog.length where
  own k hk := by
    rw [Func.item_of_lt _ hk]
    exact Func.issueAll_waiting_or_issued sched _ g (.inl (by rw [h, Func.keepItems_fresh f hk]))
  late hlen k hk := by
    have hidx : ∀ x ∈ prog.zipIdx, x.2 ≠ runBase + k := fun x hx => by
      have := List.snd_lt_of_mem_zipIdx hx
      omega
    have hget : tget .waiting (prog.zipIdx.foldl (Func.issueIfDue sched) g).items (runBase + k) =
        tget .waiting f.items k := by
      rw [Func.issueAll_other sched _ g hidx, h, Nat.add_comm, Func.keepItems_item f hk]
    rw [Func.item_of_tget, hget]
    rcases hk with hk | hk <;> simp [hget, hk]

theorem State.beginStep_begun {s : State} {fn : Nat} (first : W32) (h : (s.func fn).run = true) :
    StepOnly s (s.beginStep fn first) fn ∧ StepBegun (s.func fn) ((s.beginStep fn first).func fn) first ∧
      ItemsBegun (s.func fn) ((s.beginStep fn first).func fn) ((s.image fn).program (s.func fn).mbvar).length := by
  obtain ⟨u, heq, hrest, hbegun, hitems⟩ := s.beginStep_eq fn first
  have hprog : u.program fn = (s.image fn).program (s.func fn).mbvar := by
    rw [State.program, hbegun.progVar, hrest.image]
  have hfunc : (s.beginStep fn first).func fn =
      ((s.image fn).program (s.func fn).mbvar).zipIdx.foldl (Func.issueIfDue u.herd.sched) (u.func fn) := by
    rw [heq, State.issueDue_eq (hbegun.run.trans h), State.setFunc_func_self, hprog]
  refine ⟨heq ▸ hrest.trans (u.issueDue_stepOnly fn), ?_, ?_⟩
  · rw [hfunc, Func.issueAll_rest]
    exact hbegun.withItems _
  · rw [hfunc]
    exact .of_issueAll hitems _ _

/-! ### The obligation -/

/-- STEPEND has issued and the step's votes are decided. -/
theorem State.stepOver_eq {s : State} {fn k len : Nat} (hend : stepEndOf (s.program fn) = some (k, len))
    (hrun : (s.func fn).run = true) (hissued : (s.func fn).item k = .issued)
    (hvotes : ∀ e ∈ (s.program fn).zipIdx, e.1.op = opVOTE → (s.func fn).item e.2 = .complete) :
    s.stepOver fn = some len := by
  have hall : ((s.program fn).zipIdx.all fun (e, i) => e.op != opVOTE || (s.func fn).item i == .complete) = true := by
    rw [List.all_eq_true]
    intro e he
    by_cases hop : e.1.op = opVOTE
    · simp [hvotes e he hop]
    · simp [hop]
  simp only [State.stepOver, hend, hrun, hissued, hall, beq_self_eq_true, Bool.and_self, if_true]

/-- Settles O21: nothing stops the job, so the boundary ages HEAT and begins the step, which clears the record and keeps the
late items. That a vote bit raised after the vote stays for the next one is assumption 69. -/
theorem stepBoundary : Obligations.StepBoundary := by
  intro s fn k len hfn f hend hrun hissued hvotes hcap hstops hvote hnodup
  let first := f.position len
  have hfunc := s.atBoundary_func fn
  have hnone : (s.atBoundary fn).boundaryStop fn first = none := by
    refine State.boundaryStop_eq_none first ?_ ?_ ?_
    · rw [hfunc]; exact hcap
    · rw [hfunc]; exact hstops
    · rw [hfunc, State.atBoundary_program, State.atBoundary_image]; exact hvote
  have hexec : exec (.stepend fn) s = .next ((s.atBoundary fn).beginStep fn first) := by
    show execStepend fn s = _
    rw [execStepend, if_neg (Nat.not_le.mpr hfn), State.stepOver_eq hend hrun hissued hvotes]
    dsimp only
    rw [State.stepBoundary_of_none hnone]
  obtain ⟨hstep, hbegun, hitems⟩ :=
    State.beginStep_begun (s := s.atBoundary fn) (fn := fn) first (by rw [hfunc]; exact hrun)
  rw [hfunc] at hbegun hitems
  rw [State.atBoundary_image] at hitems
  refine ⟨_, hexec, ?rest, fun j hj => (hstep.2 j hj).trans (s.atBoundary_others hj), hbegun.run.trans hrun, hbegun.stepFirst,
    hbegun.stepSlots, hbegun.voteBits, hbegun.voteCast, hbegun.voteOpen, hbegun.stats, hbegun.shards, hbegun.checked,
    hbegun.jstep0, hbegun.progStep, hbegun.progVar, hitems.own, ?late, ?heat⟩
  case rest => rw [hstep.1, s.atBoundary_rest fn]
  case late =>
    intro hlen j x hj hx hop hlate
    have hget := s.boundaryRecord_item fn hj hx hop
    have hkept : tget .waiting (s.boundaryRecord fn).items j = .issued ∨
        tget .waiting (s.boundaryRecord fn).items j = .started := by rwa [hget]
    have holder := Func.keepItems_older _ hkept
    refine ⟨(hitems.late hlen j hkept).trans hget, ?_⟩
    rw [State.entry_of_older hj (by rw [hbegun.older]; exact holder), hstep.image, State.atBoundary_image]
    exact hx
  case heat =>
    intro e he
    rw [hstep.ertEntry, State.atBoundary_ertEntry hnodup he]
    rfl

end Sys2Proof.Machine
end

section
/-! Dispatch records and the paging of experts (R222, R223, R229, R233 to R235). -/
namespace Sys2Proof.Machine

theorem OnlyFunc.byte {s t : State} {fn : Nat} (h : OnlyFunc s t fn) (z : Nat) : t.byte z = s.byte z := by
  rw [h.1]
  rfl

theorem OnlyFunc.ertEntry {s t : State} {fn : Nat} (h : OnlyFunc s t fn) (x : Nat) : t.ertEntry x = s.ertEntry x := by
  rw [h.1]
  rfl

/-! ### A dispatch record at the owner (R222, R223) -/

section
variable (s : State) (fn : Nat) (x : DispatchSeen) (ert : Nat)

theorem State.noteDispatch_onlyFunc : OnlyFunc s (s.noteDispatch fn x ert) fn := by
  rw [State.noteDispatch]
  exact (s.endBatch_onlyFunc fn _).trans (State.onFunc_onlyFunc _ fn _)

/-- The header is held, and its ROUTED counts for the step. -/
theorem State.noteDispatch_func :
    tget 0 ((s.noteDispatch fn x ert).func fn).routedStep ert = tget 0 (s.func fn).routedStep ert + x.routed ∧
      x ∈ ((s.noteDispatch fn x ert).func fn).dispatch := by
  rw [State.noteDispatch, State.onFunc, State.setFunc_func_self, State.endBatch, State.onFunc, State.setFunc_func_self]
  exact ⟨tget_tset_self _ _ _ _, List.mem_append_right _ (List.mem_singleton.mpr rfl)⟩

end

/-- The bytes that a record of `rowBytes`-wide rows places in its owner's `cap` slots: its rows and then +0. -/
def dispatchRows (cap rowBytes : Nat) (bs : List Byte) : List Byte := bs.drop 16 ++ zeros ((cap - beAt bs 8 2) * rowBytes)

/-- What a record's header says. -/
def dispatchSeen (bs : List Byte) : DispatchSeen :=
  { layer := beAt bs 0 2, expert := beAt bs 2 2, unit := beAt bs 4 4, kept := beAt bs 8 2, routed := beAt bs 10 2 }

/-- Function `fn` owns the expert of a whole record of at most CAP rows, which fit its own SRAM at `dst`. -/
structure DispatchOk (s : State) (fn rowBytes dst : Nat) (bs : List Byte) (el : ExpertLayer) (e : Nat) (r : ExpertRec) :
    Prop where
  layer : (s.image fn).expertLayer (beAt bs 0 2) = some el
  entry : (s.image fn).ertOf (beAt bs 0 2) (beAt bs 2 2) = some e
  expert : el.experts[beAt bs 2 2]? = some r
  run : (s.func fn).run = true
  length : bs.length = 16 + beAt bs 8 2 * rowBytes
  cap : beAt bs 8 2 ≤ el.cap
  owner : (s.image fn).ownerOf s.herd.count (beAt bs 0 2) r.lshard = s.herd.member
  sram : s.ownSram fn dst (dispatchRows el.cap rowBytes bs).length = true
  crc : beAt bs 12 4 = (crc32c (slice bs 0 12 ++ bs.drop 16)).toNat

theorem DispatchOk.exec_eq {s : State} {fn rowBytes dst : Nat} {bs : List Byte} {el : ExpertLayer} {e : Nat} {r : ExpertRec}
    (h : DispatchOk s fn rowBytes dst bs el e r) (hfn : fn < 16) (sender : Nat) :
    exec (.dispatchRecordReceive fn true sender bs rowBytes dst) s =
      .next ((s.write dst (dispatchRows el.cap rowBytes bs)).noteDispatch fn (dispatchSeen bs) e) := by
  have hexpert : ¬el.experts.length ≤ beAt bs 2 2 := Nat.not_le.mpr (List.getElem?_eq_some_iff.mp h.expert).1
  have hsram := h.sram
  rw [dispatchRows] at hsram
  show execDispatchRecordReceive fn true sender bs rowBytes dst s = _
  simp only [execDispatchRecordReceive, if_neg (Nat.not_le.mpr hfn), h.layer, h.entry, h.expert, h.run, h.length, h.owner, hsram,
    ← h.crc, hexpert, Nat.not_lt.mpr h.cap, Option.map_some, Option.getD_some, beq_self_eq_true, Bool.not_true, Bool.and_false,
    Bool.false_eq_true, ne_eq, not_true_eq_false, or_self, decide_true, if_true, if_false, dispatchRows, dispatchSeen]

theorem runs_dispatchRecordReceive {s : State} {fn rowBytes dst : Nat} {bs : List Byte} {el : ExpertLayer} {e : Nat}
    {r : ExpertRec} (h : DispatchOk s fn rowBytes dst bs el e r) (hfn : fn < 16) (sender : Nat) :
    Runs (.dispatchRecordReceive fn true sender bs rowBytes dst) s fun t =>
      Stored s t dst (dispatchRows el.cap rowBytes bs) ∧
      t = { s with funcs := t.funcs, mem := t.mem, poison := t.poison } ∧ (∀ j, j ≠ fn → t.func j = s.func j) ∧
      tget 0 (t.func fn).routedStep e = tget 0 (s.func fn).routedStep e + beAt bs 10 2 ∧
      dispatchSeen bs ∈ (t.func fn).dispatch := by
  have hnote := State.noteDispatch_func (s.write dst (dispatchRows el.cap rowBytes bs)) fn (dispatchSeen bs) e
  obtain ⟨hrest, hothers⟩ :=
    State.noteDispatch_onlyFunc (s.write dst (dispatchRows el.cap rowBytes bs)) fn (dispatchSeen bs) e
  refine ⟨_, h.exec_eq hfn sender, stored_of_mem_write rfl (by rw [hrest]), ?_, hothers, hnote⟩
  rw [hrest]
  rfl

/-! ### The headers of a micro-batch (R233, R234) -/

section
variable {s : State} {fn : Nat}

theorem State.setFunc_same_demanded (layer : Nat) : (s.setFunc fn (s.func fn)).demanded fn layer = s.demanded fn layer := by
  have hkept : (s.setFunc fn (s.func fn)).keptRow fn = s.keptRow fn := by
    funext x
    simp only [State.keptRow, State.setFunc_ertEntry_eq, State.setFunc_func_self]
  rw [State.demanded, hkept]
  rfl

theorem State.setFunc_same_freeSlot : (s.setFunc fn (s.func fn)).freeSlot fn = s.freeSlot fn := by
  simp only [State.freeSlot, State.slotsUsed, State.entriesOf, State.setFunc_ert, State.setFunc_func_self]

/-- Without prefetches every expert that the micro-batch needs and has no copy of is fetched on demand. -/
theorem exec_dispatchHeadersArrive {layer : Nat} {el : ExpertLayer} (hfn : fn < 16)
    (hlayer : (s.image fn).expertLayer layer = some el) (hrun : (s.func fn).run = true)
    (hpre : (s.func fn).prefetches = []) :
    exec (.dispatchHeadersArrive fn layer) s =
      .next ((s.demanded fn layer).foldl (fun s x => s.demandFetch fn x) (s.setFunc fn (s.func fn))) := by
  have hsame : { s.func fn with prefetches := [] } = s.func fn := by rw [← hpre]
  dsimp only at hsame
  show execDispatchHeadersArrive fn layer s = _
  rw [execDispatchHeadersArrive, if_neg (Nat.not_le.mpr hfn), hlayer]
  dsimp only
  rw [if_neg (by simp [hrun]), hpre, List.filter_nil, List.filter_nil, hsame, List.filter_nil, List.foldl_nil,
    State.setFunc_same_demanded]

/-- A demand fetch fills a free slot of the pool. -/
theorem State.demandFetch_spec {k : Nat} (h : s.freeSlot fn = some k) (x : Nat) :
    (s.demandFetch fn x).ertEntry x = { s.ertEntry x with copy := 1, slot := k } ∧
      (∀ y, y ≠ x → (s.demandFetch fn x).ertEntry y = s.ertEntry y) ∧
      (s.demandFetch fn x).func fn = { s.func fn with
        xDemand := satAdd 32 (s.func fn).xDemand 1
        fetches := (s.func fn).fetches ++ [{ entry := x, slot := k, lastgen := (s.func fn).gen, demand := true }] } := by
  simp only [State.demandFetch, State.takeSlot, h, State.onFunc, State.setFunc_ertEntry_eq, State.setFunc_func_self,
    State.setErt_ertEntry_self, State.setErt_func_eq, true_and, and_true]
  exact fun y hy => s.setErt_ertEntry_ne x _ y hy

end

/-! ### Copying pages -/

theorem le_of_twfFrom {α : Type} [DecidableEq α] {d : α} {t : Table α} :
    ∀ {lo : Nat}, twfFrom d lo t = true → ∀ e ∈ t, lo ≤ e.1 := by
  induction t with
  | nil => exact fun _ _ he => absurd he List.not_mem_nil
  | cons y t ih =>
    intro lo h e he
    simp only [twfFrom, Bool.and_eq_true, decide_eq_true_eq] at h
    obtain ⟨⟨hlo, -⟩, hrest⟩ := h
    rcases List.mem_cons.mp he with rfl | he
    · exact hlo
    · exact Nat.le_of_succ_le (Nat.le_trans (Nat.succ_le_succ hlo) (ih hrest e he))

/-- Each cell of a list is written to table `m` at the place of its key. -/
def putCells (place : Nat → Nat) (cells m : Table Byte) : Table Byte := cells.foldl (fun m e => tset 0 m (place e.1) e.2) m

theorem tget_putCells_other {place : Nat → Nat} {cells : Table Byte} {z : Nat} (h : ∀ e ∈ cells, place e.1 ≠ z) (m : Table Byte) :
    tget 0 (putCells place cells m) z = tget 0 m z :=
  List.foldlRecOn (motive := fun m' : Table Byte => tget 0 m' z = tget 0 m z) _ _ rfl fun _ hm e he =>
    (tget_tset_ne _ _ _ (h e he).symm).trans hm

/-- A place that was clear reads what its key read in the cells, if no other cell goes there. -/
theorem tget_putCells {place : Nat → Nat} {cells : Table Byte} {k : Nat} {lo : Nat} (hwf : twfFrom 0 lo cells = true)
    (hinj : ∀ e ∈ cells, place e.1 = place k → e.1 = k) {m : Table Byte} (hclear : tget 0 m (place k) = 0) :
    tget 0 (putCells place cells m) (place k) = tget 0 cells k := by
  induction cells generalizing lo m with
  | nil => exact hclear
  | cons e cells ih =>
    obtain ⟨j, v⟩ := e
    simp only [twfFrom, Bool.and_eq_true] at hwf
    have hrest := fun e he => hinj e (List.mem_cons_of_mem _ he)
    by_cases hj : j = k
    · subst hj
      have hothers : ∀ e ∈ cells, place e.1 ≠ place j := fun e he heq => by
        have := le_of_twfFrom hwf.2 e he
        have := hrest e he heq
        omega
      refine (tget_putCells_other hothers _).trans ?_
      rw [tget_tset_self, tget, if_pos rfl]
    · have hplace : place k ≠ place j := fun heq => hj (hinj (j, v) List.mem_cons_self heq.symm)
      rw [tget, if_neg hj]
      exact ih hwf.2 hrest ((tget_tset_ne _ _ _ hplace).trans hclear)

/-- The listed bytes of [src, src + n). -/
def State.cellsIn (s : State) (src n : Nat) : Table Byte := s.mem.filter fun e => decide (src ≤ e.1 ∧ e.1 < src + n)

/-- Where a copy from `src` to `dst` puts address `k`. -/
def copyTo (src dst k : Nat) : Nat := dst + (k - src)

theorem State.copyBytes_mem (s : State) (src dst n : Nat) : (s.copyBytes src dst n).mem =
    putCells (copyTo src dst) (s.cellsIn src n) (s.zero dst (dst + n)).mem := rfl

theorem State.cellsIn_range {s : State} {src n : Nat} {e : Nat × Byte} (h : e ∈ s.cellsIn src n) :
    src ≤ e.1 ∧ e.1 < src + n := of_decide_eq_true (List.mem_filter.mp h).2

theorem State.cellsIn_byte (s : State) {src n k : Nat} (h : src ≤ k ∧ k < src + n) :
    tget 0 (s.cellsIn src n) k = s.byte k :=
  (tget_filter_key 0 (fun k => decide (src ≤ k ∧ k < src + n)) s.mem k).trans (if_pos (decide_eq_true h))

theorem State.copyBytes_byte {s : State} (h : MemOk s) (src dst n z : Nat) :
    (s.copyBytes src dst n).byte z = if dst ≤ z ∧ z < dst + n then s.byte (src + (z - dst)) else s.byte z := by
  rw [State.byte, State.copyBytes_mem]
  split
  next hz =>
    have hplace : copyTo src dst (src + (z - dst)) = z := by unfold copyTo; omega
    have hinj : ∀ e ∈ s.cellsIn src n, copyTo src dst e.1 = copyTo src dst (src + (z - dst)) → e.1 = src + (z - dst) :=
      fun e he heq => by
        have := State.cellsIn_range he
        unfold copyTo at heq
        omega
    have hzero : tget 0 (s.zero dst (dst + n)).mem (copyTo src dst (src + (z - dst))) = 0 := by
      rw [hplace]
      exact (s.zero_byte dst (dst + n) z).trans (if_pos hz)
    have hput := tget_putCells (twfFrom_filter _ h) hinj hzero
    rw [hplace] at hput
    exact hput.trans (s.cellsIn_byte (by omega))
  next hz =>
    have hout : ∀ e ∈ s.cellsIn src n, copyTo src dst e.1 ≠ z := fun e he heq => by
      have := State.cellsIn_range he
      unfold copyTo at heq
      omega
    rw [tget_putCells_other hout]
    exact (s.zero_byte dst (dst + n) z).trans (if_neg hz)

theorem State.copyBytes_memOnly {s : State} (h : s.poison = []) (src dst n : Nat) : MemOnly s (s.copyBytes src dst n) := by
  rw [State.copyBytes, s.zero_memOnly h dst (dst + n)]
  rfl

theorem State.copyPages_one {s : State} {fn src dst a b : Nat} (ha : s.translate fn (src * pageSize) = some a)
    (hb : s.translate fn (dst * pageSize) = some b) : s.copyPages fn src dst 1 = s.copyBytes a b pageSize := by
  simp only [State.copyPages, List.range_one, List.foldl_cons, List.foldl_nil, Nat.add_zero, ha, hb]

/-! ### The end of a fetch (R229, R235) -/

/-- Settling the DEMAND items of a layer changes one function's items and its open window. -/
theorem State.settleDemand_onlyFunc (s : State) (fn layer : Nat) : OnlyFunc s (s.settleDemand fn layer) fn := by
  unfold State.settleDemand
  split
  · exact ⟨rfl, fun _ _ => rfl⟩
  · exact s.setFunc_onlyFunc fn _

theorem State.settleDemand_func (s : State) (fn layer : Nat) :
    (s.settleDemand fn layer).func fn = { s.func fn with
      items := ((s.settleDemand fn layer).func fn).items, demandOpen := ((s.settleDemand fn layer).func fn).demandOpen } := by
  unfold State.settleDemand
  split
  · rfl
  · rw [State.setFunc_func_self]
    refine List.foldlRecOn
      (motive := fun g : Func => g = { s.func fn with items := g.items, demandOpen := g.demandOpen }) _ _ rfl fun g hg k _ => ?_
    rw [hg]
    rfl

theorem State.homePoison_eq_none {s : State} (h : s.poison = []) (fn : Nat) (e : ErtEntry) : s.homePoison fn e = none := by
  simp [State.homePoison, State.poisonedIn, State.poisonsIn, h]

/-- A fetch whose home is in step and readable ends with its pages copied. -/
theorem exec_expertFetchComplete {s : State} {fn : Nat} {x : Fetch} (hfn : fn < 16)
    (hx : (s.func fn).fetches.find? (fun y => y.entry == x.entry) = some x)
    (hup : s.homeUp fn (s.ertEntry x.entry) = true)
    (hdone : s.expertDone fn (s.ertEntry x.entry).layer (s.ertEntry x.entry).expert (s.func fn).gen = true)
    (hclean : s.poison = []) (late : Bool) :
    exec (.expertFetchComplete fn x.entry late .none) s =
      .next ((s.endFetch fn x late).settleDemand fn (s.ertEntry x.entry).layer) := by
  show execExpertFetchComplete fn x.entry late .none s = _
  simp only [execExpertFetchComplete, if_neg (Nat.not_le.mpr hfn), State.homePoison_eq_none hclean, hx, hup, hdone,
    Bool.and_self, Bool.not_true, Bool.false_eq_true, if_false]

/-- What the end of a fetch of one page leaves, from the pages that its home and its slot are mapped to. -/
theorem State.endFetch_spec {s : State} {fn : Nat} {x : Fetch} {a b : Nat} (hclean : s.poison = []) (hmem : MemOk s)
    (hone : (s.ertEntry x.entry).npage = 1) (ha : s.translate fn ((s.ertEntry x.entry).homeVpn * pageSize) = some a)
    (hb : s.translate fn (s.slotVa fn x.slot / pageSize * pageSize) = some b) (late : Bool) :
    let t := s.endFetch fn x late
    (∀ z, t.byte z = if b ≤ z ∧ z < b + pageSize then s.byte (a + (z - b)) else s.byte z) ∧
      t.ertEntry x.entry = (s.ertEntry x.entry).arrived x.slot x.lastgen ∧
      t.func fn = { s.func fn with
        fetches := (s.func fn).fetches.filter fun y => y != x
        xOver := if late && x.demand then satAdd 32 (s.func fn).xOver 1 else (s.func fn).xOver } := by
  have hcopy := s.copyBytes_memOnly hclean a b pageSize
  have hfunc : (s.copyBytes a b pageSize).func fn = s.func fn := by rw [hcopy]; rfl
  rw [State.endFetch, hone, State.copyPages_one ha hb]
  refine ⟨s.copyBytes_byte hmem a b pageSize, ?_, ?_⟩
  · exact State.setErt_ertEntry_self _ _ _
  · rw [State.onFunc, State.setFunc_func_self, State.setErt_func_eq, hfunc]

/-! ### The obligation -/

/-- Settles O27: a record by what placing it and keeping its header change, the headers' arrival by its demand fetches, and a
fetch's end by the copy of its page. -/
theorem expertTraffic : Obligations.ExpertTraffic := by
  intro s fn hfn f i
  refine ⟨?record, ?headers, ?fetch⟩
  case record =>
    intro sender rowBytes dst bs el e r x kept rows hlayer hentry hexpert hrun hlength hcap howner hsram hcrc
    exact runs_dispatchRecordReceive ⟨hlayer, hentry, hexpert, hrun, hlength, hcap, howner, hsram, hcrc⟩ hfn sender
  case headers =>
    intro layer el hlayer hrun hpre
    have hexec := exec_dispatchHeadersArrive hfn hlayer hrun hpre
    refine ⟨fun hnone => ⟨_, hexec, by rw [hnone]; rfl⟩, fun x k hone hfree => ⟨_, hexec, ?_⟩⟩
    obtain ⟨hentry, hothers, hfunc⟩ := State.demandFetch_spec (State.setFunc_same_freeSlot.trans hfree) x
    rw [hone, List.foldl_cons, List.foldl_nil, hfunc, hentry, State.setFunc_func_self]
    exact ⟨rfl, hothers, rfl, rfl⟩
  case fetch =>
    intro x late a b e hx hup hdone hclean hmem hone ha hb
    obtain ⟨hbytes, hentry, hfunc⟩ := State.endFetch_spec hclean hmem hone ha hb late
    have hsettle := (s.endFetch fn x late).settleDemand_onlyFunc fn e.layer
    have hsettled := (s.endFetch fn x late).settleDemand_func fn e.layer
    rw [hfunc] at hsettled
    refine ⟨_, exec_expertFetchComplete hfn hx hup hdone hclean late, fun o ho => ?_, fun z hz => ?_, ?_, ?_, ?_⟩
    · rw [hsettle.byte, hbytes, if_pos (by omega), Nat.add_sub_cancel_left]
    · rw [hsettle.byte, hbytes, if_neg hz]
    · rw [hsettle.ertEntry, hentry]
      rfl
    · rw [hsettled]
      simp
    · rw [hsettled]

end Sys2Proof.Machine
end

section
/-! SUPPORT. What of the herd block, and of the ports and neighbours that it and the base image name, the operations on
functions, errors and ports leave alone. -/
namespace Sys2Proof.Machine

/-! ### The herd as it stood -/

/-- The base image, the assembly and the neighbours' records stand as they stood, and with them the ports they name. -/
structure PortsKept (s t : State) : Prop where
  base : t.base = s.base
  asm : t.asm = s.asm
  nbrs : t.herd.nbrs = s.herd.nbrs

theorem PortsKept.role {s t : State} (h : PortsKept s t) (p : Nat) : t.role p = s.role p := by
  rw [State.role, State.code, h.asm]
  rfl

theorem PortsKept.usedPorts {s t : State} (h : PortsKept s t) : t.usedPorts = s.usedPorts := by
  have hports (b : BaseImage) : t.herdPorts b = s.herdPorts b := by
    rw [State.herdPorts, State.code, h.asm]
    rfl
  rw [State.usedPorts, h.base, funext hports]
  rfl

theorem PortsKept.nbr {s t : State} (h : PortsKept s t) (p : Nat) : t.nbr p = s.nbr p := by
  rw [State.nbr, h.nbrs]
  rfl

theorem PortsKept.livePorts {s t : State} (h : PortsKept s t) : t.livePorts = s.livePorts := by
  rw [State.livePorts, h.usedPorts]
  simp only [h.nbr]
  rfl

theorem PortsKept.unheard {s t : State} (h : PortsKept s t) : t.unheard = s.unheard := by
  rw [State.unheard, h.livePorts]
  simp only [h.nbr]
  rfl

theorem PortsKept.peer {s t : State} (h : PortsKept s t) (p : Nat) : t.peer p = s.peer p := by
  rw [State.peer, h.base, h.role]
  rfl

/-- The whole herd block, the base image and the assembly stand as they stood. -/
structure HerdKept (s t : State) : Prop where
  herd : t.herd = s.herd
  base : t.base = s.base
  asm : t.asm = s.asm

theorem HerdKept.refl (s : State) : HerdKept s s := ⟨rfl, rfl, rfl⟩

theorem HerdKept.trans {s t u : State} (h : HerdKept s t) (k : HerdKept t u) : HerdKept s u :=
  ⟨k.herd.trans h.herd, k.base.trans h.base, k.asm.trans h.asm⟩

theorem HerdKept.foldl {α : Type} (f : State → α → State) (l : List α) {s : State} (hf : ∀ u x, HerdKept u (f u x)) :
    HerdKept s (l.foldl f s) :=
  List.foldlRecOn (motive := HerdKept s) l f (.refl s) fun u hu x _ => hu.trans (hf u x)

theorem HerdKept.portsKept {s t : State} (h : HerdKept s t) : PortsKept s t := ⟨h.base, h.asm, by rw [h.herd]⟩

theorem HerdKept.exchanging {s t : State} (h : HerdKept s t) : t.exchanging = s.exchanging := by
  rw [State.exchanging, h.herd]
  rfl

/-! ### A herd block put in its place -/

/-- The herd block becomes `h`. -/
def State.withHerd (s : State) (h : Herd) : State := { s with herd := h }

theorem State.withHerd_port (s : State) (h : Herd) (p : Nat) : (s.withHerd h).port p = s.port p := rfl
theorem State.withHerd_herd (s : State) (h : Herd) : (s.withHerd h).herd = h := rfl
theorem State.withHerd_func (s : State) (h : Herd) (n : Nat) : (s.withHerd h).func n = s.func n := rfl
theorem State.withHerd_byte (s : State) (h : Herd) (z : Nat) : (s.withHerd h).byte z = s.byte z := rfl

/-! ### Functions, jobs and errors -/

theorem JobOnly.herdKept {s t : State} {fn : Nat} (h : JobOnly s t fn) : HerdKept s t := by
  obtain ⟨hrest, -, -⟩ := h
  rw [hrest]
  exact ⟨rfl, rfl, rfl⟩

theorem StepOnly.herdKept {s t : State} {fn : Nat} (h : StepOnly s t fn) : HerdKept s t := by
  obtain ⟨hrest, -⟩ := h
  rw [hrest]
  exact ⟨rfl, rfl, rfl⟩

theorem State.report_herdKept (s : State) (p : Report) : HerdKept s (s.report p) := ⟨rfl, rfl, rfl⟩

theorem State.setFunc_herdKept (s : State) (fn : Nat) (f : Func) : HerdKept s (s.setFunc fn f) := ⟨rfl, rfl, rfl⟩

theorem State.onFunc_herdKept (s : State) (fn : Nat) (f : Func → Func) : HerdKept s (s.onFunc fn f) := s.setFunc_herdKept fn _

theorem State.drain_herdKept (s : State) (fn : Nat) : HerdKept s (s.drain fn) := (s.drain_job fn).herdKept

theorem State.endJob_herdKept (s : State) (fn st : Nat) : HerdKept s (s.endJob fn st) := (s.endJob_job fn st).herdKept

theorem State.stopJobs_herdKept (s : State) (lost : Nat) : HerdKept s (s.stopJobs lost) := by
  refine HerdKept.foldl _ funcIds fun u n => ?_
  split
  · exact (u.report_herdKept _).trans (State.drain_herdKept _ n)
  · exact .refl u

/-! ### Neighbours and failed links (R256, R266) -/

@[simp] theorem State.setNbr_nbr_self (s : State) (p : Nat) (n : Neighbour) : (s.setNbr p n).nbr p = n :=
  tget_tset_self _ _ _ _

theorem State.setNbr_nbr_ne (s : State) {p q : Nat} (n : Neighbour) (h : q ≠ p) : (s.setNbr p n).nbr q = s.nbr q :=
  tget_tset_ne _ _ _ h

theorem State.loseHerd_herd (s : State) : ∃ st, s.loseHerd.herd = { s.herd with state := st } := by
  unfold State.loseHerd
  dsimp only
  rw [(s.stopJobs_herdKept _).herd]
  exact ⟨_, rfl⟩

/-- A link that fails marks its neighbour; where it was the member's last one, the member is lost to its herd besides. -/
theorem State.failLink_eq {s : State} {p : Nat} (h : (s.nbr p).failed = false) :
    ∃ u, HerdKept (s.setNbr p { s.nbr p with failed := true }) u ∧
      s.failLink p = if u.usedPorts.all fun q => (u.nbr q).failed then u.loseHerd else u := by
  refine ⟨_, ?_, if_neg (by simp [h])⟩
  refine HerdKept.trans ?_ (State.stopJobs_herdKept _ _)
  split <;> exact ⟨rfl, rfl, rfl⟩

theorem State.failLink_nbr {s : State} {p : Nat} (h : (s.nbr p).failed = false) :
    (s.failLink p).nbr p = { s.nbr p with failed := true } := by
  obtain ⟨u, hu, heq⟩ := State.failLink_eq h
  have hnbr : u.nbr p = { s.nbr p with failed := true } := by rw [hu.portsKept.nbr, State.setNbr_nbr_self]
  obtain ⟨st, hlost⟩ := u.loseHerd_herd
  rw [heq]
  split
  · rw [State.nbr, hlost]
    exact hnbr
  · exact hnbr

/-- A link that fails changes at most the neighbours and the state of the herd block. -/
theorem State.failLink_herd (s : State) (p : Nat) :
    ∃ st nbrs, (s.failLink p).herd = { s.herd with state := st, nbrs := nbrs } := by
  cases h : (s.nbr p).failed with
  | true => exact ⟨s.herd.state, s.herd.nbrs, by rw [State.failLink, if_pos h]⟩
  | false =>
    obtain ⟨u, hu, heq⟩ := State.failLink_eq h
    obtain ⟨st, hlost⟩ := u.loseHerd_herd
    rw [heq]
    split
    · exact ⟨st, _, by rw [hlost, hu.herd]; rfl⟩
    · exact ⟨s.herd.state, _, by rw [hu.herd]; rfl⟩

end Sys2Proof.Machine
end

section
/-! A late item past its hold limit stops its function (R259). -/
namespace Sys2Proof.Machine

/-- What moving to DRAINING leaves of a function that was ON: what the end of its job does, and no ENABLE in progress. -/
theorem State.drain_func {s : State} {fn : Nat} (h : (s.func fn).state = .on) :
    (s.drain fn).func fn = { (s.endJob fn stCancelled).func fn with state := .draining, enablingCmds := [] } := by
  unfold State.drain State.releaseDebug
  dsimp only
  rw [if_pos (.inl h), (State.completeAll_cpl _ _ _ _).func, State.closeWindows_func]
  show (((State.stopSequencers _ fn).onTiles _).func fn) = _
  rw [State.onTiles_func, State.stopSequencers, State.onTiles_func, State.onFunc, State.setFunc_func_self]

/-- The record of an item that has been late since its hold limit before now (R259, R439). -/
def State.itemStallReport (s : State) (fn : Nat) (e : StepEntry) : Report :=
  { code := eItemStall, cls := clsFunction, func := some fn, a := triple e.op e.group e.start
    b := (s.herd.time - BitVec.ofNat 64 ((s.image fn).job.holdTimeout * 1000000)).toNat }

theorem exec_holdTimeout {s : State} {fn idx : Nat} {e : StepEntry} (hfn : fn < 16) (he : s.entry fn idx = some e)
    (hrun : (s.func fn).run = true) (hlate : (s.func fn).late s.herd.sched idx e = true) :
    exec (.holdTimeout fn idx) s = .next ((s.report (s.itemStallReport fn e)).drain fn) := by
  show execHoldTimeout fn idx s = _
  simp only [execHoldTimeout, if_neg (Nat.not_le.mpr hfn), he, hrun, hlate, Bool.and_self, if_true]
  rfl

/-- Settles O24: the stall is reported and the function drained, which ends its job and keeps the record. -/
theorem itemStall : Obligations.ItemStall := by
  intro s fn idx e hfn he hrun hlate hon
  have hdrained := (s.report (s.itemStallReport fn e)).drain_drained fn
  have hdrain := State.drain_func (s := s.report (s.itemStallReport fn e)) (fn := fn) hon
  refine ⟨_, exec_holdTimeout hfn he hrun hlate, ?_, ?_, ?_, ?_, hdrained.host⟩
  · exact hdrained.recorded (s.report_recorded _)
  · rw [hdrain]
  · rw [hdrain, State.endJob_func]
  · rw [hdrain, State.endJob_func]

end Sys2Proof.Machine
end

section
/-! Control frames received and missed (R254 to R256, R350, R351). -/
namespace Sys2Proof.Machine

/-! ### What a frame's ACK and NAK leave of the herd (R361, R363) -/

theorem State.setPort_herdKept (s : State) (p : Nat) (x : Port) : HerdKept s (s.setPort p x) := ⟨rfl, rfl, rfl⟩

theorem State.sendRaw_herdKept (s : State) (p kind tc : Nat) (retx : Bool) (b : List Byte) :
    HerdKept s (s.sendRaw p kind tc retx b) := ⟨rfl, rfl, rfl⟩

theorem State.pump_herdKept (s : State) (p : Nat) : HerdKept s (s.pump p) := by
  refine HerdKept.foldl _ _ fun u _ => ?_
  dsimp only
  split
  · exact .refl u
  · split
    · exact (u.setPort_herdKept p _).trans (State.sendRaw_herdKept _ p _ _ _ _)
    · exact .refl u

theorem State.resend_herdKept (s : State) (p : Nat) : HerdKept s (s.resend p) := by
  unfold State.resend
  dsimp only
  split
  · exact .refl s
  · exact (s.setPort_herdKept p _).trans (HerdKept.foldl _ _ fun u _ => u.sendRaw_herdKept p _ _ _ _)

theorem State.acked_herdKept (s : State) (p : Nat) (ack : W32) : HerdKept s (s.acked p ack) := by
  have hpump (x : Port) : HerdKept s ((s.setPort p x).pump p) := (s.setPort_herdKept p x).trans (State.pump_herdKept _ p)
  unfold State.acked
  dsimp only
  split
  · exact .refl s
  · split
    · split
      · exact ((s.setPort_herdKept p _).trans (State.report_herdKept _ _)).trans (State.pump_herdKept _ p)
      · exact hpump _
    · exact hpump _

theorem State.takeAck_herdKept (s : State) (p : Nat) (h : HerdHdr) : HerdKept s (s.takeAck p h) := by
  unfold State.takeAck
  dsimp only
  split
  · exact (s.acked_herdKept p _).trans (State.resend_herdKept _ p)
  · exact s.acked_herdKept p _

/-! ### A good control record (R254, R255, R264) -/

theorem State.startMismatch_herdKept (s : State) (member fn : Nat) (agreed : Bool) :
    HerdKept s (s.startMismatch member fn agreed) := by
  unfold State.startMismatch
  dsimp only
  split
  · exact (s.report_herdKept _).trans (State.drain_herdKept _ fn)
  · exact (s.report_herdKept _).trans (State.endJob_herdKept _ fn _)

/-- Neighbour `n` once its control record `b` of slot `slot` has been taken, where `own` are the member's own FUNCRUN bits. -/
def Neighbour.record (n : Neighbour) (own : BitVec 16) (slot : Nat) (b : List Byte) : Neighbour :=
  { n with
    heard := true, lastSlot := slot, sched := BitVec.ofNat 32 (beAt b 8 4), funcrun := BitVec.ofNat 16 (beAt b 14 2)
    mismatch := BitVec.ofNat 16 (beAt b 14 2) ^^^ own, agreed := own &&& (n.agreed ||| BitVec.ofNat 16 (beAt b 14 2)) }

/-- A good record ORs the sender's open waves into the member's and is kept with its neighbour. -/
theorem State.takeControl_herd (s : State) (p : Nat) (b : List Byte) :
    (s.takeControl p b).herd = { s.herd with
      orVec := s.herd.orVec ||| (BitVec.ofNat 16 (beAt b 12 2) &&& s.herd.open_)
      nbrs := tset {} s.herd.nbrs p ((s.nbr p).record (BitVec.ofNat 16 s.funcrun) s.herd.slot b) } := by
  unfold State.takeControl
  rw [(HerdKept.foldl _ _ fun u k => u.startMismatch_herdKept _ k _).herd]
  rfl

theorem State.takeControl_nbr (s : State) (p : Nat) (b : List Byte) :
    (s.takeControl p b).nbr p = (s.nbr p).record (BitVec.ofNat 16 s.funcrun) s.herd.slot b := by
  rw [State.nbr, s.takeControl_herd p b]
  exact tget_tset_self _ _ _ _

/-! ### Vote records beside it (R169, R170) -/

/-- Of the herd block at most the neighbours have changed, and that of port `p` holds the same control record. -/
structure RecordKept (s t : State) (p : Nat) : Prop where
  herd : t.herd = { s.herd with nbrs := t.herd.nbrs }
  heard : (t.nbr p).heard = (s.nbr p).heard
  sched : (t.nbr p).sched = (s.nbr p).sched

theorem RecordKept.refl (s : State) (p : Nat) : RecordKept s s p := ⟨rfl, rfl, rfl⟩

theorem RecordKept.trans {s t u : State} {p : Nat} (h : RecordKept s t p) (k : RecordKept t u p) : RecordKept s u p :=
  ⟨by rw [k.herd, h.herd], k.heard.trans h.heard, k.sched.trans h.sched⟩

theorem HerdKept.recordKept {s t : State} (h : HerdKept s t) (p : Nat) : RecordKept s t p :=
  ⟨by rw [h.herd], by rw [h.portsKept.nbr], by rw [h.portsKept.nbr]⟩

theorem State.setNbr_recordKept {s : State} {p : Nat} {n : Neighbour} (hheard : n.heard = (s.nbr p).heard)
    (hsched : n.sched = (s.nbr p).sched) : RecordKept s (s.setNbr p n) p :=
  ⟨rfl, by rw [State.setNbr_nbr_self, hheard], by rw [State.setNbr_nbr_self, hsched]⟩

theorem State.takeVote_recordKept (s : State) (p : Nat) (b : List Byte) : RecordKept s (s.takeVote p b) p := by
  have hvotes (v : BitVec 16) : RecordKept s (s.setNbr p { s.nbr p with votes := v }) p := State.setNbr_recordKept rfl rfl
  unfold State.takeVote
  dsimp only
  split
  · exact State.setNbr_recordKept rfl rfl
  · split
    · exact (hvotes _).trans ((State.setFunc_herdKept _ _ _).recordKept p)
    · split
      · exact (hvotes _).trans ((State.setFunc_herdKept _ _ _).recordKept p)
      · refine (hvotes _).trans (State.setNbr_recordKept ?_ ?_) <;> rw [State.setNbr_nbr_self]

theorem State.takeCtrl_recordKept {s : State} {p : Nat} {b : List Byte} (xid : Nat) (hheard : (s.nbr p).heard = false)
    (hcounted : (s.nbr p).counted = false)
    (hcrc : beAt (slice b 16 32) 28 4 = (crc32c (slice (slice b 16 32) 0 28)).toNat)
    (hslot : beAt (slice b 16 32) 2 6 = s.herd.slot) (hpeer : beAt (slice b 16 32) 0 2 = s.peer p) :
    RecordKept (s.takeControl p (slice b 16 32)) (s.takeCtrl p b xid) p := by
  unfold State.takeCtrl
  simp only [hheard, hcounted, hcrc, hslot, hpeer, and_self, decide_true, Bool.not_false, Bool.and_self, if_true]
  exact List.foldlRecOn (motive := fun t => RecordKept _ t p) _ _ (.refl _ p) fun u hu k _ => hu.trans (u.takeVote_recordKept p _)

/-! ### The frame (R348, R350, R351) -/

theorem State.frameFate_of_bad_fcs (s : State) (p : Nat) {f : Frame} (h : f.fcsOk = false) : s.frameFate p f = .error := by
  simp [State.frameFate, h]

section
variable {s : State} {p : Nat} {frame : Frame} (hport : s.isHerdPort p = true) (hup : (s.port p).state = .up)
include hport hup

theorem exec_ctrlFrameReceive_error (h : s.frameFate p frame = .error) :
    exec (.ctrlFrameReceive p frame) s = .next (s.countErrFrame p) := by
  show execCtrlFrameReceive p frame s = _
  simp [execCtrlFrameReceive, hport, hup, h]

theorem exec_ctrlFrameReceive_take {h : HerdHdr} (hfate : s.frameFate p frame = .take h) (hkind : h.kind = kCTRL)
    (hres : ctrlReserved frame.body h.xid = false) (hex : s.exchanging = true) (hlive : p ∈ s.livePorts) :
    exec (.ctrlFrameReceive p frame) s = .next ((s.takeAck p h).takeCtrl p frame.body h.xid) := by
  have hack := s.takeAck_herdKept p h
  show execCtrlFrameReceive p frame s = _
  simp only [execCtrlFrameReceive, hport, hup, hfate, hkind, hres, hack.exchanging, hex, hack.portsKept.livePorts,
    List.contains_iff_mem.mpr hlive, Bool.not_true, Bool.false_eq_true, ne_eq, not_true_eq_false, Bool.and_self, if_false,
    if_true]

end

/-! ### A control miss (R256) -/

/-- Neighbour `n` with a miss counted on it. -/
def Neighbour.missed (n : Neighbour) (formed : Bool) : Neighbour :=
  { n with counted := true, misses := if formed then n.misses + 1 else 0 }

/-- The herd block with a miss on port `p` counted, before it fails the link. -/
def State.missedHerd (s : State) (p : Nat) : Herd :=
  let formed := s.herd.state == .formed
  { s.herd with
    orVec := s.herd.orVec ||| s.herd.open_, missed := true
    misses := if formed then satAdd 32 s.herd.misses 1 else s.herd.misses
    nbrs := tset {} s.herd.nbrs p ((s.nbr p).missed formed) }

theorem State.missPort_eq (s : State) (p : Nat) : s.missPort p =
    if (s.herd.state == .formed) = true ∧ 3 ≤ (s.nbr p).misses + 1 then (s.withHerd (s.missedHerd p)).failLink p
    else s.withHerd (s.missedHerd p) := rfl

theorem State.missPort_herd (s : State) (p : Nat) :
    ∃ st nbrs, (s.missPort p).herd = { s.missedHerd p with state := st, nbrs := nbrs } := by
  rw [State.missPort_eq]
  split
  · exact State.failLink_herd _ p
  · exact ⟨_, _, rfl⟩

/-- The third miss in a row on a formed herd's port fails the link. -/
theorem State.missPort_nbr {s : State} {p : Nat} (h : (s.nbr p).failed = false) :
    (s.missPort p).nbr p = { (s.nbr p).missed (s.herd.state == .formed) with
      failed := decide ((s.herd.state == .formed) = true ∧ 3 ≤ (s.nbr p).misses + 1) } := by
  have hnbr : (s.withHerd (s.missedHerd p)).nbr p = (s.nbr p).missed (s.herd.state == .formed) :=
    tget_tset_self _ _ _ _
  rw [State.missPort_eq]
  split
  next hthird =>
    rw [State.failLink_nbr (by rw [hnbr]; exact h), hnbr, decide_eq_true hthird]
  next hthird =>
    rw [hnbr, decide_eq_false hthird, ← h]
    rfl

theorem exec_controlMiss {s : State} {p : Nat} (hport : s.isHerdPort p = true) (hex : s.exchanging = true)
    (hp : p ∈ s.unheard) : exec (.controlMiss p) s = .next (s.missPort p) := by
  show execControlMiss p s = _
  simp [execControlMiss, hport, hex, hp]

/-! ### The obligation -/

/-- Settles O23: a bad frame by the port's count, a good record by what taking it writes and what mismatches and vote records
keep of it, a miss by what it writes before a third one fails the link. -/
theorem controlExchange : Obligations.ControlExchange := by
  intro s p hport
  refine ⟨?bad, ?good, ?miss⟩
  case bad =>
    intro frame hup hfcs
    exact ⟨_, exec_ctrlFrameReceive_error hport hup (s.frameFate_of_bad_fcs p hfcs), rfl, by simp [State.countErrFrame]⟩
  case good =>
    intro frame h hup hfate hkind hres hex hlive hheard hcounted r hcrc hslot hpeer
    have hack := s.takeAck_herdKept p h
    have hkept := State.takeCtrl_recordKept (s := s.takeAck p h) (p := p) (b := frame.body) h.xid (by rwa [hack.portsKept.nbr])
      (by rwa [hack.portsKept.nbr]) hcrc (by rwa [hack.herd]) (by rwa [hack.portsKept.peer])
    have hherd := (s.takeAck p h).takeControl_herd p (slice frame.body 16 32)
    have hnbr := (s.takeAck p h).takeControl_nbr p (slice frame.body 16 32)
    rw [hack.herd] at hherd
    refine ⟨_, exec_ctrlFrameReceive_take hport hup hfate hkind hres hex hlive, ?_, ?_, ?_, ?_⟩
    · rw [hkept.heard, hnbr]
      rfl
    · rw [hkept.sched, hnbr]
      rfl
    · rw [hkept.herd, hherd]
      rfl
    · rw [hkept.herd, hherd]
  case miss =>
    intro hex hp
    have hfailed : (s.nbr p).failed = false := by
      have hlive := (List.mem_filter.mp hp).1
      simpa using (List.mem_filter.mp hlive).2
    obtain ⟨st, nbrs, hherd⟩ := s.missPort_herd p
    have hnbr := State.missPort_nbr hfailed
    refine ⟨_, exec_controlMiss hport hex hp, ?_, ?_, ?_, ?_, fun hformed => ⟨?_, ?_, fun hthird => ?_⟩⟩
    · rw [hherd]
      rfl
    · rw [hherd]
      rfl
    · rw [hherd]
      rfl
    · rw [hnbr]
      rfl
    · simp [hnbr, Neighbour.missed, hformed]
    · simp [hherd, State.missedHerd, hformed]
    · simp [hnbr, hformed, hthird]

end Sys2Proof.Machine
end

section
/-! The slot boundary: time, waves and SCHED (R243, R244, R253, R255, R263). -/
namespace Sys2Proof.Machine

/-! ### What a boundary does with each function leaves of the herd (R248, R249, R255, R264) -/

theorem State.takeStop_herdKept (s : State) (fn : Nat) (interrupted : Bool) : HerdKept s (s.takeStop fn interrupted) :=
  (s.endJob_herdKept fn _).trans (State.onFunc_herdKept _ fn _)

theorem State.beginStep_herdKept (s : State) (fn : Nat) (first : W32) : HerdKept s (s.beginStep fn first) := by
  obtain ⟨u, heq, hrest, -, -⟩ := s.beginStep_eq fn first
  rw [heq]
  exact hrest.herdKept.trans (u.issueDue_stepOnly fn).herdKept

theorem State.slotStops_herdKept (s : State) (fn : Nat) : HerdKept s (s.slotStops fn) := by
  unfold State.slotStops
  dsimp only
  split
  · exact s.takeStop_herdKept fn _
  · exact .refl s

theorem State.startDue_herdKept (s : State) (fn : Nat) : HerdKept s (s.startDue fn) := by
  unfold State.startDue
  dsimp only
  split
  · split
    · exact s.takeStop_herdKept fn _
    · exact (s.setFunc_herdKept fn _).trans (State.beginStep_herdKept _ fn _)
  · exact .refl s

theorem State.atBoundary_herdKept (s : State) (fn : Nat) : HerdKept s (s.atBoundary fn) := by
  rw [State.atBoundary_rest]
  exact ⟨rfl, rfl, rfl⟩

theorem State.heatUpdate_herdKept (s : State) (fn : Nat) : HerdKept s (s.heatUpdate fn) := by
  rw [State.heatUpdate_eq]
  exact ⟨rfl, rfl, rfl⟩

theorem State.haltSkew_herdKept (s : State) (fn : Nat) : HerdKept s (s.haltSkew fn) :=
  (s.clearSteps_job fn fn).herdKept.trans (State.onFunc_herdKept _ fn _)

theorem State.boundaryStop_herdKept {s t : State} {fn : Nat} {at_ : W32} (h : s.boundaryStop fn at_ = some t) :
    HerdKept s t := by
  have hmark (b : Bool) (u : State) (g : Func → Func) : HerdKept u (if b then u.onFunc fn g else u) := by
    split
    · exact u.onFunc_herdKept fn g
    · exact .refl u
  have hend (u : State) (r : Report) : HerdKept u ((u.report r).endJob fn stCancelled) :=
    (u.report_herdKept r).trans (State.endJob_herdKept _ fn _)
  have hdraw : HerdKept s s.draw.1 := ⟨rfl, rfl, rfl⟩
  unfold State.boundaryStop at h
  dsimp only at h
  split at h
  · cases h
    exact (hdraw.trans (hend _ _)).trans (hmark _ _ _)
  · split at h
    · cases h
      exact (hend s _).trans (hmark _ _ _)
    · split at h
      · cases h
        exact s.drain_herdKept fn
      · split at h
        · cases h
          exact (s.takeStop_herdKept fn _).trans (hmark _ _ _)
        · split at h
          · cases h
            exact s.haltSkew_herdKept fn
          · cases h

theorem State.stepBoundary_herdKept (s : State) (fn len : Nat) : HerdKept s (s.stepBoundary fn len) := by
  have hheat (g : Func → Func) : HerdKept s ((s.heatUpdate fn).onFunc fn g) :=
    (s.heatUpdate_herdKept fn).trans (State.onFunc_herdKept _ fn g)
  unfold State.stepBoundary
  dsimp only
  split
  next hstop => exact ((hheat _).trans (State.boundaryStop_herdKept hstop)).trans (State.onFunc_herdKept _ fn _)
  next => exact (hheat _).trans (State.beginStep_herdKept _ fn _)

theorem State.settleSteps_herdKept (fn n : Nat) : ∀ s : State, HerdKept s (State.settleSteps fn n s) := by
  induction n with
  | zero => exact HerdKept.refl
  | succ n ih =>
    intro s
    rw [State.settleSteps]
    split
    · exact .refl s
    · exact (s.stepBoundary_herdKept fn _).trans (ih _)

theorem State.boundaryFunc_herdKept (advanced : Bool) (s : State) (fn : Nat) : HerdKept s (s.boundaryFunc advanced fn) := by
  have hstart := (s.slotStops_herdKept fn).trans (State.startDue_herdKept _ fn)
  unfold State.boundaryFunc
  dsimp only
  split
  · exact (hstart.trans (State.issueDue_stepOnly _ fn).herdKept).trans (State.settleSteps_herdKept fn 16 _)
  · exact hstart

theorem State.voteSlot_herdKept (s : State) (fn : Nat) : HerdKept s (s.voteSlot fn) := by
  unfold State.voteSlot
  dsimp only
  split
  · exact s.setFunc_herdKept fn _
  · exact .refl s

/-! ### The neighbours' records of a new slot (R254, R256) -/

/-- A neighbour at the beginning of a slot. -/
def Neighbour.nextSlot (n : Neighbour) : Neighbour :=
  { n with heard := false, counted := false, votes := 0, torn := 0, misses := if n.counted then n.misses else 0 }

theorem State.newSlot_eq (s : State) : s.newSlot = s.livePorts.foldl (fun s p => s.setNbr p (s.nbr p).nextSlot) s := rfl

theorem State.newSlot_herd (s : State) : ∃ nbrs, s.newSlot.herd = { s.herd with nbrs := nbrs } := by
  rw [State.newSlot_eq]
  refine List.foldlRecOn (motive := fun t : State => ∃ nbrs, t.herd = { s.herd with nbrs := nbrs }) _ _ ⟨_, rfl⟩ ?_
  rintro u ⟨nbrs, hu⟩ p -
  exact ⟨_, by rw [State.setNbr, hu]⟩

/-- A port that is on the list, or begins unheard, ends unheard. -/
theorem State.nextSlots_heard (p : Nat) (ps : List Nat) : ∀ s : State, p ∈ ps ∨ (s.nbr p).heard = false →
    ((ps.foldl (fun s p => s.setNbr p (s.nbr p).nextSlot) s).nbr p).heard = false := by
  induction ps with
  | nil => exact fun s h => h.resolve_left List.not_mem_nil
  | cons q ps ih =>
    intro s h
    rw [List.foldl_cons]
    by_cases hq : p = q
    · subst hq
      refine ih _ (.inr ?_)
      rw [State.setNbr_nbr_self]
      rfl
    · refine ih _ (h.imp (List.mem_of_ne_of_mem hq) fun hheard => ?_)
      rwa [State.setNbr_nbr_ne _ _ hq]

theorem State.newSlot_heard {s : State} {p : Nat} (h : p ∈ s.livePorts) : (s.newSlot.nbr p).heard = false :=
  State.nextSlots_heard p s.livePorts s (.inl h)

/-! ### The decision on the wave H slots back (R255, R263) -/

/-- The wave H slots back is LATE. -/
def Herd.waveLate (h : Herd) : Bool := bitOf h.orVec.toNat (h.h - 1)

/-- Attributing a held slot counts it at the functions, or among the herd's fault slots. -/
theorem State.attribute_herd (s : State) (cs : List (Nat × HoldKind)) :
    PortsKept s (s.attribute cs) ∧ ∃ n, (s.attribute cs).herd = { s.herd with faultSlots := n } := by
  unfold State.attribute
  split
  · exact ⟨⟨rfl, rfl, rfl⟩, _, rfl⟩
  · split
    · exact ⟨⟨rfl, rfl, rfl⟩, _, rfl⟩
    · have hkept (f : State → Nat → State) (hf : ∀ u n, HerdKept u (f u n)) (l : List Nat) :
          PortsKept s (l.foldl f s) ∧ ∃ n, (l.foldl f s).herd = { s.herd with faultSlots := n } := by
        have h := HerdKept.foldl f l (s := s) hf
        exact ⟨h.portsKept, s.herd.faultSlots, h.herd⟩
      exact hkept _ (fun u n => u.setFunc_herdKept n _) _

/-- The herd block with a slot held. -/
def Herd.hold (h : Herd) : Herd :=
  { h with held := true, holds := if h.state = .formed ∧ !h.held then satAdd 32 h.holds 1 else h.holds }

section
variable {s : State}

theorem State.decideWave_of_late (h : s.herd.waveLate = true) : s.decideWave =
    (if s.herd.state = .formed then
      (s.withHerd s.herd.hold).attribute ((s.herd.causes[s.herd.h - 1]?).getD [])
      else s.withHerd s.herd.hold, false) := if_pos h

theorem State.decideWave_held (h : s.herd.waveLate = true) : PortsKept s s.decideWave.1 ∧
    ∃ holds faults, s.decideWave.1.herd = { s.herd with held := true, holds := holds, faultSlots := faults } := by
  rw [State.decideWave_of_late h]
  dsimp only
  split
  · obtain ⟨hports, n, hherd⟩ := (s.withHerd s.herd.hold).attribute_herd ((s.herd.causes[s.herd.h - 1]?).getD [])
    exact ⟨⟨hports.base, hports.asm, hports.nbrs⟩, _, n, hherd⟩
  · exact ⟨⟨rfl, rfl, rfl⟩, _, _, rfl⟩

theorem State.decideWave_forms (h : s.herd.waveLate = false) (hs : s.herd.state = .syncing) :
    s.decideWave = (s.withHerd { s.herd with state := .formed, sched := 0, held := false, misses := 0 }, true) := by
  unfold Herd.waveLate at h
  simp only [State.decideWave, State.withHerd, h, hs, Bool.false_eq_true, if_false, if_true]

theorem State.decideWave_advances (h : s.herd.waveLate = false) (hs : s.herd.state ≠ .syncing) :
    s.decideWave = (s.withHerd { s.herd with held := false, sched := s.maxSched + 1 }, true) := by
  unfold Herd.waveLate at h
  simp only [State.decideWave, State.withHerd, h, hs, Bool.false_eq_true, if_false]

/-- What a decision writes: HELD, SCHED and the counts beside them, and FORMED where it forms the herd. -/
structure WaveDecided (s t : State) : Prop where
  ports : PortsKept s t
  herd : t.herd = { s.herd with
    state := t.herd.state, held := t.herd.held, sched := t.herd.sched, misses := t.herd.misses, holds := t.herd.holds
    faultSlots := t.herd.faultSlots }
  held : s.herd.waveLate = true → t.herd.state = s.herd.state ∧ t.herd.held = true ∧ t.herd.sched = s.herd.sched
  forms : s.herd.waveLate = false → s.herd.state = .syncing →
    t.herd.state = .formed ∧ t.herd.held = false ∧ t.herd.sched = 0
  advances : s.herd.waveLate = false → s.herd.state ≠ .syncing →
    t.herd.state = s.herd.state ∧ t.herd.held = false ∧ t.herd.sched = s.maxSched + 1

theorem State.decideWave_decided (s : State) : WaveDecided s s.decideWave.1 := by
  cases h : s.herd.waveLate with
  | true =>
    obtain ⟨hports, holds, faults, hherd⟩ := State.decideWave_held h
    exact ⟨hports, by rw [hherd], fun _ => by rw [hherd]; exact ⟨rfl, rfl, rfl⟩, fun hf => absurd h (by simp [hf]),
      fun hf => absurd h (by simp [hf])⟩
  | false =>
    by_cases hs : s.herd.state = .syncing
    · rw [State.decideWave_forms h hs]
      exact ⟨⟨rfl, rfl, rfl⟩, rfl, fun ht => absurd ht (by simp [h]), fun _ _ => ⟨rfl, rfl, rfl⟩, fun _ hn => absurd hs hn⟩
    · rw [State.decideWave_advances h hs]
      exact ⟨⟨rfl, rfl, rfl⟩, rfl, fun ht => absurd ht (by simp [h]), fun _ hn => absurd hn hs, fun _ _ => ⟨rfl, rfl, rfl⟩⟩

end

/-! ### The turn of the slot -/

/-- The turn of a slot whose misses are counted, where the control exchange runs. -/
def State.turned (s : State) : State :=
  (funcIds.foldl (State.boundaryFunc s.decideWave.2) (funcIds.foldl State.voteSlot s.decideWave.1)).newSlot

theorem State.turnSlot_eq (s : State) : s.turnSlot =
    if (s.unheard.foldl State.missPort s).exchanging then (s.unheard.foldl State.missPort s).turned
    else s.unheard.foldl State.missPort s := rfl

theorem State.turnSlot_of_heard {s : State} (h : s.unheard = []) (hex : s.exchanging = true) : s.turnSlot = s.turned := by
  rw [State.turnSlot_eq, h]
  exact if_pos hex

/-- After the decision the turn changes only the neighbours of the herd block, and every live one begins the slot unheard. -/
theorem State.turned_herd (s : State) : (∃ nbrs, s.turned.herd = { s.decideWave.1.herd with nbrs := nbrs }) ∧
    ∀ p ∈ s.livePorts, (s.turned.nbr p).heard = false := by
  have hfuncs : HerdKept s.decideWave.1
      (funcIds.foldl (State.boundaryFunc s.decideWave.2) (funcIds.foldl State.voteSlot s.decideWave.1)) :=
    (HerdKept.foldl _ _ State.voteSlot_herdKept).trans (HerdKept.foldl _ _ (State.boundaryFunc_herdKept _))
  constructor
  · rw [← hfuncs.herd]
    exact State.newSlot_herd _
  · intro p hp
    exact State.newSlot_heard (by rwa [hfuncs.portsKept.livePorts, s.decideWave_decided.ports.livePorts])

/-- Send and sample at the end of the boundary, where the exchange still runs. -/
def State.sampled (s : State) (causes : List (Nat × HoldKind)) : State :=
  if s.exchanging then (s.sampleLate causes).sendCtrl else s

theorem State.sendCtrl_herdKept (s : State) : HerdKept s s.sendCtrl := by
  refine HerdKept.foldl _ _ fun u p => ?_
  dsimp only
  split
  · exact (u.sendRaw_herdKept p _ _ _ _).trans (State.sendRaw_herdKept _ p _ _ _ _)
  · exact .refl u

theorem State.sampled_herd {s : State} (hex : s.exchanging = true) (causes : List (Nat × HoldKind)) :
    (s.sampled causes).herd = { s.herd with
      late := s.lateNow, missed := false, orVec := s.herd.orVec <<< 1 ||| (if s.lateNow then 1 else 0)
      causes := (s.sampleCauses causes :: s.herd.causes).take 16 } := by
  rw [State.sampled, if_pos hex, (State.sendCtrl_herdKept _).herd]
  rfl

/-- Herd time and the slot are set. -/
def State.atTime (s : State) (slot : Nat) (time : W64) : State :=
  s.withHerd { s.herd with slot := slot, time := time }

theorem exec_herdSlotBoundary_alone {s : State} (hex : s.exchanging = false) (causes : List (Nat × HoldKind)) :
    let time := BitVec.ofNat 64 (1024 * (s.herd.time.toNat / 1024 + 1))
    exec (.herdSlotBoundary causes) s = .next (s.atTime (time.toNat / 1024 % 2 ^ 48) time) := by
  intro time
  show execHerdSlotBoundary causes s = _
  rw [execHerdSlotBoundary, hex]
  rfl

theorem exec_herdSlotBoundary {s : State} (hex : s.exchanging = true) (causes : List (Nat × HoldKind)) :
    let time := BitVec.ofNat 64 (1024 * (s.herd.time.toNat / 1024 + 1))
    exec (.herdSlotBoundary causes) s =
      .next ((s.atTime (time.toNat / 1024 % 2 ^ 48) time).turnSlot.sampled causes) := by
  intro time
  show execHerdSlotBoundary causes s = _
  rw [execHerdSlotBoundary, if_pos hex]
  rfl

/-! ### Time is the tick's alone -/

/-- Herd time and the slot stand as they stood. -/
structure ClockKept (s t : State) : Prop where
  slot : t.herd.slot = s.herd.slot
  time : t.herd.time = s.herd.time

theorem ClockKept.trans {s t u : State} (h : ClockKept s t) (k : ClockKept t u) : ClockKept s u :=
  ⟨k.slot.trans h.slot, k.time.trans h.time⟩

theorem State.missPort_clockKept (s : State) (p : Nat) : ClockKept s (s.missPort p) := by
  obtain ⟨st, nbrs, h⟩ := s.missPort_herd p
  exact ⟨by rw [h]; rfl, by rw [h]; rfl⟩

theorem State.turned_clockKept (s : State) : ClockKept s s.turned := by
  obtain ⟨⟨nbrs, h⟩, -⟩ := s.turned_herd
  exact ⟨by rw [h, s.decideWave_decided.herd], by rw [h, s.decideWave_decided.herd]⟩

theorem State.turnSlot_clockKept (s : State) : ClockKept s s.turnSlot := by
  have hmiss : ClockKept s (s.unheard.foldl State.missPort s) :=
    List.foldlRecOn (motive := ClockKept s) _ _ ⟨rfl, rfl⟩ fun u hu p _ => hu.trans (u.missPort_clockKept p)
  rw [State.turnSlot_eq]
  split
  · exact hmiss.trans (State.turned_clockKept _)
  · exact hmiss

theorem State.sampled_clockKept (s : State) (causes : List (Nat × HoldKind)) : ClockKept s (s.sampled causes) := by
  cases hex : s.exchanging with
  | true => exact ⟨by rw [State.sampled_herd hex], by rw [State.sampled_herd hex]⟩
  | false =>
    rw [State.sampled, hex]
    exact ⟨rfl, rfl⟩

/-! ### A slot whose records have all come -/

theorem WaveDecided.exchanging {s t : State} (h : WaveDecided s t) (hex : s.exchanging = true) : t.exchanging = true := by
  have hsame (he : t.herd.state = s.herd.state) : t.exchanging = true := by
    rw [State.exchanging, he]
    exact hex
  cases hlate : s.herd.waveLate with
  | true => exact hsame (h.held hlate).1
  | false =>
    by_cases hs : s.herd.state = .syncing
    · simp [State.exchanging, (h.forms hlate hs).1]
    · exact hsame (h.advances hlate hs).1

/-- The boundary leaves of the herd what the decision made of it, with the new slot's LATE bit in the waves. -/
theorem State.sampled_turnSlot {s : State} (h : s.unheard = []) (hex : s.exchanging = true) (causes : List (Nat × HoldKind)) :
    let d := s.decideWave.1
    let t := s.turnSlot.sampled causes
    (t.herd.state = d.herd.state ∧ t.herd.held = d.herd.held ∧ t.herd.sched = d.herd.sched) ∧
      t.herd.orVec = s.herd.orVec <<< 1 ||| (if t.herd.late then 1 else 0) ∧ t.herd.missed = false ∧
      ∀ p ∈ s.livePorts, (t.nbr p).heard = false := by
  obtain ⟨⟨nbrs, hturned⟩, hheard⟩ := s.turned_herd
  have hdecided := s.decideWave_decided
  have hex' : s.turned.exchanging = true := by
    rw [State.exchanging, hturned]
    exact hdecided.exchanging hex
  have hherd := State.sampled_herd hex' causes
  intro d t
  have ht : t = s.turned.sampled causes := by rw [← State.turnSlot_of_heard h hex]
  rw [ht]
  refine ⟨?_, ?_, ?_, fun p hp => ?_⟩
  · rw [hherd, hturned]
    exact ⟨rfl, rfl, rfl⟩
  · rw [hherd]
    simp only [hturned]
    rw [hdecided.herd]
  · rw [hherd]
  · rw [State.nbr, hherd]
    exact hheard p hp

/-! ### The obligation -/

/-- Settles O22: nothing after the tick moves the clock, and where every record has come the decision alone sets the herd's
state, HELD and SCHED; the functions' part of the boundary leaves the herd block as it is. -/
theorem slotBoundary : Obligations.SlotBoundary := by
  intro s causes time slot
  have halone (hex : s.exchanging = false) : exec (.herdSlotBoundary causes) s = .next (s.atTime slot time) :=
    exec_herdSlotBoundary_alone hex causes
  have hturn (hex : s.exchanging = true) :
      exec (.herdSlotBoundary causes) s = .next ((s.atTime slot time).turnSlot.sampled causes) :=
    exec_herdSlotBoundary hex causes
  clear_value slot time
  have hclock := (s.atTime slot time).turnSlot_clockKept.trans (State.sampled_clockKept _ causes)
  have hdecided := (s.atTime slot time).decideWave_decided
  have hports : PortsKept s (s.atTime slot time) := ⟨rfl, rfl, rfl⟩
  refine ⟨?clock, ?alone, ?syncing, ?formed⟩
  case clock =>
    cases hex : s.exchanging with
    | true => exact ⟨_, hturn hex, hclock.slot, hclock.time⟩
    | false => exact ⟨_, halone hex, rfl, rfl⟩
  case alone => exact fun hex => ⟨_, halone hex, rfl⟩
  case syncing =>
    intro hs hheard
    have hex : s.exchanging = true := by simp [State.exchanging, hs]
    obtain ⟨⟨hstate, hheld, hsched⟩, -⟩ := State.sampled_turnSlot (hports.unheard.trans hheard) hex causes
    refine ⟨_, hturn hex, ?_⟩
    dsimp only
    rw [hstate, hheld, hsched]
    split
    next hlate =>
      obtain ⟨dstate, dheld, -⟩ := hdecided.held hlate
      exact ⟨dstate.trans hs, dheld⟩
    next hlate => exact hdecided.forms (Bool.eq_false_iff.mpr hlate) hs
  case formed =>
    intro hs hheard
    have hex : s.exchanging = true := by simp [State.exchanging, hs]
    obtain ⟨⟨hstate, hheld, hsched⟩, hwaves, hmissed, hnew⟩ := State.sampled_turnSlot (hports.unheard.trans hheard) hex causes
    have hforming : s.herd.state ≠ .syncing := by simp [hs]
    refine ⟨_, hturn hex, hclock.slot, hclock.time, ?_, ?_, ?_, hwaves, hmissed, hports.livePorts ▸ hnew⟩
    · rw [hstate]
      cases hlate : s.herd.waveLate with
      | true => exact (hdecided.held hlate).1.trans hs
      | false => exact (hdecided.advances hlate hforming).1.trans hs
    · intro hlate
      rw [hheld, hsched]
      exact (hdecided.held hlate).2
    · intro hlate
      rw [hheld, hsched]
      exact (hdecided.advances hlate hforming).2

end Sys2Proof.Machine
end

section
/-! Training of a port, and the wiring check of one that a LINKING herd uses (R263, R346, R349, R360). -/
namespace Sys2Proof.Machine

theorem State.setPort_onlyPort (s : State) (p : Nat) (x : Port) : OnlyPort s (s.setPort p x) p :=
  ⟨rfl, fun j hj => s.setPort_port_ne p x j hj⟩

/-- A port whose link training has succeeded with `peer` at the far end. -/
def State.trainedPort (s : State) (p : Nat) (peer : Peer) : Port :=
  { s.port p with
    state := .up, width := s.portLanes, failedLanes := 0, macInUse := some (s.macOf p), peerMac := peer.mac, mpd := peer.mpd }

/-! ### The wiring check (R263, R360) -/

/-- Membership at most moves from LINKING on: no port changes, and no neighbour. -/
theorem State.settleLinking_kept (s : State) :
    s.settleLinking.ports = s.ports ∧ s.settleLinking.herd.nbrs = s.herd.nbrs := by
  unfold State.settleLinking
  split <;> exact ⟨rfl, rfl⟩

theorem State.settleLinking_syncing {s : State} (hlink : s.herd.state = .linking)
    (h : ∀ q ∈ s.usedPorts, (s.nbr q).verified = true) : s.settleLinking.herd.state = .syncing := by
  rw [State.settleLinking, if_pos ⟨hlink, List.all_eq_true.mpr h⟩]

/-- What a used port's exchange must show in LINKING. -/
structure PeerFits (s : State) (b : BaseImage) (p : Nat) (peer : Peer) : Prop where
  herdId : peer.herdId = b.herdId
  member : peer.member = s.peer p
  digest : peer.digest = b.digest.take 16
  mpd : peer.mpd ≤ 400

theorem State.verifyPeer_spec {s : State} {b : BaseImage} {p : Nat} {peer : Peer} (h : PeerFits s b p peer)
    (hlink : s.herd.state = .linking) : let t := s.verifyPeer b p peer
    (t.nbr p).verified = true ∧ (t.nbr p).member = peer.member ∧ t.ports = s.ports ∧
      ((∀ q ∈ s.usedPorts, q ≠ p → (s.nbr q).verified = true) → t.herd.state = .syncing) := by
  intro t
  let u := s.setNbr p { s.nbr p with verified := true, member := peer.member }
  have ht : t = u.settleLinking := if_pos ⟨h.herdId, h.member, h.digest, h.mpd⟩
  have hnbr : u.nbr p = { s.nbr p with verified := true, member := peer.member } := s.setNbr_nbr_self p _
  obtain ⟨hports, hnbrs⟩ := u.settleLinking_kept
  have hself : t.nbr p = u.nbr p := by rw [ht, State.nbr, hnbrs]; rfl
  refine ⟨by rw [hself, hnbr], by rw [hself, hnbr], ht ▸ hports, fun hall => ?_⟩
  rw [ht]
  refine State.settleLinking_syncing hlink fun q hq => ?_
  by_cases hqp : q = p
  · rw [hqp, hnbr]
  · rw [s.setNbr_nbr_ne _ hqp]
    exact hall q hq hqp

/-! ### PORT_TRAIN (R346) -/

/-- The port is training (R346). -/
structure Trains (s : State) (p : Nat) : Prop where
  port : s.isPort p = true
  supply : s.boot.supply = .running
  enable : (s.port p).enable = true
  notUp : (s.port p).state ≠ .up
  notFailed : (s.port p).state ≠ .failed

/-- The far end is an S9 herd port of the port's rate and EtherType. -/
structure Matches (s : State) (p : Nat) (peer : Peer) : Prop where
  s9Herd : peer.s9Herd = true
  rate : peer.rate = (s.port p).rate
  etype : peer.etype = (s.hub (p / 16)).etype

section
variable {s : State} {p : Nat} (h : Trains s p) (peer : Peer)
include h

theorem Trains.not_idle :
    ¬(s.boot.supply ≠ .running ∨ (!(s.port p).enable) = true ∨ (s.port p).state = .up ∨ (s.port p).state = .failed) := by
  simp [h.supply, h.enable, h.notUp, h.notFailed]

theorem exec_portTrain_fails :
    exec (.portTrain p false peer) s = .next (s.setPort p { s.port p with state := .training }) := by
  show execPortTrain p false peer s = _
  simp only [execPortTrain, h.port, if_neg h.not_idle, Bool.not_true, Bool.not_false, Bool.false_eq_true, if_false, if_true]

theorem exec_portTrain_switched (hsw : s.isSwitched p = true) :
    exec (.portTrain p true peer) s = .next (s.setPort p { s.trainedPort p peer with mpd := 0 }) := by
  show execPortTrain p true peer s = _
  simp only [execPortTrain, h.port, if_neg h.not_idle, hsw, Bool.not_true, Bool.false_eq_true, if_false, if_true]
  rfl

variable (hsw : s.isSwitched p = false)
include hsw

theorem exec_portTrain_matched {peer : Peer} (hm : Matches s p peer)
    (hother : s.herd.state ≠ .linking ∨ s.base = none ∨ s.usedPorts.contains p = false) :
    exec (.portTrain p true peer) s = .next (s.setPort p (s.trainedPort p peer)) := by
  have hnot (b : BaseImage) (hb : s.base = some b) : (s.herd.state == .linking && s.usedPorts.contains p) = false := by
    rcases hother with hstate | hnone | hused
    · simp [hstate]
    · rw [hnone] at hb
      cases hb
    · simp only [hused, Bool.and_false]
  show execPortTrain p true peer s = _
  simp only [execPortTrain, h.port, if_neg h.not_idle, hsw, hm.s9Herd, hm.rate, hm.etype, Bool.not_true, Bool.false_eq_true,
    if_false, ne_eq, not_true_eq_false, or_self, State.setPort_base]
  split
  next b hb =>
    rw [hnot b hb]
    rfl
  next => rfl

theorem exec_portTrain_linking {peer : Peer} (hm : Matches s p peer) {b : BaseImage} (hb : s.base = some b)
    (hlink : s.herd.state = .linking) (hused : s.usedPorts.contains p = true) :
    exec (.portTrain p true peer) s = .next ((s.setPort p (s.trainedPort p peer)).verifyPeer b p peer) := by
  show execPortTrain p true peer s = _
  simp only [execPortTrain, h.port, if_neg h.not_idle, hsw, hm.s9Herd, hm.rate, hm.etype, hlink, hused, hb, beq_self_eq_true,
    Bool.and_self, Bool.not_true, Bool.false_eq_true, if_false, if_true, ne_eq, not_true_eq_false, or_self,
    State.setPort_base]
  rfl

theorem exec_portTrain_mismatched (hm : peer.s9Herd = false ∨ peer.rate ≠ (s.port p).rate) (hlink : s.herd.state = .linking)
    (hused : s.usedPorts.contains p = true) :
    exec (.portTrain p true peer) s = .next ((s.setPort p { s.port p with state := .training }).wiring p peer) := by
  have hm' : (!peer.s9Herd) = true ∨ peer.rate ≠ (s.port p).rate := hm.imp_left fun hs => by rw [hs]; rfl
  show execPortTrain p true peer s = _
  simp only [execPortTrain, h.port, if_neg h.not_idle, hsw, if_pos hm', hlink, hused, beq_self_eq_true, Bool.and_self,
    Bool.not_true, Bool.false_eq_true, if_false, if_true]

end

/-! ### The obligation -/

/-- Settles O46: training writes the port alone; in LINKING the wiring check of a used port then marks its neighbour, or
reports the far end of one that is no such herd port. -/
theorem portTraining : Obligations.PortTraining := by
  intro s p peer hport x trained hsupply henable hup hfailed
  have h : Trains s p := ⟨hport, hsupply, henable, hup, hfailed⟩
  have halone (y : Port) : OnlyPort s (s.setPort p y) p ∧ (s.setPort p y).port p = y :=
    ⟨s.setPort_onlyPort p y, s.setPort_port_self p y⟩
  refine ⟨⟨_, exec_portTrain_fails h peer, halone _⟩, fun hsw => ⟨_, exec_portTrain_switched h peer hsw, halone _⟩,
    fun hsw hs9 hrate hetype => ?herd, fun hsw hmis hlink hused => ?mismatch⟩
  case herd =>
    have hm : Matches s p peer := ⟨hs9, hrate, hetype⟩
    refine ⟨fun hother => ⟨_, exec_portTrain_matched h hsw hm hother, halone _⟩, ?_⟩
    intro b hb hlink hused hid hmember hdigest hmpd
    obtain ⟨hverified, hnamed, hports, hsyncing⟩ :=
      State.verifyPeer_spec (s := s.setPort p (s.trainedPort p peer)) ⟨hid, hmember, hdigest, hmpd⟩ hlink
    refine ⟨_, exec_portTrain_linking h hsw hm hb hlink hused, hverified, hnamed, ?_, hsyncing⟩
    rw [State.port, hports]
    exact s.setPort_port_self p _
  case mismatch =>
    refine ⟨_, exec_portTrain_mismatched h peer hsw hmis hlink hused, ?_, rfl, State.report_recorded _ _⟩
    rw [State.wiring, State.report_port_eq, State.setPort_port_self]

end Sys2Proof.Machine
end

section
/-! Herd time: the messages, the path delay and the offset to the parent (R243, R244, R246, R359, R360). -/
namespace Sys2Proof.Machine

/-! ### The messages a port sends (R243) -/

/-- The messages of one port, where it is a herd port that is up. -/
def State.syncPort (s : State) (p : Nat) : State := if s.isHerdPort p && (s.port p).state == .up then s.emit (.ptp p) else s

theorem State.syncPort_out (s : State) (p : Nat) : ∃ l, s.syncPort p = { s with out := l ++ s.out } ∧
    (s.isHerdPort p = true → (s.port p).state = .up → .ptp p ∈ l) := by
  unfold State.syncPort
  split
  next => exact ⟨[.ptp p], rfl, fun _ _ => List.mem_cons_self⟩
  next hno => exact ⟨[], rfl, fun hport hup => absurd (by rw [hport, hup]; rfl) hno⟩

theorem State.syncPorts_out (ps : List Nat) : ∀ s : State, ∃ l, ps.foldl State.syncPort s = { s with out := l ++ s.out } ∧
    ∀ q ∈ ps, s.isHerdPort q = true → (s.port q).state = .up → .ptp q ∈ l := by
  induction ps with
  | nil => exact fun s => ⟨[], rfl, fun q hq => absurd hq List.not_mem_nil⟩
  | cons p ps ih =>
    intro s
    obtain ⟨l, hl, hsent⟩ := s.syncPort_out p
    obtain ⟨k, hk, hrest⟩ := ih { s with out := l ++ s.out }
    refine ⟨k ++ l, ?_, fun q hq hport hup => ?_⟩
    · rw [List.foldl_cons, hl, hk, List.append_assoc]
    · rcases List.mem_cons.mp hq with hq | hq
      · subst hq
        exact List.mem_append_right _ (hsent hport hup)
      · exact List.mem_append_left _ (hrest q hq hport hup)

theorem exec_ptpSyncInterval (s : State) :
    exec .ptpSyncInterval s = .next ((Code.ports s.code).foldl State.syncPort s) := rfl

/-! ### The path delay and the offset (R244, R246, R360) -/

/-- The path delay of a port is kept. -/
def State.withMpd (s : State) (p mpd : Nat) : State := s.setPort p { s.port p with mpd := mpd }

theorem State.takeMpd_of_le {mpd : Nat} (h : mpd ≤ 400) (s : State) (p : Nat) : s.takeMpd p mpd = s.withMpd p mpd := by
  rw [State.withMpd, State.takeMpd, if_pos (.inl h), Nat.min_eq_left (by omega)]

theorem OnlyPort.withHerd {s t : State} {p : Nat} (k : OnlyPort s t p) (h : Herd) :
    t.withHerd h = { s with ports := (t.withHerd h).ports, herd := (t.withHerd h).herd } := by
  obtain ⟨hrest, -⟩ := k
  rw [hrest]
  rfl

section
variable {s : State} {p : Nat} {offset : Int}

theorem State.takeOffset_locked (h : offset.natAbs ≤ 20) (hlock : s.herd.lock = true) :
    s.takeOffset p offset = s.setPort p { s.port p with offset := BitVec.ofInt 16 offset } := by
  simp [State.takeOffset, h, hlock]

/-- Towards the first lock 64 good messages in a row are needed. -/
theorem State.takeOffset_locking (h : offset.natAbs ≤ 20) (hlock : s.herd.lock = false) (hoff : s.herd.offTime = false) :
    s.takeOffset p offset = (s.setPort p { s.port p with offset := BitVec.ofInt 16 offset }).withHerd
      { s.herd with goodSyncs := min (s.herd.goodSyncs + 1) 64, lock := decide (64 ≤ s.herd.goodSyncs + 1) } := by
  simp [State.takeOffset, State.withHerd, h, hlock, hoff]

/-- The record of a time fault (R246). -/
def timeFaultReport (p : Nat) (offset : Int) : Report :=
  { code := eTimeFault, cls := clsRecovered, unit := p, a := (BitVec.ofInt 64 offset).toNat }

/-- An offset past 20 ns but within a slot unlocks the member and corrects its time; the herd keeps it. -/
theorem State.takeOffset_fault (h : 20 < offset.natAbs) (hslot : offset.natAbs ≤ 1024) (hlock : s.herd.lock = true) :
    s.takeOffset p offset = ((s.setPort p { s.port p with offset := BitVec.ofInt 16 offset }).withHerd
      { s.herd.correct offset with lock := false, offTime := true, goodSyncs := 0 }).report (timeFaultReport p offset) := by
  simp [State.takeOffset, State.withHerd, Nat.not_le.mpr h, Nat.not_lt.mpr hslot, hlock, timeFaultReport]

end

theorem State.withMpd_herd (s : State) (p mpd : Nat) : (s.withMpd p mpd).herd = s.herd := rfl

/-! ### PTP_MESSAGE_RECEIVE (R246) -/

section
variable {s : State} {p mpd : Nat} (hport : s.isHerdPort p = true) (hup : (s.port p).state = .up) (hmpd : mpd ≤ 400)
include hport hup hmpd

theorem exec_ptpMessageReceive (offset : Int) : exec (.ptpMessageReceive p mpd offset) s =
    .next (if s.exchanging && s.parentPort == some p then (s.withMpd p mpd).takeOffset p offset else s.withMpd p mpd) := by
  have hup' : ((s.withMpd p mpd).port p).state = .up := by rw [State.withMpd, State.setPort_port_self, hup]
  show execPtpMessageReceive p mpd offset s = _
  simp only [execPtpMessageReceive, hport, State.takeMpd_of_le hmpd, hup', beq_self_eq_true, Bool.and_true, Bool.not_true,
    Bool.false_eq_true, if_false]
  exact if_neg fun hdown => hdown hup

theorem exec_ptpMessageReceive_other (hother : s.exchanging = false ∨ s.parentPort ≠ some p) (offset : Int) :
    exec (.ptpMessageReceive p mpd offset) s = .next (s.withMpd p mpd) := by
  have hno : (s.exchanging && s.parentPort == some p) = false := by
    rcases hother with hex | hparent
    · rw [hex, Bool.false_and]
    · rw [beq_false_of_ne hparent, Bool.and_false]
  rw [exec_ptpMessageReceive hport hup hmpd, hno]
  rfl

theorem exec_ptpMessageReceive_parent (hex : s.exchanging = true) (hparent : s.parentPort = some p) (offset : Int) :
    exec (.ptpMessageReceive p mpd offset) s = .next ((s.withMpd p mpd).takeOffset p offset) := by
  rw [exec_ptpMessageReceive hport hup hmpd, hex, hparent, beq_self_eq_true]
  rfl

end

/-! ### The obligation -/

/-- Settles O47: a message writes its port's path delay, and the parent's its offset too; what the offset does to the herd is
read off by its size and the lock. That herd time and its slot step by the offset is assumption 52. -/
theorem herdTime : Obligations.HerdTime := by
  intro s p mpd offset h x
  constructor
  · obtain ⟨l, hl, hsent⟩ := State.syncPorts_out (Code.ports s.code) s
    refine ⟨_, exec_ptpSyncInterval s, ?_⟩
    rw [hl]
    exact ⟨rfl, l, rfl, hsent⟩
  intro hport hup hmpd
  refine ⟨fun hother => ⟨_, exec_ptpMessageReceive_other hport hup hmpd hother offset, s.setPort_onlyPort p _,
    s.setPort_port_self p _⟩, fun hex hparent => ?_⟩
  intro y
  have hexec := exec_ptpMessageReceive_parent hport hup hmpd hex hparent offset
  have hy : { (s.withMpd p mpd).port p with offset := BitVec.ofInt 16 offset } = y := by
    rw [State.withMpd, State.setPort_port_self]
  have hothers (j : Nat) (hj : j ≠ p) : ((s.withMpd p mpd).setPort p y).port j = s.port j := by
    rw [State.setPort_port_ne _ _ _ _ hj, State.withMpd, State.setPort_port_ne _ _ _ _ hj]
  have honly : OnlyPort s ((s.withMpd p mpd).setPort p y) p := ⟨rfl, hothers⟩
  have hself := (s.withMpd p mpd).setPort_port_self p y
  refine ⟨fun hgood hlock => ?locked, fun hgood hlock hoff => ?locking, fun hbad hslot hlock => ?fault⟩
  case locked =>
    rw [State.takeOffset_locked (s := s.withMpd p mpd) hgood hlock, hy] at hexec
    exact ⟨_, hexec, honly, hself⟩
  case locking =>
    rw [State.takeOffset_locking (s := s.withMpd p mpd) hgood hlock hoff, hy, State.withMpd_herd] at hexec
    refine ⟨_, hexec, honly.withHerd _, ?_, fun j hj => ?_, ?_⟩
    · rw [State.withHerd_port, hself]
    · rw [State.withHerd_port, hothers j hj]
    · rw [State.withHerd_herd]
  case fault =>
    rw [State.takeOffset_fault (s := s.withMpd p mpd) hbad hslot hlock, hy, State.withMpd_herd] at hexec
    refine ⟨_, hexec, ?_, ?_, State.report_recorded _ _, fun z _ => ?_, fun j => ?_⟩
    · rw [State.report_herd, State.withHerd_herd]
      rfl
    · rw [State.report_port_eq, State.withHerd_port, hself]
    · rw [State.report_byte_eq, State.withHerd_byte]
      rfl
    · rw [State.report_func_eq, State.withHerd_func]
      rfl

end Sys2Proof.Machine
end

section
/-! CHECK, LOAD and the acceptance of an image (R269, R277, R282, R283). -/
namespace Sys2Proof.Machine

/-! ### Queue commands on an image -/

theorem State.withCmd_inProgress {s : State} {q op : Nat} {c : Cmd} (h : InProgress s q op c) (f : Cmd → Answer) :
    s.withCmd q op f = f c := by
  obtain ⟨hrun, hop⟩ := h
  simp only [State.withCmd, hrun, hop, if_true]

theorem State.withImage_content {s : State} {lib : Bool} {c : Cmd} {d : HostData} {b : List Byte} (hw : s.imgWait = none)
    (hsrc : s.imageSource lib c d = .content b) (f : List Byte → Answer) : s.withImage lib c d f = f b := by
  simp only [State.withImage, hw, hsrc, Option.isSome_none, Bool.false_eq_true, if_false]

/-- Answering an image command changes at most what a completion record does. -/
theorem State.answer_cpl (s : State) (c : Option Cmd) (st : Nat) (r : List Byte) : CplOnly s (s.answer c st r) := by
  cases c with
  | none => exact .refl s
  | some c => exact s.complete_cpl c st r

theorem CplOnly.imgWait {s t : State} (h : CplOnly s t) : t.imgWait = s.imgWait := by rw [h.1]

theorem CplOnly.image {s t : State} (h : CplOnly s t) (fn : Nat) : t.image fn = s.image fn := by
  unfold State.image
  rw [h.1]

/-! ### CHECK and LOAD (R277, R283) -/

theorem exec_check {s : State} {q : Nat} {c : Cmd} {d : HostData} {b : List Byte} (h : InProgress s q 0x01 c)
    (hw : s.imgWait = none) (hsrc : s.imageSource true c d = .content b) :
    exec (.check q d) s = .next ({ s with imgStat := (s.checkImage b).stat }.complete c
      (if (s.checkImage b).stage = 0 then stSuccess else stRefused) (leBytes 8 (s.checkImage b).stat.value)) := by
  show execCheck q d s = _
  rw [execCheck, State.withCmd_inProgress h, State.withImage_content hw hsrc]
  by_cases hv : (s.checkImage b).stage = 0
  · simp only [hv, ne_eq, not_true_eq_false, if_false, if_true, State.finish]
  · simp only [hv, ne_eq, not_false_eq_true, if_false, if_true, State.refuseImage, State.answer]

theorem exec_load {s : State} {q : Nat} {c : Cmd} {d : HostData} {b : List Byte} (h : InProgress s q 0x02 c)
    (hw : s.imgWait = none) (hready : s.boot.stage ≠ .prepared) (hsrc : s.imageSource true c d = .content b) :
    exec (.load q d) s = .next (s.startLoad (some c) b (c.arg 24 1 == 1) []).1 := by
  show execLoad q d s = _
  rw [execLoad, State.withCmd_inProgress h, if_neg hready, State.withImage_content hw hsrc]

/-- The check of a LOAD ends in a refusal, or in the image waiting for its acceptance. -/
theorem State.startLoad_refused {s : State} {b : List Byte} (h : (s.checkImage b).stage ≠ 0) (c : Option Cmd) (store : Bool)
    (rest : List Nat) : s.startLoad c b store rest = (s.refuseImage c (s.checkImage b), false) := if_pos h

theorem State.startLoad_waits {s : State} {b : List Byte} (h : (s.checkImage b).stage = 0) (c : Option Cmd) (store : Bool)
    (rest : List Nat) : s.startLoad c b store rest = ({ s with
      imgStat := checkRunning
      imgWait := some { cmd := c, image := b, funcs := maskFuncs (imgHdr b).funcMask, store := store, autoRest := rest } },
      true) := if_neg fun hv => hv h

/-! ### Function images that come into force (R269, R378) -/

/-- The definition of function `fn` that an image gives member `m`, with the links its transfers cross. -/
def State.loaded (s : State) (b : List Byte) (m fn : Nat) : FuncImage :=
  { funcOf b fn m with links := s.imageLinks (funcOf b fn m) }

/-- One function's image comes into force. -/
def State.putImage (b : List Byte) (m : Nat) (s : State) (fn : Nat) : State :=
  { s with images := tset {} s.images fn (s.loaded b m fn) }

theorem State.install_function {s : State} {b : List Byte} (h : (imgHdr b).kind ≠ 0) :
    s.install b = (maskFuncs (imgHdr b).funcMask).foldl (State.putImage b (s.readMember b)) s := by
  rw [State.install, if_neg h]
  rfl

/-- What an image's transfers cross does not depend on the images in force. -/
theorem State.imageLinks_images (s : State) (is : Table FuncImage) (i : FuncImage) :
    State.imageLinks { s with images := is } i = s.imageLinks i := rfl

theorem State.loaded_putImage (s : State) (b : List Byte) (m fn k : Nat) :
    (State.putImage b m s fn).loaded b m k = s.loaded b m k := by
  rw [State.loaded, State.putImage, State.imageLinks_images, State.loaded]

theorem State.putImage_imgWait (b : List Byte) (m : Nat) (s : State) (fn : Nat) :
    (State.putImage b m s fn).imgWait = s.imgWait := by
  rw [State.putImage]

theorem State.putImage_image (s : State) (b : List Byte) (m fn k : Nat) :
    (State.putImage b m s fn).image k = if k = fn then s.loaded b m k else s.image k := by
  rw [State.image, State.putImage, tget_tset]
  split
  next h => rw [h]
  next => rfl

theorem State.putImages_imgWait (b : List Byte) (m : Nat) (fns : List Nat) :
    ∀ s : State, (fns.foldl (State.putImage b m) s).imgWait = s.imgWait := by
  induction fns with
  | nil => exact fun _ => rfl
  | cons fn fns ih => exact fun s => by rw [List.foldl_cons, ih, State.putImage_imgWait]

theorem State.putImages_image (b : List Byte) (m : Nat) (fns : List Nat) (k : Nat) : ∀ s : State,
    (fns.foldl (State.putImage b m) s).image k = if k ∈ fns then s.loaded b m k else s.image k := by
  induction fns with
  | nil => exact fun _ => rfl
  | cons fn fns ih =>
    intro s
    rw [List.foldl_cons, ih, State.putImage_image]
    rw [State.loaded_putImage]
    by_cases hk : k = fn <;> simp [hk]

/-! ### IMAGE_ACCEPT (R283) -/

section
variable {s : State} {w : ImageWait} (hw : s.imgWait = some w) (hrest : w.autoRest = [])
include hw hrest

theorem exec_imageAccept_refused (ha : ({ s with imgWait := none }.acceptCheck w.image).stage ≠ 0) :
    exec .imageAccept s = .next ({ s with imgWait := none }.refuseImage w.cmd ({ s with imgWait := none }.acceptCheck w.image)) := by
  show execImageAccept s = _
  simp only [execImageAccept, hw, ha, hrest, ne_eq, not_false_eq_true, if_true, State.autoload]

theorem exec_imageAccept_installs (hstore : w.store = false) (ha : ({ s with imgWait := none }.acceptCheck w.image).stage = 0) :
    exec .imageAccept s = .next ({ { s with imgWait := none }.install w.image with imgStat := accepted.stat }.answer w.cmd
      stSuccess (leBytes 8 accepted.stat.value ++ leBytes 4 0)) := by
  show execImageAccept s = _
  simp only [execImageAccept, hw, ha, hstore, hrest, ne_eq, not_true_eq_false, Bool.false_eq_true, if_false, State.endLoad,
    State.autoload]

end

/-- Settles O39: each command ends as its check says; what a function image brings into force is read off its fold over the
functions named. -/
theorem checkLoadAccept : Obligations.CheckLoadAccept := by
  intro s q c d b v
  refine ⟨fun h hw hsrc => exec_check h hw hsrc, fun h hw hready hsrc => ?load, fun w hw himg hstore hrest => ?accept⟩
  case load =>
    have hload := exec_load h hw hready hsrc
    refine ⟨fun hv => ?_, fun hv => ?_⟩
    · rw [State.startLoad_refused hv] at hload
      exact hload
    · rw [State.startLoad_waits hv] at hload
      exact ⟨_, hload, _, rfl, rfl, rfl, rfl, rfl, rfl⟩
  case accept =>
    subst himg
    intro s0 a
    refine ⟨fun ha hc => ?_, fun ha hc => ?_, fun ha hkind => ?_⟩
    · have hx := exec_imageAccept_refused hw hrest ha
      rw [hc] at hx
      exact hx
    · have hx := exec_imageAccept_installs hw hrest hstore ha
      rw [hc] at hx
      exact hx
    · refine ⟨_, exec_imageAccept_installs hw hrest hstore ha, ?_, fun fn hfn => ?_⟩
      · rw [(State.answer_cpl _ _ _ _).imgWait, State.install_function hkind]
        exact State.putImages_imgWait _ _ _ s0
      · rw [(State.answer_cpl _ _ _ _).image, State.install_function hkind]
        exact (State.putImages_image _ _ _ fn s0).trans (if_pos hfn)

end Sys2Proof.Machine
end

section
/-! STORE, REMOVE and UNLOAD (R276, R285, R290 to R293). -/
namespace Sys2Proof.Machine

/-! ### The library (R288 to R292) -/

/-- No commit record is no valid one. -/
theorem nvValid_no_record (slot : Nat) (content : List Byte) : nvValid slot content [] = false := by simp [nvValid]

/-- The library as a write of `n` blocks from block `k` on leaves it (R290 to R292). -/
def Nv.written (v : Nv) (id : Nat) (content : List Byte) (how : NvEnd) (n k : Nat) : Nv :=
  { v with library := (v.library.filter fun e => nvValid 5 e.content e.record || !overlap e.block e.blocks k n) ++
      [{ block := k, blocks := n, content := content
         record := if how = .done then nvRecord 5 v.nextSeq id content else [] }] }

/-- The search for a free run is made a variable before the definition is opened: the kernel would evaluate it, block by
block. -/
theorem Nv.writeEntry_written {v u : Nv} {id k : Nat} {content : List Byte} {how : NvEnd}
    (h : v.writeEntry id content how = some (u, k)) : ∃ n, u = v.written id content how n k := by
  have unfolded (f : Nv → Nat → List Byte → NvEnd → Option (Nv × Nat)) (hf : f = Nv.writeEntry)
      (h : f v id content how = some (u, k)) : ∃ n, u = v.written id content how n k := by
    delta Nv.writeEntry at hf
    generalize Nv.freeRun = search at hf
    subst hf
    dsimp -zeta only at h
    extract_lets n at h
    generalize search v n = found at h
    cases found with
    | none => cases h
    | some b =>
      refine ⟨n, ?_⟩
      change (if v.nextSeq = 0xFFFFFFFF then none else some (v.written id content how n b, b)) = some (u, k) at h
      split at h
      · cases h
      · cases h
        rfl
  exact unfolded _ rfl h

theorem Nv.written_entries (v : Nv) (id : Nat) (content : List Byte) {how : NvEnd} (h : how ≠ .done) (n k : Nat) :
    (v.written id content how n k).entries = v.entries := by
  simp only [Nv.entries, Nv.written, if_neg h, List.filter_append, List.filter_filter, List.filter_cons, List.filter_nil,
    nvValid_no_record, Bool.false_eq_true, if_false, List.append_nil]
  refine List.filter_congr fun e _ => ?_
  cases nvValid 5 e.content e.record <;> rfl

theorem CplOnly.nv {s t : State} (h : CplOnly s t) : t.nv = s.nv := by rw [h.1]

theorem CplOnly.recorded {s t : State} (h : CplOnly s t) {code cls : Nat} {fn : Option Nat} (hr : Recorded s code cls fn) :
    Recorded t code cls fn := by
  unfold Recorded at hr ⊢
  rwa [h.1]

/-- A command that completes after a failed write has recorded it, and left the module's memory alone (R292). -/
theorem runs_nvError {i : Instr} {s u : State} {slot off st : Nat} {c : Cmd} {r : List Byte} (hmem : u.mem = s.mem)
    (h : exec i s = .next ((u.nvError slot off).complete c st r)) :
    Runs i s fun t => t.nv = u.nv ∧ Recorded t eNv clsCommand none ∧ HostOnly s t := by
  have hc := (u.nvError slot off).complete_cpl c st r
  refine ⟨_, h, hc.nv, hc.recorded (State.report_recorded u _), fun z hz => (hc.2 z hz).trans ?_⟩
  rw [State.nvError, State.report_byte_eq, State.byte, hmem]
  rfl

/-! ### STORE (R276, R290 to R292) -/

section
variable {s : State} {q : Nat} {c : Cmd} {d : HostData} {b : List Byte} {v : Nv} {k : Nat} {how : NvEnd}
  (h : InProgress s q 0x03 c) (hw : s.imgWait = none) (hid : c.arg 20 4 ≠ retId)
  (hsrc : s.imageSource false c d = .content b) (hfw : leAt b 0 4 ≠ fwMagic) (hset : leAt b 0 4 ≠ setMagic)
  (hsigned : firstPlace (s.stage1 b) = none) (hwrite : s.nv.writeEntry s.nv.nextId b how = some (v, k))
  (hnext : s.nv.nextId ≤ 0xFFFFFFFE)
include h hw hid hsrc hfw hset hsigned hwrite hnext

/-- STORE of a signed image for which there is room answers as its write of the library ended. -/
theorem exec_store : exec (.store q d how) s = match how with
    | .done => .next ({ s with nv := { v with nextId := s.nv.nextId + 1 }, imgStat := accepted.stat }.complete c stSuccess
        (zeros 8 ++ leBytes 4 s.nv.nextId))
    | .fails => .next (({ s with nv := v }.nvError 5 (blockOffset k)).complete c stNvError [])
    | .cut => .next { s with nv := v } := by
  show execStore q d how s = _
  rw [execStore, State.withCmd_inProgress h, if_neg hid, State.withImage_content hw hsrc, if_neg hfw, if_neg hset,
    State.storeImage, hsigned]
  simp only [State.storeEntry, hwrite, if_neg (Nat.not_lt.mpr hnext), Option.map_some]
  cases how <;> rfl

end

/-! ### REMOVE (R290 to R292) -/

/-- What a REMOVE of entry `id` leaves before it is answered: two values are drawn, how the erase ends and, where it does not
end well, whether the entry is gone all the same. -/
def State.erased (s : State) (id : Nat) : State :=
  if s.drawEnd.2 = .done ∨ Config.removeErased (s.draws + 1) = true then { s with nv := s.nv.remove id, draws := s.draws + 2 }
  else { s with draws := s.draws + 2 }

theorem State.erased_of_done {s : State} (h : s.drawEnd.2 = .done) (id : Nat) :
    s.erased id = { s with nv := s.nv.remove id, draws := s.draws + 2 } := if_pos (.inl h)

theorem State.erased_spec (s : State) (id : Nat) :
    s.erased id = { s with nv := (s.erased id).nv, draws := (s.erased id).draws } ∧
    ((s.erased id).nv = s.nv ∨ (s.erased id).nv = s.nv.remove id) := by
  unfold State.erased
  split
  · exact ⟨rfl, .inr rfl⟩
  · exact ⟨rfl, .inl rfl⟩

section
variable {s : State} {q : Nat} {c : Cmd} (h : InProgress s q 0x04 c) (hw : s.imgWait = none) (hid : c.arg 20 4 ≠ retId)
include h hw hid

theorem exec_remove {e : NvEntry} (he : s.nv.entry (c.arg 20 4) = some e) : exec (.remove q) s =
    (s.erased (c.arg 20 4)).endNv c s.drawEnd.2 5 (blockOffset e.block) [] := by
  show execRemove q s = _
  rw [execRemove, State.withCmd_inProgress h]
  simp only [hw, Option.isSome_none, Bool.false_eq_true, if_false, if_neg hid, he]
  rfl

theorem exec_remove_absent (he : s.nv.entry (c.arg 20 4) = none) :
    exec (.remove q) s = .next (s.complete c stBadCommand []) := by
  show execRemove q s = _
  rw [execRemove, State.withCmd_inProgress h]
  simp only [hw, Option.isSome_none, Bool.false_eq_true, if_false, if_neg hid, he]
  rfl

/-- The erase ends well, fails or is cut short. -/
theorem remove_ends {e : NvEntry} (he : s.nv.entry (c.arg 20 4) = some e) :
    let gone := s.nv.remove (c.arg 20 4)
    Finishes (.remove q) s { s with nv := gone, imgStat := accepted.stat, draws := s.draws + 2 } c stSuccess [] ∨
    (Runs (.remove q) s fun t => (t.nv = s.nv ∨ t.nv = gone) ∧ Recorded t eNv clsCommand none ∧ HostOnly s t) ∨
    (Runs (.remove q) s fun t => (t.nv = s.nv ∨ t.nv = gone) ∧ t = { s with nv := t.nv, draws := t.draws }) := by
  have hx := exec_remove h hw hid he
  obtain ⟨hrest, hnv⟩ := s.erased_spec (c.arg 20 4)
  cases hend : s.drawEnd.2 with
  | done =>
    rw [State.erased_of_done hend, hend] at hx
    exact .inl hx
  | fails =>
    rw [hend] at hx
    refine .inr (.inl ((runs_nvError (by rw [hrest]) hx).mono fun t ⟨hkept, hrec, hhost⟩ => ⟨?_, hrec, hhost⟩))
    rwa [hkept]
  | cut =>
    rw [hend] at hx
    exact .inr (.inr ⟨_, hx, hnv, hrest⟩)

end

/-! ### UNLOAD (R276, R285) -/

section
variable {s : State} {q : Nat} {c : Cmd} (h : InProgress s q 0x05 c) (hw : s.imgWait = none)
include h hw

theorem exec_unload : exec (.unload q) s =
    if (if c.arg 10 1 = 1 then funcIds else maskFuncs (c.arg 8 2)).any fun n => (s.func n).state != .off then
      .next (s.complete c stState [])
    else if c.arg 10 1 = 1 then .next ({ s.endComp.leaveHerd with imgStat := accepted.stat }.complete c stSuccess [])
    else .next ({ s with
      images := s.images.filter fun e => !(maskFuncs (c.arg 8 2)).contains e.1, imgStat := accepted.stat }.complete c
        stSuccess []) := by
  show execUnload q s = _
  rw [execUnload, State.withCmd_inProgress h]
  simp only [hw, Option.isSome_none, Bool.false_eq_true, if_false, beq_iff_eq, State.finish]

end

theorem not_any_of_off {s : State} {fs : List Nat} (h : ∀ n ∈ fs, (s.func n).state = .off) :
    ¬(fs.any fun n => (s.func n).state != .off) = true := by
  simpa using h

/-- Settles O40: each command is read off its meaning; how an erase ends is the value drawn. -/
theorem storeRemoveUnload : Obligations.StoreRemoveUnload := by
  intro s q c hw
  refine ⟨fun d b v k how h hid hsrc hfw hset hsigned hwrite hnext => ?store, fun h hid => ?remove, fun h => ?unload⟩
  case store =>
    have hx := exec_store h hw hid hsrc hfw hset hsigned hwrite hnext
    obtain ⟨n, hv⟩ := Nv.writeEntry_written hwrite
    refine ⟨?_, fun hhow => by rw [hv, Nv.written_entries _ _ _ hhow], ?_, ?_⟩
    · rintro rfl
      exact hx
    · rintro rfl
      exact runs_nvError (u := { s with nv := v }) rfl hx
    · rintro rfl
      exact ⟨_, hx, rfl⟩
  case remove =>
    refine ⟨fun hsome => ?_, exec_remove_absent h hw hid⟩
    obtain ⟨e, he⟩ := Option.isSome_iff_exists.mp hsome
    exact remove_ends h hw hid he
  case unload =>
    have hx := exec_unload h hw
    intro fs
    refine ⟨fun hwhole hoff => ?_, fun hwhole hoff => ?_, fun n hn hon hnamed => ?_⟩
    · rwa [if_neg hwhole, if_neg hwhole, if_neg (not_any_of_off hoff)] at hx
    · have hall := not_any_of_off (fs := funcIds) fun n hn => hoff n (List.mem_range.mp hn)
      rwa [if_pos hwhole, if_pos hwhole, if_neg hall] at hx
    · have hmem : n ∈ if c.arg 10 1 = 1 then funcIds else fs := by
        split
        next => exact List.mem_range.mpr hn
        next hwhole => exact hnamed.resolve_left hwhole
      rwa [if_pos (List.any_eq_true.mpr ⟨n, hmem, by simpa using hon⟩)] at hx

end Sys2Proof.Machine
end

section
/-! SUPPORT. What a fold leaves that changes one unit of the module after another. -/
namespace Sys2Proof.Machine

/-- What every step of a fold keeps, the fold keeps. -/
theorem foldl_keeps {α β γ : Type} (g : α → γ) {f : α → β → α} (h : ∀ a b, g (f a b) = g a) (l : List β) :
    ∀ a, g (l.foldl f a) = g a := by
  induction l with
  | nil => exact fun _ => rfl
  | cons b l ih => exact fun a => (ih _).trans (h a b)

section
variable {γ : Type} {g : State → Nat → γ} {f : State → Nat → State} (hother : ∀ s k j, j ≠ k → g (f s k) j = g s j)
include hother

/-- A fold that changes one unit at a time leaves the units that are not in its list. -/
theorem foldl_unit_other {j : Nat} {ks : List Nat} (hj : j ∉ ks) : ∀ s, g (ks.foldl f s) j = g s j := by
  induction ks with
  | nil => exact fun _ => rfl
  | cons k ks ih =>
    intro s
    rw [List.foldl_cons, ih (List.not_mem_of_not_mem_cons hj), hother s k j (List.ne_of_not_mem_cons hj)]

/-- A unit that stands once in the list has seen one change of its own. -/
theorem foldl_unit {R : Nat → γ → γ → Prop} (hself : ∀ s k, R k (g s k) (g (f s k) k)) {k : Nat} {ks : List Nat} (hk : k ∈ ks)
    (hnodup : ks.Nodup) : ∀ s, R k (g s k) (g (ks.foldl f s) k) := by
  induction ks with
  | nil => cases hk
  | cons k₀ ks ih =>
    intro s
    obtain ⟨hout, hrest⟩ := List.nodup_cons.mp hnodup
    rw [List.foldl_cons]
    by_cases h : k = k₀
    · subst h
      rw [foldl_unit_other hother hout]
      exact hself s k
    · have hR := ih (List.mem_of_ne_of_mem h hk) hrest (f s k₀)
      rwa [hother s k₀ k h] at hR

end

end Sys2Proof.Machine
end

section
/-! Firmware's start (R285 to R287, R346, R376, R410, R414 to R419). -/
namespace Sys2Proof.Machine

/-! ### What the sequence leaves of the state it started from -/

/-- Nothing has changed of the boot block, memory, the code fitted, the identity's state and the firmware's SVN. -/
structure SequenceKept (s t : State) : Prop where
  boot : t.boot = s.boot
  mem : t.mem = s.mem
  asm : t.asm = s.asm
  idfail : t.sec.idfail = s.sec.idfail
  fwSvn : t.sec.fwSvn = s.sec.fwSvn

theorem SequenceKept.trans {s t u : State} (h : SequenceKept s t) (k : SequenceKept t u) : SequenceKept s u where
  boot := k.boot.trans h.boot
  mem := k.mem.trans h.mem
  asm := k.asm.trans h.asm
  idfail := k.idfail.trans h.idfail
  fwSvn := k.fwSvn.trans h.fwSvn

theorem SequenceKept.foldl {β : Type} {f : State → β → State} (h : ∀ s b, SequenceKept s (f s b)) (l : List β) (s : State) :
    SequenceKept s (l.foldl f s) where
  boot := foldl_keeps State.boot (fun s b => (h s b).boot) l s
  mem := foldl_keeps State.mem (fun s b => (h s b).mem) l s
  asm := foldl_keeps State.asm (fun s b => (h s b).asm) l s
  idfail := foldl_keeps (fun s => s.sec.idfail) (fun s b => (h s b).idfail) l s
  fwSvn := foldl_keeps (fun s => s.sec.fwSvn) (fun s b => (h s b).fwSvn) l s

/-! ### The settings that firmware applies (R286, R287) -/

theorem State.reportSettings_kept (s : State) : SequenceKept s s.reportSettings := by
  have hreports := SequenceKept.foldl (f := fun (s : State) k => s.nvError k (slotOffset k))
    (fun _ _ => ⟨rfl, rfl, rfl, rfl, rfl⟩) s.badSettings { s with nv := { s.nv with rejected := s.badSettings } }
  exact ⟨hreports.boot, hreports.mem, hreports.asm, hreports.idfail, hreports.fwSvn⟩

theorem State.settle_kept (s : State) (rs : List SetRec) : SequenceKept s (s.settle rs) := ⟨rfl, rfl, rfl, rfl, rfl⟩

theorem State.applySettings_kept (s : State) : SequenceKept s s.applySettings := by
  have hfactory := s.reportSettings_kept.trans (State.settle_kept _ (setRecs Config.factorySettings))
  unfold State.applySettings
  dsimp only
  split
  · exact hfactory
  next k c _ => exact hfactory.trans ((State.settle_kept _ (setRecs c)).trans ⟨rfl, rfl, rfl, rfl, rfl⟩)

/-! ### Supplies come on (R376, R410) -/

/-- Every core supply is at its floor. -/
def State.coresOn (s : State) : State :=
  s.dieIds.foldl (fun (s : State) d => s.setDiePower d { s.diePower d with vset := s.floor d }) s

/-- Every die-to-die link is free to train. -/
def State.d2dTraining (s : State) : State :=
  ((List.range 8).filter s.linkFitted).foldl (fun (s : State) l => s.setLink l { s.link l with state := .training }) s

/-- A hub die's Larwa link is free to train, and its chiplet site known. -/
def State.hubOn (s : State) (h : Nat) : State :=
  let chip := if h = 0 then s.asm.chiplet0 else s.asm.chiplet1
  let s := s.setLwl h { s.lwl h with state := .training }
  s.setHub h { s.hub h with chip := if chip then .down else .absent }

def State.hubsOn (s : State) : State := (List.range s.code.hubs).foldl State.hubOn s

/-- Every port that is enabled is free to train. -/
def State.portsTraining (s : State) : State :=
  ((List.range 32).filter fun p => s.isPort p && (s.port p).enable).foldl (fun (s : State) p =>
    s.setPort p { s.port p with state := .training }) s

theorem State.suppliesOn_eq (s : State) : s.suppliesOn =
    { s with boot := { s.boot with stage := .firmware, pgood := true } }.coresOn.d2dTraining.hubsOn.portsTraining := rfl

theorem State.coresOn_kept (s : State) : SequenceKept s s.coresOn := .foldl (by intros; exact ⟨rfl, rfl, rfl, rfl, rfl⟩) _ _
theorem State.d2dTraining_kept (s : State) : SequenceKept s s.d2dTraining := .foldl (by intros; exact ⟨rfl, rfl, rfl, rfl, rfl⟩) _ _
theorem State.hubsOn_kept (s : State) : SequenceKept s s.hubsOn := .foldl (by intros; exact ⟨rfl, rfl, rfl, rfl, rfl⟩) _ _
theorem State.portsTraining_kept (s : State) : SequenceKept s s.portsTraining := .foldl (by intros; exact ⟨rfl, rfl, rfl, rfl, rfl⟩) _ _

theorem State.suppliesOn_kept (s : State) :
    SequenceKept { s with boot := { s.boot with stage := .firmware, pgood := true } } s.suppliesOn :=
  ((State.coresOn_kept _).trans (State.d2dTraining_kept _)).trans ((State.hubsOn_kept _).trans (State.portsTraining_kept _))

theorem State.d2dTraining_link {s : State} {l : Nat} (hl : l < 8) (hfit : s.linkFitted l = true) :
    (s.d2dTraining.link l).state = .training :=
  foldl_unit (g := State.link) (R := fun _ _ y => y.state = .training) (fun s k _ hj => s.setLink_link_ne k _ _ hj)
    (fun s k => by rw [State.setLink_link_self]) (List.mem_filter.mpr ⟨List.mem_range.mpr hl, hfit⟩)
    (List.nodup_range.filter _) s

theorem State.hubOn_lwl_self (s : State) (h : Nat) : ((s.hubOn h).lwl h).state = .training := by
  simp only [State.hubOn, State.lwl, State.setLwl, State.setHub_hub_self]

theorem State.hubOn_lwl_ne (s : State) (h : Nat) {j : Nat} (hj : j ≠ h) : (s.hubOn h).lwl j = s.lwl j := by
  simp only [State.hubOn, State.lwl, State.setLwl, State.setHub_hub_ne _ _ _ _ hj]

theorem State.hubsOn_lwl {s : State} {h : Nat} (hh : h < s.code.hubs) : (s.hubsOn.lwl h).state = .training :=
  foldl_unit (g := State.lwl) (R := fun _ _ y => y.state = .training) (fun s k _ hj => s.hubOn_lwl_ne k hj)
    State.hubOn_lwl_self (List.mem_range.mpr hh) List.nodup_range s

theorem State.hubsOn_links (s : State) : s.hubsOn.links = s.links := foldl_keeps State.links (by intros; rfl) _ s
theorem State.portsTraining_links (s : State) : s.portsTraining.links = s.links := foldl_keeps State.links (by intros; rfl) _ s
theorem State.portsTraining_hubs (s : State) : s.portsTraining.hubs = s.hubs := foldl_keeps State.hubs (by intros; rfl) _ s

theorem State.link_of_links {s t : State} (h : t.links = s.links) (l : Nat) : t.link l = s.link l := by
  rw [State.link, h, State.link]

theorem State.linkFitted_of_asm {s t : State} (h : t.asm = s.asm) (l : Nat) : t.linkFitted l = s.linkFitted l := by
  simp only [State.linkFitted, State.code, h]

theorem State.suppliesOn_link {s : State} {l : Nat} (hl : l < 8) (hfit : s.linkFitted l = true) :
    (s.suppliesOn.link l).state = .training := by
  rw [State.suppliesOn_eq, State.link_of_links ((State.portsTraining_links _).trans (State.hubsOn_links _))]
  exact State.d2dTraining_link hl ((State.linkFitted_of_asm (State.coresOn_kept _).asm l).trans hfit)

theorem State.suppliesOn_lwl {s : State} {h : Nat} (hh : h < s.code.hubs) : (s.suppliesOn.lwl h).state = .training := by
  have hasm := ((State.coresOn_kept { s with boot := { s.boot with stage := .firmware, pgood := true } }).trans
    (State.d2dTraining_kept _)).asm
  rw [State.suppliesOn_eq, State.lwl, State.hub, State.portsTraining_hubs]
  exact State.hubsOn_lwl (by rwa [State.code, hasm])

/-! ### FIRMWARE_START (R410, R414 to R417, R419) -/

section
variable {s : State} (hrom : s.boot.stage = .bootrom)
include hrom

theorem exec_firmwareStart_none (h : s.pickFirmware = none) :
    exec .firmwareStart s = .next (s.endSequence .recovery 1) := by
  show execFirmwareStart s = _
  simp only [execFirmwareStart, hrom, h, ne_eq, not_true_eq_false, if_false]

theorem exec_firmwareStart_some {f : Nat × List Byte} (h : s.pickFirmware = some f) :
    exec .firmwareStart s = .next (if s.sec.idfail = true then (s.runFirmware f).applySettings.endSequence .failed 2
      else (s.runFirmware f).applySettings.suppliesOn) := by
  show execFirmwareStart s = _
  simp only [execFirmwareStart, hrom, h, ne_eq, not_true_eq_false, if_false, (State.applySettings_kept _).idfail]
  rfl

theorem runs_firmwareStart {f : Nat × List Byte} (h : s.pickFirmware = some f) (hid : s.sec.idfail = false) :
    Runs .firmwareStart s fun t =>
      t.boot.stage = .firmware ∧ t.boot.pgood = true ∧ t.sec.fwSvn = fwSvnOf f.2 ∧ t.boot.fwCopyB = (f.1 == 2) ∧ t.mem = s.mem ∧
      (∀ l, l < 8 → s.linkFitted l = true → (t.link l).state = .training) ∧
      ∀ h, h < s.code.hubs → (t.lwl h).state = .training := by
  have hx := exec_firmwareStart_some hrom h
  rw [hid, if_neg Bool.false_ne_true] at hx
  have hset := (s.runFirmware f).applySettings_kept
  have hon := (s.runFirmware f).applySettings.suppliesOn_kept
  refine ⟨_, hx, by rw [hon.boot], by rw [hon.boot], ?_, ?_, ?_, fun l hl hfit => ?_, fun h hh => ?_⟩
  · exact hon.fwSvn.trans hset.fwSvn
  · rw [hon.boot]
    exact congrArg Boot.fwCopyB hset.boot
  · exact hon.mem.trans hset.mem
  · exact State.suppliesOn_link hl ((State.linkFitted_of_asm hset.asm l).trans hfit)
  · exact State.suppliesOn_lwl (by rwa [State.code, hset.asm])

theorem runs_firmwareStart_failed {f : Nat × List Byte} (h : s.pickFirmware = some f) (hid : s.sec.idfail = true) :
    Runs .firmwareStart s fun t =>
      t.boot.stage = .failed ∧ t.boot.err = 2 ∧ t.boot.pgood = false ∧ t.mem = s.mem := by
  have hx := exec_firmwareStart_some hrom h
  rw [hid, if_pos rfl] at hx
  exact ⟨_, hx, rfl, rfl, rfl, (s.runFirmware f).applySettings_kept.mem⟩

end

end Sys2Proof.Machine
end

section
/-! The self-test and the first training of the die-to-die links (R306 to R309, R376, R379, R391, R410). -/
namespace Sys2Proof.Machine

/-! ### Training the die-to-die links (R376, R379) -/

/-- The modules that the self-test found on a link. -/
def modsFound (found : SelfTest) (l : Nat) : Option Nat := (found.links.find? fun x => x.1 == l).map fun x => x.2.1

/-- Training a link changes that link, and may report. -/
theorem State.trainLink_rest (s : State) (found : SelfTest) (l : Nat) :
    s.trainLink found l = { s with links := (s.trainLink found l).links, errs := (s.trainLink found l).errs } := by
  unfold State.trainLink
  dsimp only
  split
  · split <;> rfl
  · rfl

theorem State.trainLink_link_ne (s : State) (found : SelfTest) (l : Nat) {j : Nat} (hj : j ≠ l) :
    (s.trainLink found l).link j = s.link j := by
  unfold State.trainLink
  dsimp only
  split
  · split
    · rw [State.report_link_eq, State.setLink_link_ne _ _ _ _ hj]
    · rw [State.setLink_link_ne _ _ _ _ hj]
  · rw [State.report_link_eq, State.setLink_link_ne _ _ _ _ hj]

/-- How a link stands once it has trained on the modules found. -/
def LinkTrained (found : SelfTest) (l : Nat) (y : D2d) : Prop :=
  (∀ n, modsFound found l = some (n + 1) → y.state = .up ∧ y.mods = n + 1) ∧
  (modsFound found l = none ∨ modsFound found l = some 0 → y.state = .failed)

theorem State.trainLink_trained (s : State) (found : SelfTest) (l : Nat) : LinkTrained found l ((s.trainLink found l).link l) := by
  unfold State.trainLink
  dsimp only
  split
  case h_1 n hn =>
    have hmods : modsFound found l = some (n + 1) := hn
    refine ⟨fun m hm => ?_, fun hm => ?_⟩
    · obtain rfl : n = m := by simpa [hmods] using hm
      split
      · rw [State.report_link_eq, State.setLink_link_self]
        exact ⟨rfl, rfl⟩
      · rw [State.setLink_link_self]
        exact ⟨rfl, rfl⟩
    · simp [hmods] at hm
  case h_2 hnone =>
    refine ⟨fun m hm => absurd hm (hnone m), fun _ => ?_⟩
    rw [State.report_link_eq, State.setLink_link_self]

/-- Every link fitted has trained. -/
def State.trainLinks (s : State) (found : SelfTest) : State :=
  ((List.range 8).filter s.linkFitted).foldl (fun (s : State) l => s.trainLink found l) s

theorem State.trainLinks_kept (s : State) (found : SelfTest) : SequenceKept s (s.trainLinks found) := by
  refine .foldl (fun s l => ?_) _ s
  rw [s.trainLink_rest found l]
  exact ⟨rfl, rfl, rfl, rfl, rfl⟩

theorem State.trainLinks_trained {s : State} (found : SelfTest) {l : Nat} (hl : l < 8) (hfit : s.linkFitted l = true) :
    LinkTrained found l ((s.trainLinks found).link l) :=
  foldl_unit (g := State.link) (R := fun k _ y => LinkTrained found k y) (fun s k _ hj => s.trainLink_link_ne found k hj)
    (fun s k => s.trainLink_trained found k) (List.mem_filter.mpr ⟨List.mem_range.mpr hl, hfit⟩) (List.nodup_range.filter _) s

theorem State.trainLinks_unfitted {s : State} (found : SelfTest) {l : Nat} (hfit : s.linkFitted l = false) :
    (s.trainLinks found).link l = s.link l :=
  foldl_unit_other (g := State.link) (fun s k _ hj => s.trainLink_link_ne found k hj) (by simp [hfit]) s

/-! ### The rest of the self-test touches no link (R306 to R309, R391, R297) -/

theorem JobOnly.links {s t : State} {fn : Nat} (h : JobOnly s t fn) : t.links = s.links := by rw [h.1]

theorem State.drainEach_links (s : State) (fs : List Nat) : (fs.foldl (fun (s : State) n => s.drain n) s).links = s.links :=
  foldl_keeps State.links (fun s n => (s.drain_job n).links) fs s

theorem State.readRetList_links (s : State) : s.readRetList.links = s.links := by
  unfold State.readRetList
  split
  · rfl
  · exact foldl_keeps State.links (by intros; rfl) _ s

theorem State.failStack_links (s : State) (k : Nat) : (s.failStack k).links = s.links := State.drainEach_links _ _

theorem State.retireTile_links (s : State) (n : Nat) : (s.retireTile n).links = s.links := State.drainEach_links _ _

theorem State.logMismatch_links (s : State) (p : Nat) : (s.logMismatch p).links = s.links := by
  unfold State.logMismatch State.countUE
  dsimp only
  split <;> rfl

theorem State.withdrawSlot_links (s : State) (fn k : Nat) : (s.withdrawSlot fn k).links = s.links := by
  have hcopies := foldl_keeps State.links
    (f := fun (s : State) e => if e.2.copy ≠ 0 ∧ e.2.slot = k then s.setErt e.1 { e.2 with copy := 0 } else s)
    (fun s e => by split <;> rfl) (s.entriesOf fn) s
  unfold State.withdrawSlot
  dsimp only
  split
  · exact (State.drain_job _ fn).links.trans hcopies
  · exact hcopies

theorem State.retirePage_links (s : State) (p : Nat) : (s.retirePage p).links = s.links := by
  unfold State.retirePage
  dsimp only
  split
  case h_4 =>
    split
    · split
      · exact State.withdrawSlot_links _ _ _
      · rfl
    · rfl
  all_goals rfl

theorem State.listWritten_links (s : State) (failed : Bool) (wrote : Option (Nv × Nat)) :
    (s.listWritten failed wrote).links = s.links := by
  unfold State.listWritten
  split
  · split <;> rfl
  · rfl

theorem State.writeRetList_links (s : State) : s.writeRetList.links = s.links := State.listWritten_links _ _ _

theorem State.failPage_links (s : State) (p : Nat) : (s.failPage p).links = s.links := by
  unfold State.failPage
  split
  · rfl
  · rw [State.writeRetList_links, State.retirePage_links, State.logMismatch_links]

theorem State.setAlive_links (s : State) (d c : Nat) (v : Bool) : (s.setAlive d c v).links = s.links := by
  unfold State.setAlive
  dsimp only
  split <;> rfl

theorem State.wakeCrossings_links (s : State) : s.wakeCrossings.links = s.links := by
  refine foldl_keeps State.links (fun s x => ?_) _ s
  split
  · exact s.setAlive_links _ _ _
  · rfl

/-- Nothing but the page table has changed. -/
def PagesOnly (s t : State) : Prop := t = { s with pages := t.pages }

theorem PagesOnly.trans {s t u : State} (h : PagesOnly s t) (k : PagesOnly t u) : PagesOnly s u := by
  unfold PagesOnly at *
  rw [k, h]

theorem PagesOnly.foldl {β : Type} {f : State → β → State} (h : ∀ s b, PagesOnly s (f s b)) (l : List β) :
    ∀ s, PagesOnly s (l.foldl f s) := by
  induction l with
  | nil => exact fun _ => rfl
  | cons b l ih => exact fun s => (h s b).trans (ih _)

theorem State.takeFirmwarePages_pagesOnly (s : State) : PagesOnly s s.takeFirmwarePages := .foldl (by intros; rfl) _ s

theorem State.takeFirmwarePages_links (s : State) : s.takeFirmwarePages.links = s.links := by
  rw [s.takeFirmwarePages_pagesOnly]

/-! ### The autoload (R287) -/

/-- An autoload changes the image status and what waits, and nothing else. -/
theorem State.autoload_rest (ids : List Nat) : ∀ s : State, State.autoload ids s =
    { s with imgStat := (State.autoload ids s).imgStat, imgWait := (State.autoload ids s).imgWait } := by
  induction ids with
  | nil => exact fun _ => rfl
  | cons id ids ih =>
    intro s
    unfold State.autoload
    split
    · exact ih s
    next e _ =>
      by_cases hv : (s.checkImage e.content).stage = 0
      · rw [State.startLoad_waits hv]
        rfl
      · rw [State.startLoad_refused hv]
        exact ih _

/-! ### SELFTEST_COMPLETE (R379, R410) -/

/-- What follows the training of the links: memory, tiles, crossings and firmware's pages. -/
def State.testUnits (s : State) (found : SelfTest) : State :=
  (found.badTiles.foldl State.retireTile ((found.badPages.map fun p => p.1 * 32768 + p.2).foldl State.failPage
    (found.badStacks.foldl State.failStack s.zeroStacks.readRetList))).wakeCrossings.takeFirmwarePages

theorem State.testUnits_links (s : State) (found : SelfTest) : (s.testUnits found).links = s.links := by
  rw [State.testUnits, State.takeFirmwarePages_links, State.wakeCrossings_links,
    foldl_keeps State.links State.retireTile_links, foldl_keeps State.links State.failPage_links,
    foldl_keeps State.links State.failStack_links, State.readRetList_links, State.zeroStacks, State.zero_links]

/-- The module is READY, and its autoload begins. -/
def State.becomeReady (s : State) : State :=
  let s := { s with boot := { s.boot with stage := .ready } }.emit .smbAlert
  State.autoload ((s.pickSettings.map fun c => setAuto c.2).getD []) s

theorem State.becomeReady_spec (s : State) : s.becomeReady.boot.stage = .ready ∧ s.becomeReady.links = s.links := by
  unfold State.becomeReady
  dsimp only
  rw [State.autoload_rest]
  exact ⟨rfl, rfl⟩

section
variable {s : State} {found : SelfTest} (hstage : s.boot.stage = .firmware ∨ s.boot.stage = .selftest)
  (hfound : s.foundOk found = true)
include hstage hfound

theorem exec_selftestComplete : exec (.selftestComplete found) s = .next (
    if (List.range 8).any fun l => ((s.trainLinks found).link l).state == .failed then
      { (s.trainLinks found).endSequence .failed 3 with
        boot := { ((s.trainLinks found).endSequence .failed 3).boot with dead := true } }
    else ((s.trainLinks found).testUnits found).becomeReady) := by
  have hruns : ¬(s.boot.stage ≠ .firmware ∧ s.boot.stage ≠ .selftest) := fun hno => hstage.elim hno.1 hno.2
  show execSelftestComplete found s = _
  rw [execSelftestComplete, if_neg hruns, hfound, Bool.not_true, if_neg Bool.false_ne_true, State.trainLinks]
  simp only [State.becomeReady, State.testUnits]
  split <;> rfl

theorem runs_selftestComplete (hlinks : ∀ l, l < 8 → s.linkFitted l = false → (s.link l).state ≠ .failed)
    (hmods : ∀ l, l < 8 → s.linkFitted l = true → ∃ n, modsFound found l = some (n + 1)) :
    Runs (.selftestComplete found) s fun t => t.boot.stage = .ready ∧
      ∀ l, l < 8 → s.linkFitted l = true → (t.link l).state = .up ∧ modsFound found l = some (t.link l).mods := by
  have hup (l : Nat) (hl : l < 8) (hfit : s.linkFitted l = true) :
      ((s.trainLinks found).link l).state = .up ∧ modsFound found l = some ((s.trainLinks found).link l).mods := by
    obtain ⟨n, hn⟩ := hmods l hl hfit
    obtain ⟨hstate, hcount⟩ := (State.trainLinks_trained found hl hfit).1 n hn
    exact ⟨hstate, by rw [hcount, hn]⟩
  have hnone : ¬((List.range 8).any fun l => ((s.trainLinks found).link l).state == .failed) = true := by
    rw [List.any_eq_true]
    rintro ⟨l, hl, hfailed⟩
    rw [List.mem_range] at hl
    cases hfit : s.linkFitted l with
    | true => simp [(hup l hl hfit).1] at hfailed
    | false =>
      rw [State.trainLinks_unfitted found hfit] at hfailed
      exact hlinks l hl hfit (by simpa using hfailed)
  have hx := exec_selftestComplete hstage hfound
  rw [if_neg hnone] at hx
  obtain ⟨hready, hkept⟩ := ((s.trainLinks found).testUnits found).becomeReady_spec
  refine ⟨_, hx, hready, fun l hl hfit => ?_⟩
  rw [State.link_of_links (hkept.trans (State.testUnits_links _ found))]
  exact hup l hl hfit

theorem runs_selftestComplete_failed
    (hmods : ∃ l, l < 8 ∧ s.linkFitted l = true ∧ (modsFound found l = none ∨ modsFound found l = some 0)) :
    Runs (.selftestComplete found) s fun t =>
      t.boot.stage = .failed ∧ t.boot.err = 3 ∧ t.boot.dead = true ∧ SameMemory s t := by
  obtain ⟨l, hl, hfit, hnone⟩ := hmods
  have hfailed : ((List.range 8).any fun l => ((s.trainLinks found).link l).state == .failed) = true :=
    List.any_eq_true.mpr ⟨l, List.mem_range.mpr hl, by rw [(State.trainLinks_trained found hl hfit).2 hnone]; rfl⟩
  have hx := exec_selftestComplete hstage hfound
  rw [if_pos hfailed] at hx
  exact ⟨_, hx, rfl, rfl, rfl, sameMemory_of_mem (s.trainLinks_kept found).mem⟩

end

end Sys2Proof.Machine
end

section
/-! Control-core restarts, recovery by PLDM, and the power-up sequence as a whole (R203, R290 to R292, R409, R412, R417). -/
namespace Sys2Proof.Machine

/-! ### Watchdog and control-core restarts (R409, R412) -/

theorem exec_watchdogExpiry {s : State} (h : s.firmwareRuns = true) : exec .watchdogExpiry s = .next (s.askRestart 7) := by
  show execWatchdogExpiry s = _
  rw [execWatchdogExpiry, h, Bool.not_true, if_neg Bool.false_ne_true]

/-- A job that ran when the control cores restarted is interrupted and waits, halted, for its recovery; its place in training
and its journal slots stand as they stood (R203, R412). -/
structure Interrupted (f g : Func) : Prop where
  run : g.run = false
  interrupted : g.interrupted = true
  halted : g.halted = true
  step : g.step = f.step
  jslots : g.jslots = f.jslots

theorem State.interruptFunc_job (s : State) (fn : Nat) : JobOnly s (s.interruptFunc fn) fn := by
  unfold State.interruptFunc
  dsimp only
  refine .trans (.trans (.trans (.trans (t := if (s.func fn).run then _ else s) ?_ (State.setFunc_job _ fn _))
    ((State.completeAll_cpl _ _ _ _).job fn)) ((State.completeAll_cpl _ _ _ _).job fn))
    ((State.completeAll_cpl _ _ _ _).job fn)
  split
  · exact (s.endJob_job fn _).trans (State.setFunc_job _ fn _)
  · exact .refl s fn

theorem State.interruptFunc_interrupted {s : State} {fn : Nat} (h : (s.func fn).run = true) :
    Interrupted (s.func fn) ((s.interruptFunc fn).func fn) := by
  unfold State.interruptFunc
  dsimp only
  rw [(State.completeAll_cpl _ _ _ _).func, (State.completeAll_cpl _ _ _ _).func, (State.completeAll_cpl _ _ _ _).func,
    State.setFunc_func_self, if_pos h, State.onFunc, State.setFunc_func_self, State.endJob_func]
  exact ⟨rfl, rfl, rfl, rfl, rfl⟩

/-- What stopping the control cores leaves: the boot block and the module's memory. -/
structure CoresKept (s t : State) : Prop where
  boot : t.boot = s.boot
  host : HostOnly s t

theorem CoresKept.trans {s t u : State} (h : CoresKept s t) (k : CoresKept t u) : CoresKept s u :=
  ⟨k.boot.trans h.boot, fun z hz => (k.host z hz).trans (h.host z hz)⟩

theorem JobOnly.coresKept {s t : State} {fn : Nat} (h : JobOnly s t fn) : CoresKept s t := ⟨by rw [h.1], h.2.1⟩

/-- Every function is interrupted. -/
def State.interruptAll (s : State) : State := funcIds.foldl State.interruptFunc s

theorem State.interruptAll_kept (s : State) : CoresKept s s.interruptAll where
  boot := foldl_keeps State.boot (fun s fn => (s.interruptFunc_job fn).coresKept.boot) funcIds s
  host z hz := foldl_keeps (fun s => s.byte z) (fun s fn => (s.interruptFunc_job fn).coresKept.host z hz) funcIds s

theorem State.interruptAll_interrupted {s : State} {fn : Nat} (hfn : fn < 16) (h : (s.func fn).run = true) :
    Interrupted (s.func fn) (s.interruptAll.func fn) :=
  foldl_unit (g := State.func) (R := fun _ f g => f.run = true → Interrupted f g)
    (fun s k j hj => (s.interruptFunc_job k).2.2 j hj) (fun _ _ => State.interruptFunc_interrupted)
    (List.mem_range.mpr hfn) List.nodup_range s h

/-- As `CoresKept`, with every function as it stood. -/
structure FuncsKept (s t : State) : Prop extends CoresKept s t where
  funcs : ∀ n, t.func n = s.func n

theorem FuncsKept.trans {s t u : State} (h : FuncsKept s t) (k : FuncsKept t u) : FuncsKept s u :=
  ⟨h.toCoresKept.trans k.toCoresKept, fun n => (k.funcs n).trans (h.funcs n)⟩

theorem CplOnly.funcsKept {s t : State} (h : CplOnly s t) : FuncsKept s t := ⟨⟨by rw [h.1], h.2⟩, h.func⟩

theorem State.noImageWait_kept (s : State) : FuncsKept s { s with imgWait := none, imgStat := {} } :=
  ⟨⟨rfl, fun _ _ => rfl⟩, fun _ => rfl⟩

theorem State.cancelQueues_kept (s : State) : FuncsKept s s.cancelQueues := by
  have hqueues := CplOnly.fold (fun (s : State) q =>
      (s.setQueue q { s.queue q with destroying := none, disarming := false }).completeAll
        ((s.queue q).running.toList ++ (s.queue q).destroying.toList) stCancelled [])
    (fun s q => (s.setQueue_cpl q _).trans (State.completeAll_cpl _ _ _ _)) (tkeys s.queues) s
  unfold State.cancelQueues
  dsimp only
  split
  · exact hqueues.funcsKept
  · exact (hqueues.funcsKept.trans (State.noImageWait_kept _)).trans (State.answer_cpl _ _ _ _).funcsKept

theorem State.dropDebug_kept (s : State) : FuncsKept s s.dropDebug := by
  unfold State.dropDebug State.releaseHalts
  dsimp only
  rw [State.onTiles_only]
  exact ⟨⟨rfl, fun _ _ => rfl⟩, fun _ => rfl⟩

theorem State.renewFirmwarePages_pagesOnly (s : State) : PagesOnly s s.renewFirmwarePages := by
  refine .trans (.foldl (fun s p => ?_) _ s) (State.takeFirmwarePages_pagesOnly _)
  split <;> rfl

/-- The boot block once a restart that was due has taken place. -/
def Boot.restarted (b : Boot) (cause : Nat) : Boot :=
  { b with restart := none, cause := cause, ccRestarts := satAdd 16 b.ccRestarts 1 }

/-- The state in which the reloaded firmware starts: the restart is counted, jobs are interrupted, queue commands cancelled and
the debug level dropped. -/
def State.restarted (s : State) (cause : Nat) : State :=
  { s with boot := s.boot.restarted cause }.interruptAll.cancelQueues.dropDebug

theorem State.restarted_kept (s : State) (cause : Nat) :
    CoresKept { s with boot := s.boot.restarted cause } (s.restarted cause) :=
  (State.interruptAll_kept _).trans ((State.cancelQueues_kept _).trans (State.dropDebug_kept _)).toCoresKept

theorem State.restarted_ownerLevel (s : State) (cause : Nat) : (s.restarted cause).sec.ownerLevel = 0 := rfl

theorem State.restarted_interrupted {s : State} {fn : Nat} (hfn : fn < 16) (h : (s.func fn).run = true) (cause : Nat) :
    Interrupted (s.func fn) ((s.restarted cause).func fn) := by
  rw [State.restarted, ((State.cancelQueues_kept _).trans (State.dropDebug_kept _)).funcs]
  exact State.interruptAll_interrupted (s := { s with boot := s.boot.restarted cause }) hfn h

/-- The firmware copy reloaded comes into use, with pages that hold it. -/
def State.reloaded (s : State) (f : Nat × List Byte) : State := (s.runFirmware f).renewFirmwarePages

theorem State.reloaded_boot (s : State) (f : Nat × List Byte) :
    (s.reloaded f).boot = { s.boot with fwCopyB := f.1 == 2 } := by
  rw [State.reloaded, (s.runFirmware f).renewFirmwarePages_pagesOnly]
  rfl

theorem State.reloaded_sec (s : State) (f : Nat × List Byte) :
    (s.reloaded f).sec.ownerLevel = s.sec.ownerLevel ∧ (s.reloaded f).sec.fwSvn = fwSvnOf f.2 := by
  rw [State.reloaded, (s.runFirmware f).renewFirmwarePages_pagesOnly]
  exact ⟨rfl, rfl⟩

theorem State.reloaded_byte (s : State) (f : Nat × List Byte) (z : Nat) : (s.reloaded f).byte z = s.byte z := by
  rw [State.reloaded, (s.runFirmware f).renewFirmwarePages_pagesOnly]
  rfl

theorem State.reloaded_func (s : State) (f : Nat × List Byte) (n : Nat) : (s.reloaded f).func n = s.func n := by
  rw [State.reloaded, (s.runFirmware f).renewFirmwarePages_pagesOnly]
  rfl

theorem exec_controlRestart {s : State} {cause : Nat} {f : Nat × List Byte} (hdue : s.boot.restart = some cause)
    (hf : s.reloadFirmware = some f) : exec .controlRestart s =
      .next (((s.restarted cause).reloaded f).report { code := eControlRestart, cls := clsFirmware, a := cause }) := by
  show execControlRestart s = _
  simp only [execControlRestart, hdue, hf]
  rfl

theorem runs_controlRestart {s : State} {cause : Nat} {f : Nat × List Byte} (hdue : s.boot.restart = some cause)
    (hf : s.reloadFirmware = some f) : Runs .controlRestart s fun t =>
      t.boot.restart = none ∧ t.boot.cause = cause ∧ t.boot.ccRestarts = satAdd 16 s.boot.ccRestarts 1 ∧ t.sec.ownerLevel = 0 ∧
      t.sec.fwSvn = fwSvnOf f.2 ∧ Recorded t eControlRestart clsFirmware none ∧ HostOnly s t ∧
      ∀ fn, fn < 16 → (s.func fn).run = true → Interrupted (s.func fn) (t.func fn) := by
  obtain ⟨hboot, hhost⟩ := s.restarted_kept cause
  obtain ⟨hlevel, hsvn⟩ := (s.restarted cause).reloaded_sec f
  have hboot' : ((s.restarted cause).reloaded f).boot = { s.boot.restarted cause with fwCopyB := f.1 == 2 } := by
    rw [State.reloaded_boot, hboot]
  refine ⟨_, exec_controlRestart hdue hf, ?_, ?_, ?_, ?_, ?_, State.report_recorded _ _, fun z hz => ?_,
    fun fn hfn hrun => ?_⟩
  · rw [State.report_boot, hboot']
    rfl
  · rw [State.report_boot, hboot']
    rfl
  · rw [State.report_boot, hboot']
    rfl
  · rw [State.report_sec, hlevel, State.restarted_ownerLevel]
  · rw [State.report_sec, hsvn]
  · rw [State.report_byte_eq, State.reloaded_byte]
    exact hhost z hz
  · rw [State.report_func_eq, State.reloaded_func]
    exact State.restarted_interrupted hfn hrun cause

/-! ### Recovery by PLDM (R291, R292, R417) -/

/-- A copy without a commit record is no valid one. -/
theorem Nv.writeCopy_copy (v : Nv) (seq : Nat) (content : List Byte) {how : NvEnd} (h : how ≠ .done) :
    (v.writeCopy 1 seq content how).copy 1 = none := by
  simp [Nv.copy, Nv.slot, Nv.writeCopy, Nv.setSlot, h, nvValid_no_record]

section
variable {s : State} {image : List Byte} (hrec : s.boot.stage = .recovery)
include hrec

theorem exec_pldm_refused (h : ¬fwAcceptable (s.floorOf s.pickSettings) image = true ∨ 32764 * 1024 < image.length ∨
    s.nv.pairSeq 1 = 0xFFFFFFFF) (how : NvEnd) :
    exec (.pldmFirmwareUpdate image how) s = .next (s.emit (.pldm false)) := by
  show execPldmFirmwareUpdate image how s = _
  rw [execPldmFirmwareUpdate, if_neg fun hno => hno hrec]
  exact if_pos (by rwa [Bool.not_eq_true', ← Bool.not_eq_true])

theorem exec_pldm_written (h : ¬(¬fwAcceptable (s.floorOf s.pickSettings) image = true ∨ 32764 * 1024 < image.length ∨
    s.nv.pairSeq 1 = 0xFFFFFFFF)) (how : NvEnd) :
    let u := { s with nv := s.nv.writeCopy 1 (s.nv.pairSeq 1) image how }
    exec (.pldmFirmwareUpdate image how) s = .next (match how with
      | .done => (u.emit (.pldm true)).moduleReset 2
      | .fails => u.emit (.pldm false)
      | .cut => u) := by
  show execPldmFirmwareUpdate image how s = _
  rw [execPldmFirmwareUpdate, if_neg fun hno => hno hrec]
  refine (if_neg (by rwa [Bool.not_eq_true', ← Bool.not_eq_true])).trans ?_
  cases how <;> rfl

end

/-- A module reset takes no account of what was sent. -/
theorem State.emit_moduleReset (s : State) (o : Out) (cause : Nat) :
    Lost s ((s.emit o).moduleReset cause) cause ∧ HostKept s ((s.emit o).moduleReset cause) ∧
    StartsIf (CanStart s) ((s.emit o).moduleReset cause) :=
  ⟨(s.emit o).moduleReset_lost cause, (s.emit o).moduleReset_hostKept cause, (s.emit o).moduleReset_startsIf cause⟩

/-- Settles O52: firmware's start and the self-test train one unit after the other; a restart interrupts each function in turn;
PLDM writes the first slot of the firmware pair. -/
theorem powerUpSequence : Obligations.PowerUpSequence := by
  intro s b
  refine ⟨fun hrom => ⟨fun h => ⟨_, exec_firmwareStart_none hrom h, rfl⟩, fun f h hid => runs_firmwareStart hrom h hid,
    fun f h hid => runs_firmwareStart_failed hrom h hid⟩, fun found hstage hfound hlinks => ?selftest,
    fun h => ⟨_, exec_watchdogExpiry h, ?watchdog⟩, fun cause f hdue hf => ?restart, fun image hrec _ => ?pldm⟩
  case selftest =>
    exact ⟨runs_selftestComplete hstage hfound hlinks, runs_selftestComplete_failed hstage hfound⟩
  case watchdog =>
    rw [State.askRestart]
    cases s.boot.restart <;> rfl
  case restart =>
    refine (runs_controlRestart hdue hf).mono
      fun t ⟨hdone, hcause, hcount, hlevel, hsvn, hrecord, hhost, hjobs⟩ =>
        ⟨hdone, hcause, hcount, hlevel, hsvn, hrecord, hhost, fun fn hfn hrun => ?_⟩
    obtain ⟨run, interrupted, halted, step, jslots⟩ := hjobs fn hfn hrun
    exact ⟨run, interrupted, halted, step, jslots⟩
  case pldm =>
    intro n bad
    refine ⟨fun hbad how => ⟨_, exec_pldm_refused hrec hbad how, rfl⟩, fun hgood => ⟨?fails, ?cut, ?done⟩⟩
    case fails => exact ⟨_, exec_pldm_written hrec hgood .fails, rfl, s.nv.writeCopy_copy n image (by decide)⟩
    case cut => exact ⟨_, exec_pldm_written hrec hgood .cut, rfl, s.nv.writeCopy_copy n image (by decide)⟩
    case done => exact ⟨_, exec_pldm_written hrec hgood .done, State.emit_moduleReset _ _ 2⟩

end Sys2Proof.Machine
end

section
/-! SUPPORT. The poison of the module's memory outlasts whatever writes to companion memory alone (R302, R305, R334). -/
namespace Sys2Proof.Machine

/-- The poisoned units below companion memory. -/
def State.modulePoison (s : State) : List Nat := s.poison.filter fun a => decide (a < companionBase)

theorem State.mem_modulePoison {s : State} {a : Nat} : a ∈ s.modulePoison ↔ a ∈ s.poison ∧ a < companionBase := by
  simp [State.modulePoison]

/-- A write to companion memory clears no poison below it. -/
theorem State.write_modulePoison (s : State) {a : Nat} (bs : List Byte) (h : companionBase ≤ a) :
    (s.write a bs).modulePoison = s.modulePoison := by
  simp only [State.modulePoison, State.write, List.filter_filter]
  refine List.filter_congr fun p _ => ?_
  by_cases hp : p < companionBase
  · have hout : ¬(a ≤ p ∧ p + poisonUnit p ≤ a + bs.length) := fun hin => absurd (Nat.le_trans h hin.1) (Nat.not_le.mpr hp)
    simp [hp, hout]
  · simp [hp]

theorem State.writeCpl_modulePoison (s : State) (n : Nat) : (s.writeCpl n).modulePoison = s.modulePoison := by
  have hwrite := fun bs => s.write_modulePoison (a := hostDpa (s.queue n).cplAddr) bs (Nat.le_add_right _ _)
  unfold State.writeCpl State.interrupt
  dsimp only
  split
  · rfl
  · split
    · rfl
    · split
      · rfl
      · split
        · split <;> exact hwrite _
        · exact hwrite _

theorem State.flushQueue_modulePoison (s : State) (n : Nat) : (s.flushQueue n).modulePoison = s.modulePoison :=
  foldl_keeps State.modulePoison (fun s _ => s.writeCpl_modulePoison n) _ s

theorem State.settleDestroy_modulePoison (s : State) (n : Nat) : (s.settleDestroy n).modulePoison = s.modulePoison := by
  unfold State.settleDestroy
  dsimp only
  split
  · split
    · exact State.flushQueue_modulePoison _ _
    · split <;> rfl
  · rfl

theorem State.complete_modulePoison (s : State) (c : Cmd) (st : Nat) (r : List Byte) :
    (s.complete c st r).modulePoison = s.modulePoison :=
  (State.settleDestroy_modulePoison _ _).trans (State.flushQueue_modulePoison _ _)

theorem State.completeAll_modulePoison (s : State) (cs : List Cmd) (st : Nat) (r : List Byte) :
    (s.completeAll cs st r).modulePoison = s.modulePoison :=
  foldl_keeps State.modulePoison (fun s c => s.complete_modulePoison c st r) cs s

theorem State.onTiles_modulePoison (s : State) (f : Nat → Tile → Tile) : (s.onTiles f).modulePoison = s.modulePoison := by
  rw [State.onTiles_only]
  rfl

theorem State.closeWindows_modulePoison (s : State) (fn : Nat) : (s.closeWindows fn).modulePoison = s.modulePoison :=
  foldl_keeps State.modulePoison (by intros; rfl) _ s

theorem State.endJob_modulePoison (s : State) (fn st : Nat) : (s.endJob fn st).modulePoison = s.modulePoison := by
  unfold State.endJob State.clearSteps
  dsimp only
  rw [State.completeAll_modulePoison, State.completeAll_modulePoison, State.onTiles_modulePoison, State.onTiles_modulePoison]
  rfl

theorem State.drain_modulePoison (s : State) (fn : Nat) : (s.drain fn).modulePoison = s.modulePoison := by
  unfold State.drain
  dsimp only
  split
  · rw [State.completeAll_modulePoison, State.closeWindows_modulePoison]
    exact (State.onTiles_modulePoison _ _).trans ((State.onTiles_modulePoison _ _).trans (State.endJob_modulePoison _ _ _))
  · rfl

end Sys2Proof.Machine
end

section
/-! The patrol: corrections, uncorrectable lines, and the health of their pages (R303, R304, R307). -/
namespace Sys2Proof.Machine

/-! ### What retiring a page leaves -/

/-- Pages, stacks, and the module's memory with its poison read as before. -/
structure HbmKept (s t : State) : Prop where
  page : ∀ p, t.page p = s.page p
  stack : ∀ k, t.stack k = s.stack k
  host : HostOnly s t
  poison : t.modulePoison = s.modulePoison

theorem HbmKept.refl (s : State) : HbmKept s s := ⟨fun _ => rfl, fun _ => rfl, fun _ _ => rfl, rfl⟩

theorem HbmKept.trans {s t u : State} (h : HbmKept s t) (k : HbmKept t u) : HbmKept s u where
  page p := (k.page p).trans (h.page p)
  stack j := (k.stack j).trans (h.stack j)
  host z hz := (k.host z hz).trans (h.host z hz)
  poison := k.poison.trans h.poison

theorem HbmKept.foldl {β : Type} {f : State → β → State} (h : ∀ s b, HbmKept s (f s b)) (l : List β) (s : State) :
    HbmKept s (l.foldl f s) :=
  List.foldlRecOn (motive := HbmKept s) l f (.refl s) fun t ht b _ => ht.trans (h t b)

theorem State.drain_hbmKept (s : State) (fn : Nat) : HbmKept s (s.drain fn) := by
  obtain ⟨hrest, hhost, -⟩ := s.drain_job fn
  exact ⟨fun p => by rw [hrest]; rfl, fun k => by rw [hrest]; rfl, hhost, s.drain_modulePoison fn⟩

theorem State.report_hbmKept (s : State) (r : Report) : HbmKept s (s.report r) :=
  ⟨fun _ => rfl, fun _ => rfl, fun _ _ => rfl, rfl⟩

theorem State.onFunc_hbmKept (s : State) (fn : Nat) (f : Func → Func) : HbmKept s (s.onFunc fn f) :=
  ⟨fun _ => rfl, fun _ => rfl, fun _ _ => rfl, rfl⟩

theorem State.setErt_hbmKept (s : State) (x : Nat) (e : ErtEntry) : HbmKept s (s.setErt x e) :=
  ⟨fun _ => rfl, fun _ => rfl, fun _ _ => rfl, rfl⟩

theorem State.withdrawSlot_hbmKept (s : State) (fn k : Nat) : HbmKept s (s.withdrawSlot fn k) := by
  have hcopies := HbmKept.foldl
    (f := fun (s : State) e => if e.2.copy ≠ 0 ∧ e.2.slot = k then s.setErt e.1 { e.2 with copy := 0 } else s)
    (fun s e => by split; exacts [s.setErt_hbmKept _ _, .refl s]) (s.entriesOf fn) s
  unfold State.withdrawSlot
  dsimp only
  split
  · exact (hcopies.trans (State.onFunc_hbmKept _ fn _)).trans (State.drain_hbmKept _ fn)
  · exact hcopies.trans (State.onFunc_hbmKept _ fn _)

theorem State.listWritten_hbmKept (s : State) (failed : Bool) (wrote : Option (Nv × Nat)) :
    HbmKept s (s.listWritten failed wrote) := by
  rcases wrote with _ | ⟨v, b⟩
  · exact ⟨fun _ => rfl, fun _ => rfl, fun _ _ => rfl, rfl⟩
  · cases failed <;> exact ⟨fun _ => rfl, fun _ => rfl, fun _ _ => rfl, rfl⟩

theorem State.writeRetList_hbmKept (s : State) : HbmKept s s.writeRetList := by
  have hdraw : HbmKept s s.draw.1 := ⟨fun _ => rfl, fun _ => rfl, fun _ _ => rfl, rfl⟩
  unfold State.writeRetList
  exact hdraw.trans (State.listWritten_hbmKept _ _ _)

/-- Page `p` is now `g`; stacks, and the module's memory with its poison, read as before. -/
structure PageBecomes (s t : State) (p : Nat) (g : Page) : Prop where
  page : t.page p = g
  stack : ∀ k, t.stack k = s.stack k
  host : HostOnly s t
  poison : t.modulePoison = s.modulePoison

theorem State.setPage_becomes (s : State) (p : Nat) (g : Page) : PageBecomes s (s.setPage p g) p g :=
  ⟨s.setPage_page_self p g, fun _ => rfl, fun _ _ => rfl, rfl⟩

theorem PageBecomes.kept {s t u : State} {p : Nat} {g : Page} (h : PageBecomes s t p g) (k : HbmKept t u) :
    PageBecomes s u p g where
  page := (k.page p).trans h.page
  stack j := (k.stack j).trans (h.stack j)
  host z hz := (k.host z hz).trans (h.host z hz)
  poison := k.poison.trans h.poison

theorem PageBecomes.trans {s t u : State} {p : Nat} {g g' : Page} (h : PageBecomes s t p g) (k : PageBecomes t u p g') :
    PageBecomes s u p g' where
  page := k.page
  stack j := (k.stack j).trans (h.stack j)
  host z hz := (k.host z hz).trans (h.host z hz)
  poison := k.poison.trans h.poison

theorem PageBecomes.setPage {s t : State} {p : Nat} {g v g' : Page} (h : PageBecomes s t p g) (hv : v = g') :
    PageBecomes s (t.setPage p v) p g' := h.trans (hv ▸ t.setPage_becomes p v)

/-- A page once it is retired: a free one is withdrawn at once (R307). -/
def Page.retired (g : Page) : Page := { g with health := .retired, withdrawn := g.withdrawn || g.use == .free }

theorem Page.retired_free {g : Page} (h : g.use = .free) : g.retired = { g with health := .retired, withdrawn := true } := by
  simp [Page.retired, h]

theorem Page.retired_held {g : Page} (h : g.use ≠ .free) : g.retired = { g with health := .retired } := by
  simp [Page.retired, h]

theorem State.retirePage_becomes (s : State) (p : Nat) : PageBecomes s (s.retirePage p) p (s.page p).retired := by
  have hmark := (s.setPage_becomes p { s.page p with health := .retired }).kept
    (State.report_hbmKept _ { code := ePageRetired, cls := clsNotice, unit := p / 32768, a := p % 32768 })
  have huse := (congrArg Page.use hmark.page).trans (show _ = (s.page p).use from rfl)
  unfold State.retirePage
  extract_lets s1 s2
  split
  next hu =>
    rw [Page.retired_free (huse.symm.trans hu)]
    exact hmark.setPage (congrArg (fun g : Page => { g with withdrawn := true }) hmark.page)
  next hu =>
    rw [Page.retired_held (by rw [← huse, hu]; decide)]
    exact hmark
  next fn hu =>
    rw [Page.retired_held (by rw [← huse, hu]; exact PageUse.noConfusion)]
    exact hmark.kept (State.onFunc_hbmKept _ fn _)
  next fn hu =>
    rw [Page.retired_held (by rw [← huse, hu]; exact PageUse.noConfusion)]
    split
    · dsimp only
      split
      · exact hmark.kept (State.withdrawSlot_hbmKept _ _ _)
      · exact hmark.kept (State.onFunc_hbmKept _ fn _)
    · exact hmark

/-- A page after an uncorrectable error: it is counted, and the page's health advances (R307). -/
def Page.advanced (g : Page) : Page :=
  match g.health with
  | .good => { g with ues := satAdd 8 g.ues 1, health := .suspect }
  | .suspect => { g with ues := satAdd 8 g.ues 1 }.retired
  | .retired => { g with ues := satAdd 8 g.ues 1 }

theorem Page.advanced_good {g : Page} (h : g.health = .good) :
    g.advanced = { g with ues := satAdd 8 g.ues 1, health := .suspect } := by rw [Page.advanced, h]

theorem Page.advanced_suspect {g : Page} (h : g.health = .suspect) :
    g.advanced = { g with ues := satAdd 8 g.ues 1 }.retired := by rw [Page.advanced, h]

theorem Page.advanced_retired {g : Page} (h : g.health = .retired) :
    g.advanced = { g with ues := satAdd 8 g.ues 1 } := by rw [Page.advanced, h]

theorem Page.advanced_ues (g : Page) : g.advanced.ues = satAdd 8 g.ues 1 := by
  unfold Page.advanced
  split <;> rfl

theorem State.advancePage_becomes (s : State) (p : Nat) : PageBecomes s (s.advancePage p) p (s.page p).advanced := by
  have hcount := s.setPage_becomes p { s.page p with ues := satAdd 8 (s.page p).ues 1 }
  unfold State.advancePage
  extract_lets g s1
  have hretire := s1.retirePage_becomes p
  rw [show s1.page p = _ from hcount.page] at hretire
  split
  next h =>
    rw [Page.advanced_good h]
    have hsuspect : PageBecomes s (s1.setPage p { s1.page p with health := .suspect }) p
        { s.page p with ues := satAdd 8 (s.page p).ues 1, health := .suspect } :=
      hcount.setPage (congrArg (fun g : Page => { g with health := .suspect }) hcount.page)
    exact hsuspect.kept (State.writeRetList_hbmKept _)
  next h =>
    rw [Page.advanced_suspect h]
    exact (hcount.trans hretire).kept (State.writeRetList_hbmKept _)
  next h =>
    rw [Page.advanced_retired h]
    exact hcount

/-! ### An uncorrectable line (R304) -/

/-- Marking a line of HBM as poison changes its own bytes alone. -/
theorem State.addPoison_hbm {s : State} {line : Nat} (hlt : line < 0xC000000000) (hunit : line % 64 = 0) :
    line ∈ (s.addPoison line).poison ∧ ∀ z, ¬(line ≤ z ∧ z < line + 64) → (s.addPoison line).byte z = s.byte z := by
  have h64 : poisonUnit line = 64 := if_neg fun hin => absurd hin.1 (by unfold stagingBase; omega)
  have hof : poisonOf line = line := by rw [poisonOf, h64]; omega
  unfold State.addPoison
  extract_lets u
  have hu : u = line := hof
  rw [hu, h64]
  split
  next hmem => exact ⟨List.contains_iff_mem.mp hmem, fun _ _ => rfl⟩
  next =>
    refine ⟨List.mem_cons_self, fun z hz => (tget_tsetList ..).trans (if_neg ?_)⟩
    rwa [List.length_map, List.length_range]

theorem State.addPoison_page (s : State) (a p : Nat) : (s.addPoison a).page p = s.page p := by
  unfold State.addPoison
  dsimp only
  split <;> rfl

theorem State.addPoison_stack (s : State) (a k : Nat) : (s.addPoison a).stack k = s.stack k := by
  unfold State.addPoison
  dsimp only
  split <;> rfl

/-- Counting an error changes the count of its stack and the log of its die. -/
theorem State.countUE_eq (s : State) (line : Nat) (patrol : Bool) : ∃ dies, s.countUE line patrol =
    { s.setStack (line / pageSize / 32768) { s.stack (line / pageSize / 32768) with
        ue := satAdd 16 (s.stack (line / pageSize / 32768)).ue 1 } with dies := dies } := by
  unfold State.countUE
  dsimp only
  split <;> exact ⟨_, rfl⟩

/-- The line is poison and counted; an error in a free page is reported here (R304, R305). -/
def State.patrolUE (s : State) (line : Nat) : State :=
  let p := line / pageSize
  let s := (s.addPoison line).countUE line true
  if (s.page p).use = .free then s.report { code := eHbmUE, cls := clsNotice, unit := p / 32768, a := line, b := 5 } else s

theorem State.patrolUE_spec {s : State} {line : Nat} (hlt : line < 0xC000000000) (hunit : line % 64 = 0) :
    let t := s.patrolUE line
    let k := line / pageSize / 32768
    line ∈ t.poison ∧ (∀ p, t.page p = s.page p) ∧ t.stack k = { s.stack k with ue := satAdd 16 (s.stack k).ue 1 } ∧
      ∀ z, ¬(line ≤ z ∧ z < line + 64) → t.byte z = s.byte z := by
  obtain ⟨hpoison, hbytes⟩ := State.addPoison_hbm (s := s) hlt hunit
  obtain ⟨dies, hcount⟩ := (s.addPoison line).countUE_eq line true
  unfold State.patrolUE
  dsimp only
  rw [hcount, s.addPoison_stack]
  split <;> exact ⟨hpoison, s.addPoison_page line, State.setStack_stack_self _ _ _, hbytes⟩

/-! ### PATROL_READ -/

section
variable {s : State} {dpa : Nat} (hin : s.inStack dpa = true)
include hin

theorem State.inStack_lt : dpa < 0xC000000000 := by
  simp only [State.inStack, Bool.and_eq_true, decide_eq_true_eq] at hin
  exact hin.1.1

theorem exec_patrolRead_none (last : Bool) : exec (.patrolRead dpa .none last) s =
    .next (if last then s.endPass (dpa / 64 * 64 / pageSize / 32768 / 3) else s) := by
  show execPatrolRead dpa .none last s = _
  rw [execPatrolRead, hin]
  rfl

theorem exec_patrolRead_hbmCE (a : Nat) : exec (.patrolRead dpa (.hbmCE a) false) s = .next (s.hbmCE (dpa / 64 * 64)) := by
  show execPatrolRead dpa (.hbmCE a) false s = _
  rw [execPatrolRead, hin]
  rfl

theorem exec_patrolRead_poisoned (a : Nat) (h : dpa / 64 * 64 ∈ s.poison) :
    exec (.patrolRead dpa (.hbmUE a) false) s = .next s := by
  show execPatrolRead dpa (.hbmUE a) false s = _
  rw [execPatrolRead, hin]
  exact if_pos (List.contains_iff_mem.mpr h)

theorem exec_patrolRead_hbmUE (a : Nat) (h : dpa / 64 * 64 ∉ s.poison) : exec (.patrolRead dpa (.hbmUE a) false) s =
    .next ((s.patrolUE (dpa / 64 * 64)).advancePage (dpa / 64 * 64 / pageSize)) := by
  show execPatrolRead dpa (.hbmUE a) false s = _
  rw [execPatrolRead, hin]
  exact if_neg (mt List.contains_iff_mem.mp h)

/-- A newly found uncorrectable line is poisoned and counted, its page's health advances, and no other byte of the module's
memory changes. -/
theorem runs_patrolRead_hbmUE (a : Nat) (h : dpa / 64 * 64 ∉ s.poison) :
    let line := dpa / 64 * 64
    let p := line / pageSize
    let k := p / 32768
    Runs (.patrolRead dpa (.hbmUE a) false) s fun t =>
      line ∈ t.poison ∧ (t.stack k).ue = satAdd 16 (s.stack k).ue 1 ∧ t.page p = (s.page p).advanced ∧
      ∀ z, z < companionBase → ¬(line ≤ z ∧ z < line + 64) → t.byte z = s.byte z := by
  intro line p k
  have hlt : line < 0xC000000000 := Nat.lt_of_le_of_lt (Nat.div_mul_le_self dpa 64) (State.inStack_lt hin)
  obtain ⟨hpoison, hpage, hstack, hbytes⟩ := State.patrolUE_spec (s := s) hlt (Nat.mul_mod_left _ _)
  have hadv := (s.patrolUE line).advancePage_becomes p
  refine ⟨_, exec_patrolRead_hbmUE hin a h, ?_, ?_, ?_, fun z hz hout => (hadv.host z hz).trans (hbytes z hout)⟩
  · have hmodule : line ∈ (s.patrolUE line).modulePoison :=
      State.mem_modulePoison.mpr ⟨hpoison, Nat.lt_trans hlt (by decide)⟩
    rw [← hadv.poison] at hmodule
    exact (State.mem_modulePoison.mp hmodule).1
  · rw [hadv.stack, hstack]
  · rw [hadv.page, hpage]

end

/-- Settles O30: only a newly found uncorrectable line changes memory, and its page advances as `Page.advanced` says. -/
theorem patrolAndCorrections : Obligations.PatrolAndCorrections := by
  intro s dpa hin line p k
  refine ⟨if_pos hin, exec_patrolRead_none hin false, ⟨_, exec_patrolRead_none hin true, rfl⟩,
    fun a => ⟨_, exec_patrolRead_hbmCE hin a, rfl⟩, fun a => exec_patrolRead_poisoned hin a, fun a hnew => ?_⟩
  refine (runs_patrolRead_hbmUE hin a hnew).mono fun t ⟨hpoison, hcount, hpage, hbytes⟩ =>
    ⟨hpoison, hcount, ?_, fun hgood => ?_, fun hsuspect => ?_, hbytes⟩
  · rw [hpage, Page.advanced_ues]
  · rw [hpage, Page.advanced_good hgood]
  · rw [hpage, Page.advanced_suspect hsuspect]
    refine ⟨rfl, fun hfree => ?_⟩
    rw [Page.retired_free]
    exact hfree

end Sys2Proof.Machine
end

section
/-! Bias flips and the return of device bias (R311, R313). -/
namespace Sys2Proof.Machine

/-- Page `vpn` is a device-bias page of function `fn`, which is ON, and no host access has flipped it (R313). -/
structure DeviceBiased (s : State) (fn vpn : Nat) : Prop where
  on : (s.func fn).state = .on
  valid : (tget {} (s.func fn).table vpn).valid = true
  companion : (tget {} (s.func fn).table vpn).companion = true
  bias : (tget {} (s.func fn).table vpn).bias = false
  unflipped : vpn ∉ (s.func fn).flipped

/-- The function once a host access has flipped page `vpn`. -/
def Func.flip (f : Func) (vpn : Nat) (write : Bool) : Func :=
  { f with
    flipped := f.flipped ++ [vpn], flips := satAdd 32 f.flips 1
    hostWr := if write then satAdd 16 f.hostWr 1 else f.hostWr }

/-- The record of a host write to a device-bias page (R313, R439). -/
def State.biasReport (s : State) (fn vpn : Nat) : Report :=
  { code := eBias, cls := clsNotice, func := some fn, a := (tget {} (s.func fn).table vpn).pfn.toNat * pageSize }

theorem exec_hostBiasFlip {s : State} {fn vpn : Nat} (hfn : fn < 16) (h : DeviceBiased s fn vpn) (write : Bool) :
    exec (.hostBiasFlip fn vpn write) s = .next (
      if write then (s.setFunc fn ((s.func fn).flip vpn write)).report (s.biasReport fn vpn)
      else s.setFunc fn ((s.func fn).flip vpn write)) := by
  obtain ⟨hon, hvalid, hcompanion, hbias, hflipped⟩ := h
  show execHostBiasFlip fn vpn write s = _
  rw [execHostBiasFlip, if_neg (Nat.not_le.mpr hfn)]
  exact if_neg (by simpa [hon, hflipped] using ⟨⟨hvalid, hcompanion⟩, hbias⟩)

theorem exec_deviceBiasGrant {s : State} {fn vpn : Nat} (hfn : fn < 16) (h : vpn ∈ (s.func fn).biasAsked) :
    exec (.deviceBiasGrant fn vpn) s = .next (s.onFunc fn fun f => { f with
      flipped := f.flipped.filter fun v => v != vpn, biasAsked := f.biasAsked.filter fun v => v != vpn }) := by
  show execDeviceBiasGrant fn vpn s = _
  rw [execDeviceBiasGrant, if_neg (Nat.not_le.mpr hfn), if_pos (List.contains_iff_mem.mpr h)]

/-- Settles O32: a flip changes its function's record, and a write reports besides; a grant takes the page out of both lists. -/
theorem biasFlips : Obligations.BiasFlips := by
  intro s fn vpn hfn f e
  refine ⟨fun hon hvalid hcompanion hbias hflipped => ?flip, fun hasked => ?grant⟩
  case flip =>
    have hx := exec_hostBiasFlip hfn (⟨hon, hvalid, hcompanion, hbias, hflipped⟩ : DeviceBiased s fn vpn)
    refine ⟨⟨_, hx false, s.setFunc_onlyFunc fn _, s.setFunc_func_self fn _⟩,
      ⟨_, hx true, rfl, State.report_recorded _ _, s.setFunc_func_self fn _⟩⟩
  case grant =>
    refine ⟨_, exec_deviceBiasGrant hfn hasked, s.onFunc_onlyFunc fn _, ?_⟩
    rw [State.onFunc, State.setFunc_func_self]
    exact ⟨by simp, by simp, fun v hv => by simp [hv, f]⟩

end Sys2Proof.Machine
end

section
/-! COPY_IN and COPY_OUT (R302, R305, R335, R337). -/
namespace Sys2Proof.Machine

/-- A copy's LENGTH and ranges are in order, and the links of its host range are UP (R337). -/
structure CopyReady (s : State) (c : Cmd) : Prop where
  on : (s.func (s.cmdFunc c)).state = .on
  good : s.copyBad (s.cmdFunc c) c = false
  up : s.hostRangeUp (c.arg 8 8) (c.arg 24 4) = true

theorem State.inHbm_of_ranges {s : State} {fn va n : Nat}
    (h : ∀ p ∈ pagesOf va n, ∃ r ∈ (s.image fn).map, r.tier = 0 ∧ r.vpn ≤ p ∧ p < r.vpn + r.npage) :
    s.inHbm fn va n = true := by
  simpa [State.inHbm] using h

theorem State.copyBad_of_ranges {s : State} {fn : Nat} {c : Cmd} (hunit : c.arg 24 4 % 64 = 0) (hpos : 0 < c.arg 24 4)
    (hmax : c.arg 24 4 ≤ 2 ^ 30) (hhost : c.arg 8 8 + c.arg 24 4 ≤ 2 ^ 47) (hva : c.arg 16 8 + c.arg 24 4 ≤ 2 ^ 48)
    (hmap : s.inHbm fn (c.arg 16 8) (c.arg 24 4) = true) : s.copyBad fn c = false := by
  have hsize : ¬(2 ^ 30 < c.arg 24 4 ∨ 2 ^ 47 < c.arg 8 8 + c.arg 24 4 ∨ 2 ^ 48 < c.arg 16 8 + c.arg 24 4) := by omega
  simp only [State.copyBad, hunit, beq_false_of_ne (Nat.ne_of_gt hpos), hmap, hsize, bne_self_eq_false, decide_false,
    Bool.not_true, Bool.or_self]

/-- Where no unit is poisoned, a write meets none at its edges. -/
theorem State.meetEdges_clean {s : State} (h : s.poison = []) (fn : Nat) (rs : List (Nat × Nat)) : s.meetEdges fn rs = s := by
  simp only [State.meetEdges, h, List.filter_nil, List.flatMap_eq_nil_iff.mpr fun _ _ => rfl, List.foldl_nil]

theorem State.meetPoison_clean {s : State} (h : s.poison = []) (fn : Nat) (rs : List (Nat × Nat)) : s.meetPoison fn rs = s := by
  simp [State.meetPoison, State.poisonedIn, State.poisonsIn, h]

section
variable {s : State} {q : Nat} {c : Cmd} (hr : CopyReady s c)
include hr

theorem finishes_copyIn (h : InProgress s q 0x45 c) (hopen : s.closedRange (s.cmdFunc c) (c.arg 16 8) (c.arg 24 4) = false)
    {bs : List Byte} (hlen : bs.length = c.arg 24 4) :
    Finishes (.copyIn q (.ok bs)) s
      ((s.meetEdges (s.cmdFunc c) (s.rangesVA (s.cmdFunc c) (c.arg 16 8) (c.arg 24 4))).writeVA (s.cmdFunc c) (c.arg 16 8) bs)
      c stSuccess [] := by
  obtain ⟨hon, hgood, hup⟩ := hr
  show execCopyIn q (.ok bs) s = _
  simp [execCopyIn, State.withCmd_inProgress h, hon, hgood, hopen, hup, hlen, State.finish]

/-- Host data that does not arrive ends the copy (R335). -/
theorem finishes_copyIn_hostError (h : InProgress s q 0x45 c)
    (hopen : s.closedRange (s.cmdFunc c) (c.arg 16 8) (c.arg 24 4) = false) {d : HostData} (hd : ∀ bs, d ≠ .ok bs) :
    Finishes (.copyIn q d) s s c stHostAccess [] := by
  obtain ⟨hon, hgood, hup⟩ := hr
  show execCopyIn q d s = _
  cases d with
  | ok bs => exact absurd rfl (hd bs)
  | poison | error => simp [execCopyIn, State.withCmd_inProgress h, hon, hgood, hopen, hup, State.finish]

theorem finishes_copyOut (h : InProgress s q 0x46 c) :
    Finishes (.copyOut q .acked) s
      ((s.write (hostDpa (c.arg 8 8)) (s.readVA (s.cmdFunc c) (c.arg 16 8) (c.arg 24 4))).meetPoison (s.cmdFunc c)
        (s.rangesVA (s.cmdFunc c) (c.arg 16 8) (c.arg 24 4))) c stSuccess [] := by
  obtain ⟨hon, hgood, hup⟩ := hr
  show execCopyOut q .acked s = _
  simp [execCopyOut, State.withCmd_inProgress h, hon, hgood, hup, State.finish]

theorem finishes_copyOut_hostError (h : InProgress s q 0x46 c) : Finishes (.copyOut q .error) s s c stHostAccess [] := by
  obtain ⟨hon, hgood, hup⟩ := hr
  show execCopyOut q .error s = _
  simp [execCopyOut, State.withCmd_inProgress h, hon, hgood, hup, State.finish]

end

/-- Settles O38: a copy that is in order moves its bytes and meets what is poisoned, of which there is none in a clean state. -/
theorem copies : Obligations.Copies := by
  intro s q c fn n hpa va hon hunit hpos hmax hhost hva hmap hup
  have hready : CopyReady s c := ⟨hon, State.copyBad_of_ranges hunit hpos hmax hhost hva (State.inHbm_of_ranges hmap),
    List.all_eq_true.mpr hup⟩
  refine ⟨fun h hopen => ⟨fun bs hlen => ?copyIn, finishes_copyIn_hostError hready h hopen (by simp),
    finishes_copyIn_hostError hready h hopen (by simp)⟩, fun h => ?copyOut⟩
  case copyIn =>
    have hin := finishes_copyIn hready h hopen hlen
    exact ⟨hin, fun hclean => by rwa [State.meetEdges_clean hclean] at hin⟩
  case copyOut =>
    have hout := finishes_copyOut hready h
    refine ⟨hout, fun hclean => ?_, finishes_copyOut_hostError hready h⟩
    rwa [State.meetPoison_clean (by simp [State.write, hclean])] at hout

end Sys2Proof.Machine
end

section
/-! SUPPORT. Pages that change hands, and memory that is zeroed page by page (R297, R299, R307, R314). -/
namespace Sys2Proof.Machine

/-! ### The use of pages -/

/-- Each page of a list is put to a use. -/
def State.usePages (s : State) (u : PageUse) (ps : List Nat) : State :=
  ps.foldl (fun (s : State) p => s.setPage p { s.page p with use := u }) s

theorem State.usePages_pagesOnly (s : State) (u : PageUse) (ps : List Nat) : PagesOnly s (s.usePages u ps) :=
  .foldl (by intros; rfl) ps s

theorem State.usePages_page (u : PageUse) (ps : List Nat) (j : Nat) : ∀ s : State,
    (s.usePages u ps).page j = if j ∈ ps then { s.page j with use := u } else s.page j := by
  induction ps with
  | nil => exact fun s => (if_neg List.not_mem_nil).symm
  | cons p ps ih =>
    intro s
    refine (ih _).trans ?_
    rw [State.setPage_page]
    by_cases hp : j = p
    · subst hp
      simp
    · simp [hp]

/-! ### The scrub of a function's pages -/

/-- A page is zeroed and free. -/
def State.freePage (s : State) (p : Nat) : State :=
  (s.zero (p * pageSize) ((p + 1) * pageSize)).setPage p { s.page p with use := .free }

/-- A page that is not RETIRED, on a stack that works. -/
def PageSound (s : State) (p : Nat) : Prop := (s.page p).health ≠ .retired ∧ (s.stack (p / 32768)).failed = false

/-- A sound page that reads back is zeroed and freed. -/
theorem State.scrubPage_sound {s : State} {p : Nat} (h : PageSound s p) : s.scrubPage false p = s.freePage p := by
  obtain ⟨hhealth, hstack⟩ := h
  simp only [State.scrubPage, hhealth, hstack, Bool.false_eq_true, or_self, if_false]
  rfl

theorem State.freePage_page (s : State) (p j : Nat) :
    (s.freePage p).page j = if j = p then { s.page j with use := .free } else s.page j := by
  rw [State.freePage, State.setPage_page]
  split
  next h => rw [h]
  next => rfl

theorem State.freePage_sound {s : State} {j : Nat} (h : PageSound s j) (p : Nat) : PageSound (s.freePage p) j := by
  refine ⟨?_, h.2⟩
  rw [State.freePage_page]
  split <;> exact h.1

theorem State.scrubPages_sound {ps : List Nat} : ∀ {s : State}, (∀ p ∈ ps, PageSound s p) →
    ps.foldl (fun (s : State) p => s.scrubPage false p) s = ps.foldl State.freePage s := by
  induction ps with
  | nil => exact fun _ => rfl
  | cons p ps ih =>
    intro s h
    rw [List.foldl_cons, List.foldl_cons, State.scrubPage_sound (h p List.mem_cons_self)]
    exact ih fun j hj => State.freePage_sound (h j (List.mem_cons_of_mem p hj)) p

theorem State.freePages_page (ps : List Nat) (j : Nat) : ∀ s : State,
    (ps.foldl State.freePage s).page j = if j ∈ ps then { s.page j with use := .free } else s.page j := by
  induction ps with
  | nil => exact fun s => (if_neg List.not_mem_nil).symm
  | cons p ps ih =>
    intro s
    rw [List.foldl_cons, ih, State.freePage_page]
    by_cases hp : j = p
    · simp [hp]
    · simp [hp]

theorem State.freePages_byte (ps : List Nat) (z : Nat) : ∀ s : State,
    (ps.foldl State.freePage s).byte z = if z / pageSize ∈ ps then 0 else s.byte z := by
  induction ps with
  | nil => exact fun s => (if_neg List.not_mem_nil).symm
  | cons p ps ih =>
    intro s
    have hpage : (p * pageSize ≤ z ∧ z < (p + 1) * pageSize) ↔ z / pageSize = p := by
      unfold pageSize
      omega
    rw [List.foldl_cons, ih]
    have hzero : (s.freePage p).byte z = if z / pageSize = p then 0 else s.byte z := by
      rw [← if_congr hpage rfl rfl]
      exact s.zero_byte _ _ z
    rw [hzero]
    by_cases hp : z / pageSize = p
    · simp [hp]
    · simp [hp]

end Sys2Proof.Machine
end

section
/-! The life of a function: ENABLE, DISABLE, draining and the scrub (R314, R339, R340). -/
namespace Sys2Proof.Machine

theorem CplOnly.page {s t : State} (h : CplOnly s t) (p : Nat) : t.page p = s.page p := by
  rw [h.1]
  rfl

theorem State.release_cpl (s : State) (c : Cmd) : CplOnly s (s.release c) :=
  (s.setQueue_cpl _ _).trans (State.settleDestroy_cpl _ _)

/-! ### ENABLE (R340) -/

/-- An ENABLE without a page list, while nothing keeps functions from starting and no image waits. -/
structure EnableReady (s : State) (q : Nat) (c : Cmd) : Prop where
  running : InProgress s q 0x10 c
  func : c.arg 8 1 < 16
  noPages : c.arg 24 4 = 0
  stage : s.boot.stage ≠ .prepared
  remreq : s.boot.remreq = false
  dead : s.boot.dead = false
  noImage : s.imgWait = none

section
variable {s : State} {q : Nat} {c : Cmd} (h : EnableReady s q c)
include h

theorem EnableReady.finishes_on (hon : (s.func (c.arg 8 1)).state = .on) :
    Finishes (.enable q (.ok [])) s s c stSuccess (stateResult 0 .on) := by
  obtain ⟨hrun, hfn, hn, hstage, hremreq, hdead, himage⟩ := h
  show execEnable q (.ok []) s = _
  simp [execEnable, State.withCmd_inProgress hrun, Nat.not_le.mpr hfn, hn, hstage, hremreq, hdead, himage, hon, State.finish]

theorem EnableReady.finishes_off (hoff : (s.func (c.arg 8 1)).state = .off)
    (hno : c.arg 8 1 ∉ tkeys s.images) :
    Finishes (.enable q (.ok [])) s s c stRefused (stateResult 2 .off) := by
  obtain ⟨hrun, hfn, hn, hstage, hremreq, hdead, himage⟩ := h
  show execEnable q (.ok []) s = _
  simp [execEnable, State.withCmd_inProgress hrun, Nat.not_le.mpr hfn, hn, hstage, hremreq, hdead, himage, hoff, hno,
    State.finish]

theorem EnableReady.runs_off (hoff : (s.func (c.arg 8 1)).state = .off)
    (himg : c.arg 8 1 ∈ tkeys s.images) :
    Runs (.enable q (.ok [])) s fun t =>
      t.func (c.arg 8 1) = { s.func (c.arg 8 1) with
        state := .enabling, epoch := s.larwa.epoch, hostPages := [], enablingCmds := [c] } ∧
      ∀ j, j ≠ c.arg 8 1 → t.func j = s.func j := by
  obtain ⟨hrun, hfn, hn, hstage, hremreq, hdead, himage⟩ := h
  have hx : exec (.enable q (.ok [])) s = .next ((s.setFunc (c.arg 8 1) { s.func (c.arg 8 1) with
      state := .enabling, epoch := s.larwa.epoch, hostPages := [], enablingCmds := [c] }).release c) := by
    show execEnable q (.ok []) s = _
    simp [execEnable, State.withCmd_inProgress hrun, Nat.not_le.mpr hfn, hn, hstage, hremreq, hdead, himage, hoff, himg,
      pageList]
  have hkept := State.release_cpl (s.setFunc (c.arg 8 1) { s.func (c.arg 8 1) with
    state := .enabling, epoch := s.larwa.epoch, hostPages := [], enablingCmds := [c] }) c
  exact ⟨_, hx, (hkept.func _).trans (s.setFunc_func_self _ _), fun j hj => (hkept.func j).trans (s.setFunc_func_ne _ _ j hj)⟩

end

/-! ### ENABLING_DONE (R299, R329, R339) -/

/-- What building a function's shares, ERT entries and programs has no part in is as it was. -/
theorem State.placed_keeps {γ : Type} (g : State → γ) (htile : ∀ s n f, g (State.onTile s n f) = g s)
    (hert : ∀ s x e, g (State.setErt s x e) = g s) (hwrite : ∀ s a bs, g (State.write s a bs) = g s) (s : State) (fn : Nat)
    (i : FuncImage) : g (((s.placeShares fn i).placeErt fn i).placePrograms fn i) = g s := by
  have hprograms : ∀ s, g (State.placePrograms s fn i) = g s := foldl_keeps g (fun s p => foldl_keeps g (fun s k => by
    dsimp only
    split
    · exact hwrite _ _ _
    · rfl) _ s) _
  have hexperts : ∀ s, g (State.placeErt s fn i) = g s :=
    foldl_keeps g (fun s l => foldl_keeps g (fun s x => hert _ _ _) _ s) _
  rw [hprograms, hexperts]
  exact foldl_keeps g (fun s x => htile _ _ _) _ s

/-- The pages of function `fn` are taken, and its tables and registers built. -/
def State.built (s : State) (fn : Nat) : State :=
  let f := s.func fn
  let i := s.image fn
  let r := s.place i f.hostPages
  let u := (s.usePages (.mapped fn) r.2.1).usePages (.descriptor fn) r.2.2
  (((u.placeShares fn i).placeErt fn i).placePrograms fn i).setFunc fn (i.fresh f.epoch f.hostPages r.1)

section
variable {s : State} {fn : Nat} (hfn : fn < 16) (hstate : (s.func fn).state = .enabling)
include hfn hstate

theorem exec_enablingDone (hnone : s.enableRefusal fn (s.image fn) (s.func fn).hostPages = none) :
    exec (.enablingDone fn) s =
      .next ((s.built fn).completeAll (s.func fn).enablingCmds stSuccess (stateResult 0 .on)) := by
  show execEnablingDone fn s = _
  rw [execEnablingDone, if_neg (Nat.not_le.mpr hfn)]
  refine (if_neg fun hno => hno hstate).trans ?_
  rw [hnone]
  rfl

theorem exec_enablingDone_refused {r : Nat × Nat}
    (hr : s.enableRefusal fn (s.image fn) (s.func fn).hostPages = some r) :
    exec (.enablingDone fn) s =
      .next ((s.setFunc fn { s.func fn with state := .off, enablingCmds := [], hostPages := [] }).completeAll
        (s.func fn).enablingCmds stRefused
        (leBytes 4 2 ++ leBytes 1 0 ++ zeros 3 ++ leBytes 1 r.1 ++ zeros 3 ++ leBytes 4 r.2)) := by
  show execEnablingDone fn s = _
  rw [execEnablingDone, if_neg (Nat.not_le.mpr hfn)]
  refine (if_neg fun hno => hno hstate).trans ?_
  rw [hr]

end

theorem State.built_func (s : State) (fn j : Nat) : (s.built fn).func j =
    if j = fn then (s.image fn).fresh (s.func fn).epoch (s.func fn).hostPages (s.place (s.image fn) (s.func fn).hostPages).1
    else s.func j := by
  rw [State.built, State.setFunc_func]
  refine if_congr Iff.rfl rfl ?_
  refine (State.placed_keeps (fun s => s.func j) (by intros; rfl) (by intros; rfl) (by intros; rfl) _ _ _).trans ?_
  rw [State.usePages_pagesOnly, State.usePages_pagesOnly]
  rfl

theorem State.built_page (s : State) (fn p : Nat) :
    let r := s.place (s.image fn) (s.func fn).hostPages
    (s.built fn).page p =
      if p ∈ r.2.2 then { s.page p with use := .descriptor fn }
      else if p ∈ r.2.1 then { s.page p with use := .mapped fn } else s.page p := by
  intro r
  rw [State.built, State.setFunc_page_eq]
  refine (State.placed_keeps (fun s => s.page p) (by intros; rfl) (by intros; rfl) (by intros; rfl) _ _ _).trans ?_
  rw [State.usePages_page, State.usePages_page]
  split <;> split <;> rfl

theorem runs_enablingDone {s : State} {fn : Nat} (hfn : fn < 16) (hstate : (s.func fn).state = .enabling)
    (hnone : s.enableRefusal fn (s.image fn) (s.func fn).hostPages = none) :
    let r := s.place (s.image fn) (s.func fn).hostPages
    Runs (.enablingDone fn) s fun t =>
      t.func fn = (s.image fn).fresh (s.func fn).epoch (s.func fn).hostPages r.1 ∧ (∀ j, j ≠ fn → t.func j = s.func j) ∧
      (∀ p ∈ r.2.1, p ∉ r.2.2 → (t.page p).use = .mapped fn) ∧ ∀ p ∈ r.2.2, (t.page p).use = .descriptor fn := by
  intro r
  have hkept := (s.built fn).completeAll_cpl (s.func fn).enablingCmds stSuccess (stateResult 0 .on)
  refine ⟨_, exec_enablingDone hfn hstate hnone, ?_, fun j hj => ?_, fun p hp hd => ?_, fun p hp => ?_⟩
  · rw [hkept.func, State.built_func, if_pos rfl]
  · rw [hkept.func, State.built_func, if_neg hj]
  · rw [hkept.page, State.built_page, if_neg hd, if_pos hp]
  · rw [hkept.page, State.built_page, if_pos hp]

theorem runs_enablingDone_refused {s : State} {fn : Nat} (hfn : fn < 16) (hstate : (s.func fn).state = .enabling)
    {r : Nat × Nat} (hr : s.enableRefusal fn (s.image fn) (s.func fn).hostPages = some r) :
    Runs (.enablingDone fn) s fun t => (t.func fn).state = .off ∧ (t.func fn).enablingCmds = [] ∧
      (∀ j, j ≠ fn → t.func j = s.func j) ∧ HostOnly s t := by
  have hkept := (s.setFunc fn { s.func fn with state := .off, enablingCmds := [], hostPages := [] }).completeAll_cpl
    (s.func fn).enablingCmds stRefused
    (leBytes 4 2 ++ leBytes 1 0 ++ zeros 3 ++ leBytes 1 r.1 ++ zeros 3 ++ leBytes 4 r.2)
  refine ⟨_, exec_enablingDone_refused hfn hstate hr, ?_, ?_, fun j hj => ?_, hkept.2⟩
  · rw [hkept.func, State.setFunc_func_self]
  · rw [hkept.func, State.setFunc_func_self]
  · rw [hkept.func, State.setFunc_func_ne _ _ _ _ hj]

/-! ### DISABLE and the drain's end (R339, R340) -/

section
variable {s : State} {q : Nat} {c : Cmd} (h : InProgress s q 0x11 c) (hfn : c.arg 8 1 < 16)
include h hfn

theorem finishes_disable_off (hoff : (s.func (c.arg 8 1)).state = .off) :
    Finishes (.disable q) s s c stSuccess (stateResult 0 .off) := by
  show execDisable q s = _
  simp [execDisable, State.withCmd_inProgress h, Nat.not_le.mpr hfn, hoff, State.finish]

theorem exec_disable_on (hon : (s.func (c.arg 8 1)).state = .on) :
    exec (.disable q) s = .next ((s.drain (c.arg 8 1)).complete c stSuccess (stateResult 0 .draining)) := by
  show execDisable q s = _
  simp [execDisable, State.withCmd_inProgress h, Nat.not_le.mpr hfn, hon, State.finish]

theorem runs_disable_on (hon : (s.func (c.arg 8 1)).state = .on) :
    Runs (.disable q) s fun t => (t.func (c.arg 8 1)).state = .draining ∧ (t.func (c.arg 8 1)).run = false ∧
      (t.func (c.arg 8 1)).items = [] ∧ HostOnly s t := by
  have hcpl := (s.drain (c.arg 8 1)).complete_cpl c stSuccess (stateResult 0 .draining)
  refine ⟨_, exec_disable_on h hfn hon, ?_, ?_, ?_, fun z hz => (hcpl.2 z hz).trans ((s.drain_drained _).host z hz)⟩
  all_goals rw [hcpl.func, State.drain_func hon, State.endJob_func]

end

theorem exec_drainComplete {s : State} {fn : Nat} (hfn : fn < 16) (hstate : (s.func fn).state = .draining)
    (hqueues : s.queuesOf fn = []) : ∃ f, exec (.drainComplete fn) s =
      .next ((s.onTiles f).onFunc fn fun f => { f with
        state := .scrubbing, run := false, armed := false, snap := none, prefetches := [], fetches := [], demandOpen := none }) := by
  show ∃ f, execDrainComplete fn s = _
  rw [execDrainComplete, if_neg (Nat.not_le.mpr hfn), hqueues]
  exact ⟨_, if_neg fun hno => hno hstate⟩

theorem runs_drainComplete {s : State} {fn : Nat} (hfn : fn < 16) (hstate : (s.func fn).state = .draining)
    (hqueues : s.queuesOf fn = []) : Runs (.drainComplete fn) s fun t =>
      (t.func fn).state = .scrubbing ∧ (t.func fn).run = false ∧ (t.func fn).snap = none ∧ SameMemory s t ∧
      ∀ j, j ≠ fn → t.func j = s.func j := by
  obtain ⟨f, hx⟩ := exec_drainComplete hfn hstate hqueues
  refine ⟨_, hx, ?_, ?_, ?_, fun z => ?_, fun j hj => ?_⟩
  · rw [State.onFunc, State.setFunc_func_self]
  · rw [State.onFunc, State.setFunc_func_self]
  · rw [State.onFunc, State.setFunc_func_self]
  · rw [State.onTiles_only]
    rfl
  · rw [State.onFunc, State.setFunc_func_ne _ _ _ _ hj, State.onTiles_func]

/-! ### The scrub (R314, R339) -/

/-- What a function holds on the tiles is zeroed, their SRAM first (R314). -/
def State.scrubTiles (s : State) (fn : Nat) : State :=
  (tkeys s.tiles).foldl (fun (s : State) t => (s.tile t |> fun x => (List.range 4).foldl (fun (s : State) e =>
    if x.owns fn e then
      let p := tget {} x.part e
      s.zero (p.sram t 0) (p.sram t (p.sramCount.toNat * 65536))
    else s) s).onTile t fun x => x.scrub fn) s

/-- A function's staging shares are zeroed (R314). -/
def State.scrubStaging (s : State) (fn : Nat) : State :=
  (List.range 4).foldl (fun (s : State) d =>
    let (b, n) := s.stagingShare fn d
    s.zero (stagingBase + d * 0x2000000 + b) (stagingBase + d * 0x2000000 + b + n)) s

/-- What the scrub of SRAM has no part in is as it was. -/
theorem State.scrubSram_keeps {γ : Type} (g : State → γ) (htile : ∀ s n f, g (State.onTile s n f) = g s)
    (hzero : ∀ s lo hi, g (State.zero s lo hi) = g s) (s : State) (fn : Nat) :
    g ((s.scrubTiles fn).scrubStaging fn) = g s := by
  refine (foldl_keeps g (fun s d => hzero _ _ _) _ _).trans ?_
  refine foldl_keeps g (fun s t => (htile _ _ _).trans ?_) _ s
  refine foldl_keeps g (fun s e => ?_) _ s
  split
  · exact hzero _ _ _
  · rfl

/-- The pages a function holds. -/
def State.heldPages (s : State) (fn : Nat) : List Nat :=
  s.pages.filterMap fun e => if e.2.use = .mapped fn ∨ e.2.use = .descriptor fn then some e.1 else none

theorem State.mem_heldPages {s : State} {fn p : Nat} :
    p ∈ s.heldPages fn ↔ ∃ e ∈ s.pages, (e.2.use = .mapped fn ∨ e.2.use = .descriptor fn) ∧ e.1 = p := by
  simp [State.heldPages]

/-- SRAM and pages are scrubbed, of which every page reads back. -/
def State.scrubMemory (s : State) (fn : Nat) : State :=
  (s.heldPages fn).foldl (fun (s : State) p => s.scrubPage false p) ((s.scrubTiles fn).scrubStaging fn)

/-- The function's ERT entries are cleared, its queues go IDLE, and firmware takes pages that are free. -/
def State.clearTables (s : State) (fn : Nat) : State :=
  let s := { s with ert := s.ert.filter fun e => !(e.2.valid && e.2.func == fn) }
  ((s.queuesOf fn).foldl (fun (s : State) q => s.setQueue q {}) s).takeFirmwarePages

/-- A function whose scrub is done, and for which no ENABLE waits. -/
def Func.off (f : Func) : Func :=
  { f with
    state := .off, table := [], hostPages := [], pending := none, pendingCmds := [], debugWritten := false
    flipped := [], biasAsked := [] }

theorem State.scrubMemory_spec {s : State} {fn : Nat} (h : ∀ p ∈ s.heldPages fn, PageSound s p) :
    let t := s.scrubMemory fn
    (∀ j, t.func j = s.func j) ∧ ∀ p ∈ s.heldPages fn, (t.page p).use = .free ∧
      ∀ z, p * pageSize ≤ z → z < (p + 1) * pageSize → t.byte z = 0 := by
  have hkept := fun {γ : Type} (g : State → γ) htile hzero => State.scrubSram_keeps g htile hzero s fn
  have hsound : ∀ p ∈ s.heldPages fn, PageSound ((s.scrubTiles fn).scrubStaging fn) p := fun p hp => by
    rw [PageSound, hkept (fun s => s.page p) (by intros; rfl) (by intros; rfl),
      hkept (fun s => s.stack (p / 32768)) (by intros; rfl) (by intros; rfl)]
    exact h p hp
  unfold State.scrubMemory
  rw [State.scrubPages_sound hsound]
  refine ⟨fun j => ?_, fun p hp => ⟨?_, fun z hlo hhi => ?_⟩⟩
  · exact (foldl_keeps (fun s : State => s.func j) (by intros; rfl) _ _).trans
      (hkept (fun s => s.func j) (by intros; rfl) (by intros; rfl))
  · rw [State.freePages_page, if_pos hp]
  · have hpage : z / pageSize = p := by
      unfold pageSize at *
      omega
    rw [State.freePages_byte, hpage, if_pos hp]

theorem State.clearTables_spec (s : State) (fn : Nat) :
    let t := s.clearTables fn
    (∀ j, t.func j = s.func j) ∧ t.mem = s.mem ∧ t.ert = (s.ert.filter fun e => !(e.2.valid && e.2.func == fn)) ∧
    ∀ p, t.page p = s.page p ∨ t.page p = { s.page p with use := .firmware } := by
  let u := { s with ert := s.ert.filter fun e => !(e.2.valid && e.2.func == fn) }
  let v := (u.queuesOf fn).foldl (fun (s : State) q => s.setQueue q {}) u
  have hv : ∀ {γ : Type} (g : State → γ), (∀ s q x, g (State.setQueue s q x) = g s) → g v = g u :=
    fun g hg => foldl_keeps g (fun s q => hg s q {}) _ u
  have hpages : PagesOnly v (s.clearTables fn) := v.takeFirmwarePages_pagesOnly
  refine ⟨fun j => ?_, ?_, ?_, fun p => ?_⟩
  · rw [hpages]
    exact hv (fun s => s.func j) (by intros; rfl)
  · rw [hpages]
    exact hv State.mem (by intros; rfl)
  · rw [hpages]
    exact hv State.ert (by intros; rfl)
  · have hpage : v.page p = s.page p := hv (fun s => s.page p) (by intros; rfl)
    rw [← hpage]
    by_cases hp : p ∈ (v.freePages 0).take (16 - v.firmwarePages.length)
    · exact .inr ((State.usePages_page .firmware _ p v).trans (if_pos hp))
    · exact .inl ((State.usePages_page .firmware _ p v).trans (if_neg hp))

theorem exec_scrubComplete {s : State} {fn : Nat} (hfn : fn < 16) (hstate : (s.func fn).state = .scrubbing)
    (hpending : (((s.scrubMemory fn).clearTables fn).func fn).pending = none) : exec (.scrubComplete fn []) s =
      .next (((s.scrubMemory fn).clearTables fn).setFunc fn (((s.scrubMemory fn).clearTables fn).func fn).off) := by
  show execScrubComplete fn [] s = _
  rw [execScrubComplete, if_neg (Nat.not_le.mpr hfn)]
  refine (if_neg fun hno => hno hstate).trans ((if_neg Bool.false_ne_true).trans (congrArg Host.Outcome.next ?_))
  split
  next => rfl
  next hsome => exact absurd (hpending.symm.trans hsome) (by simp)

theorem runs_scrubComplete {s : State} {fn : Nat} (hfn : fn < 16) (hstate : (s.func fn).state = .scrubbing)
    (hpending : (s.func fn).pending = none) (hsound : ∀ p ∈ s.heldPages fn, PageSound s p) :
    Runs (.scrubComplete fn []) s fun t =>
      (t.func fn).state = .off ∧ (t.func fn).table = [] ∧ (∀ j, j ≠ fn → t.func j = s.func j) ∧
      (∀ e ∈ t.ert, e.2.valid = true → e.2.func ≠ fn) ∧
      ∀ p ∈ s.heldPages fn, ((t.page p).use = .free ∨ (t.page p).use = .firmware) ∧
        ∀ z, p * pageSize ≤ z → z < (p + 1) * pageSize → t.byte z = 0 := by
  obtain ⟨hfunc, hpages⟩ := State.scrubMemory_spec hsound
  obtain ⟨hcleared, hmem, hert, huse⟩ := (s.scrubMemory fn).clearTables_spec fn
  have hfuncs : ∀ j, ((s.scrubMemory fn).clearTables fn).func j = s.func j := fun j => (hcleared j).trans (hfunc j)
  refine ⟨_, exec_scrubComplete hfn hstate (by rw [hfuncs, hpending]), ?_, ?_, fun j hj => ?_, fun e he hvalid => ?_,
    fun p hp => ⟨?_, fun z hlo hhi => ?_⟩⟩
  · rw [State.setFunc_func_self, Func.off]
  · rw [State.setFunc_func_self, Func.off]
  · rw [State.setFunc_func_ne _ _ _ _ hj, hfuncs]
  · rw [State.setFunc_ert, hert, List.mem_filter] at he
    simpa [hvalid] using he.2
  · rw [State.setFunc_page_eq]
    rcases huse p with h | h
    · rw [h]
      exact .inl (hpages p hp).1
    · rw [h]
      exact .inr rfl
  · rw [State.setFunc_byte_eq, State.byte, hmem]
    exact (hpages p hp).2 z hlo hhi

/-- Settles O37: each command and each end of a phase by what it leaves of its function, of the others and of the pages. -/
theorem functionLife : Obligations.FunctionLife := by
  intro s q c fn f i
  refine ⟨fun hrun harg hfn hn hstage hremreq hdead himage => ?enable, fun hfn hstate => ?enabling,
    fun hrun harg hfn => ?disable, fun hfn hstate hqueues => runs_drainComplete hfn hstate hqueues,
    fun hfn hstate hpending hpages => ?scrub⟩
  case enable =>
    subst harg
    have hready : EnableReady s q c := ⟨hrun, hfn, hn, hstage, hremreq, hdead, himage⟩
    exact ⟨hready.finishes_on, fun hoff hno => hready.finishes_off hoff (by simpa using hno),
      fun hoff himg => hready.runs_off hoff (by simpa using himg)⟩
  case enabling =>
    exact ⟨runs_enablingDone hfn hstate, fun r => runs_enablingDone_refused hfn hstate⟩
  case disable =>
    subst harg
    exact ⟨finishes_disable_off hrun hfn, runs_disable_on hrun hfn⟩
  case scrub =>
    have hsound : ∀ p ∈ s.heldPages fn, PageSound s p := fun p hp => by
      obtain ⟨e, he, huse, rfl⟩ := State.mem_heldPages.mp hp
      exact hpages e he huse
    refine (runs_scrubComplete hfn hstate hpending hsound).mono
      fun t ⟨hoff, htable, hothers, hert, hfreed⟩ =>
        ⟨hoff, htable, hothers, hert, fun e he huse => hfreed e.1 (State.mem_heldPages.mpr ⟨e, he, huse, rfl⟩)⟩

end Sys2Proof.Machine
end

section
/-! SUPPORT. That an operation keeps what every step keeps: the memory's form, the bound on the error records held, and the fields
that no command changes (R437, assumptions 1, 2 and 11). One rule for each operation, in the order of the model's files. A
rule says that the operation may follow: `h.drain` is `h` with a drain after it, so a proof reads as the operation's body does. -/
namespace Sys2Proof.Machine

/-! ### The relation -/

/-- From `s` to `t` the memory's form, the bound on the error records held, and the fields that no command changes are kept. -/
structure Keeps (s t : State) : Prop where
  mem : MemOk s → MemOk t
  errs : ErrorsOk s → ErrorsOk t
  asm : t.asm = s.asm
  badRings : t.badRings = s.badRings
  pending : t.pending = s.pending

theorem Keeps.refl (s : State) : Keeps s s := ⟨id, id, rfl, rfl, rfl⟩

theorem Keeps.trans {s t u : State} (h : Keeps s t) (k : Keeps t u) : Keeps s u :=
  ⟨k.mem ∘ h.mem, k.errs ∘ h.errs, k.asm.trans h.asm, k.badRings.trans h.badRings, k.pending.trans h.pending⟩

/-- The next state of an answer, if there is one, keeps it. -/
def AnswerKeeps (s : State) : Answer → Prop
  | .next t => Keeps s t
  | _ => True

/-- The state that a tile instruction's body answers, if it answers one, keeps it. -/
def BodyKeeps (s : State) : Body → Prop
  | .done t _ _ _ _ => Keeps s t
  | .stopped t => Keeps s t
  | _ => True

theorem AnswerKeeps.ite {s : State} {c : Prop} [Decidable c] {a b : Answer} (ha : AnswerKeeps s a) (hb : AnswerKeeps s b) :
    AnswerKeeps s (if c then a else b) := by
  split
  · exact ha
  · exact hb

theorem BodyKeeps.ite {s : State} {c : Prop} [Decidable c] {a b : Body} (ha : BodyKeeps s a) (hb : BodyKeeps s b) :
    BodyKeeps s (if c then a else b) := by
  split
  · exact ha
  · exact hb

namespace Keeps

theorem ite {s : State} {c : Prop} [Decidable c] {a b : State} (ha : Keeps s a) (hb : Keeps s b) : Keeps s (if c then a else b) := by
  split
  · exact ha
  · exact hb

section
variable {s t u : State} (h : Keeps s t)
include h

/-- No record more is held. -/
theorem withErrs {e : Errors} (he : e.held.length ≤ t.errs.held.length) : Keeps s { t with errs := e } :=
  ⟨h.mem, fun k => he.trans (h.errs k), h.asm, h.badRings, h.pending⟩

/-- A change of any of the other fields. -/
theorem rest {poison tiles funcs queues ert pages hbmStacks dies hubs ports links herd larwa power boot nv sec base images imgWait
    imgStat dbg out draws} :
    Keeps s { t with
      poison := poison, tiles := tiles, funcs := funcs, queues := queues, ert := ert, pages := pages, hbmStacks := hbmStacks
      dies := dies, hubs := hubs, ports := ports, links := links, herd := herd, larwa := larwa, power := power, boot := boot
      nv := nv, sec := sec, base := base, images := images, imgWait := imgWait, imgStat := imgStat, dbg := dbg, out := out
      draws := draws } :=
  ⟨h.mem, h.errs, h.asm, h.badRings, h.pending⟩

theorem foldl {β : Type} {f : State → β → State} (hf : ∀ u b, Keeps s u → Keeps s (f u b)) (l : List β) : Keeps s (l.foldl f t) := by
  induction l generalizing t with
  | nil => exact h
  | cons b l ih => exact ih (hf t b h)

theorem foldl_fst {α β : Type} {f : State × α → β → State × α} (hf : ∀ u b, Keeps s u.1 → Keeps s (f u b).1) (a : α) (l : List β) :
    Keeps s (l.foldl f (t, a)).1 := by
  induction l generalizing t a with
  | nil => exact h
  | cons b l ih => exact ih (hf (t, a) b h) _

theorem getD {o : Option State} (ho : ∀ x, o = some x → Keeps s x) : Keeps s (o.getD t) := by
  cases o with
  | none => exact h
  | some x => exact ho x rfl

/-! ### State operations (Machine/Ops) -/

variable {n fn a lo hi : Nat} {bs : List Byte}

theorem write : Keeps s (t.write a bs) := ⟨fun k => t.write_wf _ _ (h.mem k), h.errs, h.asm, h.badRings, h.pending⟩

theorem zero : Keeps s (t.zero lo hi) := ⟨fun k => t.zero_wf _ _ (h.mem k), h.errs, h.asm, h.badRings, h.pending⟩

theorem addPoison : Keeps s (t.addPoison a) := by
  unfold State.addPoison
  exact .ite h ⟨fun k => twf_tsetList _ _ (h.mem k), h.errs, h.asm, h.badRings, h.pending⟩

theorem report {p : Report} : Keeps s (t.report p) :=
  ⟨h.mem, fun k => t.report_held p (h.errs k), h.asm, h.badRings, h.pending⟩

theorem setTile {v : Tile} : Keeps s (t.setTile n v) := h.rest
theorem onTile {f : Tile → Tile} : Keeps s (t.onTile n f) := h.rest
theorem setFunc {v : Func} : Keeps s (t.setFunc n v) := h.rest
theorem onFunc {f : Func → Func} : Keeps s (t.onFunc n f) := h.rest
theorem setQueue {v : Queue} : Keeps s (t.setQueue n v) := h.rest
theorem onQueue {f : Queue → Queue} : Keeps s (t.onQueue n f) := h.rest
theorem setErt {v : ErtEntry} : Keeps s (t.setErt n v) := h.rest
theorem setPage {v : Page} : Keeps s (t.setPage n v) := h.rest
theorem setStack {v : Stack} : Keeps s (t.setStack n v) := h.rest
theorem setDie {v : Die} : Keeps s (t.setDie n v) := h.rest
theorem setHub {v : Hub} : Keeps s (t.setHub n v) := h.rest
theorem setPort {v : Port} : Keeps s (t.setPort n v) := h.rest
theorem setLink {v : D2d} : Keeps s (t.setLink n v) := h.rest
theorem setDiePower {v : DiePower} : Keeps s (t.setDiePower n v) := h.rest
theorem emit {o : Out} : Keeps s (t.emit o) := h.rest

theorem onTiles {f : Nat → Tile → Tile} : Keeps s (t.onTiles f) := h.foldl (fun _ _ k => k.onTile) _

theorem onQueues {f : Nat → Queue → Queue} : Keeps s (t.onQueues f) := h.foldl (fun _ _ k => k.onQueue) _

theorem interrupt {path vec : Nat} : Keeps s (t.interrupt path vec) := .ite h h.emit

variable {status : Nat} {result : List Byte} {c : Cmd} {cs : List Cmd}

theorem writeCpl : Keeps s (t.writeCpl n) := by
  unfold State.writeCpl
  dsimp only
  split
  · exact h
  · exact .ite h (.ite h.setQueue (.ite h.write.setQueue.interrupt h.write.setQueue))

theorem flushQueue : Keeps s (t.flushQueue n) := h.foldl (fun _ _ k => k.writeCpl) _

theorem settleDestroy : Keeps s (t.settleDestroy n) := by
  unfold State.settleDestroy
  refine .ite ?_ h
  split
  · exact h.onQueue.onQueue.flushQueue
  · exact .ite h.onQueue h

theorem complete : Keeps s (t.complete c status result) := h.setQueue.flushQueue.settleDestroy

theorem release : Keeps s (t.release c) := h.onQueue.settleDestroy

theorem completeAll : Keeps s (t.completeAll cs status result) := h.foldl (fun _ _ k => k.complete) _

theorem clearSteps : Keeps s (t.clearSteps fn) := h.onTiles

theorem endJob : Keeps s (t.endJob fn status) := h.setFunc.clearSteps.onTiles.completeAll.completeAll

theorem releaseDebug : Keeps s (t.releaseDebug fn) := h.onTiles.rest

theorem closeWindows : Keeps s (t.closeWindows fn) := h.foldl (fun _ _ k => k.setHub) _

theorem stopSequencers : Keeps s (t.stopSequencers fn) := h.onTiles

theorem drain : Keeps s (t.drain fn) := .ite h.endJob.onFunc.stopSequencers.releaseDebug.closeWindows.completeAll h

theorem drainEach {fs : List Nat} : Keeps s (fs.foldl (fun u n => u.drain n) t) := h.foldl (fun _ _ k => k.drain) _

theorem stopJobs {lost : Nat} : Keeps s (t.stopJobs lost) := h.foldl (fun _ _ k => .ite k.report.drain k) _

theorem loseHerd : Keeps s t.loseHerd := h.stopJobs.rest

theorem moduleLoss : Keeps s t.moduleLoss := h.loseHerd.rest.emit

theorem writeVA {va : Nat} : Keeps s (t.writeVA fn va bs) := by
  refine h.foldl (fun u p k => ?_) _
  dsimp only
  split
  · exact k.write
  · exact k

end

end Keeps

end Sys2Proof.Machine
end

section
/-! SUPPORT. That the tile instructions keep what every step keeps (R437, assumption 2). -/
namespace Sys2Proof.Machine

namespace Keeps

/-! ### Stops of a tile's program (Machine/Issue) -/

section
variable {s t : State} (h : Keeps s t)
include h

variable {g : Eng} {n e fn unit dpa : Nat} {iaddr : W32}

theorem retireTile : Keeps s (t.retireTile n) := h.onTile.drainEach

theorem stopSeq : Keeps s (t.stopSeq n e) := h.onTile

theorem tilePartition {name : Nat} : Keeps s (t.tilePartition g n e fn unit iaddr name) := h.onTile.stopSeq.report.drain

theorem tileSequence : Keeps s (t.tileSequence g n e fn unit iaddr) :=
  .ite h.onTile.stopSeq.report.drain.retireTile h.onTile.stopSeq.report.drain

theorem tileUE : Keeps s (t.tileUE n e fn dpa) :=
  .ite h.onTile.stopSeq.report.drain.retireTile h.onTile.stopSeq.report.drain

theorem haltAll {reason : Nat} : Keeps s (t.haltAll fn reason) := h.onTiles.rest

theorem hitBreak {ns : List Nat} : Keeps s (t.hitBreak n e fn ns) := .ite h.onTile.rest.haltAll h.onTile.rest

theorem watch {kind : Nat} {reads writes : List (Nat × Nat)} : Keeps s (t.watch fn kind unit reads writes) := by
  unfold State.watch
  dsimp only
  split
  · exact h
  · exact h.rest.haltAll

theorem retire : Keeps s (t.retire n e) := h.onTile

/-! ### Issue -/

theorem finishBody {u : Upset} {b : Body} (hb : BodyKeeps s b) : AnswerKeeps s (t.finishBody g n e fn unit iaddr u b) := by
  cases b with
  | stopped v => exact hb
  | partition name => exact h.tilePartition
  | sequence => exact h.tileSequence
  | done v reads writes plateReads plateWrites =>
    delta State.finishBody
    dsimp -zeta only
    extract_lets finish
    have hf : ∀ {w : State}, Keeps s w → AnswerKeeps s (finish w) := by
      intro w k
      simp only [finish]
      split
      · exact h.tileUE
      · exact .ite h.tileUE k.onTile.retire.watch
    replace hb : Keeps s v := hb
    split
    · exact hf hb
    · exact hf hb
    · exact .ite (hf hb.onTile) (hf hb)
    · exact .ite h.addPoison.tileUE (hf hb)
    · exact .ite (hf hb) (hf hb.onTile)
    · exact .ite h.onTile.tileUE (hf hb)
    · exact hf hb

theorem issue {a : At} {u : Upset} {body : Part → Body} (hb : ∀ p, BodyKeeps s (body p)) :
    AnswerKeeps s (t.issue g a unit u body) := by
  unfold State.issue
  refine .ite trivial (.ite h (.ite h (.ite h ?_)))
  split
  · exact h.finishBody (hb _)
  · exact h.hitBreak

/-! ### The matrix engine (Machine/Matrix) -/

theorem writeFrame {b : Bank} {at0 l : Nat} {ns : List Node} : Keeps s (b.writeFrame t at0 l ns) := by
  have k : Keeps s ((ns.zipIdx).foldl _ _) := (h.zero (lo := at0 + b.frame l) (hi := at0 + b.frame l + b.frameBytes)).foldl
    (f := fun u x => u.write (at0 + b.frame l + cellKey b.cols x.2 * 4) (leBytes 4 x.1.v.toNat)) (fun _ _ k => k.write) _
  exact .ite k (k.foldl (fun _ _ k => .ite k.write k) _)

theorem push {b : Bank} {at0 m spans : Nat} {ns : List Node} {again : List Bool} :
    Keeps s (b.push t at0 m spans ns again).2 := by
  unfold Bank.push
  dsimp only
  split
  · exact h.writeFrame
  · exact h

theorem residue {bank : Nat} {persistent : Bool} : Keeps s (t.residue n e fn bank iaddr persistent) :=
  .ite h.onTile.report ((h.onTile.stopSeq.foldl (fun _ _ k => k.report) _).retireTile)

theorem withResidue {bank : Nat} {u : Upset} {b : Body} (hb : BodyKeeps s b) :
    BodyKeeps s (withResidue t n e fn bank iaddr u b) := by
  unfold Machine.withResidue
  split
  · exact h.residue
  · exact Keeps.residue hb
  · exact hb

theorem mmaBody {op : MmaOp} {u : Upset} {p : Part} : BodyKeeps s (mmaBody t n e op u p) := by
  unfold Machine.mmaBody
  refine .ite trivial (.ite trivial ?_)
  dsimp only
  split
  · trivial
  · exact h.withResidue h.push.onTile

theorem execMma {a : At} {op : MmaOp} {u : Upset} : AnswerKeeps s (execMma a op u t) := h.issue fun _ => h.mmaBody

theorem execMtree {a : At} {op : MtreeOp} : AnswerKeeps s (execMtree a op t) := by
  refine h.issue fun p => .ite trivial (.ite trivial ?_)
  split
  · trivial
  · exact h.onTile

theorem foldBody {b : Bank} {u : Upset} {p : Part} {m : Nat} : BodyKeeps s (foldBody t n e m b u p) := by
  unfold Machine.foldBody
  dsimp only
  split
  · trivial
  · exact h.withResidue h.onTile

theorem execMdrain {a : At} {bank : BitVec 2} {fold : Bool} {u : Upset} : AnswerKeeps s (execMdrain a bank fold u t) := by
  refine h.issue fun p => .ite trivial (.ite h ?_)
  split
  · trivial
  · exact h
  · exact .ite h.foldBody trivial

theorem execMsave {a : At} {bank : BitVec 2} {dst : BitVec 16} : AnswerKeeps s (execMsave a bank dst t) :=
  h.issue fun _ => .ite trivial (.ite trivial (.ite trivial h.write))

theorem execMclr {a : At} {bank : BitVec 2} : AnswerKeeps s (execMclr a bank t) :=
  h.issue fun _ => .ite trivial h.onTile

/-! ### The vector engine (Machine/Vector) -/

variable {a : At} {op : VOp}

theorem vissue {u : Upset} {tys : List Nat} {sub : Nat} {body : Part → Body} (hb : ∀ p, BodyKeeps s (body p)) :
    AnswerKeeps s (vissue a op u tys sub t body) := h.issue fun p => .ite trivial (hb p)

theorem store {p : Part} {desc : W32} {vs : List W32} {ev : Ev} {reads : List (Nat × Nat)} :
    BodyKeeps s (p.store t n e desc vs ev reads) := by
  unfold Part.store
  split
  · trivial
  · exact h.onTile

omit h in
theorem srcFault {b : Body} : ∀ {l : List Src}, srcFault l = some b → BodyKeeps s b
  | .reserved :: _, hb => by cases hb; trivial
  | .outside _ :: _, hb => by cases hb; trivial
  | .run _ :: l, hb => srcFault (l := l) hb
  | .all _ :: l, hb => srcFault (l := l) hb

theorem elementBody {m : Nat} {f : Nat → W32 → W32 → W32 → W32 × Ev} {p : Part} : BodyKeeps s (elementBody t a op m f p) := by
  unfold Machine.elementBody
  refine .ite trivial ?_
  split
  · exact srcFault ‹_›
  · exact h.store

theorem elementwise {tys : List Nat} {sub m : Nat} {f : W32 → W32 → W32 → W32 × Ev} :
    AnswerKeeps s (elementwise a op tys sub m f t) := h.vissue fun _ => h.elementBody

theorem execViota : AnswerKeeps s (execViota a op t) := h.vissue fun _ => h.elementBody

theorem execVsets : AnswerKeeps s (execVsets a op t) := h.vissue fun _ => .ite trivial h.onTile

theorem execVcvt : AnswerKeeps s (execVcvt a op t) := by
  refine h.vissue fun p => .ite trivial ?_
  split
  · trivial
  · exact h.store

theorem execVld {u : Upset} : AnswerKeeps s (execVld a op u t) := by
  refine h.vissue fun p => .ite trivial (.ite trivial (.ite trivial ?_))
  split
  · trivial
  · exact h.onTile

theorem execVst {u : Upset} : AnswerKeeps s (execVst a op u t) := by
  refine h.vissue fun p => .ite trivial (.ite trivial (.ite trivial ?_))
  split
  · trivial
  · exact (h.write.foldl (fun _ _ k => k.write) _).onTile

theorem vredWhole {va vb : List W32} {ev : Ev} {reads : List (Nat × Nat)} : BodyKeeps s (vredWhole t a op va vb ev reads) := by
  unfold Machine.vredWhole
  refine .ite ?_ (.ite ?_ h.setTile)
  · dsimp only
    split
    · trivial
    · exact h.setTile
  · dsimp only
    split
    · trivial
    · exact .ite trivial h.setTile

theorem execVred : AnswerKeeps s (execVred a op t) := by
  refine h.vissue fun p => .ite trivial ?_
  dsimp only
  split
  · exact srcFault ‹_›
  · exact .ite h.vredWhole (.ite trivial h.store)

theorem execVropen : AnswerKeeps s (execVropen a op t) := h.issue fun _ => .ite trivial (.ite trivial h.setTile)

theorem execVrfold : AnswerKeeps s (execVrfold a op t) :=
  h.issue fun _ => .ite trivial (.ite (.ite trivial h.setTile.write) h.setTile)

theorem execVrclr : AnswerKeeps s (execVrclr a op t) := h.issue fun _ => .ite trivial h.onTile

theorem execVevt : AnswerKeeps s (execVevt a op t) := h.issue fun _ => .ite trivial h.onTile

theorem execVrdacc : AnswerKeeps s (execVrdacc a op t) :=
  h.vissue fun _ => .ite trivial (.ite trivial (.ite trivial h.setTile.store))

theorem execVscan : AnswerKeeps s (execVscan a op t) := by
  refine h.vissue fun p => .ite trivial ?_
  dsimp only
  split
  · exact srcFault ‹_›
  · exact h.setTile.store

theorem execVsort : AnswerKeeps s (execVsort a op t) := by
  refine h.vissue fun p => .ite trivial ?_
  dsimp only
  split
  · exact srcFault ‹_›
  · trivial
  · trivial
  · exact h.setTile

theorem execVgath : AnswerKeeps s (execVgath a op t) := by
  refine h.vissue fun p => .ite trivial ?_
  dsimp only
  split
  · exact srcFault ‹_›
  · exact h.store

theorem execVscat : AnswerKeeps s (execVscat a op t) := by
  refine h.vissue fun p => .ite trivial ?_
  dsimp only
  split
  · exact srcFault ‹_›
  · trivial
  · exact h.setTile

theorem treeMismatch {tree : W32} {m : Mismatch} : Keeps s (t.treeMismatch n e fn unit tree m) :=
  .ite h.setTile.report.onFunc.drain h.setTile.report.onFunc

theorem vcombBody {p : Part} : BodyKeeps s (vcombBody t a op p) := by
  unfold Machine.vcombBody
  refine .ite trivial (.ite trivial ?_)
  dsimp only
  split
  · trivial
  · split
    · exact .ite h.treeMismatch h.treeMismatch
    · split
      · trivial
      · refine .ite (.ite trivial h.setTile.write) (.ite trivial ?_)
        split
        · trivial
        · exact h.setTile

theorem execVcomb {u : Upset} : AnswerKeeps s (execVcomb a op u t) := h.issue fun _ => .ite trivial h.vcombBody

end

/-! ### An instruction from its words (Machine/TileCode) -/

/-- Whatever meaning a lookup finds keeps it. -/
def MeaningKeeps (s t : State) (o : Option (At → VOp → State → Answer)) : Prop :=
  ∀ f, o = some f → ∀ a op, AnswerKeeps s (f a op t)

theorem meaning {s t : State} {c : Prop} [Decidable c] {f : At → VOp → State → Answer} {o : Option (At → VOp → State → Answer)}
    (hf : ∀ {a op}, AnswerKeeps s (f a op t)) (ho : MeaningKeeps s t o) : MeaningKeeps s t (if c then some f else o) := by
  split
  · intro _ h _ _; cases h; exact hf
  · exact ho

section
variable {s t : State} (h : Keeps s t)
include h

theorem vectorOp {op : Nat} : MeaningKeeps s t (vectorOp op) :=
  meaning h.elementwise <| meaning h.elementwise <| meaning h.elementwise <| meaning h.elementwise <| meaning h.elementwise <|
  meaning h.elementwise <| meaning h.elementwise <| meaning h.elementwise <| meaning h.elementwise <| meaning h.elementwise <|
  meaning h.elementwise <| meaning h.elementwise <| meaning h.elementwise <| meaning h.elementwise <| meaning h.elementwise <|
  meaning h.elementwise <| meaning h.elementwise <| meaning h.elementwise <| meaning h.elementwise <| meaning h.elementwise <|
  meaning h.elementwise <| meaning h.execVcvt <| meaning h.execViota <| meaning h.elementwise <| meaning h.execVsets <|
  meaning h.execVld <| meaning h.execVst <| meaning h.execVrdacc <| meaning h.execVropen <| meaning h.execVred <|
  meaning h.execVrfold <| meaning h.execVrclr <| meaning h.execVevt <| meaning h.execVscan <| meaning h.execVsort <|
  meaning h.execVgath <| meaning h.execVscat <| meaning h.execVcomb fun _ hf => nomatch hf

theorem runTile {a : At} {bs : List Byte} : AnswerKeeps s (t.runTile a bs) := by
  unfold State.runTile
  refine .ite (h.issue fun _ => trivial) (.ite h.execMma (.ite h.execMtree (.ite h.execMdrain (.ite h.execMsave (.ite h.execMclr ?_)))))
  split
  · exact h.vectorOp _ ‹_› _ _
  · exact h.issue fun _ => trivial

end

end Keeps

end Sys2Proof.Machine
end

section
/-! SUPPORT. That queues, memory errors, the error ring and the life of functions keep what every step keeps (R437,
assumption 2). -/
namespace Sys2Proof.Machine

theorem Errors.arming_held (e : Errors) (epoch : W32) : (e.arming epoch).held = e.held := by
  unfold Errors.arming
  split <;> rfl

theorem Errors.consume_held (e : Errors) (rd : W32) : (e.consume rd).held = e.held := by
  unfold Errors.consume
  split <;> rfl

namespace Keeps

section
variable {s t : State} (h : Keeps s t)
include h

/-! ### Queues (Machine/Queues) -/

variable {n fn q op p a : Nat} {bs : List Byte} {d : HostData} {c : Cmd}

theorem finish {status : Nat} {result : List Byte} : AnswerKeeps s (t.finish c status result) := h.complete

theorem haltQueue {err : Nat} : Keeps s (t.haltQueue n err) := h.setQueue.flushQueue

theorem acceptEntry : Keeps s (t.acceptEntry n bs) := by
  unfold State.acceptEntry
  dsimp only
  split
  · exact h.setQueue.complete
  · exact .ite h.setQueue.complete h.setQueue

theorem judgeEntry : Keeps s (t.judgeEntry n d) := by
  unfold State.judgeEntry
  dsimp only
  split
  · exact .ite h.acceptEntry (.ite h.haltQueue.report h.setQueue)
  · exact h.haltQueue

theorem execEntryReread : AnswerKeeps s (execEntryReread q d t) := .ite trivial (.ite h (.ite h.judgeEntry h))

theorem doorbell {half : Option Bool} {v : W64} : Keeps s (t.doorbell q half v) := h.setQueue.flushQueue.settleDestroy

theorem execDoorbellWrite {half : Option Bool} {v : W64} : AnswerKeeps s (execDoorbellWrite q half v t) := .ite trivial h.doorbell

theorem withCmd {f : Cmd → Answer} (hf : ∀ c, AnswerKeeps s (f c)) : AnswerKeeps s (t.withCmd q op f) := by
  unfold State.withCmd
  split
  · exact h
  · exact .ite (hf _) h

theorem dropCmds {f : Nat → Bool} : Keeps s (t.dropCmds f) := (h.foldl (fun _ _ k => k.setFunc) _).onQueues.rest

theorem cancelLong : Keeps s (t.cancelLong q) := h.foldl (fun _ _ k => k.setFunc.completeAll.completeAll) _

theorem execQcreate : AnswerKeeps s (execQcreate q t) := by
  refine h.withCmd fun c => ?_
  dsimp only
  split
  · exact h.finish
  · refine .ite h.finish (.ite h.finish (Keeps.finish ?_))
    split
    · exact h.setQueue.rest
    · exact h.setQueue

theorem execQdestroy : AnswerKeeps s (execQdestroy q t) :=
  h.withCmd fun _ => .ite h.finish (.ite h.finish h.cancelLong.onQueue.settleDestroy)

theorem execQresume : AnswerKeeps s (execQresume q t) :=
  h.withCmd fun _ => .ite h.finish (.ite h.finish h.setQueue.finish)

theorem armQueue : Keeps s t.armQueue := .ite h.rest h.dropCmds.setQueue

theorem disarmQueue : Keeps s t.disarmQueue := .ite h h.cancelLong.onQueue.settleDestroy

/-! ### NV storage and copies of experts (Machine/Nv, Machine/Ert) -/

theorem drawEnd : Keeps s t.drawEnd.1 := h.rest

theorem nvError {slot off : Nat} : Keeps s (t.nvError slot off) := h.report

theorem listWritten {failed : Bool} {wrote : Option (Nv × Nat)} : Keeps s (t.listWritten failed wrote) := by
  unfold State.listWritten
  split
  · exact .ite h.rest.nvError h.rest
  · exact h.rest.nvError

theorem writeRetList : Keeps s t.writeRetList := h.rest.listWritten

theorem takeSlot {needed : Nat → Bool} {k : Nat} {u : State} (hu : t.takeSlot fn needed = some (k, u)) : Keeps s u := by
  unfold State.takeSlot at hu
  split at hu
  · cases hu; exact h
  · split at hu
    · cases hu
    · cases hu; exact h.setErt

theorem demandFetch {x : Nat} : Keeps s (t.demandFetch fn x) := by
  unfold State.demandFetch
  split
  · exact h.setErt
  · exact (h.takeSlot ‹_›).setErt.onFunc

theorem withdrawSlot {k : Nat} : Keeps s (t.withdrawSlot fn k) :=
  have k := (h.foldl (fun _ _ k => .ite k.setErt k) _).onFunc
  .ite k.drain k

/-! ### Memory errors (Machine/Hbm) -/

theorem voteBit {bit : Nat} : Keeps s (t.voteBit fn bit) := h.onFunc

theorem askRestart {cause : Nat} : Keeps s (t.askRestart cause) := h.rest

theorem takeRow {va row : Nat} : Keeps s (t.takeRow fn va row) := by
  unfold State.takeRow
  refine .ite ?_ (.ite h.voteBit h.drain)
  dsimp only
  split
  · exact h.setErt.demandFetch
  · exact h

theorem retirePage : Keeps s (t.retirePage p) := by
  unfold State.retirePage
  dsimp only
  split
  · exact h.setPage.report.setPage
  · exact h.setPage.report
  · exact h.setPage.report.onFunc
  · split
    · exact .ite h.setPage.report.withdrawSlot h.setPage.report.onFunc
    · exact h.setPage.report

theorem advancePage : Keeps s (t.advancePage p) := by
  unfold State.advancePage
  dsimp only
  split
  · exact h.setPage.setPage.writeRetList
  · exact h.setPage.retirePage.writeRetList
  · exact h.setPage

theorem countUE {patrol : Bool} : Keeps s (t.countUE a patrol) := .ite h.setStack h.setStack.setDie

theorem logMismatch : Keeps s (t.logMismatch p) := h.rest.countUE

theorem hbmUE : Keeps s (t.hbmUE a) := by
  have k : Keeps s ((t.addPoison (a / 64 * 64)).countUE (a / 64 * 64) false) := h.addPoison.countUE
  unfold State.hbmUE
  refine advancePage ?_
  dsimp only
  split
  · exact k.report
  · exact (k.report.foldl (fun _ _ k => .ite k.drain k) _).askRestart
  · split
    · exact .ite k.report k.report.onQueue
    · exact k.report
  · split
    · exact k.report.takeRow
    · exact k

theorem companionUE {le : Option (Nat × Nat)} : Keeps s (t.companionUE a le) := by
  unfold State.companionUE
  dsimp only
  split
  · exact h.addPoison
  · exact h.addPoison.report.takeRow

theorem hbmCE : Keeps s (t.hbmCE a) := h.setStack

theorem sramCE : Keeps s (t.sramCE a) := by
  unfold State.sramCE
  split
  · exact h.setDie
  · exact h.onTile
  · exact h

theorem sramUE : Keeps s (t.sramUE fn a) := by
  unfold State.sramUE
  dsimp only
  split
  · exact h.addPoison.setDie.report.drain
  · exact .ite h.addPoison.onTile.report.drain.retireTile h.addPoison.onTile.report.drain
  · exact h.addPoison

theorem muleMeets : Keeps s (t.muleMeets fn a) := by
  unfold State.muleMeets
  split
  · exact h.hbmUE
  · exact h.companionUE
  · exact h.sramUE

theorem meetEdges {rs : List (Nat × Nat)} : Keeps s (t.meetEdges fn rs) := h.foldl (fun _ _ k => k.muleMeets) _

theorem ertUE {x : Nat} : Keeps s (t.ertUE x) := .ite h.report.drain h

theorem execEntryFetch {upset : Upset} : AnswerKeeps s (execEntryFetch q d upset t) := by
  have fetch : ∀ {u : State}, Keeps s u →
      AnswerKeeps s (if u.fetchReady q && !(u.queue q).stale then .next (u.judgeEntry q d) else .next u) :=
    fun k => .ite k.judgeEntry k
  unfold Machine.execEntryFetch
  refine .ite trivial (.ite h ?_)
  dsimp only
  have k : Keeps s ((((t.descLine q).filter fun a => t.poison.contains (a / 64 * 64) && t.fetchReady q).map t.hbmUE).getD t) := by
    refine h.getD fun u hu => ?_
    obtain ⟨_, _, rfl⟩ := Option.map_eq_some_iff.mp hu
    exact h.hbmUE
  split
  · exact fetch (.ite k.hbmUE k)
  · exact fetch (.ite k.hbmCE k)
  · exact fetch k

theorem execCeWriteback : AnswerKeeps s (execCeWriteback a t) := .ite h trivial

theorem endPass {die : Nat} : Keeps s (t.endPass die) := h.setDie

theorem execPatrolRead {upset : Upset} {last : Bool} : AnswerKeeps s (execPatrolRead a upset last t) := by
  have done : ∀ {u : State}, Keeps s u → Keeps s (if last then u.endPass (a / 64 * 64 / pageSize / 32768 / 3) else u) :=
    fun k => .ite k.endPass k
  unfold Machine.execPatrolRead
  refine .ite trivial ?_
  dsimp only
  split
  · exact done h
  · exact done h.hbmCE
  · exact .ite (done h) (done (Keeps.ite h.addPoison.countUE.report h.addPoison.countUE).advancePage)
  · exact done h

theorem execPatrolSlow {die : Nat} : AnswerKeeps s (execPatrolSlow die t) := .ite h.setDie trivial

theorem failStack {k : Nat} : Keeps s (t.failStack k) := h.setStack.report.drainEach

theorem execStackFailed {k : Nat} : AnswerKeeps s (execStackFailed k t) := .ite trivial (.ite h h.failStack)

theorem execTileStall {tile : Nat} : AnswerKeeps s (execTileStall tile t) :=
  .ite trivial (.ite h (.ite h.onTile.report.drainEach h))

theorem execHostBiasFlip {vpn : Nat} {write : Bool} : AnswerKeeps s (execHostBiasFlip fn vpn write t) :=
  .ite trivial (.ite h (Keeps.ite h.setFunc.report h.setFunc))

theorem execDeviceBiasGrant {vpn : Nat} : AnswerKeeps s (execDeviceBiasGrant fn vpn t) := .ite trivial (.ite h.onFunc h)

/-! ### The error ring (Machine/Errors) -/

theorem execErrctlArm : AnswerKeeps s (execErrctlArm t) := h.withErrs (congrArg List.length (Errors.arming_held _ _)).le

theorem execErrptrRdWrite {rd : W32} : AnswerKeeps s (execErrptrRdWrite rd t) := h.withErrs (congrArg List.length (Errors.consume_held _ _)).le

theorem writeErr : Keeps s t.writeErr := by
  unfold State.writeErr
  split
  · exact h
  · rename_i r rest hr
    have k := h.write (a := hostDpa t.errs.addr) (bs := r.bytes) |>.withErrs
      (e := { t.errs with held := rest, wr := t.errs.wr + 1 }) (by simp [hr])
    exact .ite (.ite k.interrupt k) h

theorem execErrorRecordWrite {ack : HostAck} : AnswerKeeps s (execErrorRecordWrite ack t) := by
  cases ack with
  | acked => exact h.writeErr
  | error => exact h

/-! ### The life of functions (Machine/Functions) -/

theorem takeFirmwarePages : Keeps s t.takeFirmwarePages := h.foldl (fun _ _ k => k.setPage) _

theorem execEnable : AnswerKeeps s (execEnable q d t) := by
  refine h.withCmd fun c => .ite h.finish (.ite h (.ite h.finish (.ite h ?_)))
  split
  · exact h.finish
  · exact h.setFunc.release
  · refine .ite h.finish (.ite h ?_)
    split
    · exact h.finish
    · exact h.setFunc.release
  · refine .ite h.setFunc.release (.ite h ?_)
    split
    · exact h.finish
    · exact h.setFunc.release

theorem placePrograms {i : FuncImage} : Keeps s (t.placePrograms fn i) := by
  refine h.foldl (fun _ _ k => k.foldl (fun _ _ k => ?_) _) _
  dsimp only
  split
  · exact k.write
  · exact k

theorem placeShares {i : FuncImage} : Keeps s (t.placeShares fn i) := h.foldl (fun _ _ k => k.onTile) _

theorem placeErt {i : FuncImage} : Keeps s (t.placeErt fn i) := h.foldl (fun _ _ k => k.foldl (fun _ _ k => k.setErt) _) _

theorem execEnablingDone : AnswerKeeps s (execEnablingDone fn t) := by
  refine .ite trivial (.ite h ?_)
  split
  · exact h.setFunc.completeAll
  · exact ((h.foldl (fun _ _ k => k.setPage) _).foldl (fun _ _ k => k.setPage) _).placeShares.placeErt.placePrograms.setFunc.completeAll

theorem execDisable : AnswerKeeps s (execDisable q t) := by
  refine h.withCmd fun c => .ite h.finish ?_
  split
  · exact h.finish
  · exact h.drain.finish
  · exact h.drain.finish
  · exact h.setFunc.completeAll.finish

theorem execDrainComplete : AnswerKeeps s (execDrainComplete fn t) :=
  .ite trivial (.ite h (h.foldl (fun _ _ k => k.cancelLong.completeAll) _).onTiles.onFunc)

theorem scrubPage {bad : Bool} : Keeps s (t.scrubPage bad p) :=
  .ite h.setPage (.ite h.logMismatch.setPage.report.writeRetList h.zero.setPage)

theorem execScrubComplete {bad : List (Nat × Nat)} : AnswerKeeps s (execScrubComplete fn bad t) := by
  delta Machine.execScrubComplete
  refine .ite trivial (.ite h (.ite h ?_))
  extract_lets tiles staging pages ert queues u f off
  have k : Keeps s u :=
    ((((h.foldl (fun _ _ k => (k.foldl (fun _ _ k => .ite k.zero k) _).onTile) _).foldl (fun _ _ k => k.zero) _).foldl
      (fun _ _ k => k.scrubPage) _).rest.foldl (fun _ _ k => k.setQueue) _).takeFirmwarePages
  show Keeps s _
  split
  · exact k.setFunc
  · exact .ite k.setFunc k.setFunc.completeAll

theorem meetPoison {rs : List (Nat × Nat)} : Keeps s (t.meetPoison fn rs) := h.foldl (fun _ _ k => k.muleMeets) _

theorem execCopyIn : AnswerKeeps s (execCopyIn q d t) := by
  refine h.withCmd fun c => .ite h.finish (.ite h.finish (.ite h ?_))
  split
  · exact .ite h.meetEdges.writeVA.finish h
  · exact h.finish

theorem execCopyOut {ack : HostAck} : AnswerKeeps s (execCopyOut q ack t) := by
  refine h.withCmd fun c => .ite h.finish (.ite h.finish (.ite h ?_))
  split
  · exact h.finish
  · exact h.write.meetPoison.finish

end

end Keeps

end Sys2Proof.Machine
end

section
/-! SUPPORT. That power, settings, herd links and images keep what every step keeps (R437, assumption 2). -/
namespace Sys2Proof.Machine

namespace Keeps

section
variable {s t : State} (h : Keeps s t)
include h

/-! ### Power (Machine/Power) -/

variable {n fn q p d : Nat} {b : List Byte} {c : Cmd} {v : W32}

theorem writePlimit : Keeps s (t.writePlimit v) := .ite h.rest h.rest

theorem writeTlimit : Keeps s (t.writeTlimit v) := .ite h.rest h.rest

theorem writeVcfg : Keeps s (t.writeVcfg v) := .ite h.rest h.rest

theorem judgeHeat : Keeps s (t.judgeHeat d) := .ite h.setDiePower.report h.setDiePower

theorem settleAlert : Keeps s t.settleAlert := .ite h.rest.emit h.rest

theorem samplePower {tel : Telemetry} : Keeps s (t.samplePower tel) :=
  .ite (h.rest.foldl (fun _ _ k => k.setDiePower) _).report (h.rest.foldl (fun _ _ k => k.setDiePower) _)

theorem markHot : Keeps s t.markHot :=
  .ite (h.foldl (fun _ _ k => k.setDiePower) _).rest (h.foldl (fun _ _ k => k.setDiePower) _)

theorem execPmgControlPeriod {tel : Telemetry} : AnswerKeeps s (execPmgControlPeriod tel t) :=
  .ite h (.ite h (((h.samplePower.markHot.foldl (fun _ _ k => k.setDiePower) _).foldl (fun _ _ k => k.judgeHeat) _).settleAlert))

theorem execTelemetryLoss : AnswerKeeps s (execTelemetryLoss d t) := .ite trivial (.ite h h.setDiePower.report)

theorem execSpeedShortfall {rate : Nat} : AnswerKeeps s (execSpeedShortfall d rate t) :=
  .ite trivial (.ite h h.setDiePower.rest.report)

theorem execCompensationRaise {rate : Nat} : AnswerKeeps s (execCompensationRaise d rate t) :=
  .ite trivial (.ite h (.ite h.setDiePower (.ite h.setDiePower h.setDiePower)))

theorem endComp : Keeps s t.endComp := h.foldl (fun _ _ k => k.setDiePower) _

theorem powerLost {cause : Nat} {supply : Supply} : Keeps s (t.powerLost cause supply) :=
  ⟨fun k => t.powerLost_wf cause supply (h.mem k), fun _ => Nat.zero_le _, h.asm, h.badRings, h.pending⟩

theorem execInputHighTrip : AnswerKeeps s (execInputHighTrip t) := .ite h h.powerLost

theorem execInputLowTrip : AnswerKeeps s (execInputLowTrip t) := .ite h h.powerLost

theorem execThermtrip {point temp stack : Nat} : AnswerKeeps s (execThermtrip d point temp stack t) := by
  unfold Machine.execThermtrip
  split
  · trivial
  · exact .ite h (.ite h h.powerLost.rest.emit)

theorem execSupplyFault {vmeas : Nat} : AnswerKeeps s (execSupplyFault d vmeas t) :=
  .ite trivial (.ite h (h.report.moduleLoss.foldl (fun _ _ k => k.writeErr) _).powerLost)

/-! ### Settings (Machine/Settings) -/

theorem setVlan {f : Nat} {v : Nat} : Keeps s (t.setVlan p f v) := h.setPort

theorem imgPut {v : Nat} : ∀ {r : ImgReg}, Keeps s (t.imgPut v r)
  | .etype _ => h.setHub
  | .portcfg _ => h.setPort
  | .macLo _ => h.setPort
  | .macHi _ => h.setPort
  | .vlan _ _ => h.setVlan
  | .plimit => h.writePlimit
  | .tlimit => h.writeTlimit
  | .vcfg => h.writeVcfg
  | .fwfloor => h.rest
  | .okeyctl => h.rest
  | .okey _ => h.rest

/-! ### Herd links (Machine/Link) -/

theorem countNoMatch : Keeps s (t.countNoMatch p) := h.setPort

theorem countErrFrame : Keeps s (t.countErrFrame p) := h.setPort

theorem sendRaw {kind tc : Nat} {retx : Bool} : Keeps s (t.sendRaw p kind tc retx b) := h.setPort.emit

theorem pump : Keeps s (t.pump p) := by
  refine h.foldl (fun _ _ k => ?_) _
  dsimp only
  split
  · exact k
  · exact .ite k.setPort.sendRaw k

theorem sendData {tc list xid : Nat} : Keeps s (t.sendData p tc fn list xid b) := h.setPort.pump

theorem resend : Keeps s (t.resend p) := .ite h (h.setPort.foldl (fun _ _ k => k.sendRaw) _)

theorem acked {ack : W32} : Keeps s (t.acked p ack) := by
  unfold State.acked
  refine .ite h ?_
  dsimp only
  split
  · exact .ite h.setPort.report.pump h.setPort.pump
  · exact h.setPort.pump

theorem takeAck {x : HerdHdr} : Keeps s (t.takeAck p x) := .ite h.acked.resend h.acked

theorem setNbr {x : Neighbour} : Keeps s (t.setNbr p x) := h.rest

theorem failLink : Keeps s (t.failLink p) :=
  .ite h (.ite (Keeps.ite h.setNbr.setPort.report.report h.setNbr.setPort.report).stopJobs.loseHerd
    (Keeps.ite h.setNbr.setPort.report.report h.setNbr.setPort.report).stopJobs)

theorem settleLinking : Keeps s t.settleLinking := .ite h.rest h

theorem formHerd {x : BaseImage} : Keeps s (t.formHerd x) := (h.rest.foldl (fun _ _ k => k.setPort) _).settleLinking

theorem leaveHerd : Keeps s t.leaveHerd := h.rest

/-! ### Images (Machine/ImageCmd) -/

theorem answer {o : Option Cmd} {status : Nat} {result : List Byte} : Keeps s (t.answer o status result) := by
  cases o with
  | none => exact h
  | some c => exact h.complete

theorem refuseImage {o : Option Cmd} {x : Verdict} : Keeps s (t.refuseImage o x) := h.rest.answer

theorem withImage {lib : Bool} {d : HostData} {f : List Byte → Answer} (hf : ∀ b, AnswerKeeps s (f b)) :
    AnswerKeeps s (t.withImage lib c d f) := by
  unfold State.withImage
  refine .ite h ?_
  split
  · exact h.finish
  · exact h
  · exact h.finish
  · exact h
  · exact hf _

theorem execCheck {d : HostData} : AnswerKeeps s (execCheck q d t) :=
  h.withCmd fun _ => h.withImage fun _ => .ite h.refuseImage h.rest.finish

theorem startLoad {o : Option Cmd} {store : Bool} {ids : List Nat} : Keeps s (t.startLoad o b store ids).1 := by
  unfold State.startLoad
  dsimp only
  split
  · exact h.refuseImage
  · exact h.rest

theorem execLoad {d : HostData} : AnswerKeeps s (execLoad q d t) :=
  h.withCmd fun _ => .ite h.finish (h.withImage fun _ => h.startLoad)

theorem autoload {ids : List Nat} : Keeps s (State.autoload ids t) := by
  induction ids generalizing t with
  | nil => exact h
  | cons id ids ih =>
    unfold State.autoload
    split
    · exact ih h
    · exact .ite h.startLoad (ih h.startLoad)

theorem install : Keeps s (t.install b) :=
  .ite (h.endComp.formHerd.foldl (fun _ _ k => k.setDiePower) _) (h.foldl (fun _ _ k => k.rest) _)

theorem storeEntry {how : NvEnd} {u : State} {k : Nat} (hu : t.storeEntry b how = some (u, k)) : Keeps s u := by
  unfold State.storeEntry at hu
  split at hu
  · cases hu
  · obtain ⟨⟨v, n⟩, -, hv⟩ := Option.map_eq_some_iff.mp hu
    cases how <;> cases hv
    · exact h.rest
    · exact h.rest.nvError
    · exact h.rest

theorem endLoad {w : ImageWait} {how : NvEnd} : Keeps s (t.endLoad w how) := by
  unfold State.endLoad
  have stored : ∀ {u k}, (if w.store then t.storeEntry w.image how else none) = some (u, k) → Keeps s u := by
    intro u k hu
    split at hu
    · exact h.storeEntry hu
    · cases hu
  dsimp only
  split
  · exact h.answer.autoload
  · exact (stored ‹_›).answer.autoload
  · exact (stored ‹_›).answer.autoload
  · exact stored ‹_›

theorem execImageAccept : AnswerKeeps s (execImageAccept t) := by
  unfold Machine.execImageAccept
  split
  · exact h
  · exact .ite h.rest.refuseImage.autoload (.ite h.rest.install.rest.drawEnd.endLoad h.rest.install.rest.endLoad)

theorem refuseStore {outcome : Nat} : AnswerKeeps s (t.refuseStore c outcome) := h.rest.finish

theorem endNv {how : NvEnd} {slot off : Nat} {result : List Byte} : AnswerKeeps s (t.endNv c how slot off result) := by
  cases how with
  | done => exact h.rest.finish
  | fails => exact h.nvError.finish
  | cut => exact h

theorem storePair {pair : Nat} {how : NvEnd} : AnswerKeeps s (t.storePair c pair how b) := .ite h.refuseStore h.rest.endNv

theorem storeImage {how : NvEnd} : AnswerKeeps s (t.storeImage c how b) := by
  unfold State.storeImage
  split
  · exact h.refuseImage
  · split
    · exact h.refuseStore
    · rename_i u id hu
      have k := h.storeEntry hu
      cases how with
      | done => exact k.rest.finish
      | fails => exact k.finish
      | cut => exact k

theorem execStore {d : HostData} {how : NvEnd} : AnswerKeeps s (execStore q d how t) :=
  h.withCmd fun _ => .ite h.refuseStore (h.withImage fun _ => .ite (.ite h.refuseStore h.storePair)
    (.ite (.ite h.refuseStore h.storePair) h.storeImage))

theorem execRemove : AnswerKeeps s (execRemove q t) := by
  refine h.withCmd fun c => .ite h (.ite h.refuseStore ?_)
  split
  · exact h.finish
  · exact Keeps.endNv (.ite h.drawEnd.rest.rest h.drawEnd.rest)

theorem execUnload : AnswerKeeps s (execUnload q t) :=
  h.withCmd fun _ => .ite h (.ite h.finish (.ite h.endComp.leaveHerd.rest.finish h.rest.finish))

end

end Keeps

end Sys2Proof.Machine
end

section
/-! SUPPORT. That the herd's slots, the steps of a job and the update sweep keep what every step keeps (R437, assumption 2). -/
namespace Sys2Proof.Machine

namespace Keeps

section
variable {s t : State} (h : Keeps s t)
include h

variable {fn idx p q op : Nat} {b : List Byte} {c : Cmd}

/-! ### Steps of a job (Machine/Herd) -/

theorem issueDue : Keeps s (t.issueDue fn) := .ite h.setFunc h

theorem endBatch {ended : DispatchSeen → Bool} : Keeps s (t.endBatch fn ended) := by
  delta State.endBatch
  exact h.onFunc

theorem beginStep {first : W32} : Keeps s (t.beginStep fn first) := h.endBatch.onFunc.onTiles.issueDue

theorem takeStop {interrupted : Bool} : Keeps s (t.takeStop fn interrupted) := h.endJob.onFunc

theorem slotStops : Keeps s (t.slotStops fn) := .ite h.takeStop h

theorem startDue : Keeps s (t.startDue fn) := .ite (.ite h.takeStop h.setFunc.beginStep) h

theorem heatUpdate : Keeps s (t.heatUpdate fn) := by
  delta State.heatUpdate
  exact (h.foldl (fun _ _ k => k.setErt) _).onFunc

theorem haltSkew : Keeps s (t.haltSkew fn) := h.clearSteps.onFunc

theorem boundaryStop {at_ : W32} {u : State} (hu : t.boundaryStop fn at_ = some u) : Keeps s u := by
  delta State.boundaryStop at hu
  extract_lets f j voted skew mark at hu
  have marked : ∀ {u : State}, Keeps s u → Keeps s (mark u) := fun k => .ite k.onFunc k
  split at hu
  · cases hu
    exact marked h.rest.report.endJob
  · split at hu
    · cases hu
      exact marked h.report.endJob
    · split at hu
      · cases hu
        exact h.drain
      · split at hu
        · cases hu
          exact marked h.takeStop
        · split at hu
          · cases hu
            exact h.haltSkew
          · cases hu

theorem stepBoundary {len : Nat} : Keeps s (t.stepBoundary fn len) := by
  unfold State.stepBoundary
  dsimp only
  split
  · exact (h.heatUpdate.onFunc.boundaryStop ‹_›).onFunc
  · exact h.heatUpdate.onFunc.beginStep

theorem settleSteps {n : Nat} : Keeps s (State.settleSteps fn n t) := by
  induction n generalizing t with
  | zero => exact h
  | succ n ih =>
    unfold State.settleSteps
    split
    · exact h
    · exact ih h.stepBoundary

theorem boundaryFunc {advanced : Bool} : Keeps s (State.boundaryFunc advanced t fn) :=
  .ite h.slotStops.startDue.issueDue.settleSteps h.slotStops.startDue

/-! ### Slots of the herd (Machine/Herd) -/

theorem sendCtrl : Keeps s t.sendCtrl := h.foldl (fun _ _ k => .ite k.sendRaw.sendRaw k) _

theorem missPort : Keeps s (t.missPort p) := .ite h.rest.setNbr.failLink h.rest.setNbr

theorem execControlMiss : AnswerKeeps s (execControlMiss p t) := .ite trivial (.ite h.missPort h)

theorem attributed {cs : List (Nat × HoldKind)} : Keeps s (t.attribute cs) :=
  .ite h.rest (.ite h (h.foldl (fun _ _ k => k.setFunc) _))

theorem decideWave : Keeps s t.decideWave.1 := by
  unfold State.decideWave
  dsimp only
  split
  · exact .ite h.rest.attributed h.rest
  · split
    · exact h.rest
    · exact h.rest

theorem voteSlot : Keeps s (t.voteSlot fn) := .ite h.setFunc h

theorem newSlot : Keeps s t.newSlot := h.foldl (fun _ _ k => k.setNbr) _

theorem sampleLate {cs : List (Nat × HoldKind)} : Keeps s (t.sampleLate cs) := h.rest

theorem turnSlot : Keeps s t.turnSlot :=
  have k := h.foldl (fun _ _ k => k.missPort) _
  .ite ((k.decideWave.foldl (fun _ _ k => k.voteSlot) _).foldl (fun _ _ k => k.boundaryFunc) _).newSlot k

theorem tickSlot : Keeps s t.tickSlot := h.rest

theorem execHerdSlotBoundary {causes : List (Nat × HoldKind)} : AnswerKeeps s (execHerdSlotBoundary causes t) :=
  .ite (Keeps.ite h.tickSlot.turnSlot.sampleLate.sendCtrl h.tickSlot.turnSlot) h.tickSlot

theorem takeVote : Keeps s (t.takeVote p b) := .ite h.setNbr (.ite h.setNbr.setFunc (.ite h.setNbr.setFunc h.setNbr.setNbr))

theorem startMismatch {member : Nat} {agreed : Bool} : Keeps s (t.startMismatch member fn agreed) := .ite h.report.drain h.report.endJob

theorem takeControl : Keeps s (t.takeControl p b) := h.rest.setNbr.foldl (fun _ _ k => k.startMismatch) _

theorem takeCtrl {xid : Nat} : Keeps s (t.takeCtrl p b xid) := (Keeps.ite h.takeControl h).foldl (fun _ _ k => k.takeVote) _

theorem execCtrlFrameReceive {frame : Frame} : AnswerKeeps s (execCtrlFrameReceive p frame t) := by
  refine .ite trivial (.ite h ?_)
  split
  · exact h.countNoMatch
  · exact h.countErrFrame
  · exact .ite h (.ite h.countErrFrame (Keeps.ite h.takeAck.takeCtrl h.takeAck))

theorem execHoldTimeout : AnswerKeeps s (execHoldTimeout fn idx t) := by
  refine .ite trivial ?_
  dsimp only
  split
  · exact h
  · exact .ite h.report.drain h

theorem execStart : AnswerKeeps s (execStart q t) := by
  refine h.withCmd fun c => ?_
  dsimp only
  split
  · exact h.finish
  · refine .ite h.finish (.ite h.finish ?_)
    split
    · refine Keeps.finish ?_
      split
      · exact h.report
      · exact h
    · exact h.setFunc.finish

theorem execStop : AnswerKeeps s (execStop q t) :=
  h.withCmd fun _ => .ite h.finish (.ite h (.ite h.finish (.ite h.setFunc h.finish)))

theorem execResume : AnswerKeeps s (execResume q t) := h.withCmd fun _ => .ite h (.ite h.finish h.setFunc)

theorem execStepend : AnswerKeeps s (execStepend fn t) := by
  refine .ite trivial ?_
  split
  · exact h
  · exact h.stepBoundary

theorem withItem {want : ItemSt} {act : Func → StepEntry → Answer} (hact : ∀ f e, AnswerKeeps s (act f e)) :
    AnswerKeeps s (t.withItem fn idx op want act) := by
  unfold State.withItem
  refine .ite trivial ?_
  dsimp only
  split
  · exact h
  · exact .ite h (.ite h (.ite h (hact _ _)))

theorem execVote : AnswerKeeps s (execVote fn idx t) := h.withItem fun _ _ => h.setFunc

/-! ### The update sweep (Machine/Sweep) -/

theorem execUcmd : AnswerKeeps s (execUcmd fn idx t) := h.withItem fun _ _ => h.setFunc.foldl (fun _ _ k => k.write) _

theorem noteRefresh {step : W32} {gi retries : Nat} {left fell : Bool} : Keeps s (t.noteRefresh fn step gi left retries fell) := by
  delta State.noteRefresh
  exact h.onFunc

theorem sweepBlock {step : W32} {u : UpdCmd} {l : Layer} {ch : Chunk} {te : Nat × Nat} {pos : Nat} {bl : Block}
    {pg : Option (List W32)} : Keeps s (t.sweepBlock fn step u l ch te pos bl pg).1 := h.setTile

theorem chunkPayload {step : W32} {u : UpdCmd} {te : Nat × Nat} {ch : Chunk} : Keeps s (t.chunkPayload fn step u te ch).1 := by
  delta State.chunkPayload
  extract_lets i count
  have counts : ∀ {u : State} {ev}, Keeps s u → Keeps s (count u ev) := fun k => k.onTile
  split
  · exact h
  · split
    · split
      · exact h
      · exact .ite (counts h) h
    · split
      · exact h
      · exact (Keeps.ite (counts h) h).noteRefresh
    · extract_lets bs groups v v0
      have hv : Keeps s v0 := counts h
      refine Keeps.foldl (Keeps.foldl_fst hv (fun acc x _ => ?_) _ _) (fun _ _ k => k.onFunc) _
      exact hv.rest.sweepBlock

theorem writeEntry {step : W32} {ch : Chunk} : Keeps s (t.writeEntry fn step ch b) := by
  delta State.writeEntry
  exact h.writeVA.writeVA.onFunc

theorem cmdCrc {ch : Chunk} : Keeps s (t.cmdCrc fn ch) := .ite h.report.onFunc.drain h.report.onFunc

theorem readPoison {rs : List (Nat × Nat)} : Keeps s (t.readPoison fn rs) :=
  .ite h (h.foldl (fun _ _ k => .ite k.muleMeets k) _)

theorem writePoison {rs : List (Nat × Nat)} : Keeps s (t.writePoison fn rs) := .ite h h.meetEdges

theorem sweepChunk {step : W32} {te : Nat × Nat} {ch : Chunk} : Keeps s (t.sweepChunk fn step te ch) := by
  delta State.sweepChunk
  extract_lets i b u v f swept skipped slot w g
  have hu : Keeps s u := .ite h h.cmdCrc
  have hw : Keeps s w := .ite hu.readPoison.writePoison hu
  exact .ite hw hw.chunkPayload.writeEntry.onFunc

theorem startSection {arg : Nat} {te : Nat × Nat} : Keeps s (t.startSection fn arg te) := by
  unfold State.startSection
  split
  · exact h
  · exact h.onTile

theorem execTile {sweep : List Nat} : AnswerKeeps s (execTile fn idx sweep t) :=
  h.withItem fun _ _ => .ite h (.ite h (.ite h
    ((h.setFunc.foldl (fun _ _ k => k.startSection) _).foldl (fun _ _ k => k.sweepChunk) _)))

theorem execTileSectionEnd : AnswerKeeps s (execTileSectionEnd fn idx t) :=
  h.withItem fun _ _ => .ite h (h.foldl (fun _ _ k => k.onTile) _).setFunc

/-! ### The ledger (Machine/Ledger) -/

theorem appendLedger {recs : List (List Byte)} : Keeps s (t.appendLedger fn recs) :=
  .ite h.setFunc (.ite h.setFunc (h.foldl (fun _ _ k => k.writeVA) _).onFunc)

theorem flushLedger : Keeps s (t.flushLedger fn) := h.onFunc.foldl (fun _ _ k => k.appendLedger) _

theorem flushLedgers : Keeps s t.flushLedgers := h.foldl (fun _ _ k => k.flushLedger) _

theorem takeDecision {d : Decision} : Keeps s (t.takeDecision fn d) := h.onFunc.appendLedger

theorem execLedgerRdWrite {rd : W32} : AnswerKeeps s (execLedgerRdWrite fn rd t) := .ite trivial (Keeps.ite h.setFunc h)

end

end Keeps

end Sys2Proof.Machine
end

section
/-! SUPPORT. That snapshots, gradients and the journal keep what every step keeps (R437, assumption 2). -/
namespace Sys2Proof.Machine

namespace Keeps

section
variable {s t : State} (h : Keeps s t)
include h

variable {fn p q n slot chunk : Nat} {b : List Byte} {c : Cmd} {ch : Chunk} {l : Layer} {ev : Ev} {d : Decision} {step applied : W32}

/-! ### Snapshots (Machine/Snapshot) -/

theorem writeRegion {pieces : List (Nat × Nat)} {off : Nat} : Keeps s (t.writeRegion fn pieces off b) :=
  h.foldl_fst (fun _ _ k => .ite k.writeVA k) _ _

theorem countP2p : Keeps s (t.countP2p n) := h.setHub

theorem sendStream {x : Shipment} {k : Nat} {retx : Bool} : Keeps s (t.sendStream fn x k retx) := h.emit

theorem pumpShip : Keeps s (t.pumpShip fn) := by
  unfold State.pumpShip
  split
  · exact h
  · exact .ite h (h.foldl (fun _ _ k => k.sendStream) _).onFunc

theorem resendShip {x : Shipment} : Keeps s (t.resendShip fn x) := .ite (h.foldl (fun _ _ k => k.sendStream) _) h

theorem failShip : Keeps s (t.failShip fn) := by
  unfold State.failShip
  split
  · exact h
  · extract_lets u v w
    have hv : Keeps s v := .ite h.onFunc h.onFunc.countP2p
    have hw : Keeps s w := .ite hv hv.report
    exact hw.completeAll

theorem failShips : Keeps s (t.failShips p) := by
  refine h.foldl (fun _ _ k => ?_) _
  split
  · exact .ite k.failShip k
  · exact k

theorem startShip {cmd : Option Cmd} {m : SnapMeta} {x : ShipTarget} : Keeps s (t.startShip fn cmd m x) := by
  delta State.startShip
  extract_lets u g cs body man x v
  have hu : Keeps s u := h.readPoison
  have hv : Keeps s v := hu.onFunc
  exact .ite hu.completeAll (.ite hv.pumpShip (hv.foldl (fun _ _ k => k.emit) _))

theorem execSnapshot : AnswerKeeps s (execSnapshot q t) := by
  refine h.withCmd fun c => .ite h.finish ?_
  split
  · exact .ite (Keeps.ite h h.countP2p).report.finish h.finish
  · exact .ite h h.setFunc.release.startShip

theorem autoShip : Keeps s (t.autoShip fn) := by
  unfold State.autoShip
  dsimp only
  split
  · exact h
  · refine .ite h ?_
    split
    · exact h.setFunc
    · exact .ite h.setFunc.report (.ite h.setFunc.startShip h)

theorem execSnapshotComplete {failed : Bool} : AnswerKeeps s (execSnapshotComplete fn failed t) := by
  refine .ite trivial ?_
  split
  · exact h
  · exact .ite h (.ite h.failShip (.ite h (Keeps.ite h (h.foldl (fun _ _ k => k.emit) _)).onFunc.completeAll.autoShip))

theorem restoreChunk {x : ShipChunk} : Keeps s (State.restoreChunk fn t x) := by
  unfold State.restoreChunk
  dsimp only
  split
  · exact h
  · exact .ite (h.foldl (fun _ _ k => .ite k.setErt k) _) h.writeRegion

theorem initGroups : Keeps s (t.initGroups fn l n) := h.foldl (fun _ _ k => (k.foldl (fun _ _ k => k.writeVA) _).writeVA) _

theorem restore {g : W32} {cs : List ShipChunk} : Keeps s (t.restore fn g cs b) := by
  delta State.restore
  extract_lets i u v a w x
  have hu : Keeps s u := h.foldl (fun _ _ k => k.restoreChunk) _
  have hv : Keeps s v := .ite (hu.foldl (fun _ _ k => .ite k k.initGroups) _) hu
  exact (hv.writePoison.foldl (fun _ _ k => k.writeVA) _).onFunc

theorem judgeRestore {g : W32} {u : State} {k : Nat} {r : List Byte} (hu : t.judgeRestore fn g b = some (u, k, r)) : Keeps s u := by
  unfold State.judgeRestore at hu
  dsimp only at hu
  split at hu
  · cases hu
  · cases hu
    exact h
  · split at hu
    · cases hu
      exact h
    · cases hu
      exact h.restore

theorem execRestore {peer : HostData} : AnswerKeeps s (execRestore q peer t) := by
  refine h.withCmd fun c => .ite h.finish ?_
  split
  · exact (Keeps.ite h.countP2p h).finish
  · refine .ite h.release.onFunc ?_
    split
    · split
      · exact (h.judgeRestore ‹_›).finish
      · exact h.finish
    · exact h.countP2p.finish

/-! ### Gradients (Machine/Gradient) -/

theorem countOwn : Keeps s (t.countOwn fn ev) := by
  unfold State.countOwn
  split
  · exact h.onTile
  · exact h

theorem storeRoot {shard pos : Nat} {ns : List Node} : Keeps s (t.storeRoot fn l shard pos ns) := by
  delta State.storeRoot
  exact h.writePoison.countOwn.writeVA.onFunc

theorem bucketMismatch {tree : W32} {m : Mismatch} : Keeps s (t.bucketMismatch fn tree m) := by
  delta State.bucketMismatch
  extract_lets again u v w
  have hv : Keeps s v := h.report.onFunc
  have hw : Keeps s w := by
    dsimp only [w]
    split
    · exact .ite hv.onFunc hv
    · exact hv
  exact .ite hw.drain hw

theorem closeBucket {x : OutBucket} : Keeps s (t.closeBucket fn x) := by
  delta State.closeBucket
  exact h.setFunc.emit

theorem putRecord {stage dst layer : Nat} : Keeps s (t.putRecord fn stage dst layer b) := by
  delta State.putRecord
  extract_lets j key same get x full u y z
  have hu : Keeps s u := .ite h.closeBucket h
  exact .ite hu.closeBucket hu.onFunc

theorem settleTree {tree : W32} : Keeps s (t.settleTree fn tree) := by
  unfold State.settleTree
  dsimp only
  split
  · refine .ite h (.ite (.ite h h.setFunc.countOwn.storeRoot) ?_)
    split
    · exact h.setFunc.countOwn.putRecord
    · exact h.setFunc.foldl (fun _ _ k => k.putRecord) _
  · exact h

theorem takePart {x : TreePart} : Keeps s (t.takePart fn x) := by
  unfold State.takePart
  dsimp only
  split
  · exact h.bucketMismatch
  · exact h.bucketMismatch
  · exact .ite h.bucketMismatch h.setFunc.settleTree

theorem storeReady : Keeps s (t.storeReady fn) := h.foldl (fun _ _ k => k.settleTree) _

theorem noteMicro {x : TreePart} : Keeps s (t.noteMicro fn x) := by
  unfold State.noteMicro
  dsimp only
  split
  · exact .ite h.setFunc h
  · exact h

/-! ### The journal (Machine/Journal) -/

theorem writeDecision : Keeps s (t.writeDecision fn d) := h.writePoison.writeVA

theorem writeCommit : Keeps s (t.writeCommit fn slot) := h.writeVA

theorem execCommitRecordWrite : AnswerKeeps s (execCommitRecordWrite fn t) := by
  refine .ite trivial ?_
  dsimp only
  split
  · exact h
  · exact .ite h (.ite h.readPoison.writePoison
      (Keeps.ite h.readPoison.writePoison.writeCommit.onFunc.storeReady h.readPoison.writePoison.writeCommit.onFunc))

theorem decideJournal : Keeps s (t.decideJournal fn d) := .ite h.onFunc h.onFunc.storeReady

theorem writeStateWord : Keeps s (t.writeStateWord fn chunk step applied) := h.writeVA

theorem copyHome : Keeps s (t.copyHome fn ch b) := by
  unfold State.copyHome
  dsimp only
  split
  · exact h
  · split
    · exact h.writeVA
    · split
      · exact h.writeVA.writeVA
      · exact h.writeVA
    · generalize hr : List.foldl _ _ _ = r
      have k : Keeps s r.1 := hr ▸ h.foldl_fst (fun _ _ k => k.writeVA) _ _
      split
      · exact k
      · exact .ite k.writeVA k

theorem settleExpert : Keeps s (t.settleExpert fn ch step) := by
  unfold State.settleExpert
  split
  · exact h
  · exact .ite h.setErt h

theorem copySlot : Keeps s (t.copySlot fn ch slot step applied) := h.copyHome.writeStateWord.settleExpert

theorem execCommitCopy : AnswerKeeps s (execCommitCopy fn chunk t) := by
  refine .ite trivial ?_
  dsimp only
  split
  · exact h
  · refine .ite h (.ite h.autoShip (.ite (.ite h.writePoison h.writePoison.writeStateWord.onFunc.autoShip) ?_))
    split
    · exact h
    · exact .ite h.readPoison.writePoison h.readPoison.writePoison.copySlot.onFunc.autoShip

theorem execSlotRelease : AnswerKeeps s (execSlotRelease fn t) := by
  refine .ite trivial ?_
  dsimp only
  split
  · exact .ite h.setFunc h
  · exact h

theorem execChunkStateCheck : AnswerKeeps s (execChunkStateCheck fn chunk t) :=
  .ite trivial (.ite h (.ite h (.ite h (.ite h.readPoison
    (.ite h.readPoison.onFunc h.readPoison.onFunc.report.voteBit)))))

theorem sweepAgain : Keeps s (t.sweepAgain fn d ch).1 := by
  delta State.sweepAgain
  dsimp only
  exact h.onTile.chunkPayload.onTile

theorem copyAgain : Keeps s (t.copyAgain fn d ch slot).1 := by
  unfold State.copyAgain
  dsimp only
  split
  · exact h.readPoison.writePoison
  · split
    · exact h.readPoison.writePoison.copySlot
    · exact h.readPoison.writePoison

theorem commitAgain : Keeps s (t.commitAgain fn d ch).1 := by
  unfold State.commitAgain
  dsimp only
  split
  · exact h.readPoison.writePoison
  · exact h.readPoison.writePoison.sweepAgain.writeEntry.writeCommit.onFunc.copySlot

theorem recoverChunk {bad : Option (Nat × Nat)} : Keeps s (State.recoverChunk fn d (t, bad) ch).1 := by
  cases bad with
  | some x => exact h
  | none =>
    unfold State.recoverChunk
    dsimp only
    split
    · exact h.readPoison
    · split
      · exact h.readPoison.writeStateWord
      · split
        · exact h.readPoison.copyAgain
        · split
          · exact h.readPoison
          · exact h.readPoison.commitAgain

theorem recoverSteps {members : List MemberRecovery} : Keeps s (t.recoverSteps fn members).1 := by
  suffices ∀ f, f = State.recoverSteps → ∀ r, f t fn members = r → Keeps s r.1 from this _ rfl _ rfl
  -- through an equation, as the kernel would compute the decisions' CRCs to compare the terms in the goal
  intro f hf r hr
  delta State.recoverSteps at hf
  subst hf
  beta_reduce at hr
  split at hr
  · subst hr
    exact h
  · rename_i d _
    extract_lets u at hr
    have hu : Keeps s u := .ite h.onFunc h
    generalize hq : (if d.outcome = 0 then (u.ownedChunks fn).foldl (State.recoverChunk fn d) (u, none) else (u, none)) = q at hr
    have hq : Keeps s q.1 := by
      subst hq
      split
      · exact hu.foldl_fst (fun r _ k => k.recoverChunk (bad := r.2)) _ _
      · exact hu
    obtain ⟨v, bad⟩ := q
    dsimp only at hr
    split at hr
    · subst hr
      exact hq
    · subst hr
      generalize hw : (if (v.decisions fn).any fun x => x.step == d.step then v else v.writeDecision fn d) = w
      have kw : Keeps s w := hw ▸ .ite hq hq.writeDecision
      have kx : Keeps s (if (w.func fn).step = d.step then w.takeDecision fn d else w) := .ite kw.takeDecision kw
      exact .ite kx kx.onFunc

theorem rebuildErt : Keeps s (t.rebuildErt fn) := by
  delta State.rebuildErt
  exact (h.foldl (fun _ _ k => k.setErt) _).onFunc

theorem resumeHalted : Keeps s (t.resumeHalted fn step) := h.setFunc.completeAll

theorem execJournalRecovery {members : List MemberRecovery} : AnswerKeeps s (execJournalRecovery fn members t) := by
  suffices ∀ f, f = Machine.execJournalRecovery → AnswerKeeps s (f fn members t) from this _ rfl
  intro f hf
  delta Machine.execJournalRecovery at hf
  subst hf
  beta_reduce
  split
  · trivial
  · extract_lets f
    split
    · exact h
    · refine .ite h (.ite h ?_)
      extract_lets
      generalize hr : State.recoverSteps _ fn members = r
      have k : Keeps s r.1 := hr ▸ h.onFunc.recoverSteps
      obtain ⟨u, bad⟩ := r
      cases bad with
      | some y => exact k.report.drain
      | none => exact .ite k (.ite k.onFunc.rebuildErt.drain (.ite k.onFunc.rebuildErt.resumeHalted k.onFunc.rebuildErt))

end

end Keeps

end Sys2Proof.Machine
end

section
/-! SUPPORT. That the training step, experts and mules keep what every step keeps (R437, assumption 2). -/
namespace Sys2Proof.Machine

/-- The state that an expert's check gives, if it gives one, keeps it. -/
def UseKeeps (s : State) : ExpertUse → Prop
  | .at_ t _ => Keeps s t
  | .zero => True
  | .wait t => Keeps s t
  | .stop t => Keeps s t

/-- The state that a transfer ends with keeps it. -/
def MovedKeeps (s : State) : Moved → Prop
  | .done t => Keeps s t
  | .wait t => Keeps s t
  | .stop t => Keeps s t

namespace Keeps

section
variable {s t : State} (h : Keeps s t)
include h

variable {fn idx x y layer kind src dst n list k : Nat} {b : List Byte} {step : W32} {tr : Xfer} {zero : Bool}

/-! ### The training step (Machine/Train) -/

theorem crcFailure {fieldA sender : Nat} : Keeps s (t.crcFailure fn kind x y fieldA sender) := .ite h.report.onFunc.drain h.report.onFunc

theorem genMismatch {expected received : W32} : Keeps s (t.genMismatch fn kind x y expected received) :=
  .ite h.report.onFunc.drain h.report.onFunc

theorem sendShard {va : Nat} : Keeps s (t.sendShard fn dst step va b) := by
  unfold State.sendShard
  split
  · exact h.emit
  · exact h

theorem execShardReceive {pass : Pass} {header : List Byte} : AnswerKeeps s (execShardReceive fn pass header b dst t) := by
  delta Machine.execShardReceive
  refine .ite trivial ?_
  extract_lets f seen fwd differs stale torn u v w
  refine .ite h (.ite h (.ite h ?_))
  have hv : Keeps s v := .ite h.write.setFunc h.write
  have hw : Keeps s w := .ite hv.genMismatch hv
  exact Keeps.ite hw.crcFailure hw

theorem takeRecord {p : TreePart} : Keeps s (t.takeRecord fn src p) := (Keeps.ite h.noteMicro h).takePart

theorem execBucketReceive : AnswerKeeps s (execBucketReceive fn b t) :=
  .ite trivial (.ite h (.ite h ((Keeps.ite h h.crcFailure).foldl (fun _ _ k => k.takeRecord) _)))

theorem formVote {g : Node} {mb : W32} : Keeps s (t.formVote fn g mb) := by
  delta State.formVote
  exact h.onFunc

theorem execVoteForm {xs ys zs : List ShardNorm} : AnswerKeeps s (execVoteForm fn xs ys zs t) := by
  have k : Keeps s ((t.missingRoots fn).foldl (fun (s : State) (t, span) => s.bucketMismatch fn t (0, span)) t) :=
    h.foldl (fun _ _ k => k.bucketMismatch) _
  refine .ite trivial (.ite h (.ite h (.ite h ?_)))
  dsimp only
  split
  · exact .ite k.formVote k
  · exact k

theorem execVoteDecision : AnswerKeeps s (execVoteDecision fn t) := by
  refine .ite trivial ?_
  dsimp only
  split
  · exact h
  · exact .ite h (Keeps.ite h.setFunc.writeDecision.takeDecision.decideJournal.autoShip h.setFunc.writeDecision)

theorem sendDispatch {d : DispatchSend} : Keeps s (State.sendDispatch fn t d) := by
  unfold State.sendDispatch
  dsimp only
  split
  · exact h
  · exact .ite h.emit h

theorem noteDispatch {d : DispatchSeen} {ert : Nat} : Keeps s (t.noteDispatch fn d ert) := by
  delta State.noteDispatch
  exact h.endBatch.onFunc

theorem execDispatchRecordReceive {toOwner : Bool} {sender rowBytes : Nat} :
    AnswerKeeps s (execDispatchRecordReceive fn toOwner sender b rowBytes dst t) := by
  refine .ite trivial ?_
  dsimp only
  split
  · exact .ite h (.ite h (Keeps.ite (Keeps.ite h.write.noteDispatch h.write) (Keeps.ite h.write.noteDispatch h.write).crcFailure))
  · exact h

/-! ### Experts (Machine/Experts) -/

theorem copyBytes : Keeps s (t.copyBytes src dst n) :=
  ⟨fun k => t.copyBytes_wf _ _ _ (h.mem k), h.errs, h.asm, h.badRings, h.pending⟩

theorem copyPages : Keeps s (t.copyPages fn src dst n) := by
  refine h.foldl (fun _ _ k => ?_) _
  split
  · exact k.copyBytes
  · exact k

theorem prefetchOne {p : Nat × ErtEntry} : Keeps s (State.prefetchOne fn t p) := by
  unfold State.prefetchOne
  refine .ite h ?_
  split
  · exact h
  · exact (h.takeSlot ‹_›).onFunc

theorem prefetchLayer {batch : Nat} : Keeps s (t.prefetchLayer fn layer batch) := h.foldl (fun _ _ k => k.prefetchOne) _

theorem promote {p : Prefetch} : Keeps s (State.promote fn t p) := .ite h.onFunc.setErt h.onFunc.setErt.onFunc

theorem execDispatchHeadersArrive : AnswerKeeps s (execDispatchHeadersArrive fn layer t) := by
  refine .ite trivial ?_
  dsimp only
  split
  · exact h
  · exact .ite h ((h.setFunc.foldl (fun _ _ k => k.promote) _).foldl (fun _ _ k => k.demandFetch) _)

theorem settleDemand : Keeps s (t.settleDemand fn layer) := .ite h h.setFunc

theorem execDemand : AnswerKeeps s (execDemand fn idx t) := h.withItem fun _ _ => h.setFunc.settleDemand

theorem endFetch {f : Fetch} {late : Bool} : Keeps s (t.endFetch fn f late) := by
  delta State.endFetch
  exact h.copyPages.setErt.onFunc

theorem failFetch {f : Fetch} : Keeps s (t.failFetch fn f x) := h.setErt.onFunc.companionUE

theorem execExpertFetchComplete {entry : Nat} {overBudget : Bool} {upset : Upset} :
    AnswerKeeps s (execExpertFetchComplete fn entry overBudget upset t) := by
  refine .ite trivial ?_
  extract_lets f e ready homeAt met
  generalize met = found
  split
  · exact h
  · split
    · refine .ite h ?_
      split
      · exact h.failFetch.settleDemand
      · exact h.endFetch.settleDemand
    · split
      · exact h
      · refine .ite h ?_
        split
        · exact h.setFunc
        · exact h.copyPages.onFunc

/-! ### Mules (Machine/Mule) -/

theorem writeRanges {rs : List (Nat × Nat)} : Keeps s (t.writeRanges rs b) := h.foldl_fst (fun _ _ k => k.write) _ _

theorem mulePartition {name : Nat} : Keeps s (t.mulePartition fn list tr name) := h.report.drain

theorem muleSequence : Keeps s (t.muleSequence fn list tr) := h.report.drain

theorem checkExpert {va : Nat} : UseKeeps s (t.checkExpert fn x va) := by
  unfold State.checkExpert
  dsimp only
  split
  · exact h
  · split
    · trivial
    · split
      · split
        · exact h.genMismatch
        · exact h.genMismatch
      · split
        · exact h
        · split
          · exact h
          · split
            · exact h.setErt
            · exact h.setErt.onFunc.demandFetch

theorem xferPoison {us : List Nat} : Keeps s (t.xferPoison fn us).1 := by
  refine h.foldl_fst (fun u _ k => ?_) _ _
  dsimp only
  split
  · exact k
  · exact k.muleMeets

theorem moveBytes {src dst : List (Nat × Nat)} : Keeps s (t.moveBytes fn list k step tr src dst zero) := by
  unfold State.moveBytes
  extract_lets f bs
  generalize tr.convert (t.image fn).job.seed step.toNat bs = out
  have hu : Keeps s (if tr.cast.isSome then t.setFunc fn { f with mevt := f.mevt.bump out.2 } else t) := .ite h.setFunc h
  exact .ite ((Keeps.ite hu.sendShard hu).foldl (fun _ _ k => k.sendData) _) hu.writeRanges

theorem moveOne {va : Nat} : MovedKeeps s (t.moveOne fn list k step tr va zero) := by
  unfold State.moveOne
  dsimp only
  split
  · exact h.mulePartition
  · exact h.mulePartition
  · split
    · exact h
    · split
      · exact h.xferPoison
      · split
        · exact h.xferPoison
        · exact h.xferPoison.moveBytes.watch

theorem runXfer {l : XferList} : MovedKeeps s (t.runXfer fn step l k tr) := by
  unfold State.runXfer
  extract_lets bad
  generalize bad = bad
  split
  · exact h.muleSequence
  · split
    · exact h
    · split
      · exact h
      · split
        · exact h.moveOne
        · rename_i e _ _
          have checked := h.checkExpert (fn := fn) (x := e) (va := tr.src)
          generalize t.checkExpert fn e tr.src = use at checked ⊢
          cases use with
          | at_ u va => exact Keeps.moveOne checked
          | zero => exact h.moveOne
          | wait u => exact checked
          | stop u => exact checked

theorem upsetMemory : ∀ {u : Upset}, Keeps s (t.upsetMemory u)
  | .none => h
  | .residue _ => h
  | .sramCE _ => h.sramCE
  | .sramUE _ => h.addPoison
  | .hbmCE _ => h.hbmCE
  | .hbmUE _ => h.addPoison
  | .companionUE _ => h.addPoison
  | .plateCE => h
  | .plateUE _ => h
  | .ertUE _ => h

omit h in
theorem nextXfer {r : MuleRun} {l : XferList} {z : Xfer × Nat} (hr : Keeps s r.s) : Keeps s (MuleRun.next fn idx l r z).s := by
  unfold MuleRun.next
  split
  · exact hr
  · obtain ⟨x, k⟩ := z
    have hu : Keeps s (if (upsetAddr r.upset).any fun a => r.s.xferMeets fn x a then r.s.upsetMemory r.upset else r.s) :=
      .ite hr.upsetMemory hr
    dsimp only
    generalize (if (upsetAddr r.upset).any fun a => r.s.xferMeets fn x a then r.s.upsetMemory r.upset else r.s) = u at hu ⊢
    have moved := hu.runXfer (fn := fn) (step := ((u.func fn).runAt idx).step) (l := l) (k := k) (tr := x)
    generalize u.runXfer fn ((u.func fn).runAt idx).step l k x = m at moved ⊢
    cases m with
    | done u =>
      dsimp only
      exact Keeps.onFunc moved
    | wait u => exact moved
    | stop u => exact moved

theorem runList {l : XferList} {u : Upset} : Keeps s (t.runList fn idx l u).s := by
  unfold State.runList
  generalize List.drop _ _ = xs
  have run : ∀ (r : MuleRun), Keeps s r.s → Keeps s (xs.foldl (MuleRun.next fn idx l) r).s := by
    induction xs with
    | nil => exact fun _ hr => hr
    | cons z xs ih => exact fun r hr => ih _ hr.nextXfer
  exact run _ h

theorem besideList {be : MuleBeside} : Keeps s (t.besideList fn be) := by
  unfold State.besideList
  refine Keeps.foldl ?_ (fun _ _ k => k.sendDispatch) _
  split
  · exact .ite h.prefetchLayer h
  · exact h

theorem execMule {be : MuleBeside} {u : Upset} : AnswerKeeps s (execMule fn idx be u t) := by
  delta Machine.execMule
  refine h.withItem fun f e => ?_
  split
  · exact h
  · refine .ite h (.ite h ?_)
    dsimp only
    have k : Keeps s ((t.setFunc fn (f.setItem idx .started)).besideList fn be) := h.setFunc.besideList
    generalize (t.setFunc fn (f.setItem idx .started)).besideList fn be = v at k ⊢
    split
    · exact .ite (Keeps.ite k.ertUE k).runList (Keeps.ite k.ertUE k)
    · exact k.runList

theorem execMuleListComplete : AnswerKeeps s (execMuleListComplete fn idx t) := by
  refine h.withItem fun f e => ?_
  dsimp only
  split
  · exact h
  · exact .ite h h.setFunc

end

end Keeps

end Sys2Proof.Machine
end

section
/-! SUPPORT. That ports, Larwa links and the package keep what every step keeps (R437, assumption 2). -/
namespace Sys2Proof.Machine

namespace Keeps

section
variable {s t : State} (h : Keeps s t)
include h

variable {fn p hub n die w link lane : Nat} {b : List Byte} {frame : Frame} {sh : Shipment} {peer : Peer}

/-! ### Ports (Machine/Ethernet) -/

theorem portDown {st : PortState} : Keeps s (t.portDown p st) :=
  .ite h.setPort.failShips (.ite h.setPort.failLink.setPort h.setPort.setNbr)

theorem writePortcfg {v : W32} : Keeps s (t.writePortcfg p v) := by
  delta State.writePortcfg
  extract_lets x en rate barred u v
  have hu : Keeps s u := .ite h (.ite h.setPort h.setPort)
  exact .ite hu.setPort.portDown (.ite hu.setPort.setPort hu.setPort)

theorem execPortcfgWrite {v : W32} : AnswerKeeps s (execPortcfgWrite p v t) := .ite h.writePortcfg trivial

theorem wiring : Keeps s (t.wiring p peer) := h.report

theorem verifyPeer {x : BaseImage} : Keeps s (t.verifyPeer x p peer) := .ite h.setNbr.settleLinking h.wiring

theorem execPortTrain {up : Bool} : AnswerKeeps s (execPortTrain p up peer t) := by
  refine .ite trivial (.ite h (.ite h.setPort (.ite h.setPort (.ite (Keeps.ite h.setPort.wiring h.setPort) (.ite h.setPort ?_)))))
  dsimp only
  split
  · exact Keeps.ite h.setPort.verifyPeer h.setPort
  · exact h.setPort

theorem execPtpSyncInterval : AnswerKeeps s (execPtpSyncInterval t) := h.foldl (fun _ _ k => .ite k.emit k) _

theorem takeOffset {offset : Int} : Keeps s (t.takeOffset p offset) :=
  .ite (.ite h.setPort (.ite h.setPort.rest.report.loseHerd h.setPort.rest.report))
    (.ite h.setPort.rest.loseHerd (.ite h.setPort.rest h.setPort.rest))

theorem takeMpd {mpd : Nat} : Keeps s (t.takeMpd p mpd) :=
  .ite h.setPort (.ite h.setPort.failLink (.ite h.setPort.setNbr.report h.setPort))

theorem execPtpMessageReceive {mpd : Nat} {offset : Int} : AnswerKeeps s (execPtpMessageReceive p mpd offset t) :=
  .ite trivial (.ite h (Keeps.ite h.takeMpd.takeOffset h.takeMpd))

/-! ### Frames of a herd link (Machine/Ethernet) -/

theorem placeBytes {l : XferList} {x : Xfer} {pos : Nat} : Keeps s (t.placeBytes fn l x pos b) := by
  unfold State.placeBytes
  split
  · exact h.mulePartition
  · exact .ite h.xferPoison h.xferPoison.writeRanges.watch

theorem takeCast {l : XferList} {x : Xfer} {c : CastExt} {r : RxState} {keep : RxState → Func} :
    Keeps s (t.takeCast fn l x c r keep) := by
  delta State.takeCast
  dsimp only
  exact .ite (.ite h.setFunc h.setFunc.placeBytes) (Keeps.ite h.setFunc h.setFunc.placeBytes).placeBytes

theorem takeData {l : XferList} {x : Xfer} : Keeps s (t.takeData fn l x b) := by
  unfold State.takeData
  dsimp only
  split
  · exact h.setFunc.placeBytes
  · exact h.takeCast

theorem setNak : Keeps s (t.setNak p) := h.setPort

theorem execDataFrameReceive : AnswerKeeps s (execDataFrameReceive p frame t) := by
  refine .ite trivial (.ite h ?_)
  split
  · exact h.countNoMatch
  · exact h.countErrFrame.setNak
  · refine .ite h (.ite h.takeAck.setNak ?_)
    dsimp only
    split
    · exact h.takeAck.countErrFrame.setNak
    · exact .ite h.takeAck.countErrFrame.setNak (Keeps.ite h.takeAck.setPort.takeData h.takeAck.setPort)

theorem execRetransmitTimeout : AnswerKeeps s (execRetransmitTimeout p t) := .ite trivial (.ite h h.resend)

theorem execRetxEpisodeTimeout : AnswerKeeps s (execRetxEpisodeTimeout p t) := .ite trivial (.ite h h.failLink)

theorem execLaneShed : AnswerKeeps s (execLaneShed p lane t) := by
  refine .ite trivial (.ite h (.ite h.setPort.portDown ?_))
  dsimp only
  split
  · exact h.setPort.failLink
  · exact h.setPort.report

/-! ### Streams (Machine/Ethernet) -/

theorem withStream {kind : Nat} {restore : Bool} {act : Nat → Shipment → HerdHdr → State} (hact : ∀ n sh hd, Keeps s (act n sh hd)) :
    AnswerKeeps s (t.withStream p frame kind restore act) := by
  refine .ite trivial (.ite h ?_)
  split
  · exact h.countNoMatch
  · exact h.countErrFrame
  · refine .ite h ?_
    split
    · exact h.countNoMatch
    · exact hact _ _ _

theorem sendStreamAck {nak : Bool} : Keeps s (t.sendStreamAck fn sh nak) := h.emit

theorem restorePfc {tc fill : Nat} : Keeps s (t.restorePfc p tc fill) := .ite h.setPort.emit (.ite h.setPort.emit h)

theorem endRestore {st : Nat} : Keeps s (t.endRestore fn sh st b) := h.onFunc.completeAll

theorem takeStream {fill : Nat} {hd : HerdHdr} : Keeps s (t.takeStream p frame fill fn sh hd) := by
  refine .ite h.sendStreamAck ?_
  have k : ∀ {x : Shipment}, Keeps s (((t.onFunc fn fun f => { f with snap := some x }).sendStreamAck fn x false).restorePfc p x.tc fill) :=
    h.onFunc.sendStreamAck.restorePfc
  dsimp only
  split
  · exact k
  · exact (k.judgeRestore ‹_›).endRestore

theorem execStreamFrameReceive {fill : Nat} : AnswerKeeps s (execStreamFrameReceive p frame fill t) :=
  .ite h (h.withStream fun _ _ _ => h.takeStream)

theorem takeStreamAck {hd : HerdHdr} : Keeps s (t.takeStreamAck fn sh hd) := (Keeps.ite h.onFunc.resendShip h.onFunc).pumpShip

theorem execStreamAckReceive : AnswerKeeps s (execStreamAckReceive p frame t) := h.withStream fun _ _ _ => h.takeStreamAck

theorem execStreamTimeout {stream : Nat} : AnswerKeeps s (execStreamTimeout p stream t) := by
  refine .ite trivial ?_
  dsimp only
  split
  · exact h
  · exact .ite h (.ite h.failShip (Keeps.ite h.onFunc h.onFunc.resendShip))

theorem execPfcReceive {classes pause : BitVec 8} : AnswerKeeps s (execPfcReceive p classes pause t) := by
  refine .ite trivial (.ite h (.ite h.countNoMatch (h.setPort.foldl (fun _ _ k => ?_) _)))
  split
  · exact .ite k.pumpShip k
  · exact k

/-! ### The Larwa port (Machine/Larwa) -/

variable {t64 t32 t16 : LaneTest} {epoch cause : Nat}

theorem setLwl {l : LwlLink} : Keeps s (t.setLwl hub l) := h.setHub

theorem flushAll : Keeps s t.flushAll := (h.foldl (fun _ _ k => k.flushQueue.settleDestroy) _).flushLedgers

theorem hostReset : Keeps s (t.hostReset cause) := by
  delta State.hostReset
  extract_lets old lw es u v w lost jobs x
  have hu : Keeps s u := ⟨h.mem, h.errs, h.asm, h.badRings, h.pending⟩
  have hw : Keeps s w := hu.dropCmds.onQueues.foldl (fun _ _ k => k.onFunc) _
  exact hw.drainEach.flushLedgers.report

theorem execHostReset : AnswerKeeps s (execHostReset cause t) := .ite h.hostReset h

theorem seeEpoch : Keeps s (t.seeEpoch epoch) := .ite h.rest.hostReset h.rest

theorem execLwlTrain : AnswerKeeps s (execLwlTrain hub t64 t32 t16 epoch t) := by
  refine .ite trivial (.ite h ?_)
  split
  · exact h.setLwl
  · exact h.setLwl.seeEpoch.flushAll

theorem execLwlRetrain : AnswerKeeps s (execLwlRetrain hub t) := .ite trivial (.ite h.setLwl h)

theorem linkOut : Keeps s (t.linkOut hub) :=
  ((h.setLwl.foldl (fun _ _ k => .ite k.setQueue k) _).foldl (fun _ _ k => .ite k.drain k) _).flushLedgers

theorem execLwlOut : AnswerKeeps s (execLwlOut hub t) := .ite trivial (.ite h.linkOut h)

theorem resumeLink : Keeps s t.resumeLink := h.foldl (fun _ _ k => .ite k.setQueue k) _

theorem reportOut {us : Nat} : Keeps s (t.reportOut hub us) := h.report

theorem execLwlRetrainComplete {outUs : Nat} : AnswerKeeps s (execLwlRetrainComplete hub t64 t32 t16 epoch outUs t) := by
  refine .ite trivial (.ite h (.ite h ?_))
  split
  · exact h
  · extract_lets same absorbed l1 l2 u v w x
    have hv : Keeps s v := .ite h.setLwl.report h.setLwl
    have hw : Keeps s w := .ite hv.report hv
    have hx : Keeps s x := .ite hw.reportOut hw
    exact hx.seeEpoch.resumeLink.flushAll

theorem execLinkOutHostReset : AnswerKeeps s (execLinkOutHostReset hub t) :=
  .ite trivial (.ite h.setLwl.reportOut.hostReset h)

theorem execLwlRstN : AnswerKeeps s (execLwlRstN hub t) :=
  .ite trivial (.ite h (Keeps.ite (h.rest.reportOut) h).setLwl.hostReset)

theorem execBusPortReset : AnswerKeeps s (execBusPortReset hub t) := by
  refine .ite trivial (h.setHub.foldl (fun _ _ k => ?_) _)
  split
  · exact .ite k.failShip k
  · exact k

theorem execBusPortTrain {gen width : Nat} : AnswerKeeps s (execBusPortTrain hub gen width t) :=
  .ite trivial (.ite h (.ite h h.setHub))

theorem execPcieConfigurationRequest : AnswerKeeps s (execPcieConfigurationRequest hub t) := .ite trivial (.ite h h.emit)

/-! ### The package (Machine/Package) -/

theorem execD2dRetrain : AnswerKeeps s (execD2dRetrain link t) := .ite trivial (.ite h.setLink h)

theorem execD2dRetrainComplete {mods holdUs : Nat} : AnswerKeeps s (execD2dRetrainComplete link mods holdUs t) :=
  .ite trivial (.ite h (.ite h (Keeps.ite h.setLink.report.report h.setLink.report)))

theorem execD2dFailed : AnswerKeeps s (execD2dFailed link t) := .ite trivial (.ite h h.setLink.report.moduleLoss.drainEach)

theorem writeFwwin {v : W64} : Keeps s (t.writeFwwin hub w v) := .ite h.setHub h.setHub

theorem execFwwinWrite {v : W64} : AnswerKeeps s (execFwwinWrite hub w v t) := .ite trivial (.ite trivial h.writeFwwin)

theorem setWindow {v : Window} : Keeps s (t.setWindow hub w v) := h.setHub

variable {r : ChipletReq}

theorem violate {kind : Nat} : Keeps s (t.violate hub kind r) := .ite h.setHub h.setHub.emit

theorem serve : Keeps s (t.serve hub r) :=
  .ite (h.foldl (fun _ _ k => k.countUE.advancePage) _).writeVA (h.foldl (fun _ _ k => k.countUE.advancePage) _).emit

theorem request : Keeps s (t.request hub r) := by
  unfold State.request
  split
  · exact h.violate
  · exact .ite h.setWindow.serve h.setWindow

theorem execChipletRequest {upset : Upset} : AnswerKeeps s (execChipletRequest hub r upset t) := by
  refine .ite trivial (.ite h (.ite h ?_))
  refine Keeps.request ?_
  split
  · exact .ite h.hbmCE h
  · exact .ite h.addPoison h
  · exact h

theorem execTokenBucketFill : AnswerKeeps s (execTokenBucketFill hub w t) := by
  refine .ite trivial (.ite trivial ?_)
  dsimp only
  split
  · exact .ite h h.setWindow
  · exact .ite h h.setWindow.request

theorem flushSite : Keeps s (t.flushSite hub) := h.setHub

theorem execChipletReset : AnswerKeeps s (execChipletReset hub t) := .ite trivial (.ite h h.setHub.flushSite)

theorem execChipletSiteTrain {ok : Bool} {rate : Nat} : AnswerKeeps s (execChipletSiteTrain hub ok rate t) :=
  .ite trivial (.ite h (.ite (.ite h.setHub h) h.setHub))

theorem setAlive {c : Nat} {v : Bool} : Keeps s (t.setAlive die c v) := .ite h.setDie h.setHub

theorem reportBridge {c : Nat} : Keeps s (t.reportBridge die c) := h.report

theorem execCdcReset {c : Nat} : AnswerKeeps s (execCdcReset die c t) :=
  .ite trivial (.ite h (Keeps.ite h h.flushSite).setAlive.reportBridge)

theorem execCdcAliveTimeout {c : Nat} : AnswerKeeps s (execCdcAliveTimeout die c t) :=
  .ite trivial (.ite h (Keeps.ite h.setDie h.setHub).reportBridge)

theorem execCdcClockReturn {c : Nat} : AnswerKeeps s (execCdcClockReturn die c t) := .ite trivial (.ite h h.setAlive)

end

end Keeps

end Sys2Proof.Machine
end

section
/-! SUPPORT. That boot, the debug port, registers and management keep what every step keeps (R437, assumption 2). -/
namespace Sys2Proof.Machine

theorem Errors.writeCtl_held (e : Errors) (v : Nat) (epoch : W32) : (e.writeCtl v epoch).held = e.held := by
  unfold Errors.writeCtl
  dsimp only
  split
  · rw [Errors.arming_held]
  · rfl

namespace Keeps

section
variable {s t : State} (h : Keeps s t)
include h

variable {fn n a die hub : Nat} {b : List Byte}

/-! ### Resets and supply (Machine/Boot) -/

theorem startSequence : Keeps s t.startSequence := .ite h.rest h

theorem moduleReset {cause : Nat} : Keeps s (t.moduleReset cause) := h.powerLost.startSequence

theorem execMgctlReset : AnswerKeeps s (execMgctlReset t) := .ite h h.moduleReset

theorem execModRstN {cool : Bool} : AnswerKeeps s (execModRstN cool t) := .ite h (Keeps.ite h.rest h).moduleReset

theorem execPrsntNLow : AnswerKeeps s (execPrsntNLow t) := .ite h h.rest

theorem execInputApplied {vin : Nat} : AnswerKeeps s (execInputApplied vin t) := by
  refine .ite h ?_
  dsimp only
  split
  · exact Keeps.startSequence h.rest
  · exact Keeps.ite h.rest.startSequence h.rest
  · exact h

theorem execPwrEnRise {tooEarly : Bool} : AnswerKeeps s (execPwrEnRise tooEarly t) := .ite h h.rest.startSequence

theorem execPwrEnFall : AnswerKeeps s (execPwrEnFall t) := .ite h (Keeps.ite h.rest.powerLost h.rest)

/-! ### The power-up sequence (Machine/Boot) -/

theorem runFirmware {c : Nat × List Byte} : Keeps s (t.runFirmware c) := h.rest

theorem reportSettings : Keeps s t.reportSettings := h.rest.foldl (fun _ _ k => k.nvError) _

theorem settle {rs : List SetRec} : Keeps s (t.settle rs) := h.rest

theorem applySettings : Keeps s t.applySettings := by
  unfold State.applySettings
  dsimp only
  split
  · exact h.reportSettings.settle
  · exact h.reportSettings.settle.settle.rest

theorem endSequence {stage : Stage} {err : Nat} : Keeps s (t.endSequence stage err) := h.rest

theorem suppliesOn : Keeps s t.suppliesOn :=
  (((h.rest.foldl (fun _ _ k => k.setDiePower) _).foldl (fun _ _ k => k.setLink) _).foldl (fun _ _ k => k.setLwl.setHub) _).foldl
    (fun _ _ k => k.setPort) _

theorem execFirmwareStart : AnswerKeeps s (execFirmwareStart t) := by
  refine .ite h ?_
  split
  · exact h.endSequence
  · exact Keeps.ite h.runFirmware.applySettings.endSequence h.runFirmware.applySettings.suppliesOn

theorem readRetList : Keeps s t.readRetList := by
  unfold State.readRetList
  split
  · exact h
  · exact h.foldl (fun _ _ k => k.setPage) _

theorem failPage : Keeps s (t.failPage n) := .ite h h.logMismatch.retirePage.writeRetList

theorem zeroStacks : Keeps s t.zeroStacks := h.zero

theorem trainLink {f : SelfTest} : Keeps s (t.trainLink f n) := by
  unfold State.trainLink
  split
  · exact .ite h.setLink.report h.setLink
  · exact h.setLink.report

theorem wakeCrossings : Keeps s t.wakeCrossings := h.foldl (fun _ _ k => .ite k.setAlive k) _

theorem execSelftestComplete {found : SelfTest} : AnswerKeeps s (execSelftestComplete found t) := by
  have k := h.foldl (fun u l k => k.trainLink (f := found) (n := l)) ((List.range 8).filter t.linkFitted)
  exact .ite h (.ite h (.ite k.endSequence.rest
    (((k.zeroStacks.readRetList.foldl (fun _ _ k => k.failStack) _).foldl (fun _ _ k => k.failPage) _).foldl (fun _ _ k => k.retireTile)
      _).wakeCrossings.takeFirmwarePages.rest.emit.autoload))

theorem execWatchdogExpiry : AnswerKeeps s (execWatchdogExpiry t) := .ite h h.askRestart

/-! ### Control-core restarts (Machine/Boot) -/

theorem releaseHalts : Keeps s t.releaseHalts := h.onTiles.rest

theorem dropDebug : Keeps s t.dropDebug := h.releaseHalts.rest

theorem interruptFunc : Keeps s (t.interruptFunc fn) :=
  (Keeps.ite h.endJob.onFunc h).setFunc.completeAll.completeAll.completeAll

theorem cancelQueues : Keeps s t.cancelQueues := by
  have k : Keeps s ((tkeys t.queues).foldl (fun (u : State) q =>
      (u.setQueue q { u.queue q with destroying := none, disarming := false }).completeAll
        ((u.queue q).running.toList ++ (u.queue q).destroying.toList) stCancelled []) t) :=
    h.foldl (fun _ _ k => k.setQueue.completeAll) _
  unfold State.cancelQueues
  dsimp only
  split
  · exact k
  · exact k.rest.answer

theorem renewFirmwarePages : Keeps s t.renewFirmwarePages := (h.foldl (fun _ _ k => .ite k.setPage k) _).takeFirmwarePages

theorem execControlRestart : AnswerKeeps s (execControlRestart t) := by
  unfold Machine.execControlRestart
  split
  · exact h
  · split
    · exact h.moduleReset.endSequence
    · exact (h.rest.foldl (fun _ _ k => k.interruptFunc) _).cancelQueues.dropDebug.runFirmware.renewFirmwarePages.report

theorem execPldmFirmwareUpdate {how : NvEnd} : AnswerKeeps s (execPldmFirmwareUpdate b how t) := by
  refine .ite h (.ite h.emit ?_)
  cases how with
  | done => exact h.rest.emit.moduleReset
  | fails => exact h.rest.emit
  | cut => exact h.rest

/-! ### Removal (Machine/Boot) -/

theorem execRemreq : AnswerKeeps s (execRemreq t) := .ite h (.ite h (.ite h.rest h.rest))

theorem linksDown : Keeps s t.linksDown := (h.foldl (fun _ _ k => k.setLwl.setHub) _).foldl (fun _ _ k => k.portDown) _

theorem execRemovalPrepared : AnswerKeeps s (execRemovalPrepared t) := .ite h (Keeps.ite h.linksDown h).rest

theorem linksUp : Keeps s t.linksUp := (h.foldl (fun _ _ k => k.setLwl) _).foldl (fun _ _ k => k.setPort) _

theorem execRemcancel : AnswerKeeps s (execRemcancel t) := .ite h (Keeps.ite h.linksUp h).rest

/-! ### The debug port (Machine/Debug) -/

theorem execDbgAuth : AnswerKeeps s (execDbgAuth b t) := by
  refine .ite h (.ite h ?_)
  dsimp only
  split
  · exact Keeps.ite h.rest.releaseHalts h.rest
  · exact h.rest.report

theorem scan {i : TapInstr} {v : Nat} : AnswerKeeps s (t.scan i v) := .ite h h.rest.emit

theorem boundary {i : TapInstr} : AnswerKeeps s (t.boundary i) := h.rest.scan

theorem execTapReset : AnswerKeeps s (execTapReset t) := .ite h h.rest

theorem execExtest : AnswerKeeps s (execExtest t) := .ite h.boundary h.scan

theorem onSeq {f : Sequencer → Sequencer} : Keeps s (t.onSeq fn n f) := by
  unfold State.onSeq
  split
  · exact h.onTile
  · exact h

theorem halt : Keeps s t.halt := .ite h h.rest

theorem haltDone {x : Nat × Option Nat} : Keeps s (t.haltDone x) := by
  unfold State.haltDone
  split
  · exact h.haltAll
  · exact h.onSeq

theorem unhalt : Keeps s t.unhalt := (h.foldl (fun _ _ k => k.onSeq) _).rest

theorem stepDone : Keeps s (t.stepDone fn n) := h.onSeq

theorem stepTile {beat : Option Engine} : AnswerKeeps s (t.stepTile beat n) := by
  unfold State.stepTile
  dsimp only
  split
  · exact h
  · rename_i e _
    have ran : ∀ {x : At} {bs : List Byte}, AnswerKeeps s
        (match (t.onSeq t.dbg.func.toNat n fun q => { q with halted := false, passBp := true }).runTile x bs with
        | .next u => .next (u.stepDone t.dbg.func.toNat n)
        | a => a) := by
      intro x bs
      have k := h.onSeq (fn := t.dbg.func.toNat) (n := n) (f := fun q => { q with halted := false, passBp := true }) |>.runTile
        (a := x) (bs := bs)
      split
      · rename_i hu
        rw [hu] at k
        exact Keeps.stepDone k
      · exact k
    refine .ite h ?_
    split
    · exact ran
    · exact .ite h (.ite ran h.onSeq)

theorem stepTiles {beat : Option Engine} : AnswerKeeps s (t.stepTiles beat) := by
  unfold State.stepTiles
  generalize t.dbgTiles = ts
  have run : ∀ (ts : List Nat) (x : Answer), AnswerKeeps s x → AnswerKeeps s (ts.foldl (fun (a : Answer) t =>
      match a with
      | .next s => s.stepTile beat t
      | a => a) x) := by
    intro ts
    induction ts with
    | nil => exact fun _ hx => hx
    | cons n ts ih =>
      refine fun x hx => ih _ ?_
      beta_reduce
      split
      · exact Keeps.stepTile hx
      · exact hx
  exact run ts _ h

theorem atControl {f : State → Answer} (hf : AnswerKeeps s (f t)) : AnswerKeeps s (t.atControl f) := .ite h (.ite hf h.rest)

theorem accDone : Keeps s t.accDone := h.rest

theorem execDbgHalt : AnswerKeeps s (execDbgHalt t) := h.atControl h.accDone.halt

theorem execHaltComplete : AnswerKeeps s (execHaltComplete t) := .ite h (h.rest.foldl (fun _ _ k => k.haltDone) _)

theorem execDbgResume : AnswerKeeps s (execDbgResume t) := h.atControl h.accDone.unhalt

theorem execStepInstr : AnswerKeeps s (execStepInstr t) := h.atControl h.accDone.stepTiles

theorem execStepBeat {engine : Engine} : AnswerKeeps s (execStepBeat engine t) := h.atControl h.accDone.stepTiles

theorem noteWrite {unit : Nat} : Keeps s (t.noteWrite fn unit a) := .ite h h.onFunc.report

theorem twAccess {v : Option W32} : Keeps s (t.twAccess v).state := by
  unfold State.twAccess
  extract_lets d tile fn k next
  have hn : Keeps s next := h.rest
  have put : ∀ x, Keeps s ((next.setTile tile x).noteWrite fn tile twAddr) := fun _ => hn.setTile.noteWrite
  split
  · exact h
  · dsimp only
    split
    · exact h
    · split
      · exact h
      · split
        · split
          · exact h
          · split
            · dsimp only
              exact hn.onTile
            · cases v with
              | none => exact hn
              | some v => exact put _
        · split
          · exact h
          · split
            · cases v with
              | none => exact hn
              | some v => exact put _
            · cases v with
              | none => exact hn
              | some v => exact put _

omit h in
theorem keep {x : Access} {read : Bool} (hx : Keeps s x.state) : Keeps s (x.keep read) := .ite hx.rest (.ite hx.rest hx.rest)

theorem execDbgTwdataAccess {write : Bool} {v : W32} : AnswerKeeps s (execDbgTwdataAccess write v t) :=
  .ite h (.ite (keep (x := { state := t, status := 3 }) h) h.twAccess.keep)

end

end Keeps

end Sys2Proof.Machine
end

section
/-! SUPPORT. That register writes and management keep what every step keeps (R437, assumption 2). -/
namespace Sys2Proof.Machine

theorem AnswerKeeps.keepAnswer {s : State} {x : Answer} (h : AnswerKeeps s x) : AnswerKeeps s (keepAnswer x) := by
  cases x with
  | next t => exact Keeps.keep (x := { state := t, status := 0 }) h
  | fault _ => trivial
  | refused _ => trivial

namespace Keeps

section
variable {s t : State} (h : Keeps s t)
include h

variable {fn n a off hub : Nat} {b : List Byte} {w : RegWrite} {r : Reg} {who : Requester} {x : W64} {read : Bool}

/-! ### Registers (Machine/Registers) -/

theorem clearBanks : Keeps s (t.clearBanks n a) := h.onTile

theorem clearEntries : Keeps s (t.clearEntries n a) := h.onTile

theorem execMeCtlClr {mask : BitVec 4} : AnswerKeeps s (execMeCtlClr n mask t) := .ite h.clearBanks trivial

theorem execVeCtlClr {mask : BitVec 4} : AnswerKeeps s (execVeCtlClr n mask t) := .ite h.clearEntries trivial

theorem writeAqCtl : Keeps s (t.writeAqCtl w) :=
  .ite (Keeps.ite h.rest.disarmQueue h.rest).armQueue (Keeps.ite h.rest.disarmQueue h.rest)

theorem writeMgctl : AnswerKeeps s (t.writeMgctl n) := by
  refine .ite h.execMgctlReset ?_
  have k : AnswerKeeps s (if bitOf n 1 then Machine.execRemcancel t else .next t) := .ite h.execRemcancel h
  dsimp only
  generalize (if bitOf n 1 then Machine.execRemcancel t else .next t : Answer) = y at k ⊢
  cases y with
  | next u => exact .ite (Keeps.execRemreq k) k
  | fault _ => trivial
  | refused _ => trivial

theorem writeDbgCmd : AnswerKeeps s (t.writeDbgCmd n) := .ite h.halt (.ite h.unhalt (.ite h.stepTiles (.ite h.stepTiles h)))

theorem regWrite : AnswerKeeps s (t.regWrite r w) := by
  unfold State.regWrite
  dsimp only
  split
  · exact h.withErrs (Nat.le_refl _)
  · exact Keeps.ite (h.withErrs (congrArg List.length (Errors.consume_held _ _)).le) h
  · exact Keeps.ite (h.withErrs (congrArg List.length (Errors.writeCtl_held _ _ _)).le) h
  · exact Keeps.ite h.setHub h
  · exact Keeps.ite h.setHub h
  · exact h.writeFwwin
  · exact h.setWindow
  · exact h.writeMgctl
  · exact h.writePlimit
  · exact h.writeTlimit
  · exact h.writeVcfg
  · exact h.rest
  · exact h.writeDbgCmd
  · exact h.rest
  · exact h.rest
  · exact h.twAccess
  · exact h.rest
  · exact h.rest
  · exact h.rest
  · exact .ite h.execLedgerRdWrite h
  · exact h.rest
  · exact h.rest
  · exact h.rest
  · exact h.writeAqCtl
  · exact h.rest
  · exact h.setHub
  · exact h.writePortcfg
  · exact Keeps.ite h.setPort h
  · exact h.setPort
  · exact h.setVlan
  · exact Keeps.ite h.setDie h
  · exact h.clearBanks
  · exact h.clearEntries
  · exact Keeps.ite h.onTile h
  · exact Keeps.ite h.onTile h
  · exact h

theorem regLoad : AnswerKeeps s (t.regLoad r w) := by
  unfold State.regLoad
  dsimp only
  split
  · exact h.onTile
  · exact h.onTile
  · exact h.onTile
  · exact Keeps.ite h.onTile h
  · refine Keeps.regWrite ?_
    split
    · exact h.withErrs (Nat.le_refl _)
    · exact h
  · exact h.onFunc
  · exact h.onFunc
  · exact h.onFunc
  · exact h.onFunc
  · exact h.onFunc
  · exact h.onFunc
  · exact h.onFunc
  · exact h.onFunc
  · exact h.onFunc
  · exact h.onFunc
  · exact h.onFunc
  · exact h.onFunc
  · exact h.onFunc
  · exact h.onFunc
  · exact h.rest
  · exact h.rest
  · exact h.onFunc
  · exact h.rest
  · exact h.rest
  · exact h.rest
  · exact (Keeps.ite h.onFunc h).regWrite
  · exact h.regWrite

/-! ### Accesses from outside (Machine/Manage) -/

theorem regError : Keeps s (t.regError who a) := .ite h h.report

theorem addrError {cls : Nat} : Keeps s (t.addrError who a cls) := h.report

theorem firmwareFault : Keeps s (t.firmwareFault hub a) := h.addrError.rest.report.askRestart

theorem bell : AnswerKeeps s (t.bell who off n x) := .ite h.execDoorbellWrite (.ite h.execDoorbellWrite h.regError)

theorem viewWrite {v : Nat} : AnswerKeeps s (t.viewWrite v hub off n x) := by
  -- a variable for the base of the registers, or else the kernel counts down from it to compare the terms below
  obtain ⟨base, hbase⟩ : ∃ b, b = regBase := ⟨_, rfl⟩
  suffices ∀ f, f = State.viewWrite → ∀ y, f t v hub off n x = y → AnswerKeeps s y from this _ rfl _ rfl
  intro f hf y hy
  delta State.viewWrite at hf
  rw [← hbase] at hf
  subst hf
  beta_reduce at hy
  extract_lets who e at hy
  split at hy
  · split at hy
    · exact hy ▸ h.bell
    · exact hy ▸ h.report
  · split at hy
    · exact hy ▸ h.report
    · extract_lets a at hy
      split at hy
      · exact hy ▸ .ite h.regError h.regWrite
      · exact hy ▸ h.regError

theorem firmwareStore : Keeps s (t.firmwareStore a n x) := by
  refine Keeps.write ?_
  split
  · exact h
  · split
    · exact h.hbmUE
    · exact h.sramUE
    · exact h

theorem firmwareWrite : AnswerKeeps s (t.firmwareWrite hub a n x) := by
  unfold State.firmwareWrite
  dsimp only
  split
  · split
    · exact h.firmwareFault
    · exact h.regError
    · exact .ite h.regError (.ite h h.regLoad)
  · exact h.bell
  · exact h.firmwareFault
  · exact h.firmwareFault
  · exact .ite h.regError (.ite h h.firmwareStore)

theorem execMctpRegisterRead : AnswerKeeps s (execMctpRegisterRead a t) := by
  refine .ite h ?_
  split
  · exact h.emit
  · exact h.regError.emit

theorem execMctpRegisterWrite {v : W32} : AnswerKeeps s (execMctpRegisterWrite a v t) := by
  refine .ite h ?_
  split
  · exact h.writeMgctl
  · exact h
  · exact h.regError

theorem execMctpControl : AnswerKeeps s (execMctpControl b t) := .ite h h.emit

theorem spdm {f : State → State × SpdmAnswer} (hf : Keeps s (f t).1) : AnswerKeeps s (t.spdm f) := .ite h (.ite h.emit hf.emit)

theorem execGetVersion : AnswerKeeps s (execGetVersion b t) := h.spdm (f := fun u => (u, .version 1 3)) h

theorem execGetCapabilities : AnswerKeeps s (execGetCapabilities b t) :=
  h.spdm (f := fun u => (u, .capabilities false false false false)) h

theorem execNegotiateAlgorithms : AnswerKeeps s (execNegotiateAlgorithms b t) := h.spdm (f := fun u => (u, .algorithms 384 384 true)) h

theorem execGetDigests : AnswerKeeps s (execGetDigests b t) := h.spdm (f := fun u => (u, .digests 1 (sha384 Config.certChain))) h

theorem execGetCertificate : AnswerKeeps s (execGetCertificate off n t) := by
  unfold Machine.execGetCertificate
  exact h.spdm h

theorem execSpdmUnsupportedRequest : AnswerKeeps s (execSpdmUnsupportedRequest n t) := h.spdm (f := fun u => (u, .unsupportedRequest)) h

theorem execChallenge : AnswerKeeps s (execChallenge b t) := h.spdm h.rest

theorem execGetMeasurements : AnswerKeeps s (execGetMeasurements n t) := by
  refine h.spdm ?_
  split
  · exact h
  · split
    · exact h
    · split
      · exact h
      · exact h

/-! ### Memory accesses of the debug port (Machine/Manage) -/

theorem countDebugUE : Keeps s (t.countDebugUE a) := by
  unfold State.countDebugUE
  split
  · exact h.countUE.advancePage
  · exact h.setDie
  · exact h.onTile
  · exact h

theorem debugRead : Keeps s (t.debugRead a n).state := by
  unfold State.debugRead
  split
  · exact h.countDebugUE
  · exact h

theorem debugWrite {fn : Option Nat} : Keeps s (t.debugWrite fn a n x).state := by
  unfold State.debugWrite
  split
  · exact h.countDebugUE
  · cases fn with
    | none => exact h.write
    | some f => exact h.write.noteWrite

/-- An access that changes nothing but DBG_ACC. -/
theorem keepStatus {status data : Nat} : AnswerKeeps s (.next (Access.keep { state := t, status := status, data := data } read)) :=
  Keeps.keep (x := { state := t, status := status, data := data }) h

theorem badAccess {reserved : Bool} : AnswerKeeps s (t.badAccess a reserved read) :=
  keep (x := { state := if reserved then t.addrError .debug a clsNotice else t.regError .debug a, status := 4 })
    (.ite h.addrError h.regError)

theorem debugRegRead : AnswerKeeps s (t.debugRegRead a n) := by
  unfold State.debugRegRead
  dsimp only
  split
  · exact h.keepStatus
  · split
    · exact h.badAccess
    · exact h.badAccess
    · exact .ite h.execDbgTwdataAccess (.ite h.badAccess (.ite h.keepStatus h.keepStatus))

theorem debugRegWrite : AnswerKeeps s (t.debugRegWrite a n x) := by
  -- a variable for the base of the registers, or else the kernel counts down from it to compare the terms below
  obtain ⟨base, hbase⟩ : ∃ b, b = regBase := ⟨_, rfl⟩
  suffices ∀ f, f = State.debugRegWrite → ∀ y, f t a n x = y → AnswerKeeps s y from this _ rfl _ rfl
  intro f hf y hy
  delta State.debugRegWrite at hf
  rw [← hbase] at hf
  subst hf
  beta_reduce at hy
  extract_lets o k hubBlock deny at hy
  split at hy
  · exact hy ▸ h.keepStatus
  · split at hy
    · exact hy ▸ h.badAccess
    · exact hy ▸ h.badAccess
    · subst hy
      exact .ite h.keepStatus (.ite h.badAccess (.ite h.execDbgTwdataAccess (.ite h.badAccess (.ite h.keepStatus
        (AnswerKeeps.keepAnswer (.ite h.regLoad h.regWrite))))))

theorem debugAccess {v : Option W64} : AnswerKeeps s (t.debugAccess v a n) := by
  refine .ite h (.ite h ?_)
  split
  · exact h.debugRegRead
  · exact h.debugRegWrite
  · split
    · exact h.keepStatus
    · refine .ite h.badAccess ?_
      split
      · exact h.badAccess
      · exact h.keepStatus
      · exact h.bell.keepAnswer
      · exact .ite h.badAccess (.ite h.keepStatus h.debugRead.keep)
      · exact .ite h.badAccess (.ite h.keepStatus h.debugWrite.keep)

theorem execRegisterWrite : AnswerKeeps s (execRegisterWrite who a n x t) := by
  cases who with
  | bmc => exact .ite h.execMctpRegisterWrite h
  | debug => exact .ite h.debugAccess h
  | firmware hub => exact .ite trivial (.ite h (.ite h h.firmwareWrite))
  | view v hub => exact .ite trivial (.ite h (.ite h h.viewWrite))

end

end Keeps

end Sys2Proof.Machine
end

section
/-! SUPPORT. That every command keeps what every step keeps, and O60 (R437, assumption 2). -/
namespace Sys2Proof.Machine

/-- Whatever a command answers with keeps the memory's form, the bound on the error records held, and the fields that no command
changes. -/
theorem Keeps.exec {s t : State} (h : Keeps s t) : ∀ i, AnswerKeeps s (exec i t)
  | .mma .. => h.execMma
  | .mtree .. => h.execMtree
  | .mdrain .. => h.execMdrain
  | .msave .. => h.execMsave
  | .mclr .. => h.execMclr
  | .vadd .. => h.elementwise
  | .vsub .. => h.elementwise
  | .vmul .. => h.elementwise
  | .vfma .. => h.elementwise
  | .vmax .. => h.elementwise
  | .vmin .. => h.elementwise
  | .vabs .. => h.elementwise
  | .vneg .. => h.elementwise
  | .vdiv .. => h.elementwise
  | .vsqrt .. => h.elementwise
  | .vrsqrt .. => h.elementwise
  | .vrcp .. => h.elementwise
  | .vexp .. => h.elementwise
  | .vlog .. => h.elementwise
  | .vcmp .. => h.elementwise
  | .vsel .. => h.elementwise
  | .vand .. => h.elementwise
  | .vor .. => h.elementwise
  | .vxor .. => h.elementwise
  | .vshl .. => h.elementwise
  | .vshr .. => h.elementwise
  | .vcvt .. => h.execVcvt
  | .viota .. => h.execViota
  | .vmov .. => h.elementwise
  | .vsets .. => h.execVsets
  | .vld .. => h.execVld
  | .vst .. => h.execVst
  | .vrdacc .. => h.execVrdacc
  | .vropen .. => h.execVropen
  | .vred .. => h.execVred
  | .vrfold .. => h.execVrfold
  | .vrclr .. => h.execVrclr
  | .vevt .. => h.execVevt
  | .vscan .. => h.execVscan
  | .vsort .. => h.execVsort
  | .vgath .. => h.execVgath
  | .vscat .. => h.execVscat
  | .vcomb .. => h.execVcomb
  | .tile .. => h.execTile
  | .tileSectionEnd .. => h.execTileSectionEnd
  | .mule .. => h.execMule
  | .muleListComplete .. => h.execMuleListComplete
  | .ucmd .. => h.execUcmd
  | .vote .. => h.execVote
  | .demand .. => h.execDemand
  | .stepend .. => h.execStepend
  | .herdSlotBoundary .. => h.execHerdSlotBoundary
  | .ctrlFrameReceive .. => h.execCtrlFrameReceive
  | .controlMiss .. => h.execControlMiss
  | .holdTimeout .. => h.execHoldTimeout
  | .voteForm .. => h.execVoteForm
  | .voteDecision .. => h.execVoteDecision
  | .shardReceive .. => h.execShardReceive
  | .bucketReceive .. => h.execBucketReceive
  | .dispatchRecordReceive .. => h.execDispatchRecordReceive
  | .dispatchHeadersArrive .. => h.execDispatchHeadersArrive
  | .expertFetchComplete .. => h.execExpertFetchComplete
  | .chunkStateCheck .. => h.execChunkStateCheck
  | .commitRecordWrite .. => h.execCommitRecordWrite
  | .commitCopy .. => h.execCommitCopy
  | .slotRelease .. => h.execSlotRelease
  | .journalRecovery .. => h.execJournalRecovery
  | .snapshotComplete .. => h.execSnapshotComplete
  | .doorbellWrite .. => h.execDoorbellWrite
  | .entryFetch .. => h.execEntryFetch
  | .entryReread .. => h.execEntryReread
  | .check .. => h.execCheck
  | .load .. => h.execLoad
  | .imageAccept => h.execImageAccept
  | .store .. => h.execStore
  | .remove .. => h.execRemove
  | .unload .. => h.execUnload
  | .enable .. => h.execEnable
  | .enablingDone .. => h.execEnablingDone
  | .disable .. => h.execDisable
  | .drainComplete .. => h.execDrainComplete
  | .scrubComplete .. => h.execScrubComplete
  | .qcreate .. => h.execQcreate
  | .qdestroy .. => h.execQdestroy
  | .qresume .. => h.execQresume
  | .start .. => h.execStart
  | .stop .. => h.execStop
  | .resume .. => h.execResume
  | .snapshot .. => h.execSnapshot
  | .restore .. => h.execRestore
  | .copyIn .. => h.execCopyIn
  | .copyOut .. => h.execCopyOut
  | .arm => h.armQueue
  | .disarm => h.disarmQueue
  | .ledgerRdWrite .. => h.execLedgerRdWrite
  | .errctlArm => h.execErrctlArm
  | .errptrRdWrite .. => h.execErrptrRdWrite
  | .errorRecordWrite .. => h.execErrorRecordWrite
  | .meCtlClr .. => h.execMeCtlClr
  | .veCtlClr .. => h.execVeCtlClr
  | .fwwinWrite .. => h.execFwwinWrite
  | .plimitWrite .. => h.writePlimit
  | .tlimitWrite .. => h.writeTlimit
  | .vcfgWrite .. => h.writeVcfg
  | .portcfgWrite .. => h.execPortcfgWrite
  | .registerWrite .. => h.execRegisterWrite
  | .remreq => h.execRemreq
  | .removalPrepared => h.execRemovalPrepared
  | .remcancel => h.execRemcancel
  | .mgctlReset => h.execMgctlReset
  | .pwrEnRise .. => h.execPwrEnRise
  | .firmwareStart => h.execFirmwareStart
  | .selftestComplete .. => h.execSelftestComplete
  | .pwrEnFall => h.execPwrEnFall
  | .modRstN .. => h.execModRstN
  | .watchdogExpiry => h.execWatchdogExpiry
  | .controlRestart => h.execControlRestart
  | .pldmFirmwareUpdate .. => h.execPldmFirmwareUpdate
  | .prsntNLow => h.execPrsntNLow
  | .inputApplied .. => h.execInputApplied
  | .inputHighTrip => h.execInputHighTrip
  | .inputLowTrip => h.execInputLowTrip
  | .pmgControlPeriod .. => h.execPmgControlPeriod
  | .telemetryLoss .. => h.execTelemetryLoss
  | .speedShortfall .. => h.execSpeedShortfall
  | .compensationRaise .. => h.execCompensationRaise
  | .thermtrip .. => h.execThermtrip
  | .supplyFault .. => h.execSupplyFault
  | .lwlTrain .. => h.execLwlTrain
  | .lwlRetrain .. => h.execLwlRetrain
  | .lwlRetrainComplete .. => h.execLwlRetrainComplete
  | .lwlOut .. => h.execLwlOut
  | .linkOutHostReset .. => h.execLinkOutHostReset
  | .hostReset .. => h.execHostReset
  | .lwlRstN .. => h.execLwlRstN
  | .busPortReset .. => h.execBusPortReset
  | .hostBiasFlip .. => h.execHostBiasFlip
  | .deviceBiasGrant .. => h.execDeviceBiasGrant
  | .ceWriteback .. => h.execCeWriteback
  | .patrolRead .. => h.execPatrolRead
  | .patrolSlow .. => h.execPatrolSlow
  | .stackFailed .. => h.execStackFailed
  | .tileStall .. => h.execTileStall
  | .ptpSyncInterval => h.execPtpSyncInterval
  | .ptpMessageReceive .. => h.execPtpMessageReceive
  | .portTrain .. => h.execPortTrain
  | .dataFrameReceive .. => h.execDataFrameReceive
  | .retransmitTimeout .. => h.execRetransmitTimeout
  | .retxEpisodeTimeout .. => h.execRetxEpisodeTimeout
  | .laneShed .. => h.execLaneShed
  | .streamFrameReceive .. => h.execStreamFrameReceive
  | .streamAckReceive .. => h.execStreamAckReceive
  | .streamTimeout .. => h.execStreamTimeout
  | .pfcReceive .. => h.execPfcReceive
  | .d2dRetrain .. => h.execD2dRetrain
  | .d2dRetrainComplete .. => h.execD2dRetrainComplete
  | .d2dFailed .. => h.execD2dFailed
  | .chipletRequest .. => h.execChipletRequest
  | .chipletReset .. => h.execChipletReset
  | .cdcReset .. => h.execCdcReset
  | .cdcAliveTimeout .. => h.execCdcAliveTimeout
  | .getVersion m => h.execGetVersion (b := m)
  | .getCapabilities m => h.execGetCapabilities (b := m)
  | .negotiateAlgorithms m => h.execNegotiateAlgorithms (b := m)
  | .getDigests m => h.execGetDigests (b := m)
  | .getCertificate .. => h.execGetCertificate
  | .challenge .. => h.execChallenge
  | .getMeasurements .. => h.execGetMeasurements
  | .spdmUnsupportedRequest c => h.execSpdmUnsupportedRequest (n := c)
  | .mctpControl .. => h.execMctpControl
  | .mctpRegisterRead .. => h.execMctpRegisterRead
  | .mctpRegisterWrite .. => h.execMctpRegisterWrite
  | .tapReset => h.execTapReset
  | .extest => h.execExtest
  | .samplePreload => h.boundary
  | .idcode => h.scan
  | .bypass => h.scan
  | .dbgAuth .. => h.execDbgAuth
  | .dbgNonce => h.scan
  | .dbgStat => h.scan
  | .dbgRead32 .. => h.debugAccess
  | .dbgWrite32 .. => h.debugAccess
  | .dbgRead64 .. => h.debugAccess
  | .dbgWrite64 .. => h.debugAccess
  | .dbgTwdataAccess .. => h.execDbgTwdataAccess
  | .dbgHalt => h.execDbgHalt
  | .haltComplete => h.execHaltComplete
  | .dbgResume => h.execDbgResume
  | .stepInstr => h.execStepInstr
  | .stepBeat .. => h.execStepBeat
  | .busPortTrain .. => h.execBusPortTrain
  | .chipletSiteTrain .. => h.execChipletSiteTrain
  | .cdcClockReturn .. => h.execCdcClockReturn
  | .tokenBucketFill .. => h.execTokenBucketFill
  | .pcieConfigurationRequest .. => h.execPcieConfigurationRequest

/-- Settles O60: taking a command from the queue changes nothing else, and what the command answers with keeps the rest. -/
theorem everyStepKeeps : Obligations.EveryStepKeeps := by
  intro s t hm he hs
  unfold step at hs
  split at hs
  · rename_i hq
    cases hs
    exact ⟨hm, he, rfl, rfl, by rw [hq]; rfl⟩
  · rename_i c rest hq
    have k : AnswerKeeps { s with pending := rest } (exec c { s with pending := rest }) := (Keeps.refl _).exec c
    rw [hs] at k
    obtain ⟨mem, errs, asm, badRings, pending⟩ := k
    exact ⟨mem hm, errs he, asm, badRings, by rw [hq]; exact pending⟩

end Sys2Proof.Machine
end

section
/-! O1, O59, O43: the step itself, the state after reset, and the error ring. -/
namespace Sys2Proof.Machine

/-- Settles O1. -/
theorem stepRunsTheFront : Obligations.StepRunsTheFront := fun _ _ _ => rfl

/-- Settles O59: the state after reset holds no entry in any of its tables, so each reads as its default. -/
theorem resetValues : Obligations.ResetValues := by
  refine ⟨rfl, rfl, rfl, rfl, rfl, rfl, rfl, rfl, rfl, rfl, rfl, rfl, Nat.zero_le _, rfl, rfl, rfl, rfl, ?_, ?_, ?_, ?_, ?_, ?_⟩
  · exact fun _ => ⟨rfl, rfl⟩
  · exact fun _ => rfl
  · exact fun _ => rfl
  · exact fun _ => ⟨rfl, rfl⟩
  · exact fun _ => ⟨rfl, rfl⟩
  · exact fun _ => rfl

theorem ErrRec.bytes_length (r : ErrRec) : r.bytes.length = 64 := by
  simp only [ErrRec.bytes, zeros, List.length_append, List.length_replicate, leBytes_length]

theorem State.write_stored (s : State) (a : Nat) (bs : List Byte) : Stored s (s.write a bs) a bs := s.write_byte a bs

theorem State.write_eq (s : State) (a : Nat) (bs : List Byte) : ∃ m p, s.write a bs = { s with mem := m, poison := p } := ⟨_, _, rfl⟩

theorem Stored.of_mem {s t u : State} {a : Nat} {bs : List Byte} (h : Stored s t a bs) (hm : u.mem = t.mem) : Stored s u a bs :=
  fun z => (congrArg (tget 0 · z) hm).trans (h z)

theorem Errors.arming_of_size {e : Errors} {epoch : W32} (h : 6 ≤ e.ringLog2.toNat ∧ e.ringLog2.toNat ≤ 16) :
    e.arming epoch = { e with arm := true, armEpoch := epoch, wr := 0, rd := 0 } := if_pos h

theorem Errors.arming_of_not_size {e : Errors} {epoch : W32} (h : ¬(6 ≤ e.ringLog2.toNat ∧ e.ringLog2.toNat ≤ 16)) :
    e.arming epoch = { e with arm := false } := if_neg h

theorem Errors.consume_of_le {e : Errors} {rd : W32} (h : (e.wr - rd).toNat ≤ 2 ^ e.ringLog2.toNat) :
    e.consume rd = { e with rd := rd } := if_pos h

theorem Errors.consume_of_lt {e : Errors} {rd : W32} (h : 2 ^ e.ringLog2.toNat < (e.wr - rd).toNat) : e.consume rd = e :=
  if_neg (by omega)

theorem State.writeErr_of_not_ready {s : State} (h : s.errReady = false) : s.writeErr = s := by
  unfold State.writeErr
  split
  · rfl
  · rw [if_neg (by simp [h])]

theorem State.writeErr_of_ready {s : State} {r : ErrRec} {rest : List ErrRec} (hr : s.errs.held = r :: rest)
    (h : s.errReady = true) :
    let e := s.errs
    let t := { s.write (hostDpa e.addr) r.bytes with errs := { e with held := rest, wr := e.wr + 1 } }
    s.writeErr = if e.wr = e.rd then t.interrupt e.ipath.toNat e.ivec.toNat else t := by
  unfold State.writeErr
  simp only [hr, h, if_true]

theorem State.interrupt_eq (s : State) (path vec : Nat) :
    s.interrupt path vec = { s with out := if path = 2 then s.out else .interrupt path vec :: s.out } := by
  unfold State.interrupt
  split
  · rfl
  · rfl

/-- Settles O43: the ring's registers are what `arming` and `consume` give, and `writeErr` writes the oldest record. -/
theorem errorRing : Obligations.ErrorRing := by
  intro s rd r rest
  dsimp only
  refine ⟨fun hlo hhi => ⟨_, rfl, ?_⟩, fun h => ⟨_, rfl, ?_⟩, fun h => ⟨_, rfl, ?_⟩, fun h => ?_, fun hr => ⟨rfl, fun h => ?_, fun h => ?_⟩⟩
  · rw [Errors.arming_of_size ⟨hlo, hhi⟩]
  · rw [Errors.arming_of_not_size (by omega)]
  · rw [Errors.consume_of_le h]
  · show Host.Outcome.next { s with errs := s.errs.consume rd } = .next s
    rw [Errors.consume_of_lt h]
  · show Host.Outcome.next s.writeErr = .next s
    rw [State.writeErr_of_not_ready h]
  · refine ⟨_, congrArg Host.Outcome.next (State.writeErr_of_ready hr h), ?_⟩
    rw [State.interrupt_eq]
    have stored := s.write_stored (hostDpa s.errs.addr) r.bytes
    obtain ⟨m, p, hw⟩ := s.write_eq (hostDpa s.errs.addr) r.bytes
    rw [hw] at stored ⊢
    by_cases hempty : s.errs.wr = s.errs.rd
    · rw [if_pos hempty]
      refine ⟨stored.of_mem rfl, r.bytes_length, rfl, ?_, rfl⟩
      have hpath : s.errs.ipath.toNat = 2 ↔ s.errs.ipath = 2 := by bv_omega
      simp only [hempty, true_and, ne_eq, ite_not, hpath]
    · rw [if_neg hempty]
      exact ⟨stored.of_mem rfl, r.bytes_length, rfl, (if_neg fun k => hempty k.1).symm, rfl⟩

end Sys2Proof.Machine
end

section
/-! Queues: completion records, doorbells, entries and queue commands (O33 to O36). -/
namespace Sys2Proof.Machine

/-! ### What waits on a queue -/

theorem State.flushQueue_of_nil {s : State} {n : Nat} (h : (s.queue n).waiting = []) : s.flushQueue n = s := by
  simp only [State.flushQueue, h, List.length_nil, List.range_zero, List.foldl_nil]

theorem State.flushQueue_of_one {s : State} {n : Nat} {k : Completion} (h : (s.queue n).waiting = [k]) :
    s.flushQueue n = s.writeCpl n := by
  simp only [State.flushQueue, h, List.length_singleton, List.range_one, List.foldl_cons, List.foldl_nil]

theorem State.settleDestroy_of_none {s : State} {n : Nat} (hd : (s.queue n).destroying = none)
    (ha : (s.queue n).disarming = false) : s.settleDestroy n = s := by
  simp only [State.settleDestroy, hd, ha, Bool.false_eq_true, if_false, ite_self]

theorem State.setQueue_only (s : State) (q : Nat) (v : Queue) : OnlyQueue s (s.setQueue q v) q :=
  ⟨rfl, fun j hj => s.setQueue_queue_ne q v j hj⟩

theorem OnlyQueue.trans {s t u : State} {q : Nat} (h : OnlyQueue s t q) (k : OnlyQueue t u q) : OnlyQueue s u q := by
  obtain ⟨heq, hne⟩ := h
  obtain ⟨keq, kne⟩ := k
  exact ⟨by rw [keq, heq], fun j hj => (kne j hj).trans (hne j hj)⟩

/-! ### Completion records (R333, R334) -/

theorem slice_length (bs : List Byte) (off n : Nat) : (slice bs off n).length = n := by
  simp only [slice, zeros, List.length_append, List.length_take, List.length_drop, List.length_replicate]
  omega

theorem cplBytes_length (c : W32) (lg : Nat) (k : Completion) : (cplBytes c lg k).length = 32 := by
  simp only [cplBytes, zeros, List.length_append, List.length_replicate, leBytes_length, slice_length]

/-- The state of a queue whose records can be written. -/
theorem State.cplReady_state {s : State} {q : Queue} (h : s.cplReady q = true) : q.state ≠ .idle ∧ q.state ≠ .haltedHost := by
  simp only [State.cplReady, Bool.and_eq_true, Bool.or_eq_true, beq_iff_eq] at h
  obtain ⟨⟨⟨hs, -⟩, -⟩, -⟩ := h
  rcases hs with hs | hs <;> simp [hs]

theorem State.writeCpl_of_ready {s : State} {n : Nat} {k : Completion} (hw : (s.queue n).waiting = [k])
    (h : s.cplReady (s.queue n) = true) (hb : s.badRings.contains n = false) :
    let q := s.queue n
    let t := (s.write (hostDpa q.cplAddr) (cplBytes q.chead q.log2Cpl k)).setQueue n { q with waiting := [], chead := q.chead + 1 }
    s.writeCpl n = if q.chead = q.cdone then t.interrupt q.ipath q.ivec else t := by
  simp only [State.writeCpl, hw, h, hb, Bool.not_true, Bool.false_eq_true, if_false]

/-- The queue of a command that has ended, with its record waiting. -/
def Queue.ended (q : Queue) (k : Completion) : Queue := { q with running := none, waiting := [k] }

/-- The state after a command's record has been written, but for the interrupt. -/
def State.recordWritten (s : State) (n : Nat) (k : Completion) : State :=
  let q := s.queue n
  ((s.setQueue n (q.ended k)).write (hostDpa q.cplAddr) (cplBytes q.chead q.log2Cpl k)).setQueue n
    { q with running := none, waiting := [], chead := q.chead + 1 }

theorem State.recordWritten_queue (s : State) (n : Nat) (k : Completion) (j : Nat) : (s.recordWritten n k).queue j =
    if j = n then { s.queue n with running := none, waiting := [], chead := (s.queue n).chead + 1 } else s.queue j := by
  simp only [State.recordWritten, State.setQueue_queue]
  split
  · rfl
  · rename_i hj
    exact s.setQueue_queue_ne n _ j hj

theorem State.recordWritten_stored (s : State) (n : Nat) (k : Completion) :
    Stored s (s.recordWritten n k) (hostDpa (s.queue n).cplAddr) (cplBytes (s.queue n).chead (s.queue n).log2Cpl k) :=
  State.write_stored (s.setQueue n ((s.queue n).ended k)) _ _

theorem State.recordWritten_rest (s : State) (n : Nat) (k : Completion) :
    ∃ qs m p, s.recordWritten n k = { s with queues := qs, mem := m, poison := p } := ⟨_, _, _, rfl⟩

theorem State.complete_of_ready {s : State} {c : Cmd} {status : Nat} {result : List Byte} (hrun : (s.queue c.q).running = some c)
    (hq : Quiet s c.q) (h : s.cplReady (s.queue c.q) = true) (hb : s.badRings.contains c.q = false) :
    let q := s.queue c.q
    let t := s.recordWritten c.q { tag := c.tag, entry := c.entry, status := status, result := result }
    s.complete c status result = if q.chead = q.cdone then t.interrupt q.ipath q.ivec else t := by
  obtain ⟨hwait, hdest, hdis⟩ := hq
  obtain ⟨hidle, hhost⟩ := State.cplReady_state h
  dsimp only
  generalize hk : ({ tag := c.tag, entry := c.entry, status := status, result := result } : Completion) = k
  have hended : s.complete c status result =
      ((s.setQueue c.q ((s.queue c.q).ended k)).flushQueue c.q).settleDestroy c.q := by
    simp only [State.complete, hrun, if_true, hidle, hhost, or_self, if_false, hwait, List.nil_append, hk, Queue.ended]
  have hself : (s.setQueue c.q ((s.queue c.q).ended k)).queue c.q = (s.queue c.q).ended k := s.setQueue_queue_self c.q _
  have hready : (s.setQueue c.q ((s.queue c.q).ended k)).cplReady ((s.queue c.q).ended k) = true := h
  have hwritten := State.writeCpl_of_ready (s := s.setQueue c.q ((s.queue c.q).ended k)) (k := k) (by rw [hself]; rfl)
    (by rw [hself]; exact hready) hb
  rw [hself] at hwritten
  have hafter : (s.recordWritten c.q k).queue c.q = { s.queue c.q with running := none, waiting := [], chead := (s.queue c.q).chead + 1 } :=
    State.setQueue_queue_self _ _ _
  rw [hended, State.flushQueue_of_one (k := k) (by rw [hself]; rfl), hwritten]
  show State.settleDestroy (if (s.queue c.q).chead = (s.queue c.q).cdone then
      (s.recordWritten c.q k).interrupt (s.queue c.q).ipath (s.queue c.q).ivec else s.recordWritten c.q k) c.q = _
  split
  · rw [State.settleDestroy_of_none]
    · rw [State.interrupt_eq]
      exact (congrArg Queue.destroying hafter).trans hdest
    · rw [State.interrupt_eq]
      exact (congrArg Queue.disarming hafter).trans hdis
  · rw [State.settleDestroy_of_none]
    · exact (congrArg Queue.destroying hafter).trans hdest
    · exact (congrArg Queue.disarming hafter).trans hdis

/-- Settles O33: the record's write is the only write, and the interrupt the only output. -/
theorem completionRecord : Obligations.CompletionRecord := by
  intro s c status result
  dsimp only
  intro hrun hq hready hbad
  have hended := State.complete_of_ready (status := status) (result := result) hrun hq hready hbad
  rw [hended]
  generalize ({ tag := c.tag, entry := c.entry, status := status, result := result } : Completion) = k
  have hqueue := s.recordWritten_queue c.q k
  have stored := s.recordWritten_stored c.q k
  obtain ⟨qs, m, p, hrest⟩ := s.recordWritten_rest c.q k
  obtain ⟨hwait, -, -⟩ := hq
  rw [State.interrupt_eq]
  rw [hrest] at hqueue stored ⊢
  have hself : tget {} qs c.q = { s.queue c.q with running := none, chead := (s.queue c.q).chead + 1 } :=
    (hqueue c.q).trans (by rw [if_pos rfl, ← hwait])
  have hothers : ∀ j, j ≠ c.q → tget {} qs j = s.queue j := fun j hj => (hqueue j).trans (if_neg hj)
  by_cases hempty : (s.queue c.q).chead = (s.queue c.q).cdone
  · rw [if_pos hempty]
    refine ⟨stored.of_mem rfl, cplBytes_length _ _ _, hself, hothers, rfl, ?_⟩
    by_cases hpath : (s.queue c.q).ipath = 2 <;> simp [hpath, hempty]
  · rw [if_neg hempty]
    exact ⟨stored, cplBytes_length _ _ _, hself, hothers, rfl, by simp [hempty]⟩

/-! ### Doorbells (R331) -/

theorem lower_half (v : W64) : BitVec.ofNat 32 (v.toNat % 2 ^ 32) = v.extractLsb' 0 32 := by
  apply BitVec.eq_of_toNat_eq
  simp [BitVec.extractLsb'_toNat]

theorem upper_half (v : W64) : BitVec.ofNat 32 (v.toNat / 2 ^ 32) = v.extractLsb' 32 32 := by
  apply BitVec.eq_of_toNat_eq
  simp [BitVec.extractLsb'_toNat, Nat.shiftRight_eq_div_pow]

/-- A doorbell write touches nothing but TAIL, CDONE and IGNORED. -/
def DoorbellOnly (x y : Queue) : Prop := y = { x with tail := y.tail, cdone := y.cdone, ignored := y.ignored }

theorem Queue.setTail_only (x : Queue) (t : W32) : DoorbellOnly x (x.setTail t) := by
  unfold Queue.setTail
  split <;> rfl

theorem Queue.setCdone_only (x : Queue) (d : W32) : DoorbellOnly x (x.setCdone d) := by
  unfold Queue.setCdone
  split <;> rfl

theorem Queue.setTail_tail (x : Queue) (t : W32) : (x.setTail t).tail =
    if (t - x.head).toNat ≤ 2 ^ x.log2Ent ∧ (t - x.tail).toNat < 2 ^ 31 then t else x.tail := by
  unfold Queue.setTail
  split <;> rfl

theorem Queue.setCdone_cdone (x : Queue) (d : W32) : (x.setCdone d).cdone =
    if (d - x.cdone).toNat < 2 ^ 31 ∧ (x.chead - d).toNat < 2 ^ 31 then d else x.cdone := by
  unfold Queue.setCdone
  split <;> rfl

theorem Queue.setCdone_tail (x : Queue) (d : W32) : (x.setCdone d).tail = x.tail := by
  unfold Queue.setCdone
  split <;> rfl

theorem Queue.setTail_cdone (x : Queue) (t : W32) : (x.setTail t).cdone = x.cdone := by
  unfold Queue.setTail
  split <;> rfl

theorem Queue.setTail_chead (x : Queue) (t : W32) : (x.setTail t).chead = x.chead := by
  unfold Queue.setTail
  split <;> rfl

theorem DoorbellOnly.trans {x y z : Queue} (h : DoorbellOnly x y) (k : DoorbellOnly y z) : DoorbellOnly x z := by
  unfold DoorbellOnly at *
  rw [k, h]

theorem Queue.doorbell_only (x : Queue) (half : Option Bool) (v : W64) : DoorbellOnly x (x.doorbell half v) := by
  unfold Queue.doorbell
  split
  · rfl
  · match half with
    | none => exact (x.setTail_only _).trans (Queue.setCdone_only _ _)
    | some false => exact x.setTail_only _
    | some true => exact x.setCdone_only _

theorem State.doorbell_of_quiet {s : State} {q : Nat} (h : Quiet s q) (half : Option Bool) (v : W64) :
    s.doorbell q half v = s.setQueue q ((s.queue q).doorbell half v) := by
  obtain ⟨hwait, hdest, hdis⟩ := h
  have honly := (s.queue q).doorbell_only half v
  have hself := s.setQueue_queue_self q ((s.queue q).doorbell half v)
  unfold State.doorbell
  rw [State.flushQueue_of_nil (by rw [hself, honly]; exact hwait),
    State.settleDestroy_of_none (by rw [hself, honly]; exact hdest) (by rw [hself, honly]; exact hdis)]

theorem Queue.doorbell_whole {x : Queue} (h : x.state = .active ∨ x.state = .haltedError) (v : W64) :
    x.doorbell none v = (x.setTail (v.extractLsb' 0 32)).setCdone (v.extractLsb' 32 32) := by
  rw [← lower_half, ← upper_half]
  exact if_neg (by rcases h with h | h <;> simp [h])

theorem Queue.doorbell_tail {x : Queue} (h : x.state = .active ∨ x.state = .haltedError) (v : W64) :
    x.doorbell (some false) v = x.setTail (v.extractLsb' 0 32) := by
  rw [← lower_half]
  exact if_neg (by rcases h with h | h <;> simp [h])

/-- Settles O34: with nothing waiting a doorbell only changes its queue's record. -/
theorem doorbells : Obligations.Doorbells := by
  intro s q v hq
  dsimp only
  intro hquiet
  have runs : ∀ half {P : State → Prop}, P (s.setQueue q ((s.queue q).doorbell half v)) → Runs (.doorbellWrite q half v) s P := by
    intro half P hP
    refine ⟨_, ?_, hP⟩
    show execDoorbellWrite q half v s = _
    rw [execDoorbellWrite, if_neg (by omega), State.doorbell_of_quiet hquiet]
  have only := fun half => s.setQueue_only q ((s.queue q).doorbell half v)
  refine ⟨fun hst half => runs half ⟨only half, ?_⟩, fun hst => ⟨runs none ⟨only none, ?_⟩, runs (some false) ⟨only (some false), ?_⟩⟩⟩
  · rw [State.setQueue_queue_self, Queue.doorbell, if_pos hst]
  · rw [State.setQueue_queue_self, Queue.doorbell_whole hst]
    generalize v.extractLsb' 0 32 = lo
    generalize v.extractLsb' 32 32 = hi
    refine ⟨?_, ?_, fun htail hcdone => ?_⟩
    · rw [Queue.setCdone_tail, Queue.setTail_tail]
    · rw [Queue.setCdone_cdone, Queue.setTail_cdone, Queue.setTail_chead]
    · rw [Queue.setTail, if_pos htail, Queue.setCdone, if_pos hcdone]
  · rw [State.setQueue_queue_self, Queue.doorbell_tail hst]
    rfl

/-! ### Entries (R330, R332, R336) -/

theorem State.fetchReady_waiting {s : State} {q : Nat} (h : s.fetchReady q = true) : (s.queue q).waiting = [] ∧ (s.queue q).room = true := by
  simp only [State.fetchReady, Bool.and_eq_true, List.isEmpty_iff] at h
  exact ⟨by tauto, by tauto⟩

theorem State.acceptEntry_of_formed {s : State} {n : Nat} {bs : List Byte} {fields : List (Nat × Nat × Nat)}
    (ha : opcodeArgs (leAt bs 0 1) = some (decide (n = 0), fields)) (hr : reservedClear bs fields = true) :
    s.acceptEntry n bs = s.setQueue n { s.queue n with
      head := (s.queue n).head + 1, stale := false, rereads := 0
      running := some { q := n, entry := (s.queue n).head, opcode := leAt bs 0 1, tag := BitVec.ofNat 32 (leAt bs 4 4), bytes := bs } } := by
  simp only [State.acceptEntry, ha, hr, ne_eq, not_true_eq_false, Bool.true_eq_false, or_self, if_false]

theorem State.judgeEntry_of_fresh {s : State} {n : Nat} {bs : List Byte}
    (h : entryFresh bs (s.queue n).head (s.queue n).log2Ent = true) : s.judgeEntry n (.ok bs) = s.acceptEntry n bs := if_pos h

theorem State.judgeEntry_of_stale {s : State} {n : Nat} {bs : List Byte}
    (h : entryFresh bs (s.queue n).head (s.queue n).log2Ent = false) (hn : ¬((s.queue n).stale ∧ (s.queue n).rereads = 7)) :
    s.judgeEntry n (.ok bs) = s.setQueue n { s.queue n with
      stale := true, rereads := if (s.queue n).stale then (s.queue n).rereads + 1 else 0 } := by
  simp only [State.judgeEntry, h, Bool.false_eq_true, if_false, hn]

theorem State.judgeEntry_of_eighth {s : State} {n : Nat} {bs : List Byte}
    (h : entryFresh bs (s.queue n).head (s.queue n).log2Ent = false) (hs : (s.queue n).stale = true) (hr : (s.queue n).rereads = 7) :
    s.judgeEntry n (.ok bs) = (s.haltQueue n stQueueStale).report
      { code := eQueueStale, cls := clsCommand, func := if (s.queue n).view < 16 then some (s.queue n).view else none
        a := n, b := (s.queue n).head.toNat } := by
  simp only [State.judgeEntry, h, hs, hr, Bool.false_eq_true, if_false, and_self, if_true]

theorem State.interrupt_queue (s : State) (path vec n : Nat) : (s.interrupt path vec).queue n = s.queue n := by
  rw [State.interrupt_eq]
  rfl

/-- Writing a record of a halted queue leaves it halted where it stands. -/
theorem State.writeCpl_halted {s : State} {n : Nat} (h : (s.queue n).state = .haltedError) :
    ((s.writeCpl n).queue n).state = .haltedError ∧ ((s.writeCpl n).queue n).head = (s.queue n).head := by
  unfold State.writeCpl
  dsimp only
  split
  · exact ⟨h, rfl⟩
  · split
    · exact ⟨h, rfl⟩
    · split
      · rw [State.setQueue_queue_self]
        exact ⟨rfl, rfl⟩
      · split
        · rw [State.interrupt_queue, State.setQueue_queue_self]
          exact ⟨h, rfl⟩
        · rw [State.setQueue_queue_self]
          exact ⟨h, rfl⟩

theorem State.haltQueue_halted {s : State} {n err : Nat} (hw : (s.queue n).waiting = []) (hroom : (s.queue n).room = true) :
    ((s.haltQueue n err).queue n).state = .haltedError ∧ ((s.haltQueue n err).queue n).head = (s.queue n).head := by
  have hhalt : s.haltQueue n err = (s.setQueue n { s.queue n with
      state := .haltedError, err := err, stale := false, rereads := 0
      waiting := [{ tag := 0, entry := (s.queue n).head, status := err, result := [] }] }).flushQueue n := by
    simp only [State.haltQueue, hw, hroom, List.isEmpty_nil, and_self, if_true, List.nil_append]
  rw [hhalt, State.flushQueue_of_one (by rw [State.setQueue_queue_self])]
  have hself := s.setQueue_queue_self n { s.queue n with
    state := .haltedError, err := err, stale := false, rereads := 0
    waiting := [{ tag := 0, entry := (s.queue n).head, status := err, result := [] }] }
  have halted := State.writeCpl_halted (congrArg Queue.state hself)
  rw [hself] at halted
  exact halted

theorem execEntryFetch_of_ready {s : State} {q : Nat} {bs : List Byte} (hq : q < queueCount) (hlen : bs.length = 64)
    (hp : s.poison = []) (hr : s.fetchReady q = true) (hs : (s.queue q).stale = false) :
    execEntryFetch q (.ok bs) .none s = .next (s.judgeEntry q (.ok bs)) := by
  have hlost : (s.descLine q).filter (fun a => s.poison.contains (a / 64 * 64) && s.fetchReady q) = none := by
    simp [hp]
  unfold execEntryFetch
  rw [if_neg (by omega), if_neg (by simp [entryData, hlen]), hlost]
  simp only [Option.map_none, Option.getD_none, hr, hs, Bool.not_false, Bool.and_self, if_true]

theorem execEntryReread_of_ready {s : State} {q : Nat} {bs : List Byte} (hq : q < queueCount) (hlen : bs.length = 64)
    (hr : s.fetchReady q = true) (hs : (s.queue q).stale = true) :
    execEntryReread q (.ok bs) s = .next (s.judgeEntry q (.ok bs)) := by
  unfold execEntryReread
  simp only [entryData, hlen, decide_true, Bool.not_true, Bool.false_eq_true, if_false, hr, hs, Bool.and_self, if_true,
    if_neg (by omega : ¬queueCount ≤ q)]

/-- Settles O35: a read of an entry that is due is judged, and each judgement is one of the lemmas above. -/
theorem entryFetch : Obligations.EntryFetch := by
  intro s q bs hq hlen hready hpoison
  dsimp only
  obtain ⟨hwait, hroom⟩ := State.fetchReady_waiting hready
  have only := fun v => s.setQueue_only q v
  refine ⟨fun hs hf fields ha hc => ?_, fun hs hf => ?_, fun hs hf hn => ?_, fun hs hf hn => ?_, fun hs hf fields ha hc => ?_⟩
  · refine ⟨_, execEntryFetch_of_ready hq hlen hpoison hready hs, ?_⟩
    rw [State.judgeEntry_of_fresh hf, State.acceptEntry_of_formed ha hc]
    exact ⟨only _, s.setQueue_queue_self q _⟩
  · refine ⟨_, execEntryFetch_of_ready hq hlen hpoison hready hs, ?_⟩
    rw [State.judgeEntry_of_stale hf (by simp [hs])]
    exact ⟨only _, by rw [State.setQueue_queue_self, hs, if_neg Bool.false_ne_true]⟩
  · refine ⟨_, execEntryReread_of_ready hq hlen hready hs, ?_⟩
    rw [State.judgeEntry_of_stale hf (by omega)]
    exact ⟨only _, by rw [State.setQueue_queue_self, hs, if_pos rfl]⟩
  · refine ⟨_, execEntryReread_of_ready hq hlen hready hs, ?_⟩
    rw [State.judgeEntry_of_eighth hf hs hn]
    obtain ⟨hstate, hhead⟩ := State.haltQueue_halted (err := stQueueStale) hwait hroom
    exact ⟨hstate, hhead, State.report_recorded _ _⟩
  · refine ⟨_, execEntryReread_of_ready hq hlen hready hs, ?_⟩
    rw [State.judgeEntry_of_fresh hf, State.acceptEntry_of_formed ha hc]
    refine ⟨only _, ?_⟩
    rw [State.setQueue_queue_self]
    exact ⟨rfl, rfl, rfl⟩

/-! ### Queue commands (R322, R332, R336, R338, R343) -/

theorem State.activeState_eq (s : State) (x : Queue) : s.activeState x =
    if ∃ h, h < s.code.hubs ∧ (s.lwl h).state = .out ∧ s.ringOn h x = true then .haltedLink else .active := by
  have hiff : ((List.range s.code.hubs).any fun h => (s.lwl h).state == .out && s.ringOn h x) = true ↔
      ∃ h, h < s.code.hubs ∧ (s.lwl h).state = .out ∧ s.ringOn h x = true := by
    simp only [List.any_eq_true, List.mem_range, Bool.and_eq_true, beq_iff_eq]
  simp only [State.activeState, hiff]

/-- Writing a record changes no other queue, and no command in progress. -/
theorem State.writeCpl_queues (s : State) (n : Nat) :
    (∀ j, j ≠ n → (s.writeCpl n).queue j = s.queue j) ∧ ((s.writeCpl n).queue n).running = (s.queue n).running := by
  have set : ∀ (t : State) (v : Queue), (∀ j, t.queue j = s.queue j) → v.running = (s.queue n).running →
      (∀ j, j ≠ n → (t.setQueue n v).queue j = s.queue j) ∧ ((t.setQueue n v).queue n).running = (s.queue n).running :=
    fun t v ht hv => ⟨fun j hj => (t.setQueue_queue_ne n v j hj).trans (ht j), by rw [State.setQueue_queue_self, hv]⟩
  unfold State.writeCpl
  dsimp only
  split
  · exact ⟨fun _ _ => rfl, rfl⟩
  · split
    · exact ⟨fun _ _ => rfl, rfl⟩
    · split
      · exact set s _ (fun _ => rfl) rfl
      · split
        · simp only [State.interrupt_queue]
          exact set _ _ (fun _ => rfl) rfl
        · exact set _ _ (fun _ => rfl) rfl

theorem State.flushQueue_queues (s : State) (n : Nat) :
    (∀ j, j ≠ n → (s.flushQueue n).queue j = s.queue j) ∧ ((s.flushQueue n).queue n).running = (s.queue n).running := by
  unfold State.flushQueue
  generalize List.range _ = ks
  induction ks generalizing s with
  | nil => exact ⟨fun _ _ => rfl, rfl⟩
  | cons k ks ih =>
    obtain ⟨hne, hrun⟩ := s.writeCpl_queues n
    obtain ⟨ihne, ihrun⟩ := ih (s.writeCpl n)
    exact ⟨fun j hj => (ihne j hj).trans (hne j hj), ihrun.trans hrun⟩

/-- No function waits for the end of a command, so that there is nothing for a queue that goes to cancel. -/
def NoneWaits (s : State) : Prop :=
  ∀ fn, fn < 16 → (s.func fn).enablingCmds = [] ∧ (s.func fn).pendingCmds = [] ∧ (s.func fn).snap = none

theorem State.cancelLong_queue {s : State} (h : NoneWaits s) (q j : Nat) : (s.cancelLong q).queue j = s.queue j := by
  suffices NoneWaits (s.cancelLong q) ∧ ∀ j, (s.cancelLong q).queue j = s.queue j from this.2 j
  refine List.foldlRecOn funcIds _ (motive := fun t => NoneWaits t ∧ ∀ j, t.queue j = s.queue j) ⟨h, fun _ => rfl⟩ ?_
  rintro t ⟨hnone, hqueue⟩ n hn
  obtain ⟨hen, hpend, hsnap⟩ := hnone n (List.mem_range.mp hn)
  simp only [hen, hpend, hsnap, List.append_nil, List.filter_nil, Option.toList_none, List.flatMap_nil, List.isEmpty_nil, if_true,
    State.completeAll, List.foldl_nil]
  refine ⟨fun k hk => ?_, hqueue⟩
  rw [State.setFunc_func]
  split
  · exact ⟨rfl, rfl, rfl⟩
  · exact hnone k hk

theorem State.onQueue_self (s : State) (n : Nat) (f : Queue → Queue) : (s.onQueue n f).queue n = f (s.queue n) :=
  s.setQueue_queue_self n _

/-- A queue that is to go, with nothing in progress and nothing waiting, goes IDLE. -/
theorem State.settleDestroy_disarming {s : State} {n : Nat} (hr : (s.queue n).running = none) (hw : (s.queue n).waiting = [])
    (hd : (s.queue n).destroying = none) (ha : (s.queue n).disarming = true) : s.settleDestroy n = s.idleQueue n := by
  simp only [State.settleDestroy, hr, hw, hd, ha, Option.isNone_none, List.isEmpty_nil, Bool.and_self, Bool.true_or, if_true]

theorem State.idleQueue_state (s : State) (n : Nat) : ((s.idleQueue n).queue n).state = .idle :=
  congrArg Queue.state (s.setQueue_queue_self n _)

/-- A QDESTROY of a queue with nothing in progress and nothing waiting takes it to IDLE and completes on its own queue. -/
theorem State.settleDestroy_destroying {s : State} {n : Nat} {c : Cmd} (hr : (s.queue n).running = none)
    (hw : (s.queue n).waiting = []) (hd : (s.queue n).destroying = some c) (hne : c.q ≠ n) :
    ((s.settleDestroy n).queue n).state = .idle ∧ ((s.settleDestroy n).queue c.q).running = none := by
  simp only [State.settleDestroy, hr, hw, hd, Option.isNone_none, List.isEmpty_nil, Bool.and_self, Bool.true_or, if_true]
  obtain ⟨hothers, hrun⟩ := ((s.idleQueue n).onQueue c.q fun a => { a with
    running := none, waiting := a.waiting ++ [{ tag := c.tag, entry := c.entry, status := 0, result := [] }] }).flushQueue_queues c.q
  constructor
  · rw [hothers n hne.symm, State.onQueue, State.setQueue_queue_ne _ _ _ _ hne.symm, State.idleQueue_state]
  · rw [hrun, State.onQueue, State.setQueue_queue_self]

theorem State.armQueue_of_inactive {s : State} (h : (s.queue 0).state ≠ .active) (hr : 4 ≤ s.larwa.aqRingLog2.toNat)
    (hr' : s.larwa.aqRingLog2.toNat ≤ 16) (hc : 4 ≤ s.larwa.aqCplLog2.toNat) (hc' : s.larwa.aqCplLog2.toNat ≤ 16) :
    let v : Queue := {
      ring := BitVec.ofNat 64 (s.larwa.aqRingBase.toNat * 4096), cpl := BitVec.ofNat 64 (s.larwa.aqCplBase.toNat * 4096)
      log2Ent := s.larwa.aqRingLog2.toNat, log2Cpl := s.larwa.aqCplLog2.toNat, state := .active, view := 16
      ivec := s.larwa.aqIvec.toNat, ipath := s.larwa.aqIpath.toNat, epoch := s.larwa.epoch }
    s.armQueue = (s.dropCmds fun n => n == 0).setQueue 0 { v with state := s.activeState v } := by
  simp only [State.armQueue, h, hr, hr', hc, hc', and_self, decide_true, Bool.true_eq_false, or_self, if_false]

theorem State.disarmQueue_of_active {s : State} (h : (s.queue 0).state = .active) :
    s.disarmQueue = ((s.cancelLong 0).onQueue 0 fun v => { v with disarming := true }).settleDestroy 0 :=
  if_neg (by simp [h])

theorem State.filter_poison_of_clean {s : State} (h : s.poison = []) (p : Nat → Bool) :
    { s with poison := s.poison.filter p } = s := by
  rw [h, List.filter_nil, ← h]

theorem execQcreate_of_fits {s : State} {q fn : Nat} {c : Cmd} (hc : InProgress s q 0x20 c) (hf : s.queueFunc (c.arg 8 4) = some fn)
    (hid : 512 ≤ c.arg 8 4 ∧ c.arg 8 4 < queueCount) (he : 4 ≤ c.arg 12 1 ∧ c.arg 12 1 ≤ 16) (hl : 4 ≤ c.arg 13 1 ∧ c.arg 13 1 ≤ 16)
    (hp : c.arg 14 1 ≤ 2) (hr : c.arg 24 8 % 4096 = 0) (hr' : c.arg 32 8 % 4096 = 0)
    (hb : c.arg 24 8 + 2 ^ c.arg 12 1 * 64 ≤ 2 ^ 47) (hb' : c.arg 32 8 + 2 ^ c.arg 13 1 * 32 ≤ 2 ^ 47)
    (hon : (s.func fn).state = .on) (hst : (s.queue (c.arg 8 4)).state = .idle ∨ (s.queue (c.arg 8 4)).state = .haltedHost)
    (hpoison : s.poison = []) :
    let x : Queue := {
      ring := BitVec.ofNat 64 (c.arg 24 8), cpl := BitVec.ofNat 64 (c.arg 32 8), log2Ent := c.arg 12 1
      log2Cpl := c.arg 13 1, state := .active, view := fn, ivec := c.arg 16 2, ipath := c.arg 14 1, epoch := s.larwa.epoch }
    Finishes (.qcreate q) s (s.setQueue (c.arg 8 4) { x with state := s.activeState x }) c stSuccess [] := by
  dsimp only
  show execQcreate q s = _
  have hbad : ¬(queueCount ≤ c.arg 8 4 ∨ c.arg 8 4 < 512 ∨ decide (4 ≤ c.arg 12 1 ∧ c.arg 12 1 ≤ 16) = false ∨
      decide (4 ≤ c.arg 13 1 ∧ c.arg 13 1 ≤ 16) = false ∨ 2 < c.arg 14 1 ∨ c.arg 24 8 % 4096 ≠ 0 ∨ c.arg 32 8 % 4096 ≠ 0 ∨
      2 ^ 47 < c.arg 24 8 + 2 ^ c.arg 12 1 * 64 ∨ 2 ^ 47 < c.arg 32 8 + 2 ^ c.arg 13 1 * 32) := by
    simp only [he, hl, and_self, decide_true, Bool.true_eq_false, hr, hr', ne_eq, not_true_eq_false, false_or]
    omega
  have hstate : ¬((s.func fn).state ≠ .on ∨ ((s.queue (c.arg 8 4)).state ≠ .idle ∧ (s.queue (c.arg 8 4)).state ≠ .haltedHost)) := by
    tauto
  rw [execQcreate, State.withCmd_inProgress hc]
  simp only [hf]
  rw [if_neg hbad, if_neg hstate]
  split
  · exact congrArg (fun t => State.finish t c stSuccess) (State.filter_poison_of_clean (s := s.setQueue (c.arg 8 4) _) hpoison _)
  · rfl

/-- Settles O36: what each command answers, from the state of the queue it names. -/
theorem queueCommands : Obligations.QueueCommands := by
  intro s q c
  dsimp only
  refine ⟨s.activeState_eq, ?_, ?_, ?_, ?_, ?_, ?_, ?_⟩
  · intro fn hc hf h1 h2 h3 h4 h5 h6 h7 h8 h9 h10 h11 hon hst hpoison
    exact execQcreate_of_fits hc hf ⟨h1, h2⟩ ⟨h3, h4⟩ ⟨h5, h6⟩ h7 h8 h9 h10 h11 hon hst hpoison
  · intro hc hid hlt
    have hrange : ¬(c.arg 8 4 = 0 ∨ queueCount ≤ c.arg 8 4) := by omega
    constructor
    · intro hidle
      show execQdestroy q s = _
      rw [execQdestroy, State.withCmd_inProgress hc]
      simp only [hrange, if_false, hidle, if_true, State.finish]
    · rintro hne hactive hrun ⟨hwait, -, -⟩ - hcq hnone
      refine ⟨((s.cancelLong (c.arg 8 4)).onQueue (c.arg 8 4) fun v => { v with destroying := some c }).settleDestroy (c.arg 8 4), ?_, ?_⟩
      · show execQdestroy q s = _
        rw [execQdestroy, State.withCmd_inProgress hc]
        simp only [hrange, if_false, hactive, reduceCtorEq]
      · have hsame := State.cancelLong_queue hnone (c.arg 8 4) (c.arg 8 4)
        generalize s.cancelLong (c.arg 8 4) = u at hsame ⊢
        have hself := u.onQueue_self (c.arg 8 4) fun v => { v with destroying := some c }
        rw [hsame] at hself
        rw [← hcq]
        exact State.settleDestroy_destroying ((congrArg Queue.running hself).trans hrun) ((congrArg Queue.waiting hself).trans hwait)
          (congrArg Queue.destroying hself) (hcq ▸ hne)
  · intro hc hid hlt hhalted herr
    show execQresume q s = _
    rw [execQresume, State.withCmd_inProgress hc]
    rw [if_neg (by omega : ¬(c.arg 8 4 = 0 ∨ queueCount ≤ c.arg 8 4)), if_neg (by simp [hhalted, herr])]
    rfl
  · intro hstate h1 h2 h3 h4
    refine ⟨_, congrArg Host.Outcome.next (State.armQueue_of_inactive hstate h1 h2 h3 h4), ?_⟩
    simp only [State.setQueue_queue_self, and_true]
    rfl
  · exact fun hactive => ⟨_, rfl, if_pos (.inl hactive)⟩
  · exact fun hidle => congrArg Host.Outcome.next (if_pos hidle)
  · rintro hactive hrun ⟨hwait, hdest, -⟩ hnone
    refine ⟨_, congrArg Host.Outcome.next (State.disarmQueue_of_active hactive), ?_⟩
    have hsame := State.cancelLong_queue hnone 0 0
    generalize s.cancelLong 0 = u at hsame ⊢
    have hself := u.onQueue_self 0 fun v => { v with disarming := true }
    rw [hsame] at hself
    rw [State.settleDestroy_disarming ((congrArg Queue.running hself).trans hrun) ((congrArg Queue.waiting hself).trans hwait)
      ((congrArg Queue.destroying hself).trans hdest) (congrArg Queue.disarming hself)]
    exact State.idleQueue_state _ 0

end Sys2Proof.Machine
end

section
/-! SUPPORT. Jobs that stop and functions that drain: what that leaves of memory, records, links and queues. -/
namespace Sys2Proof.Machine

/-! ### Records that outlast later reports (R437) -/

/-- A record of that code and class is held, with at most `k` records after it. -/
def RecordedWithin (k : Nat) (s : State) (code cls : Nat) (fn : Option Nat) : Prop :=
  ∃ older r newer, s.errs.held = older ++ r :: newer ∧ newer.length ≤ k ∧ r.code = code ∧ r.cls = cls ∧ r.func = fn.getD 0xFF

theorem RecordedWithin.recorded {k : Nat} {s : State} {code cls : Nat} {fn : Option Nat} (h : RecordedWithin k s code cls fn) :
    Recorded s code cls fn := by
  obtain ⟨older, r, newer, hheld, -, his⟩ := h
  exact ⟨r, by simp [hheld], his⟩

/-- At most `n` reports lie between the two states, so that a record outlasts them if it is not too old. -/
def Reports (n : Nat) (s t : State) : Prop :=
  ∀ k code cls fn, k + n < 1024 → RecordedWithin k s code cls fn → RecordedWithin (k + n) t code cls fn

theorem Reports.of_errs {s t : State} (h : t.errs = s.errs) : Reports 0 s t := by
  rintro k code cls fn - hr
  unfold RecordedWithin at hr ⊢
  rwa [h]

theorem Reports.trans {n m : Nat} {s t u : State} (h : Reports n s t) (k : Reports m t u) : Reports (n + m) s u := by
  intro j code cls fn hj hr
  rw [← Nat.add_assoc]
  exact k _ _ _ _ (by omega) (h _ _ _ _ (by omega) hr)

theorem Reports.mono {n m : Nat} {s t : State} (h : Reports n s t) (hle : n ≤ m) : Reports m s t := by
  intro k code cls fn hk hr
  obtain ⟨older, r, newer, hheld, hlen, his⟩ := h _ _ _ _ (by omega) hr
  exact ⟨older, r, newer, hheld, by omega, his⟩

theorem Reports.recorded {n k : Nat} {s t : State} (h : Reports n s t) {code cls : Nat} {fn : Option Nat}
    (hr : RecordedWithin k s code cls fn) (hk : k + n < 1024 := by decide) : Recorded t code cls fn :=
  (h _ _ _ _ hk hr).recorded

theorem State.report_held_eq (s : State) (p : Report) : ∃ m r, (s.report p).errs.held = s.errs.held.drop m ++ [r] ∧
    (m = 0 ∨ m = 1 ∧ 1024 ≤ s.errs.held.length) ∧ r.code = p.code ∧ r.cls = p.cls ∧ r.func = p.func.getD 0xFF := by
  unfold State.report
  simp only [Errors.count_held, Errors.hold]
  split
  next => exact ⟨0, _, rfl, .inl rfl, rfl, rfl, rfl⟩
  next h => exact ⟨1, _, rfl, .inr ⟨rfl, Nat.not_lt.mp h⟩, rfl, rfl, rfl⟩

theorem State.report_within (s : State) (p : Report) : RecordedWithin 0 (s.report p) p.code p.cls p.func := by
  obtain ⟨m, r, hheld, -, his⟩ := s.report_held_eq p
  exact ⟨_, r, [], hheld, Nat.le_refl 0, his⟩

/-- A report drops at most the oldest of 1,024 records. -/
theorem State.report_reports (s : State) (p : Report) : Reports 1 s (s.report p) := by
  rintro k code cls fn hk ⟨older, r, newer, hheld, hlen, his⟩
  obtain ⟨m, r', hheld', hm, -⟩ := s.report_held_eq p
  have hdrop : m ≤ older.length := by
    rcases hm with rfl | ⟨rfl, hfull⟩
    · exact Nat.zero_le _
    · rw [hheld, List.length_append, List.length_cons] at hfull
      omega
  refine ⟨older.drop m, r, newer ++ [r'], ?_, by rw [List.length_append]; exact Nat.add_le_add_right hlen 1, his⟩
  rw [hheld', hheld, List.drop_append_of_le_length hdrop, List.append_assoc, List.cons_append]

/-! ### Queues that no completion moves (R322, R342) -/

/-- A queue that is halted by its link or its host, and that nobody waits to see IDLE. -/
def Queue.Parked (q : Queue) : Prop :=
  (q.state = .haltedLink ∨ q.state = .haltedHost) ∧ q.destroying = none ∧ q.disarming = false

/-- Every parked queue stays parked, in the state it had. -/
def ParkedKept (s t : State) : Prop := ∀ n, (s.queue n).Parked → (t.queue n).Parked ∧ (t.queue n).state = (s.queue n).state

theorem ParkedKept.refl (s : State) : ParkedKept s s := fun _ h => ⟨h, rfl⟩

theorem ParkedKept.of_queues {s t : State} (h : t.queues = s.queues) : ParkedKept s t := fun n hn => by
  have hq : t.queue n = s.queue n := by rw [State.queue, State.queue, h]
  rw [hq]
  exact ⟨hn, rfl⟩

theorem ParkedKept.trans {s t u : State} (h : ParkedKept s t) (k : ParkedKept t u) : ParkedKept s u := fun n hn =>
  ⟨(k n (h n hn).1).1, (k n (h n hn).1).2.trans (h n hn).2⟩

theorem ParkedKept.foldl {β : Type} {f : State → β → State} (h : ∀ s b, ParkedKept s (f s b)) (l : List β) (s : State) :
    ParkedKept s (l.foldl f s) :=
  List.foldlRecOn (motive := ParkedKept s) l f (.refl s) fun t ht b _ => ht.trans (h t b)

/-- A queue may be changed in what does not park it, and as one likes where it is not parked. -/
theorem State.setQueue_parkedKept (s : State) (n : Nat) (v : Queue)
    (h : (s.queue n).Parked → v.state = (s.queue n).state ∧ v.destroying = none ∧ v.disarming = false) :
    ParkedKept s (s.setQueue n v) := by
  intro j hj
  rw [State.setQueue_queue]
  split
  next hn =>
    subst hn
    obtain ⟨hstate, hdest, hdis⟩ := h hj
    exact ⟨⟨hstate ▸ hj.1, hdest, hdis⟩, hstate⟩
  next => exact ⟨hj, rfl⟩

theorem State.cplReady_of_parked (s : State) {q : Queue} (h : q.Parked) : s.cplReady q = false := by
  obtain ⟨hstate, -⟩ := h
  rcases hstate with hstate | hstate <;> simp [State.cplReady, hstate]

theorem State.writeCpl_parkedKept (s : State) (n : Nat) : ParkedKept s (s.writeCpl n) := by
  by_cases hpark : (s.queue n).Parked
  · have hsame : s.writeCpl n = s := by
      unfold State.writeCpl
      dsimp only
      split
      · rfl
      · rw [s.cplReady_of_parked hpark]
        rfl
    rw [hsame]
    exact .refl s
  · obtain ⟨hne, -⟩ := s.writeCpl_queues n
    intro j hj
    have hjn : j ≠ n := fun h => hpark (h ▸ hj)
    rw [hne j hjn]
    exact ⟨hj, rfl⟩

theorem State.flushQueue_parkedKept (s : State) (n : Nat) : ParkedKept s (s.flushQueue n) :=
  .foldl (fun s _ => s.writeCpl_parkedKept n) _ s

theorem State.settleDestroy_parkedKept (s : State) (n : Nat) : ParkedKept s (s.settleDestroy n) := by
  by_cases hpark : (s.queue n).Parked
  · obtain ⟨-, hdest, hdis⟩ := id hpark
    have hsame : s.settleDestroy n = s := State.settleDestroy_of_none hdest hdis
    rw [hsame]
    exact .refl s
  · have hidle : ParkedKept s (s.idleQueue n) := s.setQueue_parkedKept n _ fun h => absurd h hpark
    unfold State.settleDestroy
    dsimp only
    split
    · split
      · exact (hidle.trans (State.setQueue_parkedKept _ _ _ fun ⟨_, hdest, hdis⟩ => ⟨rfl, hdest, hdis⟩)).trans
          (State.flushQueue_parkedKept _ _)
      · split
        · exact hidle
        · exact .refl s
    · exact .refl s

theorem State.complete_parkedKept (s : State) (c : Cmd) (st : Nat) (r : List Byte) : ParkedKept s (s.complete c st r) := by
  refine ((s.setQueue_parkedKept c.q _ fun ⟨_, hdest, hdis⟩ => ?_).trans (State.flushQueue_parkedKept _ _)).trans
    (State.settleDestroy_parkedKept _ _)
  split <;> split <;> exact ⟨rfl, hdest, hdis⟩

theorem State.completeAll_parkedKept (s : State) (cs : List Cmd) (st : Nat) (r : List Byte) :
    ParkedKept s (s.completeAll cs st r) :=
  .foldl (fun s c => s.complete_parkedKept c st r) cs s

theorem State.onTiles_queues (s : State) (f : Nat → Tile → Tile) : (s.onTiles f).queues = s.queues := by rw [State.onTiles_only]

theorem State.closeWindows_queues (s : State) (fn : Nat) : (s.closeWindows fn).queues = s.queues :=
  foldl_keeps State.queues (by intros; rfl) _ s

theorem State.endJob_parkedKept (s : State) (fn st : Nat) : ParkedKept s (s.endJob fn st) := by
  unfold State.endJob State.clearSteps
  refine (ParkedKept.trans (.of_queues ?_) (State.completeAll_parkedKept _ _ _ _)).trans (State.completeAll_parkedKept _ _ _ _)
  rw [State.onTiles_queues, State.onTiles_queues]
  rfl

theorem State.drain_parkedKept (s : State) (fn : Nat) : ParkedKept s (s.drain fn) := by
  unfold State.drain
  dsimp only
  split
  · refine ((s.endJob_parkedKept fn stCancelled).trans (.of_queues ?_)).trans (State.completeAll_parkedKept _ _ _ _)
    rw [State.closeWindows_queues]
    exact (State.onTiles_queues _ _).trans (State.onTiles_queues _ _)
  · exact .refl s

/-! ### Links (R320, R327) -/

/-- The Larwa link of a hub die, and how its bus port has trained. -/
def Hub.links (x : Hub) : LwlLink × Nat × Nat := (x.link, x.bus.gen, x.bus.width)

/-- Every hub die's link and the training of its bus port are as they were, whatever became of its windows. -/
def LinksKept (s t : State) : Prop := ∀ h, (t.hub h).links = (s.hub h).links

theorem LinksKept.trans {s t u : State} (h : LinksKept s t) (k : LinksKept t u) : LinksKept s u := fun j => (k j).trans (h j)

theorem LinksKept.foldl {β : Type} {f : State → β → State} (h : ∀ s b, LinksKept s (f s b)) (l : List β) (s : State) :
    LinksKept s (l.foldl f s) := fun j => foldl_keeps (fun s : State => (s.hub j).links) (fun s b => h s b j) l s

theorem LinksKept.lwl {s t : State} (h : LinksKept s t) (j : Nat) : t.lwl j = s.lwl j := congrArg Prod.fst (h j)

theorem LinksKept.gen {s t : State} (h : LinksKept s t) (j : Nat) : (t.hub j).bus.gen = (s.hub j).bus.gen :=
  congrArg (fun x => x.2.1) (h j)

theorem LinksKept.width {s t : State} (h : LinksKept s t) (j : Nat) : (t.hub j).bus.width = (s.hub j).bus.width :=
  congrArg (fun x => x.2.2) (h j)

theorem LinksKept.of_hubs {s t : State} (h : t.hubs = s.hubs) : LinksKept s t := fun j => by rw [State.hub, State.hub, h]

theorem State.setHub_linksKept (s : State) (h : Nat) (v : Hub) (hv : v.links = (s.hub h).links) : LinksKept s (s.setHub h v) := by
  intro j
  rw [State.setHub_hub]
  split
  next hj => rw [hj, hv]
  next => rfl

theorem CplOnly.linksKept {s t : State} (h : CplOnly s t) : LinksKept s t := .of_hubs (by rw [h.1])

theorem State.onTiles_linksKept (s : State) (f : Nat → Tile → Tile) : LinksKept s (s.onTiles f) :=
  .of_hubs (by rw [State.onTiles_only])

theorem State.closeWindows_linksKept (s : State) (fn : Nat) : LinksKept s (s.closeWindows fn) :=
  .foldl (fun s h => s.setHub_linksKept h _ (by rfl)) _ s

theorem State.endJob_linksKept (s : State) (fn st : Nat) : LinksKept s (s.endJob fn st) := by
  intro j
  unfold State.endJob State.clearSteps
  dsimp only
  rw [(State.completeAll_cpl _ _ _ _).linksKept, (State.completeAll_cpl _ _ _ _).linksKept, State.onTiles_linksKept,
    State.onTiles_linksKept]
  rfl

theorem State.drain_linksKept (s : State) (fn : Nat) : LinksKept s (s.drain fn) := by
  intro j
  unfold State.drain
  dsimp only
  split
  · rw [(State.completeAll_cpl _ _ _ _).linksKept, State.closeWindows_linksKept, ← s.endJob_linksKept fn stCancelled]
    exact (State.onTiles_linksKept _ _ j).trans (State.onTiles_linksKept _ _ j)
  · rfl

/-! ### Jobs that stop -/

/-- A function stands as it stood, or has moved to DRAINING with the ledger groups that wait. -/
def Func.Stopped (f g : Func) : Prop := g = f ∨ (g.state = .draining ∧ g.ledgerWait = f.ledgerWait)

theorem Func.Stopped.trans {f g h : Func} (a : f.Stopped g) (b : g.Stopped h) : f.Stopped h := by
  rcases b with rfl | ⟨hstate, hwait⟩
  · exact a
  · rcases a with rfl | ⟨-, hwait'⟩
    · exact .inr ⟨hstate, hwait⟩
    · exact .inr ⟨hstate, hwait.trans hwait'⟩

theorem State.drain_stopped (s : State) (fn j : Nat) : ((s.func j)).Stopped ((s.drain fn).func j) := by
  obtain ⟨-, -, hothers⟩ := s.drain_job fn
  by_cases hj : j = fn
  · subst hj
    by_cases hon : (s.func j).state = .on ∨ (s.func j).state = .enabling
    · refine .inr ⟨s.drain_state j hon, ?_⟩
      unfold State.drain State.releaseDebug
      dsimp only
      rw [if_pos hon, (State.completeAll_cpl _ _ _ _).func, State.closeWindows_func]
      show (((State.stopSequencers _ j).onTiles _).func j).ledgerWait = _
      rw [State.onTiles_func, State.stopSequencers, State.onTiles_func, State.onFunc, State.setFunc_func_self, State.endJob_func]
    · refine .inl ?_
      unfold State.drain
      dsimp only
      rw [if_neg hon]
  · exact .inl (hothers j hj)

/-- Between `s` and `t` at most `n` errors were reported and jobs stopped, with the functions that ran them DRAINING. -/
structure Stops (n : Nat) (s t : State) : Prop where
  rest : t = { s with funcs := t.funcs, tiles := t.tiles, hubs := t.hubs, dbg := t.dbg, mem := t.mem, poison := t.poison
                      queues := t.queues, out := t.out, errs := t.errs }
  host : HostOnly s t
  reports : Reports n s t
  func : ∀ j, (s.func j).Stopped (t.func j)
  links : LinksKept s t
  parked : ParkedKept s t

theorem Stops.links_eq {n : Nat} {s t : State} (h : Stops n s t) : t.links = s.links := by rw [h.rest]
theorem Stops.boot_eq {n : Nat} {s t : State} (h : Stops n s t) : t.boot = s.boot := by rw [h.rest]
theorem Stops.nv_eq {n : Nat} {s t : State} (h : Stops n s t) : t.nv = s.nv := by rw [h.rest]
theorem Stops.pending_eq {n : Nat} {s t : State} (h : Stops n s t) : t.pending = s.pending := by rw [h.rest]
theorem Stops.larwa_eq {n : Nat} {s t : State} (h : Stops n s t) : t.larwa = s.larwa := by rw [h.rest]

theorem Stops.refl (s : State) : Stops 0 s s :=
  ⟨rfl, fun _ _ => rfl, .of_errs rfl, fun _ => .inl rfl, fun _ => rfl, .refl s⟩

theorem Stops.trans {n m : Nat} {s t u : State} (h : Stops n s t) (k : Stops m t u) : Stops (n + m) s u where
  rest := by rw [k.rest, h.rest]
  host z hz := (k.host z hz).trans (h.host z hz)
  reports := h.reports.trans k.reports
  func j := (h.func j).trans (k.func j)
  links := h.links.trans k.links
  parked := h.parked.trans k.parked

theorem Stops.mono {n m : Nat} {s t : State} (h : Stops n s t) (hle : n ≤ m) : Stops m s t :=
  { h with reports := h.reports.mono hle }

theorem Stops.foldl {β : Type} {f : State → β → State} {k : Nat} (h : ∀ s b, Stops k s (f s b)) (l : List β) :
    ∀ s, Stops (k * l.length) s (l.foldl f s) := by
  induction l with
  | nil => exact Stops.refl
  | cons b l ih =>
    intro s
    rw [List.length_cons, Nat.mul_succ, Nat.add_comm]
    exact (h s b).trans (ih _)

theorem State.report_stops (s : State) (p : Report) : Stops 1 s (s.report p) :=
  ⟨rfl, fun _ _ => rfl, s.report_reports p, fun _ => .inl rfl, fun _ => rfl, .of_queues rfl⟩

theorem State.drain_stops (s : State) (fn : Nat) : Stops 0 s (s.drain fn) := by
  obtain ⟨hrest, hhost, -⟩ := s.drain_job fn
  exact ⟨by rw [hrest], hhost, .of_errs (by rw [hrest]), s.drain_stopped fn, s.drain_linksKept fn, s.drain_parkedKept fn⟩

theorem State.drainEach_stops (s : State) (fs : List Nat) : Stops 0 s (fs.foldl (fun s n => s.drain n) s) :=
  (Stops.foldl (fun s n => s.drain_stops n) fs s).mono (by omega)

theorem funcIds_length : funcIds.length = 16 := rfl

theorem mem_funcIds {n : Nat} (h : n < 16) : n ∈ funcIds := List.mem_range.mpr h

/-- A function that a step of a fold drains is DRAINING at the fold's end. -/
theorem Stops.foldl_draining {f : State → Nat → State} {k : Nat} (h : ∀ s b, Stops k s (f s b)) {P : Func → Prop} {n : Nat}
    (hP : ∀ s, P (s.func n) → ((f s n).func n).state = .draining) {l : List Nat} (hn : n ∈ l) :
    ∀ s, P (s.func n) → ((l.foldl f s).func n).state = .draining := by
  induction l with
  | nil => cases hn
  | cons b l ih =>
    intro s hs
    have hrest := (Stops.foldl h l (f s b)).func n
    rw [List.foldl_cons]
    have hstays (hd : ((f s b).func n).state = .draining) : ((l.foldl f (f s b)).func n).state = .draining := by
      rcases hrest with heq | ⟨hstate, -⟩
      · rw [heq, hd]
      · exact hstate
    by_cases hb : n = b
    · subst hb
      exact hstays (hP s hs)
    · rcases (h s b).func n with heq | ⟨hstate, -⟩
      · exact ih (List.mem_of_ne_of_mem hb hn) _ (heq.symm ▸ hs)
      · exact hstays hstate

theorem State.stopJob_stops (s : State) (lost n : Nat) : Stops 1 s
    (if (s.func n).run || (s.func n).armed || (s.func n).halted then
      (s.report { code := 0x0033, cls := clsFunction, func := some n, a := lost }).drain n
    else s) := by
  split
  · exact (s.report_stops _).trans (State.drain_stops _ n)
  · exact (Stops.refl s).mono (Nat.zero_le 1)

theorem State.stopJobs_stops (s : State) (lost : Nat) : Stops 16 s (s.stopJobs lost) :=
  (Stops.foldl (fun s n => s.stopJob_stops lost n) funcIds s).mono (by rw [funcIds_length])

/-- A function that is ON with a job runs, is armed or is halted. -/
def Func.HasJob (f : Func) : Prop := f.state = .on ∧ (f.run || f.armed || f.halted) = true

theorem Func.hasJob {f : Func} (hon : f.state = .on) (h : f.run = true ∨ f.armed = true ∨ f.halted = true) : f.HasJob :=
  ⟨hon, by rcases h with h | h | h <;> simp [h]⟩

theorem State.stopJobs_draining {s : State} {n : Nat} (hn : n < 16) (h : (s.func n).HasJob) (lost : Nat) :
    ((s.stopJobs lost).func n).state = .draining := by
  refine Stops.foldl_draining (fun s n => s.stopJob_stops lost n) (P := Func.HasJob) (fun s ⟨hon, hjob⟩ => ?_) (mem_funcIds hn) s h
  rw [if_pos hjob]
  exact State.drain_state _ n (.inl hon)

/-- A loss of the herd stops every job, and leaves the herd FAULTED. -/
theorem State.loseHerd_stops (s : State) : ∃ u st, Stops 16 s u ∧ s.loseHerd = { u with herd := { u.herd with state := st } } :=
  ⟨_, _, s.stopJobs_stops _, rfl⟩

/-- A module that is lost stops every job, and then every function. -/
theorem State.moduleLoss_spec (s : State) : ∃ u, Stops 16 s u ∧ s.moduleLoss.boot.dead = true ∧ s.moduleLoss.links = u.links ∧
    s.moduleLoss.funcs = u.funcs ∧ s.moduleLoss.errs = u.errs ∧ s.moduleLoss.mem = u.mem ∧ s.moduleLoss.nv = u.nv ∧
    s.moduleLoss.pending = u.pending := by
  obtain ⟨u, st, hstops, hlost⟩ := s.loseHerd_stops
  obtain ⟨v, hv⟩ : ∃ v, v = s.moduleLoss := ⟨_, rfl⟩
  rw [← hv]
  rw [State.moduleLoss, hlost] at hv
  subst hv
  exact ⟨u, hstops, rfl, rfl, rfl, rfl, rfl, rfl, rfl⟩

/-- A function that is DRAINING stays so. -/
theorem Stops.draining {n : Nat} {s t : State} (h : Stops n s t) {j : Nat} (hj : (s.func j).state = .draining) :
    (t.func j).state = .draining := by
  rcases h.func j with heq | ⟨hstate, -⟩
  · rw [heq, hj]
  · exact hstate

end Sys2Proof.Machine
end

section
/-! Ports and herd links that go down, port configuration and removal (O45, O51). -/
namespace Sys2Proof.Machine

/-! ### A herd link that fails (R256, R263, R266) -/

/-- Whether the failure of port `p` cuts off the member it reaches: no other of its links is left (R266). -/
def State.cutBy (s : State) (p : Nat) : Prop := ∀ q ∈ s.usedPorts, s.peer q = s.peer p → q = p ∨ (s.nbr q).failed = true

/-- The link of port `p` is marked as failed. -/
def State.linkMarked (s : State) (p : Nat) : State :=
  (s.setNbr p { s.nbr p with failed := true }).setPort p { s.port p with state := .failed }

/-- What the failure of a link leaves: the port failed, records made, every job stopped, and of the herd block at most its
state changed besides the neighbour. -/
structure LinkFailed (s : State) (p : Nat) (t : State) : Prop where
  stops : ∃ u st, Stops 34 (s.linkMarked p) u ∧ t = { u with herd := { u.herd with state := st } }
  recorded : Recorded t eHerdLink clsFunction none
  lost : s.cutBy p → Recorded t eMemberLost clsFunction none
  draining : ∀ n, n < 16 → (s.func n).HasJob → (t.func n).state = .draining

/-- Whether every link to member `m` has failed. -/
def State.memberCut (s : State) (m : Nat) : Bool := s.usedPorts.all fun q => s.peer q != m || (s.nbr q).failed

/-- The loss of member `m` is reported once every link to it has failed. -/
def State.reportLost (s : State) (m : Nat) : State :=
  if s.memberCut m then s.report { code := eMemberLost, cls := clsFunction, a := m } else s

theorem State.reportLost_stops (s : State) (m : Nat) : Stops 1 s (s.reportLost m) := by
  unfold State.reportLost
  split
  · exact s.report_stops _
  · exact (Stops.refl s).mono (Nat.zero_le 1)

theorem State.reportLost_func (s : State) (m n : Nat) : (s.reportLost m).func n = s.func n := by
  unfold State.reportLost
  split <;> rfl

theorem State.reportLost_within {s : State} {m : Nat} (h : s.memberCut m = true) :
    RecordedWithin 0 (s.reportLost m) eMemberLost clsFunction none := by
  rw [State.reportLost, if_pos h]
  exact s.report_within _

/-- The failure of the link of port `p` is on record. -/
def State.linkReported (s : State) (p : Nat) : State :=
  (s.linkMarked p).report { code := eHerdLink, cls := clsFunction, unit := p, a := s.peer p }

theorem State.linkReported_nbr (s : State) (p q : Nat) :
    (s.linkReported p).nbr q = if q = p then { s.nbr p with failed := true } else s.nbr q := by
  split
  next h => rw [h]; exact s.setNbr_nbr_self p _
  next h => exact s.setNbr_nbr_ne _ h

theorem State.memberCut_of_cutBy {s : State} {p : Nat} (h : s.cutBy p) : (s.linkReported p).memberCut (s.peer p) = true := by
  refine List.all_eq_true.mpr fun q hq => ?_
  rw [State.linkReported_nbr]
  show (s.peer q != s.peer p || _) = true
  by_cases hpeer : s.peer q = s.peer p
  · by_cases hqp : q = p
    · simp [hqp]
    · simp [hqp, (h q hq hpeer).resolve_left hqp]
  · simp [hpeer]

theorem State.failLink_failed {s : State} {p : Nat} (h : (s.nbr p).failed = false) : LinkFailed s p (s.failLink p) := by
  obtain ⟨u3, hu3⟩ : ∃ u, u = ((s.linkReported p).reportLost (s.peer p)).stopJobs (s.peer p) := ⟨_, rfl⟩
  have heq : s.failLink p = if u3.usedPorts.all fun q => (u3.nbr q).failed then u3.loseHerd else u3 := by
    rw [hu3]
    exact if_neg (by simp [h])
  have hfinal : ∃ u st, Stops 16 u3 u ∧ s.failLink p = { u with herd := { u.herd with state := st } } := by
    rw [heq]
    split
    · exact u3.loseHerd_stops
    · exact ⟨u3, u3.herd.state, (Stops.refl u3).mono (Nat.zero_le 16), rfl⟩
  obtain ⟨u, st, h4, hfail⟩ := hfinal
  have h1 : Stops 1 (s.linkMarked p) (s.linkReported p) := State.report_stops _ _
  have h2 := (s.linkReported p).reportLost_stops (s.peer p)
  have h3 := ((s.linkReported p).reportLost (s.peer p)).stopJobs_stops (s.peer p)
  rw [← hu3] at h3
  rw [hfail]
  refine ⟨⟨u, st, ((h1.trans h2).trans h3).trans h4, rfl⟩, ?_, fun hcut => ?_, fun n hn hjob => ?_⟩
  · exact ((h2.trans h3).trans h4).reports.recorded (State.report_within _ _)
  · exact (h3.trans h4).reports.recorded (State.reportLost_within (State.memberCut_of_cutBy hcut))
  · refine h4.draining (j := n) (hu3 ▸ State.stopJobs_draining hn ?_ _)
    rw [State.reportLost_func]
    exact hjob

theorem LinkFailed.ports {s t : State} {p : Nat} (h : LinkFailed s p t) :
    t.ports = (s.setPort p { s.port p with state := .failed }).ports := by
  obtain ⟨u, st, hstops, rfl⟩ := h.stops
  rw [hstops.rest]
  rfl

theorem LinkFailed.nbr {s t : State} {p : Nat} (h : LinkFailed s p t) : t.nbr p = { s.nbr p with failed := true } := by
  obtain ⟨u, st, hstops, rfl⟩ := h.stops
  rw [hstops.rest]
  exact s.setNbr_nbr_self p _

theorem LinkFailed.host {s t : State} {p : Nat} (h : LinkFailed s p t) : HostOnly s t := by
  obtain ⟨u, st, hstops, rfl⟩ := h.stops
  exact hstops.host

theorem LinkFailed.links {s t : State} {p : Nat} (h : LinkFailed s p t) : LinksKept s t := by
  obtain ⟨u, st, hstops, rfl⟩ := h.stops
  exact hstops.links

theorem LinkFailed.boot {s t : State} {p : Nat} (h : LinkFailed s p t) : t.boot = s.boot := by
  obtain ⟨u, st, hstops, rfl⟩ := h.stops
  rw [hstops.rest]
  rfl

/-! ### Transfers that fail with their port (R348, R368) -/

/-- What the failure of a stream or of a bus transfer leaves: ports, links, the boot block and module memory as they were. -/
structure ShipsEnded (s t : State) : Prop where
  ports : t.ports = s.ports
  boot : t.boot = s.boot
  asm : t.asm = s.asm
  host : HostOnly s t
  links : LinksKept s t

theorem ShipsEnded.refl (s : State) : ShipsEnded s s := ⟨rfl, rfl, rfl, fun _ _ => rfl, fun _ => rfl⟩

theorem ShipsEnded.trans {s t u : State} (h : ShipsEnded s t) (k : ShipsEnded t u) : ShipsEnded s u where
  ports := k.ports.trans h.ports
  boot := k.boot.trans h.boot
  asm := k.asm.trans h.asm
  host z hz := (k.host z hz).trans (h.host z hz)
  links := h.links.trans k.links

theorem ShipsEnded.foldl {β : Type} {f : State → β → State} (h : ∀ s b, ShipsEnded s (f s b)) (l : List β) (s : State) :
    ShipsEnded s (l.foldl f s) :=
  List.foldlRecOn (motive := ShipsEnded s) l f (.refl s) fun t ht b _ => ht.trans (h t b)

theorem CplOnly.shipsEnded {s t : State} (h : CplOnly s t) : ShipsEnded s t :=
  ⟨by rw [h.1], by rw [h.1], by rw [h.1], h.2, h.linksKept⟩

theorem State.countP2p_linksKept (s : State) (h : Nat) : LinksKept s (s.countP2p h) := s.setHub_linksKept h _ rfl

theorem State.failShip_ended (s : State) (fn : Nat) : ShipsEnded s (s.failShip fn) := by
  unfold State.failShip
  split
  · exact .refl s
  next h _ =>
    extract_lets s1 s2 s3
    have h1 : ShipsEnded s s1 := ⟨rfl, rfl, rfl, fun _ _ => rfl, fun _ => rfl⟩
    have h2 : ShipsEnded s1 s2 := by
      unfold s2
      split
      · exact .refl s1
      · exact ⟨rfl, rfl, rfl, fun _ _ => rfl, s1.countP2p_linksKept _⟩
    have h3 : ShipsEnded s2 s3 := by
      unfold s3
      split
      · exact .refl s2
      · exact ⟨rfl, rfl, rfl, fun _ _ => rfl, fun _ => rfl⟩
    exact ((h1.trans h2).trans h3).trans (State.completeAll_cpl _ _ _ _).shipsEnded

theorem State.failShips_ended (s : State) (p : Nat) : ShipsEnded s (s.failShips p) := by
  refine .foldl (fun s n => ?_) _ s
  split
  · split
    · exact s.failShip_ended n
    · exact .refl s
  · exact .refl s

/-! ### A port that goes down (R346, R347) -/

theorem State.port_of_ports {s t : State} (h : t.ports = s.ports) (p : Nat) : t.port p = s.port p := by
  rw [State.port, State.port, h]

/-- What a port that goes down leaves: itself down, every other port, the links, the boot block and module memory as they were. -/
structure PortDowned (s : State) (p : Nat) (st : PortState) (t : State) : Prop where
  self : t.port p = { s.port p with state := st, width := 0 }
  other : ∀ j, j ≠ p → t.port j = s.port j
  boot : t.boot = s.boot
  asm : t.asm = s.asm
  host : HostOnly s t
  links : LinksKept s t

theorem LinkFailed.asm {s t : State} {p : Nat} (h : LinkFailed s p t) : t.asm = s.asm := by
  obtain ⟨u, st, hstops, rfl⟩ := h.stops
  rw [hstops.rest]
  rfl

theorem LinkFailed.port {s t : State} {p : Nat} (h : LinkFailed s p t) : t.port p = { s.port p with state := .failed } := by
  rw [State.port_of_ports h.ports, State.setPort_port_self]

theorem LinkFailed.port_ne {s t : State} {p j : Nat} (h : LinkFailed s p t) (hj : j ≠ p) : t.port j = s.port j := by
  rw [State.port_of_ports h.ports, State.setPort_port_ne _ _ _ _ hj]

/-- Port `p` is down. -/
def State.downed (s : State) (p : Nat) (st : PortState) : State := s.setPort p { s.port p with state := st, width := 0 }

theorem State.downed_downed (s : State) (p : Nat) (st : PortState) : PortDowned s p st (s.downed p st) :=
  ⟨State.setPort_port_self _ _ _, fun _ hj => State.setPort_port_ne _ _ _ _ hj, rfl, rfl, fun _ _ => rfl, fun _ => rfl⟩

theorem State.portDown_eq (s : State) (p : Nat) (st : PortState) : s.portDown p st =
    if (s.downed p st).isSwitched p then (s.downed p st).failShips p
    else if (s.downed p st).usedPorts.contains p && (s.downed p st).exchanging then
      ((s.downed p st).failLink p).setPort p { ((s.downed p st).failLink p).port p with state := st }
    else (s.downed p st).setNbr p { (s.downed p st).nbr p with verified := false } := rfl

/-- The link of a formed herd's port fails with the port, if it has not failed before. -/
theorem State.failLink_downed (s : State) (p : Nat) (st : PortState) : PortDowned s p st
    (((s.downed p st).failLink p).setPort p { ((s.downed p st).failLink p).port p with state := st }) := by
  obtain ⟨hself, hother, hboot, hasm, hhost, hlinks⟩ := s.downed_downed p st
  generalize s.downed p st = u at *
  cases h : (u.nbr p).failed with
  | true =>
    have hsame : u.failLink p = u := if_pos h
    rw [hsame]
    refine ⟨?_, fun j hj => ?_, hboot, hasm, hhost, hlinks⟩
    · rw [State.setPort_port_self, hself]
    · rw [State.setPort_port_ne _ _ _ _ hj, hother j hj]
  | false =>
    have hf := u.failLink_failed h
    refine ⟨?_, fun j hj => ?_, hf.boot.trans hboot, hf.asm.trans hasm, fun z hz => (hf.host z hz).trans (hhost z hz),
      hlinks.trans hf.links⟩
    · rw [State.setPort_port_self, hf.port, hself]
    · rw [State.setPort_port_ne _ _ _ _ hj, hf.port_ne hj, hother j hj]

theorem State.portDown_downed (s : State) (p : Nat) (st : PortState) : PortDowned s p st (s.portDown p st) := by
  obtain ⟨hself, hother, hboot, hasm, hhost, hlinks⟩ := s.downed_downed p st
  have hend := (s.downed p st).failShips_ended p
  rw [State.portDown_eq]
  split
  · exact ⟨(State.port_of_ports hend.ports p).trans hself, fun j hj => (State.port_of_ports hend.ports j).trans (hother j hj),
      hend.boot.trans hboot, hend.asm.trans hasm, fun z hz => (hend.host z hz).trans (hhost z hz), hlinks.trans hend.links⟩
  · split
    · exact s.failLink_downed p st
    · exact ⟨hself, hother, hboot, hasm, hhost, hlinks⟩

/-! ### Writes of ETH_PORTCFG (R347) -/

theorem OnlyPort.trans {s t u : State} {p : Nat} (h : OnlyPort s t p) (k : OnlyPort t u p) : OnlyPort s u p := by
  obtain ⟨hrest, hother⟩ := h
  obtain ⟨krest, kother⟩ := k
  exact ⟨by rw [krest, hrest], fun j hj => (kother j hj).trans (hother j hj)⟩

/-- The port once a write of ETH_PORTCFG has judged RATE and set ENABLE. -/
def Port.configured (x : Port) (rate : BitVec 2) (en barred : Bool) : Port :=
  if rate = x.rate ∨ barred = true then { x with enable := en }
  else if x.enable then { x with enable := en, cfgerr := true } else { x with enable := en, rate := rate }

/-- A write of ETH_PORTCFG sets the port's fields, and then takes down a port that was enabled and lets one train that was not. -/
theorem exec_portcfgWrite {s : State} {p : Nat} (hp : s.isPort p = true) (v : W32) :
    ∃ u, OnlyPort s u p ∧
      u.port p = (s.port p).configured (BitVec.ofNat 2 v.toNat) (bitOf v.toNat 7)
        (decide (BitVec.ofNat 2 v.toNat = 3#2 ∧ s.code.hubs = 1)) ∧
      exec (.portcfgWrite p v) s = .next (match (s.port p).enable, bitOf v.toNat 7 with
        | true, false => u.portDown p .down
        | false, true => u.setPort p { u.port p with state := .training }
        | _, _ => u) := by
  obtain ⟨u, hu⟩ : ∃ u, u =
    if BitVec.ofNat 2 v.toNat = (s.port p).rate ∨ decide (BitVec.ofNat 2 v.toNat = 3#2 ∧ s.code.hubs = 1) = true then s
    else if (s.port p).enable then s.setPort p { s.port p with cfgerr := true }
    else s.setPort p { s.port p with rate := BitVec.ofNat 2 v.toNat } := ⟨_, rfl⟩
  have hself : (u.setPort p { u.port p with enable := bitOf v.toNat 7 }).port p = (s.port p).configured (BitVec.ofNat 2 v.toNat)
      (bitOf v.toNat 7) (decide (BitVec.ofNat 2 v.toNat = 3#2 ∧ s.code.hubs = 1)) := by
    rw [State.setPort_port_self, hu, Port.configured]
    split
    · rfl
    · split <;> rw [State.setPort_port_self]
  have honly : OnlyPort s u p := by
    rw [hu]
    split
    · exact ⟨rfl, fun _ _ => rfl⟩
    · split <;> exact s.setPort_onlyPort p _
  refine ⟨_, honly.trans (u.setPort_onlyPort p { u.port p with enable := bitOf v.toNat 7 }), hself, ?_⟩
  refine (if_pos hp).trans (congrArg Host.Outcome.next ?_)
  unfold State.writePortcfg
  dsimp only
  rw [← hu]
  cases (s.port p).enable <;> cases bitOf v.toNat 7 <;> rfl

theorem Port.configured_same {x : Port} {rate : BitVec 2} {barred : Bool} (h : rate = x.rate ∨ barred = true) (en : Bool) :
    x.configured rate en barred = { x with enable := en } := if_pos h

theorem Port.configured_cfgerr {x : Port} {rate : BitVec 2} {barred : Bool} (h : rate ≠ x.rate) (hb : barred = false)
    (hx : x.enable = true) (en : Bool) : x.configured rate en barred = { x with enable := en, cfgerr := true } := by
  rw [Port.configured, if_neg (by simp [h, hb]), if_pos hx]

theorem Port.configured_rate {x : Port} {rate : BitVec 2} {barred : Bool} (hb : barred = false) (hx : x.enable = false) (en : Bool) :
    x.configured rate en barred = { x with enable := en, rate := rate } := by
  rw [Port.configured, hb, hx]
  split
  next h => rw [h.resolve_right Bool.false_ne_true]
  next => rfl

/-- The rate of an enabled port does not change, and its width and state are set elsewhere. -/
theorem Port.configured_enabled {x : Port} (hx : x.enable = true) (rate : BitVec 2) (en barred : Bool) :
    (x.configured rate en barred).enable = en ∧ (x.configured rate en barred).rate = x.rate := by
  unfold Port.configured
  rw [if_pos hx]
  split <;> exact ⟨rfl, rfl⟩

theorem OnlyPort.hostOnly {s t : State} {p : Nat} (h : OnlyPort s t p) : HostOnly s t := fun z _ => by rw [h.1]; rfl

/-- A formed herd's port that goes down fails its link. -/
theorem State.portDown_failed {s : State} {p : Nat} (hherd : s.isSwitched p = false) (hused : s.usedPorts.contains p = true)
    (hex : s.exchanging = true) (h : (s.nbr p).failed = false) (st : PortState) :
    ∃ t x, LinkFailed (s.downed p st) p t ∧ s.portDown p st = t.setPort p x := by
  refine ⟨(s.downed p st).failLink p, { ((s.downed p st).failLink p).port p with state := st }, (s.downed p st).failLink_failed h, ?_⟩
  rw [State.portDown_eq, if_neg (by rw [show (s.downed p st).isSwitched p = false from hherd]; decide),
    if_pos (by rw [show (s.downed p st).usedPorts = s.usedPorts from rfl, hused, show (s.downed p st).exchanging = true from hex]; rfl)]

/-- Settles O45: the fields are set first, and a port that was enabled then goes down, with its link where a herd uses it. -/
theorem portConfiguration : Obligations.PortConfiguration := by
  intro s p v hp x en rate barred
  obtain ⟨u, honly, hself, hexec⟩ := exec_portcfgWrite hp v
  refine ⟨fun hx hen hrate hnot => ?refused, fun hx hen hsame => ?same, fun hx hnot => ?set, fun hx hen => ⟨?down, ?failed⟩⟩
  case refused =>
    rw [show (s.port p).enable = true from hx, show bitOf v.toNat 7 = true from hen] at hexec
    rw [show bitOf v.toNat 7 = true from hen] at hself
    refine ⟨u, hexec, honly, hself.trans ?_⟩
    rw [Port.configured_cfgerr hrate (decide_eq_false hnot) hx]
    exact congrArg (fun e => { x with enable := e, cfgerr := true }) hx.symm
  case same =>
    rw [show (s.port p).enable = true from hx, show bitOf v.toNat 7 = true from hen] at hexec
    rw [show bitOf v.toNat 7 = true from hen] at hself
    refine ⟨u, hexec, honly, hself.trans ?_⟩
    rw [Port.configured_same (by simpa [x, rate, barred] using hsame)]
    exact congrArg (fun e => { x with enable := e }) hx.symm
  case set =>
    rw [show (s.port p).enable = false from hx] at hexec
    rw [Port.configured_rate (decide_eq_false hnot) hx] at hself
    cases hen : bitOf v.toNat 7 with
    | false =>
      rw [hen] at hexec
      exact ⟨u, hexec, honly, hself.trans (by simp [en, hen, x, rate])⟩
    | true =>
      rw [hen] at hexec
      refine ⟨_, hexec, honly.trans (u.setPort_onlyPort p _), ?_⟩
      rw [State.setPort_port_self, hself]
      simp [en, hen, x, rate]
  case down =>
    rw [show (s.port p).enable = true from hx, show bitOf v.toNat 7 = false from hen] at hexec
    obtain ⟨henable, hrate⟩ := Port.configured_enabled hx (BitVec.ofNat 2 v.toNat) (bitOf v.toNat 7)
      (decide (BitVec.ofNat 2 v.toNat = 3#2 ∧ s.code.hubs = 1))
    have hdown := u.portDown_downed p .down
    refine ⟨_, hexec, ?_, ?_, ?_, ?_, fun hne hnot => ?_, fun j hj => (hdown.other j hj).trans (honly.2 j hj)⟩
    · rw [hdown.self, hself, henable]
      exact hen
    · rw [hdown.self]
    · rw [hdown.self]
    · rw [hdown.self, hself, hrate]
    · rw [hdown.self, hself, Port.configured_cfgerr hne (decide_eq_false hnot) hx]
  case failed =>
    intro hherd hused hex hnbr
    rw [show (s.port p).enable = true from hx, show bitOf v.toNat 7 = false from hen] at hexec
    obtain ⟨hrest, -⟩ := honly
    obtain ⟨t, y, hfailed, hdown⟩ := State.portDown_failed (s := u) (p := p) (by rw [hrest]; exact hherd) (by rw [hrest]; exact hused)
      (by rw [hrest]; exact hex) (by rw [hrest]; exact hnbr) .down
    refine ⟨_, hexec, ?_⟩
    rw [hdown]
    refine ⟨congrArg Neighbour.failed hfailed.nbr, hfailed.recorded, fun z hz => ?_, fun hcut => ?_, fun fn hfn hon hjob => ?_⟩
    · exact (hfailed.host z hz).trans (by rw [hrest]; rfl)
    · exact hfailed.lost (by rw [hrest]; exact hcut)
    · have hfunc : (u.downed p .down).func fn = s.func fn := by rw [hrest]; rfl
      exact hfailed.draining fn hfn (hfunc ▸ Func.hasJob hon (hjob.imp_right .inl))

/-! ### Removal (R431, R432) -/

theorem exec_remreq {s : State} (hon : s.boot.supply ≠ .unpowered) (hreq : s.boot.remreq = false) : exec .remreq s = .next (
    if funcIds.any fun n => (s.func n).state != .off then { s with boot := { s.boot with err := 0x10 } }
    else { s with boot := { s.boot with
      remreq := true, prior := s.boot.stage, err := if s.boot.err = 0x10 then 0 else s.boot.err } }) := by
  show execRemreq s = _
  rw [execRemreq, if_neg hon, hreq]
  split
  next h => exact absurd h Bool.false_ne_true
  next => split <;> rfl

/-- A hub die's Larwa link and bus port go down. -/
def State.hubDown (s : State) (h : Nat) : State :=
  let s := s.setLwl h { s.lwl h with state := .down, width := 0 }
  s.setHub h { s.hub h with bus := { (s.hub h).bus with gen := 0, width := 0 } }

def State.hubsDown (s : State) : State := (List.range s.code.hubs).foldl State.hubDown s

theorem State.linksDown_eq (s : State) : s.linksDown =
    ((List.range 32).filter s.hubsDown.isPort).foldl (fun (s : State) p => s.portDown p .down) s.hubsDown := rfl

theorem State.hubDown_links (s : State) (h : Nat) : ((s.hubDown h).hub h).links = ({ s.lwl h with state := .down, width := 0 }, 0, 0) := by
  simp only [State.hubDown, State.setLwl, State.setHub_hub_self, Hub.links]

theorem State.hubDown_hub_ne (s : State) (h : Nat) {j : Nat} (hj : j ≠ h) : (s.hubDown h).hub j = s.hub j := by
  simp only [State.hubDown, State.setLwl, State.setHub_hub_ne _ _ _ _ hj]

/-- What taking the links down leaves: the boot block, the assembly and module memory as they were. -/
theorem State.hubsDown_kept (s : State) : s.hubsDown.boot = s.boot ∧ s.hubsDown.asm = s.asm ∧ s.hubsDown.mem = s.mem :=
  ⟨foldl_keeps State.boot (by intros; rfl) _ s, foldl_keeps State.asm (by intros; rfl) _ s, foldl_keeps State.mem (by intros; rfl) _ s⟩

theorem State.hubsDown_links {s : State} {h : Nat} (hh : h < s.code.hubs) :
    (s.hubsDown.hub h).links = ({ s.lwl h with state := .down, width := 0 }, 0, 0) := by
  refine foldl_unit (g := State.hub) (f := State.hubDown)
    (R := fun _ x y => y.links = ({ x.link with state := .down, width := 0 }, 0, 0))
    (fun s k j hj => s.hubDown_hub_ne k hj) (fun s k => s.hubDown_links k) (List.mem_range.mpr hh) List.nodup_range s

/-- Ports that go down one after the other. -/
theorem State.portsDown_spec (ps : List Nat) : ∀ s : State,
    let t := ps.foldl (fun (s : State) p => s.portDown p .down) s
    t.boot = s.boot ∧ HostOnly s t ∧ LinksKept s t := by
  induction ps with
  | nil => exact fun s => ⟨rfl, fun _ _ => rfl, fun _ => rfl⟩
  | cons p ps ih =>
    intro s
    have hdown := s.portDown_downed p .down
    obtain ⟨hboot, hhost, hlinks⟩ := ih (s.portDown p .down)
    exact ⟨hboot.trans hdown.boot, fun z hz => (hhost z hz).trans (hdown.host z hz), hdown.links.trans hlinks⟩

theorem State.portsDown_port {ps : List Nat} (hps : ps.Nodup) {p : Nat} (hp : p ∈ ps) (s : State) :
    ((ps.foldl (fun (s : State) p => s.portDown p .down) s).port p).state = .down :=
  foldl_unit (g := State.port) (R := fun _ _ y => y.state = .down) (fun s k j hj => (s.portDown_downed k .down).other j hj)
    (fun s k => by rw [(s.portDown_downed k .down).self]) hp hps s

theorem State.linksDown_spec (s : State) : s.linksDown.boot = s.boot ∧ HostOnly s s.linksDown ∧
    (∀ h, h < s.code.hubs →
      (s.linksDown.lwl h).state = .down ∧ (s.linksDown.lwl h).width = 0 ∧ (s.linksDown.hub h).bus.gen = 0) ∧
    ∀ p, p < 32 → s.isPort p = true → (s.linksDown.port p).state = .down := by
  obtain ⟨hboot, hasm, hmem⟩ := s.hubsDown_kept
  obtain ⟨pboot, phost, plinks⟩ := State.portsDown_spec ((List.range 32).filter s.hubsDown.isPort) s.hubsDown
  rw [State.linksDown_eq]
  refine ⟨pboot.trans hboot, fun z hz => (phost z hz).trans (by rw [State.byte, hmem, State.byte]), fun h hh => ?_, fun p hp hport => ?_⟩
  · have hdown := State.hubsDown_links hh
    rw [plinks.lwl, plinks.gen]
    exact ⟨congrArg (fun x => x.1.state) hdown, congrArg (fun x => x.1.width) hdown, congrArg (fun x => x.2.1) hdown⟩
  · refine State.portsDown_port (List.nodup_range.filter _) (List.mem_filter.mpr ⟨List.mem_range.mpr hp, ?_⟩) _
    rw [← hport]
    simp only [State.isPort, State.role, State.code, hasm]

/-- What links that may train again leave. -/
theorem State.linksUp_spec (s : State) : s.linksUp.mem = s.mem ∧ s.linksUp.boot = s.boot ∧
    ∀ h, h < s.code.hubs → (s.linksUp.lwl h).state = .training := by
  let u := (List.range s.code.hubs).foldl (fun (s : State) h => s.setLwl h { s.lwl h with state := .training }) s
  have hports : ∀ {γ : Type} (g : State → γ), (∀ s p x, g (State.setPort s p x) = g s) → g s.linksUp = g u :=
    fun g hg => foldl_keeps g (fun s p => hg s p _) _ u
  refine ⟨(hports State.mem (by intros; rfl)).trans (foldl_keeps State.mem (by intros; rfl) _ s),
    (hports State.boot (by intros; rfl)).trans (foldl_keeps State.boot (by intros; rfl) _ s), fun h hh => ?_⟩
  rw [hports (fun s => s.lwl h) (by intros; rfl)]
  refine foldl_unit (g := State.lwl) (R := fun _ _ y => y.state = .training) (fun s k j hj => ?_) (fun s k => ?_)
    (List.mem_range.mpr hh) List.nodup_range s
  · simp only [State.lwl, State.setLwl, State.setHub_hub_ne _ _ _ _ hj]
  · simp only [State.lwl, State.setLwl, State.setHub_hub_self]

theorem exec_removalPrepared {s : State} (hreq : s.boot.remreq = true) (hstage : s.boot.stage ≠ .prepared) :
    let u := if s.boot.supply = .running then s.linksDown else s
    exec .removalPrepared s = .next { u with boot := { u.boot with stage := .prepared, attn := true } } := by
  show execRemovalPrepared s = _
  rw [execRemovalPrepared, if_neg (by simp [hreq, hstage])]

/-- With its supplies on, a module whose removal is cancelled lets its links train again. -/
def State.relinked (s : State) : State := if s.boot.pgood then s.linksUp else s

theorem State.relinked_kept (s : State) : s.relinked.mem = s.mem ∧ s.relinked.boot = s.boot := by
  obtain ⟨hmem, hboot, -⟩ := s.linksUp_spec
  unfold State.relinked
  split
  · exact ⟨hmem, hboot⟩
  · exact ⟨rfl, rfl⟩

theorem exec_remcancel {s : State} (hstage : s.boot.stage = .prepared) :
    exec .remcancel s = .next { s.relinked with boot := { s.relinked.boot with
      stage := s.relinked.boot.prior, remreq := false, attn := decide (s.boot.prior = .recovery ∨ s.boot.prior = .failed), prior := .ready } } := by
  show execRemcancel s = _
  rw [execRemcancel, if_neg (by simp [hstage])]
  rfl

/-- Settles O51: a grant is a field of the boot block; PREPARED takes every link and port down, REMCANCEL lets the links train. -/
theorem removal : Obligations.Removal := by
  intro s b
  refine ⟨fun hon hreq => ⟨fun ⟨n, hn, hbusy⟩ => ?refused, fun hoff => ?granted⟩, fun hreq hstage => ?prepared, fun hstage => if_pos hstage,
    fun hstage => ?cancel⟩
  case refused =>
    refine ⟨_, (exec_remreq hon hreq).trans (congrArg Host.Outcome.next (if_pos ?_)), rfl⟩
    exact List.any_eq_true.mpr ⟨n, mem_funcIds hn, by simpa using hbusy⟩
  case granted =>
    refine ⟨_, (exec_remreq hon hreq).trans (congrArg Host.Outcome.next (if_neg ?_)), rfl⟩
    exact not_any_of_off fun n hn => hoff n (List.mem_range.mp hn)
  case prepared =>
    obtain ⟨-, hhost, hlinks, hports⟩ := s.linksDown_spec
    refine ⟨_, exec_removalPrepared hreq hstage, rfl, rfl, fun z hz => ?_, fun hrun => ?_⟩
    · show (if s.boot.supply = .running then s.linksDown else s).byte z = _
      split
      · exact hhost z hz
      · rfl
    · rw [if_pos hrun]
      exact ⟨hlinks, hports⟩
  case cancel =>
    obtain ⟨hmem, hboot⟩ := s.relinked_kept
    refine ⟨_, exec_remcancel hstage, ?_, fun z => ?_, fun hgood => ?_⟩
    · dsimp only
      rw [hboot]
    · show tget 0 s.relinked.mem z = _
      rw [hmem, State.byte]
    · rw [State.relinked, if_pos hgood]
      exact s.linksUp_spec.2.2

end Sys2Proof.Machine
end

section
/-! Module resets, supplies and losses of power (O50). -/
namespace Sys2Proof.Machine

/-- What the start of the power-up sequence leaves: memory, NV storage, the power block, and of the boot block what it does not
say itself. -/
theorem State.startSequence_kept (s : State) : s.startSequence.mem = s.mem ∧ s.startSequence.nv = s.nv ∧
    s.startSequence.power = s.power ∧ s.startSequence.boot.trip = s.boot.trip ∧ s.startSequence.boot.pwrEn = s.boot.pwrEn := by
  unfold State.startSequence
  dsimp only
  split <;> exact ⟨rfl, rfl, rfl, rfl, rfl⟩

/-- The sequence starts from standby where it may, and else leaves the module there. -/
theorem State.startSequence_startsIf {s : State} (hs : s.boot.supply = .standby) (hstage : s.boot.stage = .standby) :
    StartsIf (CanStart s) s.startSequence := by
  refine ⟨fun h => ?_, fun h => ?_⟩
  · obtain ⟨-, hstarted, -⟩ := State.startSequence_of_canStart (by simp [hs]) h
    exact hstarted
  · rw [State.startSequence_of_not_canStart h]
    exact ⟨hs, hstage⟩

theorem StartsIf.congr {p q : Prop} {t : State} (h : StartsIf p t) (hpq : p ↔ q) : StartsIf q t :=
  ⟨fun hq => h.1 (hpq.mpr hq), fun hq => h.2 (mt hpq.mp hq)⟩

section
variable {s : State} (hon : s.boot.supply ≠ .unpowered)
include hon

theorem exec_mgctlReset : exec .mgctlReset s = .next (s.moduleReset 2) := if_neg hon

theorem exec_modRstN : exec (.modRstN false) s = .next (s.moduleReset 1) := if_neg hon

theorem exec_modRstN_cool : exec (.modRstN true) s =
    .next ({ s with boot := { s.boot with trip := {}, thermtrip := false } }.moduleReset 1) := if_neg hon

theorem exec_inputHighTrip : exec .inputHighTrip s = .next (s.powerLost 5 .unpowered) := if_neg hon

theorem exec_inputLowTrip : exec .inputLowTrip s = .next (s.powerLost 5 .unpowered) := if_neg hon

end

theorem exec_pwrEnFall {s : State} (h : s.boot.pwrEn = true) :
    let u := { s with boot := { s.boot with pwrEn := false, riseIgnored := false } }
    exec .pwrEnFall s = .next (if s.boot.supply = .running then u.powerLost 6 .standby else u) := if_neg (by simp [h])

theorem exec_pwrEnRise {s : State} (h : s.boot.pwrEn = false) (early : Bool) : exec (.pwrEnRise early) s =
    .next { s with boot := { s.boot with pwrEn := true, riseIgnored := early } }.startSequence := if_neg (by simp [h])

theorem exec_inputApplied {s : State} (h : s.boot.supply = .unpowered) {vin : Nat} (hlo : 4400 ≤ vin) (hhi : vin ≤ 5600) :
    exec (.inputApplied vin) s = .next { s with
      power := { s.power with vin := vin }
      boot := { s.boot with supply := .standby, stage := .standby, cause := 0 } }.startSequence := by
  show execInputApplied vin s = _
  rw [execInputApplied, if_neg (by omega), h]

/-- Settles O50: each reset and trip is a loss of power, after which the sequence starts where nothing holds it back. -/
theorem resetsAndSupply : Obligations.ResetsAndSupply := by
  intro s b
  refine ⟨fun hon => ⟨?mgctl, ?reset, ?cool, ?high, ?low⟩, fun hen => ⟨fun hrun => ?fall, fun hrun => ?fallIdle⟩,
    fun hen => ⟨?early, fun hstandby htrip hvin => ?rise⟩, fun hpresent => ⟨_, if_neg (by simp [show s.boot.present = false from hpresent]), rfl⟩,
    fun vin hoff hlo hhi => ?applied⟩
  case mgctl => exact ⟨_, exec_mgctlReset hon, s.moduleReset_lost 2, s.moduleReset_hostKept 2, s.moduleReset_startsIf 2⟩
  case reset => exact ⟨_, exec_modRstN hon, s.moduleReset_lost 1, s.moduleReset_hostKept 1, s.moduleReset_startsIf 1⟩
  case cool =>
    let u := { s with boot := { b with trip := {}, thermtrip := false } }
    refine ⟨_, exec_modRstN_cool hon, u.moduleReset_lost 1, u.moduleReset_hostKept 1, ?_, (u.moduleReset_startsIf 1).congr ?_⟩
    · exact (State.startSequence_kept _).2.2.2.1
    · simp [CanStart, u]
  case high => exact ⟨_, exec_inputHighTrip hon, s.powerLost_lost 5 _, s.powerLost_hostKept 5 _, rfl, rfl⟩
  case low => exact ⟨_, exec_inputLowTrip hon, s.powerLost_lost 5 _, s.powerLost_hostKept 5 _, rfl, rfl⟩
  case fall =>
    let u := { s with boot := { b with pwrEn := false, riseIgnored := false } }
    exact ⟨_, (exec_pwrEnFall hen).trans (congrArg Host.Outcome.next (if_pos hrun)), u.powerLost_lost 6 _,
      u.powerLost_hostKept 6 _, rfl, rfl⟩
  case fallIdle => exact ⟨_, (exec_pwrEnFall hen).trans (congrArg Host.Outcome.next (if_neg hrun)), rfl⟩
  case early =>
    refine ⟨_, exec_pwrEnRise hen true, State.startSequence_of_not_canStart ?_⟩
    rintro ⟨-, hrise, -⟩
    exact absurd hrise (by simp)
  case rise =>
    let u := { s with boot := { b with pwrEn := true, riseIgnored := false } }
    obtain ⟨hmem, hnv, -, -, hpwrEn⟩ := u.startSequence_kept
    have hcan : CanStart u := ⟨rfl, rfl, htrip, hvin⟩
    obtain ⟨-, hstarted, -⟩ := State.startSequence_of_canStart (by rw [show u.boot.supply = .standby from hstandby]; decide) hcan
    exact ⟨_, exec_pwrEnRise hen false, hstarted, hpwrEn, hmem, hnv⟩
  case applied =>
    obtain ⟨hmem, hnv, hpower, -, -⟩ := State.startSequence_kept { s with
      power := { s.power with vin := vin }
      boot := { s.boot with supply := .standby, stage := .standby, cause := 0 } }
    exact ⟨_, exec_inputApplied hoff hlo hhi, hpower, hmem, hnv,
      (State.startSequence_startsIf (by rfl) (by rfl)).congr Iff.rfl⟩

end Sys2Proof.Machine
end

section
/-! Die-to-die links, chiplet sites and clock crossings (O55). -/
namespace Sys2Proof.Machine

/-! ### The bits of the crossings' status (R388) -/

theorem and_twoPow_eq_zero {w : Nat} {x : BitVec w} {c : Nat} (h : x.getLsbD c = false) : x &&& BitVec.twoPow w c = 0#w := by
  rw [BitVec.and_twoPow, h]
  rfl

/-- Adding the weight of a bit that is clear sets it. -/
theorem ofNat_add_two_pow {w : Nat} {x : BitVec w} {c : Nat} (h : x.getLsbD c = false) :
    BitVec.ofNat w (x.toNat + 2 ^ c) = x ||| BitVec.twoPow w c := by
  rw [← BitVec.add_eq_or_of_and_eq_zero _ _ (and_twoPow_eq_zero h)]
  refine BitVec.eq_of_toNat_eq ?_
  rw [BitVec.toNat_add, BitVec.toNat_ofNat, BitVec.toNat_twoPow, Nat.add_mod_mod]

/-- Taking off the weight of a bit that is set clears it. -/
theorem ofNat_sub_two_pow {w : Nat} {x : BitVec w} {c : Nat} (hc : c < w) (h : x.getLsbD c = true) :
    BitVec.ofNat w (x.toNat - 2 ^ c) = x &&& ~~~BitVec.twoPow w c := by
  have hclear : (x &&& ~~~BitVec.twoPow w c).getLsbD c = false := by simp [hc]
  have hset : (x &&& ~~~BitVec.twoPow w c) ||| BitVec.twoPow w c = x := by
    refine BitVec.eq_of_getLsbD_eq fun i hi => ?_
    by_cases hic : i = c
    · subst hic
      simp [h, hi]
    · simp [hi, hic]
  have hadd : BitVec.ofNat w ((x &&& ~~~BitVec.twoPow w c).toNat + 2 ^ c) = x := (ofNat_add_two_pow hclear).trans hset
  have hle : (x &&& ~~~BitVec.twoPow w c).toNat ≤ x.toNat := by
    rw [BitVec.toNat_and]
    exact Nat.and_le_left
  have hval : x.toNat = (x &&& ~~~BitVec.twoPow w c).toNat + 2 ^ c := by
    have hmod := congrArg BitVec.toNat hadd
    rw [BitVec.toNat_ofNat] at hmod
    have hpow : 2 ^ c < 2 ^ w := Nat.pow_lt_pow_right (by decide) hc
    by_cases hov : (x &&& ~~~BitVec.twoPow w c).toNat + 2 ^ c < 2 ^ w
    · rw [← hmod, Nat.mod_eq_of_lt hov]
    · rw [Nat.mod_eq_sub_mod (Nat.not_lt.mp hov), Nat.mod_eq_of_lt (by omega)] at hmod
      omega
  rw [hval, Nat.add_sub_cancel, BitVec.ofNat_toNat, BitVec.setWidth_eq]

/-- A status register once bit `c` has been put to `v`. -/
def putBit {w : Nat} (x : BitVec w) (c : Nat) (v : Bool) : BitVec w :=
  BitVec.ofNat w (if v then (if bitOf x.toNat c then x.toNat else x.toNat + 2 ^ c)
    else (if bitOf x.toNat c then x.toNat - 2 ^ c else x.toNat))

theorem bitOf_putBit {w : Nat} (x : BitVec w) {c : Nat} (hc : c < w) (v : Bool) (k : Nat) :
    bitOf (putBit x c v).toNat k = if k = c then v else bitOf x.toNat k := by
  unfold putBit
  simp only [bitOf_toNat]
  cases v <;> cases h : x.getLsbD c <;> simp only [if_true, if_false, Bool.false_eq_true, BitVec.ofNat_toNat, BitVec.setWidth_eq]
  · split <;> simp_all
  · rw [ofNat_sub_two_pow hc h]
    by_cases hk : k = c
    · subst hk; simp [hc]
    · simp only [BitVec.getLsbD_and, BitVec.getLsbD_not, BitVec.getLsbD_twoPow, hk, if_false]
      by_cases hkw : k < w
      · simp [hkw, Ne.symm hk]
      · simp [BitVec.getLsbD_of_ge x k (Nat.not_lt.mp hkw)]
  · rw [ofNat_add_two_pow h, BitVec.getLsbD_or, BitVec.getLsbD_twoPow]
    by_cases hk : k = c
    · subst hk; simp [hc]
    · simp [hk, Ne.symm hk]
  · split <;> simp_all

theorem State.setAlive_eq (s : State) (n c : Nat) (v : Bool) : s.setAlive n c v =
    if n < 4 then s.setDie n { s.die n with alive := putBit (s.die n).alive c v }
    else s.setHub (n - 4) { s.hub (n - 4) with alive := putBit (s.hub (n - 4)).alive c v } := rfl

theorem State.setAlive_rest (s : State) (n c : Nat) (v : Bool) :
    s.setAlive n c v = { s with dies := (s.setAlive n c v).dies, hubs := (s.setAlive n c v).hubs } := by
  rw [State.setAlive_eq]
  split <;> rfl

theorem State.crossingFitted_lt {s : State} {n c : Nat} (h : s.crossingFitted n c = true) : c < if n < 4 then 6 else 7 := by
  unfold State.crossingFitted at h
  split at h
  next hn => simp only [Bool.and_eq_true, decide_eq_true_eq] at h; rw [if_pos hn]; exact h.1.2
  next hn => simp only [Bool.and_eq_true, decide_eq_true_eq] at h; rw [if_neg hn]; exact h.2

theorem State.setAlive_alive {s : State} {n c : Nat} (h : c < if n < 4 then 6 else 7) (v : Bool) (k : Nat) :
    (s.setAlive n c v).alive n k = if k = c then v else s.alive n k := by
  rw [State.setAlive_eq]
  unfold State.alive
  split
  next hn =>
    rw [if_pos hn] at h
    rw [State.setDie_die_self, bitOf_putBit _ h]
  next hn =>
    rw [if_neg hn] at h
    rw [State.setHub_hub_self, bitOf_putBit _ h]

/-! ### Die-to-die links (R377 to R379) -/

theorem State.setLink_only (s : State) (n : Nat) (l : D2d) : ∀ j, j ≠ n → (s.setLink n l).link j = s.link j :=
  fun j hj => s.setLink_link_ne n l j hj

section
variable {s : State} {n : Nat} (hfit : s.linkFitted n = true)
include hfit

theorem exec_d2dRetrain (hup : (s.link n).state = .up) :
    exec (.d2dRetrain n) s = .next (s.setLink n { s.link n with state := .retrain }) := by
  show execD2dRetrain n s = _
  rw [execD2dRetrain, if_neg (by simp [hfit]), if_pos hup]

/-- The link is back on `mods` modules, and its retrain on record. -/
def State.linkBack (s : State) (n mods us : Nat) : State :=
  (s.setLink n { s.link n with state := .up, mods := mods, retrains := satAdd 16 (s.link n).retrains 1 }).report
    { code := eD2dRetrain, cls := clsRecovered, unit := s.pairUnit n, hold := us }

theorem exec_d2dRetrainComplete {mods us : Nat} (hstate : (s.link n).state = .retrain) (hlo : 1 ≤ mods) (hhi : mods ≤ linkMods n)
    (hus : us ≤ 25) : exec (.d2dRetrainComplete n mods us) s = .next (
      if mods < linkMods n then
        (s.linkBack n mods us).report { code := eNarrowed, cls := clsNotice, unit := s.pairUnit n, a := mods }
      else s.linkBack n mods us) := by
  show execD2dRetrainComplete n mods us s = _
  rw [execD2dRetrainComplete, if_neg (by simp [hfit]), if_neg (fun hne => hne hstate), if_neg (by omega)]
  rfl

/-- The link is out of operation, and its failure on record. -/
def State.linkGone (s : State) (n : Nat) : State :=
  (s.setLink n { s.link n with state := .failed, mods := 0 }).report { code := eD2dFailed, cls := clsModule, unit := s.pairUnit n }

theorem exec_d2dFailed (hstate : (s.link n).state = .up ∨ (s.link n).state = .retrain) :
    exec (.d2dFailed n) s = .next (funcIds.foldl (fun (s : State) n => s.drain n) (s.linkGone n).moduleLoss) := by
  show execD2dFailed n s = _
  rw [execD2dFailed, if_neg (by simp [hfit]), if_neg (by rintro ⟨hup, hre⟩; exact hstate.elim hup hre)]
  rfl

theorem runs_d2dRetrainComplete {mods us : Nat} (hstate : (s.link n).state = .retrain) (hlo : 1 ≤ mods) (hhi : mods ≤ linkMods n)
    (hus : us ≤ 25) : Runs (.d2dRetrainComplete n mods us) s fun t =>
      (t = { s with links := t.links, errs := t.errs } ∧ ∀ j, j ≠ n → t.link j = s.link j) ∧
      t.link n = { s.link n with state := .up, mods := mods, retrains := satAdd 16 (s.link n).retrains 1 } ∧
      Recorded t eD2dRetrain clsRecovered none ∧ (mods < linkMods n → Recorded t eNarrowed clsNotice none) := by
  have hback : RecordedWithin 0 (s.linkBack n mods us) eD2dRetrain clsRecovered none := State.report_within _ _
  have hrest : s.linkBack n mods us = { s with links := (s.linkBack n mods us).links, errs := (s.linkBack n mods us).errs } := rfl
  have hself : (s.linkBack n mods us).link n = _ := s.setLink_link_self n _
  have hother (j : Nat) (hj : j ≠ n) : (s.linkBack n mods us).link j = s.link j := s.setLink_link_ne n _ j hj
  refine ⟨_, exec_d2dRetrainComplete hfit hstate hlo hhi hus, ?_⟩
  generalize s.linkBack n mods us = u at *
  split
  next hlt =>
    have hreport := u.report_eq { code := eNarrowed, cls := clsNotice, unit := s.pairUnit n, a := mods }
    refine ⟨⟨?_, fun j hj => hother j hj⟩, hself, (u.report_reports _).recorded hback, fun _ => u.report_recorded _⟩
    rw [hreport, hrest]
  next hle => exact ⟨⟨hrest, hother⟩, hself, hback.recorded, fun hlt => absurd hlt hle⟩

theorem runs_d2dFailed (hstate : (s.link n).state = .up ∨ (s.link n).state = .retrain) : Runs (.d2dFailed n) s fun t =>
    t.link n = { s.link n with state := .failed, mods := 0 } ∧ t.boot.dead = true ∧ Recorded t eD2dFailed clsModule none ∧
    HostOnly s t ∧ ∀ fn, fn < 16 → (s.func fn).state = .on → (t.func fn).state = .draining := by
  have hexec := exec_d2dFailed hfit hstate
  have hgone : RecordedWithin 0 (s.linkGone n) eD2dFailed clsModule none := State.report_within _ _
  have hlink : (s.linkGone n).link n = _ := s.setLink_link_self n _
  have hfunc (j : Nat) : (s.linkGone n).func j = s.func j := rfl
  have hbyte (z : Nat) : (s.linkGone n).byte z = s.byte z := rfl
  generalize s.linkGone n = g at *
  obtain ⟨u, hstops, hdead, hlinks, hfuncs, herrs, hmem, -⟩ := g.moduleLoss_spec
  generalize g.moduleLoss = v at *
  have hdrain := v.drainEach_stops funcIds
  have hon (fn : Nat) (hfn : fn < 16) (hon : (v.func fn).state = .on) := State.drainEach_state (mem_funcIds hfn) v hon
  refine ⟨_, hexec, ?_⟩
  generalize List.foldl _ v funcIds = t at *
  have hvfunc (j : Nat) : v.func j = u.func j := by rw [State.func, State.func, hfuncs]
  refine ⟨?_, ?_, ?_, fun z hz => ?_, fun fn hfn hfon => ?_⟩
  · rw [State.link, hdrain.links_eq, hlinks, hstops.links_eq]
    exact hlink
  · rw [hdrain.boot_eq, hdead]
  · exact (hstops.reports.trans ((Reports.of_errs herrs).trans hdrain.reports)).recorded hgone
  · rw [hdrain.host z hz, State.byte, hmem]
    exact (hstops.host z hz).trans (hbyte z)
  · rcases hstops.func fn with heq | ⟨hdraining, -⟩
    · exact hon fn hfn (by rw [hvfunc, heq, hfunc, hfon])
    · exact hdrain.draining (by rw [hvfunc, hdraining])

end

/-! ### Chiplet sites (R387) -/

/-- The windows of a site with nothing waiting. -/
def Hub.flushed (x : Hub) : Table Window :=
  (tkeys x.windows).foldl (fun (m : Table Window) w => tset {} m w { tget {} m w with waiting := none }) x.windows

theorem Hub.flushed_window (x : Hub) (w : Nat) :
    (tget {} x.flushed w).waiting = none ∧ (tget {} x.flushed w).tokens = (tget {} x.windows w).tokens := by
  have hstep : ∀ (ks : List Nat) (m : Table Window),
      tget {} (ks.foldl (fun (m : Table Window) w => tset {} m w { tget {} m w with waiting := none }) m) w =
        if w ∈ ks then { tget {} m w with waiting := none } else tget {} m w := by
    intro ks
    induction ks with
    | nil => exact fun m => (if_neg List.not_mem_nil).symm
    | cons k ks ih =>
      intro m
      rw [List.foldl_cons, ih]
      by_cases hk : w = k
      · subst hk
        simp [tget_tset_self]
      · simp [tget_tset_ne _ _ _ hk, hk]
  rw [Hub.flushed, hstep]
  split
  next => exact ⟨rfl, rfl⟩
  next hw =>
    have hdefault : tget {} x.windows w = {} := by
      by_contra hne
      exact hw (mem_tkeys_of_tget_ne hne)
    exact ⟨by rw [hdefault], rfl⟩

theorem State.setHub_onlyHub (s : State) (h : Nat) (x : Hub) : OnlyHub s (s.setHub h x) h :=
  ⟨rfl, fun j hj => s.setHub_hub_ne h x j hj⟩

theorem OnlyHub.trans {s t u : State} {h : Nat} (a : OnlyHub s t h) (b : OnlyHub t u h) : OnlyHub s u h := by
  obtain ⟨arest, aother⟩ := a
  obtain ⟨brest, bother⟩ := b
  exact ⟨by rw [brest, arest], fun j hj => (bother j hj).trans (aother j hj)⟩

section
variable {s : State} {n : Nat} (hfit : s.hubFitted n = true)
include hfit

theorem exec_chipletReset (habsent : (s.hub n).chip ≠ .absent) (hfault : (s.hub n).chip ≠ .faulted) :
    exec (.chipletReset n) s = .next ((s.setHub n { s.hub n with chip := .down, chipRate := 0 }).flushSite n) := by
  show execChipletReset n s = _
  rw [execChipletReset, if_neg (by simp [hfit]), if_neg (by simp [habsent, hfault])]

theorem runs_chipletReset (habsent : (s.hub n).chip ≠ .absent) (hfault : (s.hub n).chip ≠ .faulted) :
    Runs (.chipletReset n) s fun t => OnlyHub s t n ∧
      t.hub n = { s.hub n with chip := .down, chipRate := 0, windows := (t.hub n).windows } ∧
      ∀ w, (t.window n w).waiting = none ∧ (t.window n w).tokens = (s.window n w).tokens := by
  have hself : ((s.setHub n { s.hub n with chip := .down, chipRate := 0 }).flushSite n).hub n =
      { s.hub n with chip := .down, chipRate := 0, windows := (s.hub n).flushed } := by
    rw [State.flushSite, State.setHub_hub_self, State.setHub_hub_self]
    rfl
  refine ⟨_, exec_chipletReset hfit habsent hfault, (s.setHub_onlyHub n _).trans (State.setHub_onlyHub _ n _), ?_, fun w => ?_⟩
  · rw [hself]
  · rw [State.window, hself]
    exact (s.hub n).flushed_window w

section
variable (hrun : s.boot.supply = .running) (hchip : (s.hub n).chip = .down ∨ (s.hub n).chip = .training)
include hrun hchip

theorem exec_chipletSiteTrain {rate : Nat} (hrate : rate = 1 ∨ rate = 2) : exec (.chipletSiteTrain n true rate) s =
    .next (s.setHub n { s.hub n with chip := .up, chipRate := rate, chipFails := 0 }) := by
  show execChipletSiteTrain n true rate s = _
  rw [execChipletSiteTrain, if_neg (by simp [hfit]), if_neg (by rcases hchip with h | h <;> simp [hrun, h]), if_pos rfl, if_pos hrate]

theorem exec_chipletSiteTrain_fails (rate : Nat) : exec (.chipletSiteTrain n false rate) s = .next (s.setHub n
    { s.hub n with chip := if 3 ≤ (s.hub n).chipFails + 1 then .faulted else .training, chipFails := (s.hub n).chipFails + 1 }) := by
  show execChipletSiteTrain n false rate s = _
  rw [execChipletSiteTrain, if_neg (by simp [hfit]), if_neg (by rcases hchip with h | h <;> simp [hrun, h]), if_neg (by decide)]

end

end

/-! ### Clock crossings (R388 to R391) -/

section
variable {s : State} {n c : Nat} (hfit : s.crossingFitted n c = true) (hrun : s.boot.supply = .running)
include hfit hrun

/-- What waits at the chiplet site of a crossing is dropped with it. -/
def State.siteFlushed (s : State) (n c : Nat) : State := if n < 4 ∨ c ≠ 2 then s else s.flushSite (n - 4)

theorem exec_cdcReset : exec (.cdcReset n c) s = .next (((s.siteFlushed n c).setAlive n c false).reportBridge n c) := by
  show execCdcReset n c s = _
  rw [execCdcReset, if_neg (by simp [hfit]), if_neg (fun h => h hrun)]
  rfl

theorem runs_cdcReset : Runs (.cdcReset n c) s fun t => t.alive n c = false ∧ Recorded t eBridgeReset clsNotice none ∧
    t = { s with dies := t.dies, hubs := t.hubs, errs := t.errs } := by
  refine ⟨_, exec_cdcReset hfit hrun, ?_, State.report_recorded _ _, ?_⟩
  · exact (State.setAlive_alive (State.crossingFitted_lt hfit) false c).trans (if_pos rfl)
  · rw [State.setAlive_eq, State.siteFlushed]
    split <;> split <;> rfl

section
variable (halive : s.alive n c = false)
include halive

theorem exec_cdcAliveTimeout : exec (.cdcAliveTimeout n c) s = .next (
    (if n < 4 then s.setDie n { s.die n with brrst := satAdd 16 (s.die n).brrst 1 }
      else s.setHub (n - 4) { s.hub (n - 4) with brrst := satAdd 16 (s.hub (n - 4)).brrst 1 }).reportBridge n c) := by
  show execCdcAliveTimeout n c s = _
  rw [execCdcAliveTimeout, if_neg (by simp [hfit]), if_neg (by simp [hrun, halive])]

theorem runs_cdcAliveTimeout : Runs (.cdcAliveTimeout n c) s fun t =>
    t.alive n c = false ∧ Recorded t eBridgeReset clsNotice none ∧
    t = { s with dies := t.dies, hubs := t.hubs, errs := t.errs } ∧
    (n < 4 → (t.die n).brrst = satAdd 16 (s.die n).brrst 1) := by
  have hexec := exec_cdcAliveTimeout hfit hrun halive
  unfold State.alive at halive
  split at hexec
  next hn =>
    rw [if_pos hn] at halive
    refine ⟨_, hexec, ?_, State.report_recorded _ _, rfl, fun _ => ?_⟩
    · unfold State.alive
      rw [if_pos hn, State.reportBridge, State.report_die_eq, State.setDie_die_self]
      exact halive
    · rw [State.reportBridge, State.report_die_eq, State.setDie_die_self]
  next hn =>
    rw [if_neg hn] at halive
    refine ⟨_, hexec, ?_, State.report_recorded _ _, rfl, fun hlt => absurd hlt hn⟩
    unfold State.alive
    rw [if_neg hn, State.reportBridge, State.report_hub_eq, State.setHub_hub_self]
    exact halive

theorem exec_cdcClockReturn : exec (.cdcClockReturn n c) s = .next (s.setAlive n c true) := by
  show execCdcClockReturn n c s = _
  rw [execCdcClockReturn, if_neg (by simp [hfit]), if_neg (by simp [hrun, halive])]

end

end

/-- Settles O55: each command by what it leaves of its link, site or crossing. -/
theorem packageLinks : Obligations.PackageLinks := by
  intro s n
  refine ⟨fun hfit => ⟨fun hup => ?retrain, fun mods us hstate hlo hhi hus => runs_d2dRetrainComplete hfit hstate hlo hhi hus,
      runs_d2dFailed hfit⟩, fun hfit => ⟨runs_chipletReset hfit, fun hrun hchip => ⟨fun rate hrate => ?trains, fun rate => ?fails⟩⟩,
    fun c hfit hrun => ⟨runs_cdcReset hfit hrun, fun halive => ⟨runs_cdcAliveTimeout hfit hrun halive, ?returns⟩⟩⟩
  case retrain =>
    exact ⟨_, exec_d2dRetrain hfit hup, ⟨rfl, fun j hj => s.setLink_link_ne n _ j hj⟩, rfl, s.setLink_link_self n _⟩
  case trains =>
    exact ⟨_, exec_chipletSiteTrain hfit hrun hchip hrate, s.setHub_onlyHub n _, s.setHub_hub_self n _⟩
  case fails =>
    refine ⟨_, exec_chipletSiteTrain_fails hfit hrun hchip rate, s.setHub_onlyHub n _, (s.setHub_hub_self n _).trans ?_⟩
    simp only [show 3 ≤ (s.hub n).chipFails + 1 ↔ 2 ≤ (s.hub n).chipFails by omega]
  case returns =>
    have halives := State.setAlive_alive (s := s) (State.crossingFitted_lt hfit) true
    exact ⟨_, exec_cdcClockReturn hfit hrun halive, (halives c).trans (if_pos rfl), s.setAlive_rest n c true,
      fun k _ hk => (halives k).trans (if_neg hk)⟩

end Sys2Proof.Machine
end

section
/-! Setpoints, telemetry loss, shortfalls, thermal trips and supply faults (O53). -/
namespace Sys2Proof.Machine

/-! ### A control period (R396) -/

/-- What of the power block the setpoints of all dies depend on. -/
structure SetpointInputs where
  limit : BitVec 12
  tlimit : BitVec 8
  vtarget : BitVec 10
  vfloorDef : BitVec 10
  vin : Nat
  iin : Nat
  pavg : Nat

def Power.inputs (p : Power) : SetpointInputs :=
  { limit := p.limit, tlimit := p.tlimit, vtarget := p.vtarget, vfloorDef := p.vfloorDef, vin := p.vin, iin := p.iin, pavg := p.pavg }

/-- At most the dies' records, counts of the power block and the error block have changed. -/
structure DiesOnly (s t : State) : Prop where
  rest : t = { s with power := t.power, errs := t.errs }
  inputs : t.power.inputs = s.power.inputs

theorem DiesOnly.refl (s : State) : DiesOnly s s := ⟨rfl, rfl⟩

theorem DiesOnly.trans {s t u : State} (h : DiesOnly s t) (k : DiesOnly t u) : DiesOnly s u :=
  ⟨by rw [k.rest, h.rest], k.inputs.trans h.inputs⟩

theorem DiesOnly.foldl {β : Type} {f : State → β → State} (h : ∀ s b, DiesOnly s (f s b)) (l : List β) (s : State) :
    DiesOnly s (l.foldl f s) :=
  List.foldlRecOn (motive := DiesOnly s) l f (.refl s) fun t ht b _ => ht.trans (h t b)

theorem State.setDiePower_diesOnly (s : State) (d : Nat) (x : DiePower) : DiesOnly s (s.setDiePower d x) := ⟨rfl, rfl⟩

theorem State.report_diesOnly (s : State) (p : Report) : DiesOnly s (s.report p) := ⟨rfl, rfl⟩

theorem State.markHot_diesOnly (s : State) : DiesOnly s s.markHot := by
  have hfold := DiesOnly.foldl (f := fun (q : State) d => q.setDiePower d { q.diePower d with
    tOver := decide (s.power.tlimit.toNat < s.hot d) }) (fun _ _ => State.setDiePower_diesOnly _ _ _) s.dieIds s
  unfold State.markHot
  dsimp only
  split
  · exact hfold.trans ⟨rfl, rfl⟩
  · exact hfold

/-- The module-wide telemetry is in the power block, and nothing else that the setpoints depend on has changed. -/
theorem State.samplePower_spec (s : State) (t : Telemetry) :
    s.samplePower t = { s with power := (s.samplePower t).power, errs := (s.samplePower t).errs } ∧
    (s.samplePower t).power.inputs = { s.power.inputs with vin := t.vin, iin := t.iin, pavg := t.pavg } := by
  have hfold := fun u => DiesOnly.foldl (f := fun (s : State) (x : DieTelemetry × Nat) =>
    s.setDiePower x.2 ((s.diePower x.2).sample x.1)) (fun _ _ => State.setDiePower_diesOnly _ _ _) t.dies.zipIdx u
  have hreported := fun u => (hfold u).trans (State.report_diesOnly _ { code := eInput, cls := clsNotice, a := t.vin })
  unfold State.samplePower
  dsimp only
  split
  · exact ⟨(hreported _).rest, (hreported _).inputs⟩
  · exact ⟨(hfold _).rest, (hfold _).inputs⟩

/-- Every die is given the setpoint chosen for it. -/
def State.setpoints (s : State) : State :=
  s.dieIds.foldl (fun (q : State) d => q.setDiePower d { q.diePower d with vset := q.chooseVset d }) s

theorem State.setpoints_diesOnly (s : State) : DiesOnly s s.setpoints := .foldl (fun _ _ => State.setDiePower_diesOnly _ _ _) _ s

theorem State.chooseVset_setDiePower_ne (s : State) {d j : Nat} (x : DiePower) (h : j ≠ d) :
    (s.setDiePower d x).chooseVset j = s.chooseVset j := by
  have hdie := s.setDiePower_diePower_ne d x j h
  unfold State.chooseVset State.hot
  rw [hdie]
  rfl

theorem State.setpoints_vset {s : State} {k : Nat} (hk : k < s.code.dies) : (s.setpoints.diePower k).vset = s.chooseVset k := by
  refine foldl_unit (g := fun s k => (s.diePower k, s.chooseVset k)) (R := fun _ x y => y.1.vset = x.2)
    (fun s k j hj => ?_) (fun s k => ?_) (List.mem_range.mpr hk) List.nodup_range s
  · rw [State.setDiePower_diePower_ne _ _ _ _ hj, State.chooseVset_setDiePower_ne _ _ hj]
  · rw [State.setDiePower_diePower_self]

theorem State.judgeHeat_diesOnly (s : State) (d : Nat) : DiesOnly s (s.judgeHeat d) := by
  unfold State.judgeHeat
  dsimp only
  split
  · exact (s.setDiePower_diesOnly d _).trans (State.report_diesOnly _ _)
  · exact s.setDiePower_diesOnly d _

theorem State.judgeHeat_vset (s : State) (d k : Nat) : ((s.judgeHeat d).diePower k).vset = (s.diePower k).vset := by
  have hset : ∀ out, ((s.setDiePower d { s.diePower d with outside := out }).diePower k).vset = (s.diePower k).vset := fun out => by
    by_cases hk : k = d
    · rw [hk, State.setDiePower_diePower_self]
    · rw [State.setDiePower_diePower_ne _ _ _ _ hk]
  unfold State.judgeHeat
  dsimp only
  split <;> exact hset _

/-- The dies that stand at their floor are judged. -/
def State.judged (s : State) : State := s.dieIds.foldl State.judgeHeat s

theorem State.judged_diesOnly (s : State) : DiesOnly s s.judged := .foldl State.judgeHeat_diesOnly _ s

theorem State.judged_vset (s : State) (k : Nat) : (s.judged.diePower k).vset = (s.diePower k).vset :=
  foldl_keeps (fun s : State => (s.diePower k).vset) (fun s d => s.judgeHeat_vset d k) _ s

theorem State.settleAlert_rest (s : State) :
    s.settleAlert = { s with boot := s.settleAlert.boot, out := s.settleAlert.out } ∧ s.settleAlert.power = s.power := by
  unfold State.settleAlert
  dsimp only
  split <;> exact ⟨rfl, rfl⟩

theorem exec_pmgControlPeriod {s : State} {tel : Telemetry} (hon : s.coreOn = true) (hdies : tel.dies.length = s.code.dies)
    (htemps : ∀ y ∈ tel.dies, y.temps.length = 64) (hstacks : tel.stackTemps.length ≤ 12) :
    exec (.pmgControlPeriod tel) s = .next (s.samplePower tel).markHot.setpoints.judged.settleAlert := by
  have hpoints : ¬(tel.dies.any fun d => decide (d.temps.length ≠ 64)) = true := by simpa using htemps
  show execPmgControlPeriod tel s = _
  rw [execPmgControlPeriod, if_neg (by simp [hon]), if_neg (by rintro (h | h | h); exacts [h hdies, hpoints h, by omega])]
  rfl

/-- A control period's telemetry is taken, and what is hot marked, before any setpoint is chosen. -/
def State.periodBegun (s : State) (tel : Telemetry) : State := (s.samplePower tel).markHot

theorem State.periodBegun_spec (s : State) (tel : Telemetry) :
    s.periodBegun tel = { s with power := (s.periodBegun tel).power, errs := (s.periodBegun tel).errs } ∧
    (s.periodBegun tel).power.inputs = { s.power.inputs with vin := tel.vin, iin := tel.iin, pavg := tel.pavg } := by
  obtain ⟨hrest, hinputs⟩ := s.samplePower_spec tel
  obtain ⟨mrest, minputs⟩ := (s.samplePower tel).markHot_diesOnly
  refine ⟨?_, minputs.trans hinputs⟩
  unfold State.periodBegun
  rw [mrest, hrest]

/-- The setpoint of R396 for a die that stands as `y`, with its floor and its hottest point. -/
def setpointOf (i : SetpointInputs) (y : DiePower) (floor hot : Nat) : Nat :=
  if y.lost = true then floor
  else if i.limit.toNat < i.pavg ∨ (4600 ≤ i.vin ∧ i.vin < 4800 ∧ 4500 < i.iin) ∨ i.tlimit.toNat < hot then
    min (max (y.vset - 10) (max floor y.comp)) 900
  else if i.pavg * 100 ≤ i.limit.toNat * 98 ∧ hot + 2 ≤ i.tlimit.toNat then
    min (max (min (y.vset + 5) i.vtarget.toNat) (max floor y.comp)) 900
  else min (max y.vset (max floor y.comp)) 900

theorem State.chooseVset_eq (s : State) (k : Nat) :
    s.chooseVset k = setpointOf s.power.inputs (s.diePower k) (s.floor k) (s.hot k) := by
  unfold State.chooseVset setpointOf Power.inputs
  simp only [decide_eq_true_eq]
  split
  · rfl
  · split
    · rfl
    · split <;> rfl

theorem State.floor_of_inputs {s t : State} (hbase : t.base = s.base) (hfloor : t.power.vfloorDef = s.power.vfloorDef) (k : Nat) :
    t.floor k = s.floor k := by
  rw [State.floor, hbase, hfloor, State.floor]

theorem runs_pmgControlPeriod {s : State} {tel : Telemetry} (hon : s.coreOn = true) (hdies : tel.dies.length = s.code.dies)
    (htemps : ∀ y ∈ tel.dies, y.temps.length = 64) (hstacks : tel.stackTemps.length ≤ 12) :
    let q := s.periodBegun tel
    Runs (.pmgControlPeriod tel) s fun t =>
      t = { s with power := t.power, errs := t.errs, boot := t.boot, out := t.out } ∧
      t.power.inputs = { s.power.inputs with vin := tel.vin, iin := tel.iin, pavg := tel.pavg } ∧
      ∀ k, k < s.code.dies → (t.diePower k).vset =
        setpointOf { s.power.inputs with vin := tel.vin, iin := tel.iin, pavg := tel.pavg } (q.diePower k) (s.floor k) (q.hot k) := by
  obtain ⟨qrest, qinputs⟩ := s.periodBegun_spec tel
  have hexec : exec (.pmgControlPeriod tel) s = .next (s.periodBegun tel).setpoints.judged.settleAlert :=
    exec_pmgControlPeriod hon hdies htemps hstacks
  generalize s.periodBegun tel = q at *
  have hfloor (k : Nat) : q.floor k = s.floor k :=
    State.floor_of_inputs (by rw [qrest]) (congrArg SetpointInputs.vfloorDef qinputs) k
  have hset := q.setpoints_diesOnly
  have hjudged := q.setpoints.judged_diesOnly
  obtain ⟨arest, apower⟩ := q.setpoints.judged.settleAlert_rest
  refine ⟨_, hexec, ?_, ?_, fun k hk => ?_⟩
  · rw [arest, hjudged.rest, hset.rest, qrest]
  · rw [apower, hjudged.inputs, hset.inputs, qinputs]
  · have hfit : k < q.code.dies := by rw [qrest]; exact hk
    rw [State.diePower, apower, ← qinputs, ← hfloor, ← State.chooseVset_eq, ← State.setpoints_vset hfit, ← State.judged_vset]
    rfl

/-! ### Telemetry loss, shortfalls and compensation (R395, R400) -/

/-- Nothing but the power block and the error block has changed, and of the dies' records that of die `d` alone. -/
def OnlyDie (s t : State) (d : Nat) : Prop :=
  t = { s with power := t.power, errs := t.errs } ∧ ∀ j, j ≠ d → t.diePower j = s.diePower j

theorem State.setDiePower_onlyDie (s : State) (d : Nat) (x : DiePower) : OnlyDie s (s.setDiePower d x) d :=
  ⟨rfl, fun j hj => s.setDiePower_diePower_ne d x j hj⟩

theorem OnlyDie.report {s t : State} {d : Nat} (h : OnlyDie s t d) (p : Report) : OnlyDie s (t.report p) d := by
  obtain ⟨hrest, hother⟩ := h
  exact ⟨by rw [t.report_eq p, hrest], hother⟩

section
variable {s : State} {d : Nat} (hfit : s.dieFitted d = true) (hon : s.coreOn = true)
include hfit hon

theorem exec_telemetryLoss (h : (s.diePower d).lost = false) : exec (.telemetryLoss d) s =
    .next ((s.setDiePower d { s.diePower d with lost := true, vset := s.floor d }).report
      { code := eTelemetry, cls := clsNotice, unit := d }) := by
  show execTelemetryLoss d s = _
  rw [execTelemetryLoss, if_neg (by simp [hfit]), if_neg (by simp [hon, h])]

/-- The shortfall is counted and compensation starts 10 mV above the setpoint. -/
def State.shortfallOf (s : State) (d rate : Nat) : State :=
  let u := s.setDiePower d { s.diePower d with short := true, rate := rate, comp := min ((s.diePower d).vset + 10) 900 }
  { u with power := { u.power with shortfall := satAdd 16 u.power.shortfall 1 } }

omit hfit hon in
theorem State.shortfallOf_die_ne (s : State) (d rate : Nat) {j : Nat} (hj : j ≠ d) : (s.shortfallOf d rate).diePower j = s.diePower j :=
  s.setDiePower_diePower_ne d
    { s.diePower d with short := true, rate := rate, comp := min ((s.diePower d).vset + 10) 900 } j hj

omit hfit hon in
theorem State.shortfallOf_die_self (s : State) (d rate : Nat) : (s.shortfallOf d rate).diePower d =
    { s.diePower d with short := true, rate := rate, comp := min ((s.diePower d).vset + 10) 900 } :=
  s.setDiePower_diePower_self d _

theorem exec_speedShortfall {rate : Nat} (hbase : s.base.isSome = true) (hshort : (s.diePower d).short = false)
    (hrate : rate < s.assumed d) (hfloor : s.floor d ≤ (s.diePower d).vset) (htmax : (s.diePower d).tmax ≤ 105) :
    exec (.speedShortfall d rate) s = .next ((s.shortfallOf d rate).report
      { code := eShortfall, cls := clsNotice, unit := d, a := rate, b := s.assumed d }) := by
  have hok : ¬(s.assumed d ≤ rate ∨ (s.diePower d).vset < s.floor d ∨ 105 < (s.diePower d).tmax) := by omega
  show execSpeedShortfall d rate s = _
  rw [execSpeedShortfall, if_neg (by simp [hfit])]
  refine if_neg ?_
  simp [hon, hshort, hok, Option.isNone_eq_false_iff.mpr hbase]

theorem exec_compensationRaise (rate : Nat) (hshort : (s.diePower d).short = true) : exec (.compensationRaise d rate) s =
    .next (s.setDiePower d (if s.assumed d ≤ rate then { s.diePower d with short := false, rate := rate }
      else if 900 ≤ (s.diePower d).comp ∨ s.power.limit.toNat ≤ s.power.pavg then { s.diePower d with rate := rate }
      else { s.diePower d with rate := rate, comp := min ((s.diePower d).comp + 10) 900 })) := by
  show execCompensationRaise d rate s = _
  rw [execCompensationRaise, if_neg (by simp [hfit])]
  refine (if_neg (by simp [hon, hshort])).trans ?_
  split
  · rfl
  · split <;> rfl

omit hfit hon in
/-- Writing held records leaves NV storage and the commands that wait. -/
theorem State.writeErr_kept (s : State) : s.writeErr.nv = s.nv ∧ s.writeErr.pending = s.pending := by
  unfold State.writeErr
  split
  · exact ⟨rfl, rfl⟩
  next r rest _ =>
    split
    · obtain ⟨m, p, hwrite⟩ := s.write_eq (hostDpa s.errs.addr) r.bytes
      simp only [hwrite, State.interrupt_eq]
      split <;> exact ⟨rfl, rfl⟩
    · exact ⟨rfl, rfl⟩

/-- Firmware reports the fault and loses the module before the supplies go off. -/
theorem exec_supplyFault (vmeas : Nat) : ∃ u : State, u.nv = s.nv ∧ u.pending = s.pending ∧
    exec (.supplyFault d vmeas) s = .next (u.powerLost 4 .standby) := by
  obtain ⟨g, hg⟩ : ∃ g, g = s.report { code := eSupply, cls := clsModule, unit := d, a := pair (s.diePower d).vset vmeas } := ⟨_, rfl⟩
  have hnv : g.nv = s.nv := by rw [hg]; rfl
  have hpending : g.pending = s.pending := by rw [hg]; rfl
  have hexec : exec (.supplyFault d vmeas) s = .next (((List.range g.moduleLoss.errs.held.length).foldl
      (fun (q : State) _ => q.writeErr) g.moduleLoss).powerLost 4 .standby) := by
    rw [hg]
    exact (if_neg (by simp [hfit])).trans (if_neg (by simp [hon]))
  obtain ⟨u, hstops, -, -, -, -, -, unv, upending⟩ := g.moduleLoss_spec
  refine ⟨_, ?_, ?_, hexec⟩
  · rw [foldl_keeps State.nv (fun q _ => q.writeErr_kept.1), unv, hstops.nv_eq, hnv]
  · rw [foldl_keeps State.pending (fun q _ => q.writeErr_kept.2), upending, hstops.pending_eq, hpending]

end

theorem Lost.of_nv {s u t : State} {cause : Nat} (h : Lost u t cause) (hnv : u.nv = s.nv) (hpending : u.pending = s.pending) :
    Lost s t cause := by
  unfold Lost at h ⊢
  rwa [hnv, hpending] at h

/-! ### Thermal trips (R397, R402) -/

theorem exec_thermtrip {s : State} {d point temp stack limit : Nat} (hlimit : s.tripLimit d stack = some limit)
    (hrun : s.boot.supply = .running) (htemp : limit ≤ temp) (hmax : temp ≤ 255) (hpoint : point ≤ 63) :
    let u := s.powerLost 3 .standby
    exec (.thermtrip d point temp stack) s = .next ({ u with boot := { u.boot with
      thermtrip := true
      trip := { valid := true, die := d, point := point, temp := temp, stack := if d = 12 then stack else 0 } } }.emit .smbAlert) := by
  show execThermtrip d point temp stack s = _
  rw [execThermtrip, hlimit]
  refine (if_neg (fun h => h hrun)).trans (if_neg (by omega))

/-- Settles O53: a period in its four stages, the other commands each by what they leave of their die or of the module. -/
theorem powerManagement : Obligations.PowerManagement := by
  intro s d x only
  refine ⟨fun tel hon hdies htemps hstacks => ?period, fun hfit hon => ⟨fun hlost => ?loss, ?shortfall, ?raise⟩, ?trip, ?fault⟩
  case period =>
    refine (runs_pmgControlPeriod hon hdies htemps hstacks).mono fun t ⟨hrest, hinputs, hvset⟩ => ⟨hrest, ?_, ?_, ?_, hvset⟩
    · exact congrArg SetpointInputs.pavg hinputs
    · exact congrArg SetpointInputs.vin hinputs
    · exact congrArg SetpointInputs.limit hinputs
  case loss =>
    exact ⟨_, exec_telemetryLoss hfit hon hlost, (s.setDiePower_onlyDie d _).report _, s.setDiePower_diePower_self d _,
      State.report_recorded _ _⟩
  case shortfall =>
    intro rate hbase hshort hrate hfloor htmax
    exact ⟨_, exec_speedShortfall hfit hon hbase hshort hrate hfloor htmax,
      OnlyDie.report (s := s) (t := s.shortfallOf d rate) ⟨rfl, fun j hj => s.shortfallOf_die_ne d rate hj⟩ _,
      s.shortfallOf_die_self d rate, rfl, State.report_recorded _ _⟩
  case raise =>
    intro rate hshort
    exact ⟨_, exec_compensationRaise hfit hon rate hshort, s.setDiePower_onlyDie d _, rfl, s.setDiePower_diePower_self d _⟩
  case trip =>
    intro limit point temp stack hlimit hrun htemp hmax hpoint
    exact ⟨_, exec_thermtrip hlimit hrun htemp hmax hpoint, s.powerLost_lost 3 .standby, s.powerLost_hostKept 3 .standby, rfl, rfl, rfl⟩
  case fault =>
    intro vmeas hfit hon
    obtain ⟨u, hnv, hpending, hexec⟩ := exec_supplyFault hfit hon vmeas
    exact ⟨_, hexec, (u.powerLost_lost 4 .standby).of_nv hnv hpending, rfl⟩

end Sys2Proof.Machine
end

section
/-! Chiplet requests, firewall windows and token buckets (O56). -/
namespace Sys2Proof.Machine

/-! ### Windows -/

theorem State.setWindow_window (s : State) (h w : Nat) (v : Window) (k : Nat) :
    (s.setWindow h w v).window h k = if k = w then v else s.window h k := by
  rw [State.window, State.setWindow, State.setHub_hub_self]
  exact tget_tset _ _ _ _ _

theorem State.setWindow_window_self (s : State) (h w : Nat) (v : Window) : (s.setWindow h w v).window h w = v := by
  rw [State.setWindow_window, if_pos rfl]

theorem State.setWindow_window_ne (s : State) (h w : Nat) (v : Window) {k : Nat} (hk : k ≠ w) :
    (s.setWindow h w v).window h k = s.window h k := by
  rw [State.setWindow_window, if_neg hk]

theorem State.setWindow_onlyHub (s : State) (h w : Nat) (v : Window) : OnlyHub s (s.setWindow h w v) h := s.setHub_onlyHub h _

/-- Tokens and what waits have no part in the judgement of a request. -/
theorem State.violation_setWindow (s : State) (h : Nat) (r : ChipletReq) (k : Nat) (q : Option ChipletReq) :
    (s.setWindow h (reqWin r) { s.window h (reqWin r) with tokens := k, waiting := q }).violation h r = s.violation h r := by
  unfold State.violation
  rw [State.setWindow_window_self]
  rfl

/-! ### What a request meets and moves where nothing is poisoned (R302, R383) -/

theorem State.edges_clean {s : State} (h : s.poison = []) (rs : List (Nat × Nat)) : s.edges rs = [] := by
  simp [State.edges, State.poisonsIn, h]

/-- A store to virtual memory depends on no hub die. -/
theorem State.writeVA_hubs (s : State) (x : Table Hub) (fn va : Nat) (bs : List Byte) :
    State.writeVA { s with hubs := x } fn va bs = { s.writeVA fn va bs with hubs := x } := by
  unfold State.writeVA
  refine (List.foldl_hom (fun t : State => ({ t with hubs := x } : State)) fun t p => ?_)
  dsimp only
  have htranslate : ∀ lo, State.translate { t with hubs := x } fn lo = t.translate fn lo := fun _ => rfl
  rw [htranslate]
  split <;> rfl

theorem State.setWindow_writeVA_mem (s : State) (h n : Nat) (w : Window) (fn va : Nat) (bs : List Byte) :
    ((s.setWindow h n w).writeVA fn va bs).mem = (s.writeVA fn va bs).mem :=
  (congrArg State.mem (s.writeVA_hubs (s.setWindow h n w).hubs fn va bs)).trans rfl

/-- Where nothing is poisoned, a store to virtual memory changes memory alone. -/
theorem State.writeVA_clean {s : State} (h : s.poison = []) (fn va : Nat) (bs : List Byte) :
    s.writeVA fn va bs = { s with mem := (s.writeVA fn va bs).mem } := by
  suffices hfold : s.writeVA fn va bs = { s with mem := (s.writeVA fn va bs).mem } ∧ (s.writeVA fn va bs).poison = [] from hfold.1
  refine List.foldlRecOn (motive := fun t : State => t = { s with mem := t.mem } ∧ t.poison = []) _ _ ⟨rfl, h⟩ ?_
  rintro t ⟨hrest, hpoison⟩ p -
  dsimp only
  split
  · refine ⟨?_, by rw [State.write, hpoison, List.filter_nil]⟩
    rw [State.write, hpoison, List.filter_nil, ← hpoison, hrest]
  · exact ⟨hrest, hpoison⟩

theorem slice_whole {bs : List Byte} {n : Nat} (h : bs.length = n) : slice bs 0 n = bs := by
  rw [slice, List.drop_zero, ← h, List.take_length, Nat.sub_self]
  exact List.append_nil bs

section
variable {s : State} {h : Nat} {r : ChipletReq} (hclean : s.poison = [])
include hclean

theorem State.serve_write (hw : r.write = true) : s.serve h r =
    s.writeVA (s.window h (reqWin r)).func.toNat ((s.window h (reqWin r)).va r) (slice r.data 0 r.len) := by
  rw [State.serve, if_pos hw, State.edges_clean hclean]
  rfl

theorem State.serve_read (hw : r.write = false) : s.serve h r = s.emit (.chiplet h false false
    (s.readVA (s.window h (reqWin r)).func.toNat ((s.window h (reqWin r)).va r) r.len)) := by
  have hbad : (s.rangesVA (s.window h (reqWin r)).func.toNat ((s.window h (reqWin r)).va r) r.len).flatMap
      (fun x => s.poisonsIn x.1 x.2) = [] := by simp [State.poisonsIn, hclean]
  rw [State.serve, if_neg (by simp [hw]), hbad]
  rfl

end

/-! ### Requests (R383, R384, R386) -/

/-- The window of a request once its tokens are taken. -/
def Window.paid (w : Window) (r : ChipletReq) : Window :=
  { w with tokens := if w.rate = 0xFFFF#16 then w.tokens else w.tokens - r.len }

section
variable {s : State} {h : Nat} {r : ChipletReq}

theorem State.request_refused {k : Nat} (hv : s.violation h r = some k) : s.request h r = s.violate h k r := by
  rw [State.request, hv]

/-- A permitted request takes its tokens and is served. -/
theorem State.request_served (hv : s.violation h r = none) (hc : (s.window h (reqWin r)).covers r = true) :
    s.request h r = (s.setWindow h (reqWin r) ((s.window h (reqWin r)).paid r)).serve h r := by
  rw [State.request, hv]
  exact if_pos hc

theorem State.request_waits (hv : s.violation h r = none) (hc : (s.window h (reqWin r)).covers r = false) :
    s.request h r = s.setWindow h (reqWin r) { s.window h (reqWin r) with waiting := some r } := by
  rw [State.request, hv]
  exact if_neg (by simp [hc])

/-- A write that is permitted and covered stores its data, and takes its tokens. -/
theorem State.request_write (hclean : s.poison = []) (hv : s.violation h r = none)
    (hc : (s.window h (reqWin r)).covers r = true) (hw : r.write = true) :
    let w := s.window h (reqWin r)
    let t := s.request h r
    t.mem = (s.writeVA w.func.toNat (w.va r) (slice r.data 0 r.len)).mem ∧
    t = { s.setWindow h (reqWin r) (w.paid r) with mem := t.mem } := by
  intro w
  have hserve := State.serve_write (s := s.setWindow h (reqWin r) (w.paid r)) (h := h) hclean hw
  rw [State.setWindow_window_self] at hserve
  dsimp only
  rw [State.request_served hv hc, hserve]
  exact ⟨s.setWindow_writeVA_mem h (reqWin r) (w.paid r) _ _ _,
    State.writeVA_clean (s := s.setWindow h (reqWin r) (w.paid r)) hclean _ _ _⟩

/-- A read that is permitted and covered returns memory, and takes its tokens. -/
theorem State.request_read (hclean : s.poison = []) (hv : s.violation h r = none)
    (hc : (s.window h (reqWin r)).covers r = true) (hw : r.write = false) :
    let w := s.window h (reqWin r)
    s.request h r = (s.setWindow h (reqWin r) (w.paid r)).emit (.chiplet h false false (s.readVA w.func.toNat (w.va r) r.len)) := by
  intro w
  have hserve := State.serve_read (s := s.setWindow h (reqWin r) (w.paid r)) (h := h) hclean hw
  rw [State.setWindow_window_self] at hserve
  rw [State.request_served hv hc]
  exact hserve

/-- A refused request is counted, and logged if it is the first. -/
theorem State.violate_spec (k : Nat) :
    let x := s.hub h
    let t := s.violate h k r
    t = { s with hubs := t.hubs, out := t.out } ∧ (∀ j, j ≠ h → t.hub j = s.hub j) ∧
    (t.hub h).viol = satAdd 16 x.viol 1 ∧ (t.hub h).fwValid = true ∧
    (x.fwValid = true → (t.hub h).fwKind = x.fwKind ∧ (t.hub h).fwAddr = x.fwAddr) ∧
    (x.fwValid = false → (t.hub h).fwKind = k ∧ (t.hub h).fwAddr = r.addr ∧ (t.hub h).fwWin = reqWin r) ∧
    t.out = if r.write = true then s.out else .chiplet h true false [] :: s.out := by
  have hself : (s.violate h k r).hub h = { s.hub h with
      viol := satAdd 16 (s.hub h).viol 1, fwValid := true
      fwKind := if (s.hub h).fwValid then (s.hub h).fwKind else k
      fwWin := if (s.hub h).fwValid then (s.hub h).fwWin else reqWin r
      fwAddr := if (s.hub h).fwValid then (s.hub h).fwAddr else r.addr } := by
    unfold State.violate
    dsimp only
    split <;> exact s.setHub_hub_self h _
  have hrest : s.violate h k r = { s with hubs := (s.violate h k r).hubs, out := (s.violate h k r).out } ∧
      (∀ j, j ≠ h → (s.violate h k r).hub j = s.hub j) ∧
      (s.violate h k r).out = if r.write = true then s.out else .chiplet h true false [] :: s.out := by
    unfold State.violate
    dsimp only
    split <;> exact ⟨rfl, fun j hj => s.setHub_hub_ne h _ j hj, rfl⟩
  obtain ⟨hframe, hother, hout⟩ := hrest
  refine ⟨hframe, hother, by rw [hself], by rw [hself], fun hv => ?_, fun hv => ?_, hout⟩
  · rw [hself]
    exact ⟨if_pos hv, if_pos hv⟩
  · rw [hself]
    exact ⟨if_neg (by simp [hv]), if_neg (by simp [hv]), if_neg (by simp [hv])⟩

variable (hfit : s.hubFitted h = true)
include hfit

theorem exec_chipletRequest (hup : (s.hub h).chip = .up) (hfree : s.withheld h = false)
    (hlen : r.data.length = r.len ∨ r.write = false) : exec (.chipletRequest h r .none) s = .next (s.request h r) := by
  show execChipletRequest h r .none s = _
  rw [execChipletRequest, if_neg (by simp [hfit]), if_neg (by simp [hup, hfree]),
    if_neg (by rintro ⟨-, hw, hne⟩; rcases hlen with h | h; exacts [hne h, by simp [h] at hw])]

theorem exec_fwwinWrite {n : Nat} (hn : n < 16) (v : W64) : exec (.fwwinWrite h n v) s = .next (s.writeFwwin h n v) := by
  show execFwwinWrite h n v s = _
  rw [execFwwinWrite, if_neg (by simp [hfit]), if_neg (by omega)]

theorem exec_tokenBucketFill_empty {n : Nat} (hn : n < 16) (hrate : (s.window h n).rate ≠ 0) (hw : (s.window h n).waiting = none) :
    exec (.tokenBucketFill h n) s = .next (s.setWindow h n { s.window h n with
      tokens := max (s.window h n).tokens (max (s.window h n).burst.toNat 4 * 1024) }) := by
  show execTokenBucketFill h n s = _
  rw [execTokenBucketFill, if_neg (by simp [hfit]), if_neg (by omega)]
  dsimp only
  rw [hw]
  exact if_neg hrate

theorem exec_tokenBucketFill_waiting {n : Nat} (hn : n < 16) (hrate : (s.window h n).rate ≠ 0) {q : ChipletReq}
    (hw : (s.window h n).waiting = some q) : exec (.tokenBucketFill h n) s =
      .next ((s.setWindow h n { s.window h n with tokens := max (s.window h n).tokens q.len, waiting := none }).request h q) := by
  show execTokenBucketFill h n s = _
  rw [execTokenBucketFill, if_neg (by simp [hfit]), if_neg (by omega)]
  dsimp only
  rw [hw]
  exact if_neg fun hno => hrate hno.1

/-- A filled bucket lets the request go on that waits for it. -/
theorem runs_tokenBucketFill_waiting {q : ChipletReq} (hn : reqWin q < 16) (hrate : (s.window h (reqWin q)).rate ≠ 0)
    (hw : (s.window h (reqWin q)).waiting = some q) (hv : s.violation h q = none) (hwrite : q.write = true)
    (hlen : q.data.length = q.len) (hclean : s.poison = []) :
    let y := s.window h (reqWin q)
    Runs (.tokenBucketFill h (reqWin q)) s fun t => t.mem = (s.writeVA y.func.toNat (y.va q) q.data).mem ∧
      (t.window h (reqWin q)).waiting = none ∧ t = { s with hubs := t.hubs, mem := t.mem } := by
  intro y
  obtain ⟨u, hu⟩ : ∃ u, u = s.setWindow h (reqWin q) { y with tokens := max y.tokens q.len, waiting := none } := ⟨_, rfl⟩
  have hexec : exec (.tokenBucketFill h (reqWin q)) s = .next (u.request h q) := hu ▸ exec_tokenBucketFill_waiting hfit hn hrate hw
  have hself : u.window h (reqWin q) = { y with tokens := max y.tokens q.len, waiting := none } := hu ▸ s.setWindow_window_self _ _ _
  have hcovers : (u.window h (reqWin q)).covers q = true := by
    have hpos : y.rate ≠ 0#16 := hrate
    rw [hself, Window.covers]
    simp [hpos]
  obtain ⟨hmem, hrest⟩ := State.request_write (s := u) (by rw [hu]; exact hclean)
    (by rw [hu, State.violation_setWindow, hv]) hcovers hwrite
  refine ⟨_, hexec, ?_, ?_, ?_⟩
  · rw [hmem, hself, slice_whole hlen, hu, State.setWindow_writeVA_mem]
    rfl
  · rw [hrest, hself]
    exact congrArg Window.waiting (u.setWindow_window_self h (reqWin q) _)
  · rw [hrest, hu]
    rfl

end

theorem State.setWindow_paid (s : State) (h : Nat) (r : ChipletReq) :
    let w := s.window h (reqWin r)
    let t := s.setWindow h (reqWin r) (w.paid r)
    t.window h (reqWin r) = { w with tokens := if w.rate = 0xFFFF#16 then w.tokens else w.tokens - r.len } ∧
    ∀ v, v ≠ reqWin r → t.window h v = s.window h v :=
  ⟨s.setWindow_window_self h _ _, fun _ hv => s.setWindow_window_ne h _ _ hv⟩

/-- Settles O56: a request is refused, served or kept; a served one takes its tokens and moves its data. -/
theorem chipletRequests : Obligations.ChipletRequests := by
  intro s h r hfit x w fn data
  refine ⟨fun hup hfree hlen => ⟨fun kind hv => ?refused, fun hv hc => ⟨fun hw hclean => ?write, fun hw hclean => ?read⟩,
      fun hv hc => ?waits⟩, fun n v hn => ⟨fun hbad => ?bad, fun hgood => ?good⟩,
    fun n hn hrate => ⟨fun hw => ?empty, fun q hw hq hv hwrite hlen hclean => ?fill⟩⟩
  case refused =>
    refine ⟨_, exec_chipletRequest hfit hup hfree hlen, ?_⟩
    rw [State.request_refused hv]
    exact State.violate_spec kind
  case write =>
    obtain ⟨hmem, hrest⟩ := State.request_write hclean hv hc hw
    obtain ⟨hself, hother⟩ := s.setWindow_paid h r
    refine ⟨_, exec_chipletRequest hfit hup hfree hlen, hmem, ?_, ?_, ?_, ?_⟩
    · rw [hrest]
      rfl
    · rw [hrest]
      rfl
    · rw [hrest]
      exact hself
    · rw [hrest]
      exact hother
  case read =>
    refine ⟨_, exec_chipletRequest hfit hup hfree hlen, ?_⟩
    rw [State.request_read hclean hv hc hw]
    exact ⟨rfl, rfl, s.setWindow_paid h r⟩
  case waits =>
    refine ⟨_, exec_chipletRequest hfit hup hfree hlen, ?_⟩
    rw [State.request_waits hv hc]
    exact ⟨s.setWindow_onlyHub h _ _, s.setWindow_window_self h _ _⟩
  case bad =>
    refine ⟨_, exec_fwwinWrite hfit hn v, ?_⟩
    rw [State.writeFwwin, if_pos hbad]
    exact ⟨s.setHub_onlyHub h _, s.setHub_hub_self h _⟩
  case good =>
    refine ⟨_, exec_fwwinWrite hfit hn v, ?_⟩
    rw [State.writeFwwin, if_neg hgood]
    exact ⟨s.setWindow_onlyHub h n _, fun k hk => s.setWindow_window_ne h n _ hk, s.setWindow_window_self h n _⟩
  case empty => exact ⟨_, exec_tokenBucketFill_empty hfit hn hrate hw, s.setWindow_onlyHub h _ _, s.setWindow_window_self h _ _⟩
  case fill =>
    subst hq
    exact runs_tokenBucketFill_waiting hfit hn hrate hw hv hwrite hlen hclean

end Sys2Proof.Machine
end

section
/-! The debug port: scans, tokens, accesses, halts and steps (O58). -/
namespace Sys2Proof.Machine

/-! ### Scans (R448) -/

theorem State.tapOn_of_running {s : State} (h : s.boot.supply = .running) : s.tapOn = true := by
  rw [State.tapOn, h]
  rfl

theorem State.scan_of_running {s : State} (h : s.boot.supply = .running) (i : TapInstr) (v : Nat) :
    s.scan i v = .next { s with dbg := { s.dbg with tap := i }, out := .scan i v :: s.out } := by
  rw [State.scan, State.tapOn_of_running h]
  rfl

/-! ### Tokens (R426, R427) -/

section
variable {s : State} (hrun : s.boot.supply = .running) {token : List Byte} (hlen : token.length = 256)
include hrun hlen

theorem exec_dbgAuth_refused (h : s.tokenGrants token = none) : exec (.dbgAuth token) s =
    .next ({ s with
      dbg := { s.dbg with tap := .dbgAuth }
      sec := { s.sec with draws := s.sec.draws + 1, fails := satAdd 8 s.sec.fails 1 } }.report
        { code := eDebugAuth, cls := clsNotice, a := leAt token 4 1 }) := by
  have h' : State.tokenGrants { s with dbg := { s.dbg with tap := .dbgAuth } } token = none := h
  show execDbgAuth token s = _
  rw [execDbgAuth, if_neg (by simp [State.tapOn_of_running hrun]), if_neg (fun hne => hne hlen)]
  simp only [h']

theorem exec_dbgAuth_granted {g : Security} (h : s.tokenGrants token = some g) : exec (.dbgAuth token) s =
    .next (let u : State := { s with dbg := { s.dbg with tap := .dbgAuth }, sec := { g with draws := g.draws + 1 } }
      if g.level < s.sec.level then u.releaseHalts else u) := by
  have h' : State.tokenGrants { s with dbg := { s.dbg with tap := .dbgAuth } } token = some g := h
  show execDbgAuth token s = _
  rw [execDbgAuth, if_neg (by simp [State.tapOn_of_running hrun]), if_neg (fun hne => hne hlen)]
  simp only [h', decide_eq_true_eq]

end

/-- What one step of a fold establishes, or what held before it, holds at its end if every step keeps it. -/
theorem foldl_reaches {α β : Type} {f : α → β → α} {P : α → Prop} {b : β} (hself : ∀ a, P (f a b))
    (hkeep : ∀ a c, P a → P (f a c)) {l : List β} : ∀ {a : α}, b ∈ l ∨ P a → P (l.foldl f a) := by
  induction l with
  | nil => exact fun h => h.resolve_left List.not_mem_nil
  | cons c l ih =>
    rintro a (hb | ha)
    · rcases List.mem_cons.mp hb with rfl | hb
      · exact ih (.inr (hself a))
      · exact ih (.inl hb)
    · exact ih (.inr (hkeep a c ha))

theorem tget_of_not_mem {α : Type} {d : α} {t : Table α} {k : Nat} (h : k ∉ tkeys t) : tget d t k = d := by
  by_contra hne
  exact h (mem_tkeys_of_tget_ne hne)

def Sequencer.freed (q : Sequencer) : Sequencer := { q with halted := false, reason := 0, passBp := false }

/-- A tile once each of its sequencers is freed. -/
def Tile.freed (x : Tile) : Tile :=
  { x with seqs := x.seqs.foldl (fun (m : Table Sequencer) e => tset {} m e.1 e.2.freed) x.seqs }

theorem Tile.freed_halted (x : Tile) (e : Nat) : (tget {} x.freed.seqs e).halted = false := by
  have hkeep (m : Table Sequencer) (z : Nat × Sequencer) (hm : (tget {} m e).halted = false) :
      (tget {} (tset {} m z.1 z.2.freed) e).halted = false := by
    rw [tget_tset]
    split
    · rfl
    · exact hm
  by_cases he : e ∈ tkeys x.seqs
  · obtain ⟨y, hy, rfl⟩ := List.mem_map.mp he
    exact foldl_reaches (P := fun m : Table Sequencer => (tget {} m y.1).halted = false)
      (fun m => by rw [tget_tset_self]; rfl) hkeep (.inl hy)
  · exact List.foldlRecOn (motive := fun m : Table Sequencer => (tget {} m e).halted = false) _ _ (by rw [tget_of_not_mem he])
      fun m hm z _ => hkeep m z hm

/-- Releasing the halts frees every sequencer, and leaves memory and the grants. -/
theorem State.releaseHalts_spec (s : State) : s.releaseHalts.sec = s.sec ∧ s.releaseHalts.dbg.haltAsked = [] ∧
    s.releaseHalts.mem = s.mem ∧ ∀ n e, (tget {} (s.releaseHalts.tile n).seqs e).halted = false := by
  have hrest := s.onTiles_only fun _ t => t.freed
  have htile (n : Nat) : s.releaseHalts.tile n = (s.onTiles fun _ t => t.freed).tile n := rfl
  refine ⟨?_, rfl, ?_, fun n e => ?_⟩
  · show (s.onTiles fun _ t => t.freed).sec = s.sec
    rw [hrest]
  · show (s.onTiles fun _ t => t.freed).mem = s.mem
    rw [hrest]
  · rw [htile]
    refine foldl_reaches (b := n) (P := fun t : State => (tget {} (t.tile n).seqs e).halted = false) (fun t => ?_) (fun t k ht => ?_) ?_
    · rw [State.onTile_tile_self]
      exact Tile.freed_halted _ e
    · rw [State.onTile_tile]
      split
      · exact Tile.freed_halted _ e
      · exact ht
    · by_cases hn : n ∈ tkeys s.tiles
      · exact .inl hn
      · refine .inr ?_
        rw [State.tile, tget_of_not_mem hn]
        rfl

/-! ### Memory accesses (R449, R450) -/

theorem Access.keep_read (s : State) (v : Nat) : Access.keep { state := s, status := 0, data := v } true =
    { s with dbg := { s.dbg with tap := .dbgAcc, accStatus := 0, accData := BitVec.ofNat 64 v } } := rfl

theorem Access.keep_write (s : State) : Access.keep { state := s, status := 0 } false =
    { s with draws := s.draws + 1, dbg := { s.dbg with tap := .dbgAcc, accStatus := 0, accData := Config.debugData s.draws } } := rfl

/-- An access that is denied, and nothing else, is on record. -/
theorem Access.keep_denied (s : State) (read : Bool) :
    let t := Access.keep { state := s, status := 3 } read
    OnlyDebug s t ∧ t.dbg.accStatus = 3 ∧ t.out = s.out := by
  cases read <;> exact ⟨rfl, rfl, rfl⟩

section
variable {s : State} (hrun : s.boot.supply = .running) {a n : Nat} (ha : a < 2 ^ 48) (hregs : ∀ o, s.region a ≠ .regs o)
include hrun ha hregs

theorem State.debugAccess_denied {w : Option W64} (h : s.memPermit (!w.isNone) a n = .denied) :
    s.debugAccess w a n = .next (Access.keep { state := s, status := 3 } w.isNone) := by
  unfold State.debugAccess
  dsimp only
  rw [if_neg (by simp [State.tapOn_of_running hrun]), if_neg (by omega)]
  cases hr : s.region a with
  | regs o => exact absurd hr (hregs o)
  | _ => cases w <;> (dsimp only; rw [h])

end

/-- A write to a function's share is noted once. -/
theorem State.noteWrite_spec (s : State) (fn unit a : Nat) : (s.noteWrite fn unit a).mem = s.mem ∧
    (s.noteWrite fn unit a).tiles = s.tiles ∧ (s.noteWrite fn unit a).dbg = s.dbg ∧
    ((s.noteWrite fn unit a).func fn).debugWritten = true ∧
    ((s.func fn).debugWritten = false → Recorded (s.noteWrite fn unit a) eDebugWrite clsNotice (some fn)) := by
  unfold State.noteWrite
  split
  next h => exact ⟨rfl, rfl, rfl, h, fun hno => absurd (h.symm.trans hno) (by decide)⟩
  next h => exact ⟨rfl, rfl, rfl, by rw [State.report_func_eq, State.onFunc, State.setFunc_func_self], fun _ => State.report_recorded _ _⟩

/-- The state once a debug write has stored its bytes in a function's share and noted it. -/
def State.debugStored (s : State) (fn a : Nat) (bs : List Byte) : State := (s.write a bs).noteWrite fn ((s.write a bs).memUnit a) a

theorem State.debugWrite_of_clean {s : State} (hclean : s.poison = []) (fn a n : Nat) (v : W64) :
    s.debugWrite (some fn) a n v = { state := s.debugStored fn a (leBytes n v.toNat), status := 0 } := by
  rw [State.debugWrite]
  simp [State.poisonedEdge, hclean, State.debugStored]

theorem State.debugRead_of_clean {s : State} (hclean : s.poison = []) (a n : Nat) :
    s.debugRead a n = { state := s, status := 0, data := leNat (s.read a n) } := by
  rw [State.debugRead]
  simp [State.poisonedIn, State.poisonsIn, hclean]

section
variable {s : State} (hrun : s.boot.supply = .running) {a n p : Nat} (ha : a < 2 ^ 48) (hhbm : s.region a = .hbm p)
  (halive : s.pathAlive 0 a = true) (hstall : s.stalledAt a = false) (hclean : s.poison = []) (halign : a % n = 0)
include hrun ha hhbm halive hstall hclean halign

theorem State.debugAccess_read {f : Option Nat} (h : s.memPermit false a n = .allowed f) : s.debugAccess none a n =
    .next { s with dbg := { s.dbg with tap := .dbgAcc, accStatus := 0, accData := BitVec.ofNat 64 (leNat (s.read a n)) } } := by
  unfold State.debugAccess
  dsimp only
  rw [if_neg (by simp [State.tapOn_of_running hrun]), if_neg (by omega), hhbm]
  simp only [Option.isNone_none, Bool.not_true, h, halign, ne_eq, not_true_eq_false, if_false, hstall, halive,
    Bool.false_eq_true, State.debugRead_of_clean hclean, Access.keep_read]

theorem State.debugAccess_write {v : W64} {fn : Nat} (h : s.memPermit true a n = .allowed (some fn)) :
    ∃ t, s.debugAccess (some v) a n = .next t ∧ Stored s t a (leBytes n v.toNat) ∧ t.dbg.accStatus = 0 ∧
      (t.func fn).debugWritten = true ∧ ((s.func fn).debugWritten = false → Recorded t eDebugWrite clsNotice (some fn)) := by
  obtain ⟨hmem, -, -, hnoted, hrec⟩ := (s.write a (leBytes n v.toNat)).noteWrite_spec fn ((s.write a (leBytes n v.toNat)).memUnit a) a
  have hstored := (s.write_stored a (leBytes n v.toNat)).of_mem hmem
  refine ⟨Access.keep { state := s.debugStored fn a (leBytes n v.toNat), status := 0 } false, ?_, hstored.of_mem rfl, rfl, hnoted, hrec⟩
  unfold State.debugAccess
  dsimp only
  rw [if_neg (by simp [State.tapOn_of_running hrun]), if_neg (by omega), hhbm]
  simp only [Option.isNone_some, Bool.not_false, h, halign, ne_eq, not_true_eq_false, if_false, hstall, halive,
    Bool.not_true, Bool.false_eq_true, State.debugWrite_of_clean hclean]

end

/-! ### Plate elements (R449, R457) -/

section
variable {s : State} {fn n e : Nat} (hfn : s.dbg.func.toNat = fn) (hn : s.dbg.tile.toNat = n)
  (he : (s.tile n).entryOf fn = some e) (hhalted : (tget {} (s.tile n).seqs e).halted = true) (hspace : s.dbg.twSpace = 0)
  (helem : s.dbg.twElem.toNat < 2048) (hlo : (tget {} (s.tile n).part e).plateBase.toNat * 4 ≤ s.dbg.twPlate.toNat)
  (hhi : s.dbg.twPlate.toNat < ((tget {} (s.tile n).part e).plateBase.toNat + (tget {} (s.tile n).part e).plateCount.toNat) * 4)
  (hclean : (s.tile n).platePoison = [])
include hfn hn he hhalted hspace helem hlo hhi hclean

theorem State.twAccess_plate_read : s.twAccess none =
    { state := { s with dbg := { s.dbg with twElem := s.dbg.twElem + 1 } }, status := 0
      data := (tget 0 (s.tile n).plates (s.dbg.twPlate.toNat * 2048 + s.dbg.twElem.toNat)).toNat } := by
  subst hfn hn
  unfold State.twAccess
  dsimp only
  rw [he]
  simp only [hhalted, hclean]
  rw [if_neg (by decide), if_neg (by rintro (h | ⟨-, h⟩); exacts [absurd (hspace.symm.trans h) (by decide), by omega]),
    if_pos hspace, if_neg (by omega), if_neg (by simp)]

theorem State.twAccess_plate_write (v : W32) : ∃ u : State,
    s.twAccess (some v) = { state := u.noteWrite fn n twAddr, status := 0 } ∧ u.dbg.twElem = s.dbg.twElem + 1 ∧ u.tile n =
      { s.tile n with plates := tset 0 (s.tile n).plates (s.dbg.twPlate.toNat * 2048 + s.dbg.twElem.toNat) v } := by
  subst hfn hn
  refine ⟨_, ?_, ?_, State.setTile_tile_self (s := { s with dbg := { s.dbg with twElem := s.dbg.twElem + 1 } }) _ _⟩
  · unfold State.twAccess
    dsimp only
    rw [he]
    simp only [hhalted, hclean]
    rw [if_neg (by decide), if_neg (by rintro (h | ⟨-, h⟩); exacts [absurd (hspace.symm.trans h) (by decide), by omega]),
      if_pos hspace, if_neg (by omega), if_neg (by simp)]
  · rfl

end

/-! ### Halts and resumes (R451) -/

theorem State.atControl_of_denied {s : State} (hrun : s.boot.supply = .running) (h : s.sec.grants 2 s.dbg.func.toNat = false)
    (f : State → Answer) : s.atControl f = .next { s with dbg := { s.dbg with tap := .dbgAcc, accStatus := 3 } } := by
  rw [State.atControl, if_neg (by simp [State.tapOn_of_running hrun]), if_neg (by simp [h])]

theorem State.atControl_of_granted {s : State} (hrun : s.boot.supply = .running) (h : s.sec.grants 2 s.dbg.func.toNat = true)
    (f : State → Answer) : s.atControl f = f s := by
  rw [State.atControl, if_neg (by simp [State.tapOn_of_running hrun]), if_pos h]

theorem exec_dbgHalt (s : State) : exec .dbgHalt s = s.atControl fun s => .next s.accDone.halt := rfl

theorem exec_dbgResume (s : State) : exec .dbgResume s = s.atControl fun s => .next s.accDone.unhalt := rfl

theorem exec_stepInstr (s : State) : exec .stepInstr s = s.atControl fun s => s.accDone.stepTiles none := rfl

theorem exec_stepBeat (s : State) (g : Engine) : exec (.stepBeat g) s = s.atControl fun s => s.accDone.stepTiles (some g) := rfl

theorem State.onSeq_of_entry {s : State} {fn n e : Nat} (he : (s.tile n).entryOf fn = some e) (f : Sequencer → Sequencer) :
    s.onSeq fn n f = s.onTile n fun x => { x with seqs := tset {} x.seqs e (f (tget {} x.seqs e)) } := by
  rw [State.onSeq]
  simp only [he]

theorem ne_pair {α β : Type} [BEq α] [BEq β] (h : α × β) (a : α) (b : β) : (h != (a, b)) = (h.1 != a || h.2 != b) := by
  show (!(h.1 == a && h.2 == b)) = _
  rw [Bool.not_and]
  rfl

theorem State.tile_of_tiles {s t : State} (h : t.tiles = s.tiles) (n : Nat) : t.tile n = s.tile n := by
  rw [State.tile, h]
  rfl

/-- With debug registers `y`, a change to the function's sequencer on a tile. -/
theorem State.onSeq_spec {s : State} {fn n e : Nat} (he : (s.tile n).entryOf fn = some e) (f : Sequencer → Sequencer) (y : Debug) :
    let t := { s with dbg := y }.onSeq fn n f
    OnlyTile s { t with dbg := s.dbg } n ∧ t.dbg = y ∧ tget {} (t.tile n).seqs e = f (tget {} (s.tile n).seqs e) := by
  dsimp only
  rw [State.onSeq_of_entry (s := { s with dbg := y }) he]
  refine ⟨s.onTile_onlyTile n fun x => { x with seqs := tset {} x.seqs e (f (tget {} x.seqs e)) }, rfl, ?_⟩
  rw [State.onTile_tile_self, tget_tset_self]
  rfl

/-- The debug registers once the halts that RESUME ends are off their lists. -/
def Debug.unhalt (d : Debug) (fn : Nat) : Debug :=
  { d with
    haltAsked := d.haltAsked.filter fun h => h.1 != fn || (!d.all && h.2 != some d.tile.toNat)
    muleHalt := if d.all then d.muleHalt.filter fun n => n != fn else d.muleHalt }

theorem Debug.unhalt_of_tile {d : Debug} (hall : d.all = false) (fn : Nat) :
    d.unhalt fn = { d with haltAsked := d.haltAsked.filter fun h => h != (fn, some d.tile.toNat) } := by
  rw [Debug.unhalt, hall]
  simp only [Bool.not_false, Bool.true_and, Bool.false_eq_true, if_false, ← ne_pair]

section
variable {s : State} (hall : s.dbg.all = false) {e : Nat} (he : (s.tile s.dbg.tile.toNat).entryOf s.dbg.func.toNat = some e)
include hall he

theorem State.dbgTiles_single : s.accDone.dbgTiles = [s.dbg.tile.toNat] := by
  show (if s.dbg.all then _ else if ((s.tile s.dbg.tile.toNat).entryOf s.dbg.func.toNat).isSome then _ else _) = _
  rw [hall, he]
  rfl

theorem State.halt_new (hnew : s.dbg.haltAsked.contains (s.dbg.func.toNat, some s.dbg.tile.toNat) = false) : s.accDone.halt =
    { s with dbg := { s.dbg with
      tap := .dbgAcc, accStatus := 0, haltAsked := s.dbg.haltAsked ++ [(s.dbg.func.toNat, some s.dbg.tile.toNat)] } } := by
  have hkey : (if s.accDone.dbg.all = true then none else some s.accDone.dbg.tile.toNat) = some s.dbg.tile.toNat :=
    if_neg (by rw [show s.accDone.dbg.all = false from hall]; decide)
  unfold State.halt
  rw [State.dbgTiles_single hall he]
  dsimp only
  rw [hkey, if_neg]
  · rfl
  · rintro (h | h)
    · exact absurd (h.symm.trans hnew) (by decide)
    · exact absurd h (by simp)

theorem State.unhalt_single : s.accDone.unhalt =
    let t := s.accDone.onSeq s.dbg.func.toNat s.dbg.tile.toNat fun q =>
      { q with halted := false, reason := 0, passBp := q.passBp || (q.halted && q.reason == 2) }
    { t with dbg := t.dbg.unhalt s.dbg.func.toNat } := by
  unfold State.unhalt
  rw [State.dbgTiles_single hall he]
  rfl

theorem State.stepTiles_single (b : Option Engine) : s.accDone.stepTiles b = s.accDone.stepTile b s.dbg.tile.toNat := by
  unfold State.stepTiles
  rw [State.dbgTiles_single hall he]
  rfl

end

theorem State.stepTile_of_free {s : State} {n e : Nat} (he : (s.tile n).entryOf s.dbg.func.toNat = some e)
    (h : (tget {} (s.tile n).seqs e).halted = false) (b : Option Engine) : s.stepTile b n = .next s := by
  unfold State.stepTile
  dsimp only
  rw [he]
  dsimp only
  rw [h, if_pos (by simp)]

theorem Sequencer.steps {q : Sequencer} (hh : q.halted = true) (ha : q.active = true) (hleft : q.left ≠ 0) :
    ¬(!q.halted || !q.active || q.left == 0) = true := by
  simp [hh, ha, hleft]

section
variable {s : State} {n e : Nat} (he : (s.tile n).entryOf s.dbg.func.toNat = some e)
  (hsteps : ¬(!(tget {} (s.tile n).seqs e).halted || !(tget {} (s.tile n).seqs e).active || (tget {} (s.tile n).seqs e).left == 0) = true)
include he hsteps

/-- STEP_INSTR of a halted sequencer runs its instruction, and halts it again. -/
theorem State.stepTile_instr (hfit : s.tileFitted n = true) : ∃ t,
    (s.onSeq s.dbg.func.toNat n fun _ => { tget {} (s.tile n).seqs e with halted := false, passBp := true }).runTile
      { tile := n, entry := e } (s.read ((tget {} (s.tile n).part e).sram n (tget {} (s.tile n).seqs e).iaddr.toNat) 32) = .next t ∧
    s.stepTile none n = .next (t.stepDone s.dbg.func.toNat n) := by
  have hfit' : (s.onSeq s.dbg.func.toNat n fun _ => { tget {} (s.tile n).seqs e with halted := false, passBp := true }).tileFitted n = true := by
    rw [State.onSeq_of_entry he]
    exact hfit
  obtain ⟨t, hgo⟩ := State.runTile_next (a := { tile := n, entry := e }) hfit'
    (s.read ((tget {} (s.tile n).part e).sram n (tget {} (s.tile n).seqs e).iaddr.toNat) 32)
  refine ⟨t, hgo, ?_⟩
  have hgo' : (s.onSeq s.dbg.func.toNat n fun q => { q with halted := false, passBp := true }).runTile { tile := n, entry := e }
      (s.read ((tget {} (s.tile n).part e).sram n (tget {} (s.tile n).seqs e).iaddr.toNat) 32) = .next t := by
    rw [State.onSeq_of_entry he] at hgo ⊢
    exact hgo
  unfold State.stepTile
  dsimp only
  rw [he]
  dsimp only
  rw [if_neg hsteps, hgo']

/-- STEP_BEAT of a beat that is not the instruction's last counts it. -/
theorem State.stepTile_beat {g : Engine}
    (hg : engineOf (tileWords (s.read ((tget {} (s.tile n).part e).sram n (tget {} (s.tile n).seqs e).iaddr.toNat) 32)) g = true)
    (hmore : (tget {} (s.tile n).seqs e).beats + 1 < s.instrBeats s.dbg.func.toNat n e
      (tileWords (s.read ((tget {} (s.tile n).part e).sram n (tget {} (s.tile n).seqs e).iaddr.toNat) 32))) :
    s.stepTile (some g) n = .next (s.onSeq s.dbg.func.toNat n fun q => { q with beats := q.beats + 1, reason := 4 }) := by
  unfold State.stepTile
  dsimp only
  rw [he]
  dsimp only
  rw [if_neg hsteps, hg, if_neg (by decide), if_neg (by omega)]

end

/-! ### The obligation -/

theorem State.tokens_of_length {s : State} (hrun : s.boot.supply = .running) {token : List Byte} (hlen : token.length = 256) :
    (s.tokenGrants token = none → Runs (.dbgAuth token) s fun t =>
      t.sec = { s.sec with draws := s.sec.draws + 1, fails := satAdd 8 s.sec.fails 1 } ∧
      Recorded t eDebugAuth clsNotice none ∧ t = { s with sec := t.sec, errs := t.errs, dbg := { s.dbg with tap := .dbgAuth } }) ∧
    ∀ g, s.tokenGrants token = some g →
      (s.sec.level ≤ g.level → Runs (.dbgAuth token) s fun t =>
        t = { s with sec := { g with draws := g.draws + 1 }, dbg := { s.dbg with tap := .dbgAuth } }) ∧
      (g.level < s.sec.level → Runs (.dbgAuth token) s fun t => t.sec = { g with draws := g.draws + 1 } ∧
        t.dbg.haltAsked = [] ∧ t.mem = s.mem ∧ ∀ n e, (tget {} (t.tile n).seqs e).halted = false) := by
  refine ⟨fun h => ⟨_, exec_dbgAuth_refused hrun hlen h, ?_, State.report_recorded _ _, ?_⟩, fun g h => ⟨fun hle => ?_, fun hlt => ?_⟩⟩
  · rw [State.report_eq]
  · rw [State.report_eq]
  · refine ⟨_, exec_dbgAuth_granted hrun hlen h, ?_⟩
    dsimp only
    rw [if_neg (by omega)]
  · refine ⟨_, exec_dbgAuth_granted hrun hlen h, ?_⟩
    dsimp only
    rw [if_pos hlt]
    exact State.releaseHalts_spec _

/-- Settles O58: each clause is the equation of its command, with the tile reached through `onSeq_spec`. -/
theorem debugPort : Obligations.DebugPort := by
  intro s token addr hrun
  dsimp only
  have hscan (i : TapInstr) (v : Nat) := State.scan_of_running hrun i v
  have hboundary (i : TapInstr) : s.boundary i = .next { s with
      draws := s.draws + 1, dbg := { s.dbg with tap := i }, out := .scan i (Config.boundaryScan s.draws) :: s.out } :=
    State.scan_of_running (s := { s with draws := s.draws + 1 }) hrun i _
  refine ⟨⟨_, if_neg (by simp [State.tapOn_of_running hrun]), rfl⟩, ⟨_, hscan _ _, rfl⟩, ⟨_, hscan _ _, rfl⟩, ⟨_, hscan _ _, rfl⟩,
    ⟨_, hscan _ _, rfl⟩, ⟨_, hboundary _, rfl, rfl, rfl⟩, fun h => ⟨_, (if_neg h).trans (hscan _ _), rfl⟩,
    fun h => ⟨_, (if_pos h).trans (hboundary _), rfl, rfl, rfl⟩, State.tokens_of_length hrun, fun haddr hregs => ?_, ?_, ?_, ?_, ?_⟩
  · refine ⟨fun h => ⟨_, State.debugAccess_denied hrun haddr hregs (w := none) h, Access.keep_denied s true⟩,
      fun h => ⟨_, State.debugAccess_denied hrun haddr hregs (w := none) h, Access.keep_denied s true⟩,
      fun h v => ⟨_, State.debugAccess_denied hrun haddr hregs (w := some _) h, Access.keep_denied s false⟩,
      fun h v => ⟨_, State.debugAccess_denied hrun haddr hregs (w := some _) h, Access.keep_denied s false⟩,
      fun p hhbm halive hstall hclean => ⟨fun f h hal => ⟨_, State.debugAccess_read hrun haddr hhbm halive hstall hclean hal h, rfl⟩,
        fun f h hal => ⟨_, State.debugAccess_read hrun haddr hhbm halive hstall hclean hal h, rfl⟩, fun f v h hal => ?_, fun f v h hal => ?_⟩⟩
    · obtain ⟨t, hexec, hstored, hrest⟩ := State.debugAccess_write hrun haddr hhbm halive hstall hclean hal (v := v.setWidth 64) h
      rw [BitVec.toNat_setWidth_of_le (by decide)] at hstored
      exact ⟨t, hexec, hstored, hrest⟩
    · obtain ⟨t, hexec, hstored, hstatus, hnoted, -⟩ := State.debugAccess_write hrun haddr hhbm halive hstall hclean hal (v := v) h
      exact ⟨t, hexec, hstored, hstatus, hnoted⟩
  · refine fun w v h => ⟨_, ?_, Access.keep_denied s true⟩
    show execDbgTwdataAccess w v s = _
    rw [execDbgTwdataAccess, if_neg (by simp [State.tapOn_of_running hrun]), if_pos (by simp [h])]
  · intro v e he hh hspace helem hlo hhi hclean
    have access (w : Bool) (h : s.sec.grants (if w then 2 else 1) s.dbg.func.toNat = true) : exec (.dbgTwdataAccess w v) s =
        .next ((s.twAccess (if w then some v else none)).keep (!w)) := by
      show execDbgTwdataAccess w v s = _
      rw [execDbgTwdataAccess, if_neg (by simp [State.tapOn_of_running hrun]), if_neg (by simp [h])]
    refine ⟨fun h => ⟨_, access false h, ?_⟩, fun h => ⟨_, access true h, ?_⟩⟩
    · rw [if_neg (by decide), State.twAccess_plate_read rfl rfl he hh hspace helem hlo hhi hclean]
      rfl
    · obtain ⟨u, hacc, helem', htile⟩ := State.twAccess_plate_write rfl rfl he hh hspace helem hlo hhi hclean v
      obtain ⟨-, htiles, hdbg, hnoted, -⟩ := u.noteWrite_spec s.dbg.func.toNat s.dbg.tile.toNat twAddr
      rw [if_pos rfl, hacc]
      exact ⟨((State.tile_of_tiles htiles _).trans htile), (congrArg Debug.twElem hdbg).trans helem', rfl, hnoted⟩
  · intro h
    have denied (f : State → Answer) := State.atControl_of_denied hrun h f
    exact ⟨⟨_, (exec_dbgHalt s).trans (denied _), rfl, rfl, rfl⟩, ⟨_, (exec_dbgResume s).trans (denied _), rfl, rfl, rfl⟩,
      ⟨_, (exec_stepInstr s).trans (denied _), rfl, rfl, rfl⟩, fun g => ⟨_, (exec_stepBeat s g).trans (denied _), rfl, rfl, rfl⟩⟩
  · intro h hall e he
    have control (f : State → Answer) := State.atControl_of_granted hrun h f
    have stepInstr : exec .stepInstr s = s.accDone.stepTile none s.dbg.tile.toNat :=
      ((exec_stepInstr s).trans (control _)).trans (State.stepTiles_single hall he none)
    have stepBeat (g : Engine) : exec (.stepBeat g) s = s.accDone.stepTile (some g) s.dbg.tile.toNat :=
      ((exec_stepBeat s g).trans (control _)).trans (State.stepTiles_single hall he (some g))
    refine ⟨fun hnew => ⟨_, ((exec_dbgHalt s).trans (control _)).trans (congrArg Host.Outcome.next (State.halt_new hall he hnew)), rfl⟩,
      fun hasked => ?_, ?_, fun hfree => ⟨_, stepInstr.trans (State.stepTile_of_free (s := s.accDone) he hfree _), rfl⟩,
      fun g hfree => ⟨_, (stepBeat g).trans (State.stepTile_of_free (s := s.accDone) he hfree _), rfl⟩,
      fun hh ha hleft => ⟨fun hfit => ?_, fun g hg hmore => ?_⟩⟩
    · obtain ⟨honly, hdbg, hseq⟩ := State.onSeq_spec he
        (fun q => { q with halted := true, reason := if q.halted then q.reason else 1 }) { s.dbg with haltAsked := [] }
      refine ⟨_, ?_, hdbg, honly, hseq⟩
      show execHaltComplete s = _
      rw [execHaltComplete, hasked]
      rfl
    · obtain ⟨honly, hdbg, hseq⟩ := State.onSeq_spec he (fun q =>
        { q with halted := false, reason := 0, passBp := q.passBp || (q.halted && q.reason == 2) }) s.accDone.dbg
      refine ⟨_, ((exec_dbgResume s).trans (control _)).trans (congrArg Host.Outcome.next (State.unhalt_single hall he)), ?_, ?_, hseq⟩
      · exact honly
      · exact (congrArg (Debug.unhalt · s.dbg.func.toNat) hdbg).trans (Debug.unhalt_of_tile (d := s.accDone.dbg) hall _)
    · obtain ⟨t, hgo, hstep⟩ := State.stepTile_instr (s := s.accDone) he (Sequencer.steps hh ha hleft) hfit
      exact ⟨t, hgo, _, stepInstr.trans hstep, rfl⟩
    · obtain ⟨honly, -, hseq⟩ := State.onSeq_spec he (fun q => { q with beats := q.beats + 1, reason := 4 }) s.accDone.dbg
      exact ⟨_, (stepBeat g).trans (State.stepTile_beat (s := s.accDone) he (Sequencer.steps hh ha hleft) hg hmore),
        honly, hseq⟩

end Sys2Proof.Machine
end

section
/-! Streams of snapshots and restores, and PFC, on switched ports (O49). -/
namespace Sys2Proof.Machine

/-! ### What is sent -/

/-- A fold whose every step sends one thing sends them in order, and changes nothing else. -/
theorem foldl_emits {f : State → Nat → State} {g : Nat → Out} {s : State}
    (hf : ∀ o k, f { s with out := o } k = { s with out := g k :: o }) (l : List Nat) :
    ∀ o, l.foldl f { s with out := o } = { s with out := (l.map g).reverse ++ o } := by
  induction l with
  | nil => exact fun _ => rfl
  | cons k l ih =>
    intro o
    rw [List.foldl_cons, hf, ih, List.map_cons, List.reverse_cons, List.append_assoc, List.singleton_append]

/-- Frame `k` of a stream, as it is sent. -/
def State.streamFrame (s : State) (fn : Nat) (h : Shipment) (retx : Bool) (k : Nat) : Out :=
  .frame h.port kSTREAM h.tc (herdFrame
    { kind := kSTREAM, retx := retx, fn := fn, src := s.srcId, seq := BitVec.ofNat 32 k, list := h.stream } (h.frames.getD k []))

theorem State.sendStream_eq (s : State) (fn : Nat) (h : Shipment) (k : Nat) (retx : Bool) :
    s.sendStream fn h k retx = { s with out := s.streamFrame fn h retx k :: s.out } := rfl

/-- `n` frames of a stream, sent one after the other. -/
theorem State.sendStreams_spec (s : State) (fn : Nat) (h : Shipment) (retx : Bool) (first n : Nat) :
    ∃ l : List Out, l.length = n ∧
      (List.range n).foldl (fun (s : State) k => s.sendStream fn h (first + k) retx) s = { s with out := l ++ s.out } := by
  refine ⟨_, ?_, foldl_emits (g := fun k => s.streamFrame fn h retx (first + k)) (s := s) (fun o k => by rfl) (List.range n) s.out⟩
  rw [List.length_reverse, List.length_map, List.length_range]

theorem State.resendShip_spec (s : State) (fn : Nat) (h : Shipment) : ∃ l : List Out,
    s.resendShip fn h = { s with out := l ++ s.out } ∧ (s.shipOpen h = true → l.length = h.sent - h.acked) := by
  unfold State.resendShip
  split
  next hopen =>
    obtain ⟨l, hlen, heq⟩ := s.sendStreams_spec fn h true h.acked (h.sent - h.acked)
    exact ⟨l, heq, fun _ => hlen⟩
  next hshut => exact ⟨[], rfl, fun h => absurd h hshut⟩

/-- Sending what the window allows changes at most the function's record. -/
theorem State.pumpShip_only (s : State) (fn : Nat) :
    s.pumpShip fn = { s with funcs := (s.pumpShip fn).funcs, out := (s.pumpShip fn).out } := by
  unfold State.pumpShip
  split
  · rfl
  next h _ =>
    dsimp only
    split
    · rfl
    · obtain ⟨l, -, heq⟩ := s.sendStreams_spec fn h false h.sent (min h.frames.length (h.acked + shipWindow) - h.sent)
      rw [heq]
      rfl

/-- A shipment with every frame sent has nothing more to send. -/
theorem State.pumpShip_of_sent {s : State} {fn : Nat} {h : Shipment} (hsnap : (s.func fn).snap = some h)
    (hsent : h.frames.length = h.sent) : OnlyFunc s (s.pumpShip fn) fn ∧ ((s.pumpShip fn).func fn).snap = some h := by
  unfold State.pumpShip
  rw [hsnap]
  dsimp only
  split
  · exact ⟨⟨rfl, fun _ _ => rfl⟩, hsnap⟩
  · have hlim : min h.frames.length (h.acked + shipWindow) ≤ h.sent := by omega
    rw [Nat.sub_eq_zero_of_le hlim, Nat.max_eq_left hlim]
    refine ⟨⟨rfl, fun j hj => State.setFunc_func_ne _ _ _ _ hj⟩, ?_⟩
    rw [List.range_zero, List.foldl_nil, State.onFunc, State.setFunc_func_self]

/-! ### Restores -/

theorem State.judgeRestore_eq_none {s t : State} {fn : Nat} {g : W32} {bs : List Byte}
    (hfuncs : (t.image fn).job.ownedShards t.herd.count t.herd.member = (s.image fn).job.ownedShards s.herd.count s.herd.member)
    (h : s.judgeRestore fn g bs = none) : t.judgeRestore fn g bs = none := by
  unfold State.judgeRestore at h ⊢
  dsimp only at h ⊢
  rw [hfuncs]
  split at h
  next => rfl
  next => cases h
  next => split at h <;> cases h

theorem State.restorePfc_between (s : State) (port tc : Nat) {fill : Nat} (hlo : 262144 ≤ fill) (hhi : fill ≤ 786432) :
    s.restorePfc port tc fill = s := by
  unfold State.restorePfc
  dsimp only
  rw [if_neg (by omega), if_neg (by omega)]

/-- A restore's frame as expected, when more is to come and the buffer is neither nearly full nor nearly empty. -/
theorem State.takeStream_expected {s : State} {port fill fn : Nat} {frame : Frame} {sh : Shipment} {h : HerdHdr}
    (hseq : h.seq.toNat = sh.acked % 2 ^ 32) (hlo : 262144 ≤ fill) (hhi : fill ≤ 786432) {sh1 : Shipment}
    (hsh : sh1 = { sh with acked := sh.acked + 1, timeouts := 0, frames := sh.frames ++ [(frame.body.drop 16).take 4096] })
    (hmore : (s.onFunc fn fun f => { f with snap := some sh1 }).judgeRestore fn sh.gen sh1.frames.flatten = none) :
    s.takeStream port frame fill fn sh h = (s.onFunc fn fun f => { f with snap := some sh1 }).sendStreamAck fn sh1 false := by
  have hmore' := State.judgeRestore_eq_none
    (t := (s.onFunc fn fun f => { f with snap := some sh1 }).sendStreamAck fn sh1 false) (by rfl) hmore
  unfold State.takeStream
  dsimp only
  rw [if_neg (not_not_intro hseq), ← hsh]
  have hfr : sh.frames ++ [(frame.body.drop 16).take 4096] = sh1.frames := by rw [hsh]
  rw [State.restorePfc_between _ _ _ hlo hhi, hfr, hmore']

/-! ### The obligation -/

theorem State.isPort_of_switched {s : State} {p : Nat} (h : s.isSwitched p = true) : s.isPort p = true := by
  unfold State.isSwitched at h
  unfold State.isPort
  cases hr : s.role p with
  | none => rw [hr] at h; exact h
  | some r => rfl

theorem State.isPort_of_herd {s : State} {p : Nat} (h : s.isHerdPort p = true) : s.isPort p = true := by
  unfold State.isHerdPort at h
  unfold State.isPort
  cases hr : s.role p with
  | none => rw [hr] at h; exact h
  | some r => rfl

theorem State.withStream_of_take {s : State} {p : Nat} {frame : Frame} {h : HerdHdr} {kind fn : Nat} {restore : Bool} {sh : Shipment}
    (hsw : s.isSwitched p = true) (hup : (s.port p).state = .up) (hfate : s.switchedFate p frame = .take h) (hkind : h.kind = kind)
    (hof : s.streamOf p frame h restore = some (fn, sh)) (act : Nat → Shipment → HerdHdr → State) :
    s.withStream p frame kind restore act = .next (act fn sh h) := by
  unfold State.withStream
  rw [if_neg (by simp [hsw]), if_neg (not_not_intro hup), hfate]
  dsimp only
  rw [if_neg (not_not_intro hkind), hof]

theorem findSome_funcIds {β : Type} {f : Nat → Option β} {n : Nat} (hn : n < 16) {b : β} (hb : f n = some b)
    (hbefore : ∀ j, j < n → f j = none) : funcIds.findSome? f = some b := by
  refine List.findSome?_eq_some_iff.mpr ⟨List.range n, n, (List.range (15 - n)).map (n + 1 + ·), ?_, hb,
    fun j hj => hbefore j (List.mem_range.mp hj)⟩
  rw [funcIds, show 16 = n + 1 + (15 - n) by omega, List.range_add, List.range_succ, List.append_assoc, List.singleton_append]

theorem State.takeStreamAck_good {s : State} {fn : Nat} {sh : Shipment} {h : HerdHdr}
    (hgood : sh.acked < h.ack.toNat ∧ h.ack.toNat ≤ sh.sent) (hnak : h.nak = false) : s.takeStreamAck fn sh h =
      (s.onFunc fn fun f => { f with snap := some { sh with acked := h.ack.toNat, timeouts := 0 } }).pumpShip fn := by
  unfold State.takeStreamAck
  dsimp only
  rw [if_pos (decide_eq_true hgood), hnak]
  rfl

section
variable {s : State} {p n : Nat} {sh : Shipment} (hsw : s.isSwitched p = true) (hn : n < 16) (hsnap : (s.func n).snap = some sh)
  (heth : sh.overEthernet = true) (hport : sh.port = p)
  (hfirst : ∀ j, j < n → ∀ y, (s.func j).snap = some y → ¬(y.overEthernet = true ∧ y.port = p ∧ y.stream = sh.stream))
  (hopen : sh.restore = true ∨ sh.acked < sh.sent)
include hsw hn hsnap heth hport hfirst hopen

theorem exec_streamTimeout : exec (.streamTimeout p sh.stream) s = .next (
    if 16 ≤ sh.timeouts + 1 then s.failShip n
    else
      let sh1 := { sh with timeouts := sh.timeouts + 1 }
      let u := s.onFunc n fun f => { f with snap := some sh1 }
      if sh.restore then u else u.resendShip n sh1) := by
  show execStreamTimeout p sh.stream s = _
  rw [execStreamTimeout, if_neg (by simp [hsw])]
  dsimp only
  rw [findSome_funcIds hn (b := (n, sh)) (by simp [hsnap, heth, hport]) fun j hj => ?_]
  · dsimp only
    rw [if_neg (by rintro ⟨hres, hacked, -⟩; rcases hopen with h | h; exacts [absurd hres (by simp [h]), by omega])]
    split <;> rfl
  · cases hj' : (s.func j).snap with
    | none => rfl
    | some y =>
      have := hfirst j hj y hj'
      simp only [Bool.and_eq_true, beq_iff_eq, ite_eq_right_iff, reduceCtorEq, imp_false]
      exact fun ⟨⟨h1, h2⟩, h3⟩ => this ⟨h1, h2, h3⟩

end

/-- A shipment over Ethernet that fails ends with an error of its function. -/
theorem State.failShip_recorded {s : State} {n : Nat} {sh : Shipment} (hsnap : (s.func n).snap = some sh)
    (heth : sh.overEthernet = true) (hres : sh.restore = false) :
    ((s.failShip n).func n).snap = none ∧ Recorded (s.failShip n) eSnapshot clsCommand (some n) := by
  unfold State.failShip
  rw [hsnap]
  dsimp only
  rw [if_pos heth, hres, if_neg (by decide)]
  generalize hu : State.report _ _ = u
  have hcpl := u.completeAll_cpl sh.cmd.toList stPortError (portResult sh.port sh.gen)
  refine ⟨?_, ?_⟩
  · rw [hcpl.func, ← hu, State.report_func_eq, State.onFunc, State.setFunc_func_self]
  · have hrec : Recorded u eSnapshot clsCommand (some n) := hu ▸ State.report_recorded _ _
    unfold Recorded at hrec ⊢
    rwa [hcpl.1]

/-- The shipments over a port go on. -/
def State.pumpShips (s : State) (p : Nat) : State :=
  funcIds.foldl (fun (s : State) n =>
    match (s.func n).snap with
    | some sh => if sh.overEthernet ∧ sh.port = p then s.pumpShip n else s
    | none => s) s

theorem State.pumpShips_only (s : State) (p : Nat) :
    s.pumpShips p = { s with funcs := (s.pumpShips p).funcs, out := (s.pumpShips p).out } := by
  refine List.foldlRecOn (motive := fun t : State => t = { s with funcs := t.funcs, out := t.out }) funcIds _ rfl fun t ht n _ => ?_
  split
  · split
    · rw [t.pumpShip_only n, ht]
    · exact ht
  · exact ht

theorem State.pumpShips_kept (s : State) (p : Nat) :
    (s.pumpShips p).ports = s.ports ∧ (s.pumpShips p).mem = s.mem ∧ (s.pumpShips p).errs = s.errs :=
  have h := s.pumpShips_only p
  ⟨by rw [h], by rw [h], by rw [h]⟩

theorem exec_pfcReceive_switched {s : State} {p : Nat} (hup : (s.port p).state = .up) (hherd : s.isHerdPort p = false)
    (hp : s.isPort p = true) (cls pause : BitVec 8) : exec (.pfcReceive p cls pause) s = .next
      ((s.setPort p { s.port p with paused := ((s.port p).paused &&& ~~~cls) ||| (pause &&& cls) }).pumpShips p) := by
  show execPfcReceive p cls pause s = _
  rw [execPfcReceive, if_neg (by simp [hp]), if_neg (not_not_intro hup), if_neg (by simp [hherd])]
  rfl

/-- Settles O49: `pumpShip` changes only its function and what is sent, `failShip` only its function, records and host memory. -/
theorem streams : Obligations.Streams := by
  intro s p frame fill x hup
  refine ⟨fun hsw h fn sh hfate hfn => ⟨fun hkind hof hfill => ⟨?expected, fun hseq => ?unexpected⟩,
    fun hkind hof hnak hlt hle hsent => ?ack⟩, fun hsw n sh hn hsnap heth hport hfirst => ⟨fun hres ht => ?restore, fun hres hopen ht => ?resend,
      fun hres hopen ht => ?fail⟩, fun cls pause => ⟨fun hherd => ?herd, fun hherd hp => ?pause⟩⟩
  case expected =>
    intro hseq sh1 hmore hlo hhi
    refine ⟨_, (if_neg (by omega)).trans (State.withStream_of_take hsw hup hfate hkind hof _), ?_⟩
    rw [State.takeStream_expected hseq hlo hhi rfl hmore]
    refine ⟨rfl, ?_, fun j hj => State.setFunc_func_ne _ _ _ _ hj, rfl⟩
    exact congrArg Func.snap (State.setFunc_func_self _ _ _)
  case unexpected =>
    refine ⟨_, (if_neg (by omega)).trans (State.withStream_of_take hsw hup hfate hkind hof _), ?_⟩
    unfold State.takeStream
    rw [if_pos hseq]
    exact ⟨rfl, rfl⟩
  case ack =>
    refine ⟨_, State.withStream_of_take hsw hup hfate hkind hof _, ?_⟩
    obtain ⟨hpump, hsnap⟩ := State.pumpShip_of_sent (s := s.onFunc fn fun f => { f with snap := some { sh with acked := h.ack.toNat, timeouts := 0 } })
      (congrArg Func.snap (State.setFunc_func_self _ _ _)) hsent
    rw [State.takeStreamAck_good ⟨hlt, hle⟩ hnak]
    exact ⟨⟨hpump.1, fun j hj => (hpump.2 j hj).trans (State.setFunc_func_ne _ _ _ _ hj)⟩, hsnap⟩
  case restore =>
    refine ⟨_, exec_streamTimeout hsw hn hsnap heth hport hfirst (.inl hres), ?_⟩
    dsimp only
    rw [if_neg (by omega), if_pos hres]
    exact ⟨⟨rfl, fun j hj => State.setFunc_func_ne _ _ _ _ hj⟩, congrArg Func.snap (State.setFunc_func_self _ _ _)⟩
  case resend =>
    refine ⟨_, exec_streamTimeout hsw hn hsnap heth hport hfirst (.inr hopen), ?_⟩
    dsimp only
    rw [if_neg (by omega), if_neg (by simp [hres])]
    obtain ⟨l, heq, hlen⟩ := (s.onFunc n fun f => { f with snap := some { sh with timeouts := sh.timeouts + 1 } }).resendShip_spec n
      { sh with timeouts := sh.timeouts + 1 }
    rw [heq]
    refine ⟨rfl, fun j hj => State.setFunc_func_ne _ _ _ _ hj, congrArg Func.snap (State.setFunc_func_self _ _ _), fun h => ?_⟩
    show (l ++ s.out).length = _
    rw [List.length_append, hlen h, Nat.add_comm]
  case fail =>
    refine ⟨_, exec_streamTimeout hsw hn hsnap heth hport hfirst (.inr hopen), ?_⟩
    rw [if_pos (by omega)]
    obtain ⟨hnone, hrec⟩ := State.failShip_recorded hsnap heth hres
    exact ⟨hnone, hrec, (s.failShip_ended n).host⟩
  case herd =>
    refine ⟨_, ?_, s.setPort_onlyPort p _, State.setPort_port_self _ _ _⟩
    show execPfcReceive p cls pause s = _
    rw [execPfcReceive, if_neg (by simp [State.isPort_of_herd hherd]), if_neg (not_not_intro hup), if_pos hherd]
    rfl
  case pause =>
    obtain ⟨hports, hmem, herrs⟩ :=
      (s.setPort p { x with paused := (x.paused &&& ~~~cls) ||| (pause &&& cls) }).pumpShips_kept p
    refine ⟨_, exec_pfcReceive_switched hup hherd hp cls pause, ?_, fun j hj => ?_, fun z _ => congrArg (tget 0 · z) hmem, herrs⟩
    · rw [State.port_of_ports hports, State.setPort_port_self]
    · rw [State.port_of_ports hports, State.setPort_port_ne _ _ _ _ hj]

end Sys2Proof.Machine
end

section
/-! DATA frames, resending and shed lanes on a herd link (O48). -/
namespace Sys2Proof.Machine

/-! ### Acknowledgements (R361) -/

/-- A link on which nothing waits is as it was after an ACK of all that was sent. -/
theorem State.takeAck_idle {s : State} {p : Nat} {h : HerdHdr} (hnak : h.nak = false) (hreplay : (s.port p).replay = [])
    (hunsent : (s.port p).unsent = []) (hep : (s.port p).episode = none) (hack : h.ack = (s.port p).txSeq) :
    s.takeAck p h = s.setPort p (s.port p) := by
  have hx : { s.port p with replay := (s.port p).replay.filter fun f => serialLe h.ack f.seq } = s.port p := by
    have hfilter : ((s.port p).replay.filter fun f => serialLe h.ack f.seq) = (s.port p).replay := by
      rw [hreplay]
      rfl
    rw [hfilter]
  have hpump : (s.setPort p (s.port p)).pump p = s.setPort p (s.port p) := by
    rw [State.pump, State.setPort_port_self, hunsent]
    rfl
  have hnext : (s.port p).nextSeq = h.ack := by
    rw [Port.nextSeq, hunsent, hack]
    exact BitVec.sub_zero _
  unfold State.takeAck State.acked
  dsimp only
  rw [hnak, if_neg Bool.false_ne_true, hnext, if_neg (by simp), hx, hep]
  exact hpump

/-! ### The bytes of a transfer (R350) -/

/-- A function once `n` more bytes of a transfer that it receives have arrived. -/
def Func.taken (f : Func) (x : Xfer) (n : Nat) : Func :=
  let list := x.src % 65536
  let xid := bits x.src 47 32
  let same (r : RxState) : Bool := r.port == x.port && r.list == list && r.xid == xid
  let r := (f.rx.find? same).getD { port := x.port, list := list, xid := xid, count := 0, held := [], step := 0, done := 0 }
  { f with rx := (f.rx.filter fun y => !same y) ++
      [{ r with count := r.count + n, step := if r.count % max 1 x.bytes = 0 then f.progStep else r.step }] }

theorem find_append_replaced {α : Type} (q : α → Bool) (l : List α) {r : α} (hr : q r = true) :
    ((l.filter fun y => !q y) ++ [r]).find? q = some r := by
  rw [List.find?_append, List.find?_eq_none.mpr fun y hy => ?_]
  · simp [hr]
  · simpa using (List.mem_filter.mp hy).2

theorem Func.taken_arrived (f : Func) (x : Xfer) (n : Nat) : (f.taken x n).arrived x = f.arrived x + n := by
  unfold Func.taken Func.arrived
  dsimp only
  rw [find_append_replaced]
  · cases hf : f.rx.find? fun r => r.port == x.port && r.list == x.src % 65536 && r.xid == bits x.src 47 32 <;> rfl
  · cases hf : f.rx.find? fun r => r.port == x.port && r.list == x.src % 65536 && r.xid == bits x.src 47 32 with
    | none => simp
    | some r =>
      have hsame := List.find?_some hf
      exact hsame

theorem State.takeData_of_cast_none {s : State} {fn : Nat} {l : XferList} {x : Xfer} (hcast : x.cast = none) (payload : List Byte) :
    s.takeData fn l x payload = (s.setFunc fn ((s.func fn).taken x payload.length)).placeBytes fn l x
      ((s.func fn).arrived x % max 1 x.bytes) payload := by
  have hpos : (((s.func fn).rx.find? fun r => r.port == x.port && r.list == x.src % 65536 && r.xid == bits x.src 47 32).getD
      { port := x.port, list := x.src % 65536, xid := bits x.src 47 32, count := 0, held := [], step := 0, done := 0 }).count =
      (s.func fn).arrived x := by
    unfold Func.arrived
    cases (s.func fn).rx.find? fun r => r.port == x.port && r.list == x.src % 65536 && r.xid == bits x.src 47 32 <;> rfl
  unfold State.takeData
  dsimp only
  rw [hcast, hpos]
  unfold Func.taken
  dsimp only
  rw [hpos]

theorem State.writeRanges_memOnly {s : State} (hclean : s.poison = []) (rs : List (Nat × Nat)) (bs : List Byte) :
    MemOnly s (s.writeRanges rs bs) := by
  have step : ∀ (rs : List (Nat × Nat)) (u : State) (bs : List Byte), MemOnly s u →
      MemOnly s (rs.foldl (fun (acc : State × List Byte) r => (acc.1.write r.1 (acc.2.take r.2), acc.2.drop r.2)) (u, bs)).1 := by
    intro rs
    induction rs with
    | nil => exact fun _ _ h => h
    | cons r rs ih => exact fun u bs h => ih _ _ (h.trans (u.write_memOnly (by rw [h]; exact hclean) _ _))
  exact step rs s bs (.refl s)

/-- The bytes that ranges hold after a write do not depend on anything but memory. -/
theorem State.writeRanges_mem {s t : State} (h : t.mem = s.mem) (rs : List (Nat × Nat)) (bs : List Byte) :
    (t.writeRanges rs bs).mem = (s.writeRanges rs bs).mem := by
  have step : ∀ (rs : List (Nat × Nat)) (s t : State) (bs : List Byte), t.mem = s.mem →
      (rs.foldl (fun (acc : State × List Byte) r => (acc.1.write r.1 (acc.2.take r.2), acc.2.drop r.2)) (t, bs)).1.mem =
      (rs.foldl (fun (acc : State × List Byte) r => (acc.1.write r.1 (acc.2.take r.2), acc.2.drop r.2)) (s, bs)).1.mem := by
    intro rs
    induction rs with
    | nil => exact fun _ _ _ h => h
    | cons r rs ih => exact fun s t bs h => ih _ _ _ (by simp only [State.write, h])
  exact step rs s t bs h

theorem State.placeBytes_clean {s : State} {fn : Nat} {x : Xfer} {rs : List (Nat × Nat)}
    (hends : s.endRanges fn x.dstSp x.dst x.dstBytes = some rs) (hclean : s.poison = []) (hon : (s.func fn).state = .on)
    (hun : Unwatched s) (l : XferList) (pos : Nat) (bs : List Byte) :
    s.placeBytes fn l x pos bs = s.writeRanges (subRanges rs pos bs.length) bs := by
  have hwrite : MemOnly s (s.writeRanges (subRanges rs pos bs.length) bs) := State.writeRanges_memOnly hclean _ _
  have hedges := State.edges_clean hclean (subRanges rs pos bs.length)
  unfold State.placeBytes
  rw [hends]
  dsimp only
  rw [hedges]
  show (if (s.func fn).state ≠ .on then s else _) = _
  rw [if_neg (not_not_intro hon)]
  have hun' : Unwatched (s.writeRanges (subRanges rs pos bs.length) bs) := by
    rw [Unwatched, hwrite]
    exact hun
  exact State.watch_unwatched hun' _ _ _ _ _

/-- What the ends of transfers do not depend on: ports, and of the function's record all but its table. -/
theorem State.endRanges_congr (s : State) {ports : Table Port} {fn : Nat} {f : Func} (hf : f.table = (s.func fn).table) (sp v n : Nat) :
    ({ s with ports := ports }.setFunc fn f).endRanges fn sp v n = s.endRanges fn sp v n := by
  have ht : (({ s with ports := ports }.setFunc fn f).func fn).table = (s.func fn).table := by rw [State.setFunc_func_self, hf]
  have hm : ({ s with ports := ports }.setFunc fn f).mapped fn v n = s.mapped fn v n := by simp only [State.mapped, ht]
  have hr : ({ s with ports := ports }.setFunc fn f).rangesVA fn v n = s.rangesVA fn v n := by
    simp only [State.rangesVA, State.translate, ht]
  unfold State.endRanges
  rw [hm, hr]
  rfl

/-- What a frame of a transfer without a cast leaves, on a port that has changed besides. -/
theorem State.takeData_placed {s : State} {ports : Table Port} {fn : Nat} {l : XferList} {x : Xfer} {rs : List (Nat × Nat)}
    (hcast : x.cast = none) (hends : s.endRanges fn x.dstSp x.dst x.dstBytes = some rs) (hclean : s.poison = [])
    (hon : (s.func fn).state = .on) (hun : Unwatched s) (payload : List Byte) :
    let t := { s with ports := ports }.takeData fn l x payload
    t.ports = ports ∧ t.mem = (s.writeRanges (subRanges rs ((s.func fn).arrived x % max 1 x.bytes) payload.length) payload).mem ∧
    (t.func fn).arrived x = (s.func fn).arrived x + payload.length ∧ (∀ j, j ≠ fn → t.func j = s.func j) ∧ t.errs = s.errs := by
  dsimp only
  obtain ⟨u, hu⟩ : ∃ u, u = { s with ports := ports }.setFunc fn ((s.func fn).taken x payload.length) := ⟨_, rfl⟩
  have hself : u.func fn = (s.func fn).taken x payload.length := by rw [hu, State.setFunc_func_self]
  have hplace : u.placeBytes fn l x ((s.func fn).arrived x % max 1 x.bytes) payload =
      u.writeRanges (subRanges rs ((s.func fn).arrived x % max 1 x.bytes) payload.length) payload :=
    State.placeBytes_clean (by rw [hu, s.endRanges_congr (by rfl), hends]) (by rw [hu]; exact hclean) (by rw [hself]; exact hon)
      (by rw [hu]; exact hun) l _ payload
  have hwrite := State.writeRanges_memOnly (s := u) (by rw [hu]; exact hclean)
    (subRanges rs ((s.func fn).arrived x % max 1 x.bytes) payload.length) payload
  have htake : { s with ports := ports }.takeData fn l x payload =
      u.writeRanges (subRanges rs ((s.func fn).arrived x % max 1 x.bytes) payload.length) payload := by
    rw [State.takeData_of_cast_none hcast]
    rw [hu] at hplace ⊢
    exact hplace
  rw [htake]
  have hfunc (j : Nat) : (u.writeRanges (subRanges rs ((s.func fn).arrived x % max 1 x.bytes) payload.length) payload).func j =
      u.func j := by rw [hwrite]; rfl
  refine ⟨by rw [hwrite, hu]; rfl, State.writeRanges_mem (by rw [hu]; rfl) _ _, ?_, fun j hj => ?_, by rw [hwrite, hu]; rfl⟩
  · rw [hfunc, hself, Func.taken_arrived]
  · rw [hfunc, hu]
    exact State.setFunc_func_ne _ _ _ _ hj

/-! ### Resending (R361, R363) -/

theorem State.sendRaw_eq (s : State) (p kind tc : Nat) (retx : Bool) (b : List Byte) : s.sendRaw p kind tc retx b =
    { s.setPort p { s.port p with nak := false } with out := .frame p kind tc ((s.port p).stamp retx b) :: s.out } := rfl

/-- Frames sent again, one after the other: they go out in order, and of the port only NAK changes. -/
theorem State.sendFrames_spec (p : Nat) (fs : List SentFrame) : ∀ s : State,
    let t := fs.foldl (fun (s : State) f => s.sendRaw p kDATA f.tc true f.bytes) s
    t = { s with ports := t.ports, out := t.out } ∧ (∀ j, j ≠ p → t.port j = s.port j) ∧
    t.port p = { s.port p with nak := (s.port p).nak && fs.isEmpty } ∧
    ∃ l : List Out, t.out = l.reverse ++ s.out ∧ l.length = fs.length ∧ ∀ (k : Nat) (f : SentFrame), fs[k]? = some f →
      ∃ y : Port, y.rxSeq = (s.port p).rxSeq ∧ l[k]? = some (Out.frame p kDATA f.tc (y.stamp true f.bytes)) := by
  induction fs with
  | nil => exact fun s => ⟨rfl, fun _ _ => rfl, by rw [List.isEmpty_nil, Bool.and_true]; rfl, [], rfl, rfl, fun k f h => by simp at h⟩
  | cons f fs ih =>
    intro s
    have hself : (s.sendRaw p kDATA f.tc true f.bytes).port p = { s.port p with nak := false } := s.setPort_port_self p _
    obtain ⟨hrest, hother, hport, l, hout, hlen, hframes⟩ := ih (s.sendRaw p kDATA f.tc true f.bytes)
    rw [List.foldl_cons]
    refine ⟨?_, fun j hj => (hother j hj).trans (s.setPort_port_ne p _ j hj), ?_,
      Out.frame p kDATA f.tc ((s.port p).stamp true f.bytes) :: l, ?_, by rw [List.length_cons, hlen, List.length_cons], fun k g hk => ?_⟩
    · rw [hrest]
      rfl
    · rw [hport, hself, List.isEmpty_cons, Bool.and_false]
      rfl
    · rw [hout, List.reverse_cons, List.append_assoc]
      rfl
    · cases k with
      | zero =>
        obtain rfl : f = g := by simpa using hk
        exact ⟨s.port p, rfl, rfl⟩
      | succ k =>
        obtain ⟨y, hy, hl⟩ := hframes k g (by simpa using hk)
        exact ⟨y, by rw [hy, hself], by simpa using hl⟩

/-- The port whose unacknowledged frames are about to go out again: the resends are counted, and an episode runs. -/
def Port.resending (x : Port) : Port :=
  { x with
    resent := satAdd 32 x.resent x.replay.length
    episode := some ((x.episode.map Prod.fst).getD 0 + BitVec.ofNat 32 x.replay.length, x.nextSeq) }

theorem State.resend_eq {s : State} {p : Nat} (h : (s.port p).replay ≠ []) : s.resend p =
    (s.port p).replay.foldl (fun (s : State) f => s.sendRaw p kDATA f.tc true f.bytes) (s.setPort p (s.port p).resending) := by
  unfold State.resend
  dsimp only
  rw [if_neg (by simpa using h)]
  rfl

/-! ### Lanes (R364) -/

theorem State.not_switched_of_herd {s : State} {p : Nat} (hherd : s.isHerdPort p = true) : s.isSwitched p = false := by
  unfold State.isHerdPort at hherd
  unfold State.isSwitched
  cases hr : s.role p with
  | none => rfl
  | some r =>
    rw [hr] at hherd
    have hlt : r < 6 := by simpa using hherd
    simp [hlt]

section
variable {s : State} {p lane g : Nat} (hherd : s.isHerdPort p = true) (hup : (s.port p).state = .up)
  (hg : cleanGroup s.portLanes (s.port p).width (s.port p).failedLanes = some g) (hlo : g * (s.port p).width ≤ lane)
  (hhi : lane < (g + 1) * (s.port p).width)
include hherd hup hg hlo hhi

theorem exec_laneShed :
    let x := s.port p
    let failed := x.failedLanes ||| BitVec.ofNat 4 (2 ^ lane)
    let w := max 1 (x.width / 2)
    exec (.laneShed p lane) s = .next (match cleanGroup s.portLanes w failed with
      | none => (s.setPort p { x with failedLanes := failed, width := 0 }).failLink p
      | some _ => (s.setPort p { x with failedLanes := failed, width := w, sheds := satAdd 16 x.sheds 1 }).report
          { code := eLaneShed, cls := clsRecovered, unit := p, a := w, b := failed.toNat }) := by
  show execLaneShed p lane s = _
  rw [execLaneShed, if_neg (by simp [State.isPort_of_herd hherd])]
  dsimp only
  rw [hg, if_neg (by simp [hup, hlo, hhi]), if_neg (by simp [State.not_switched_of_herd hherd])]
  cases cleanGroup s.portLanes (max 1 ((s.port p).width / 2)) ((s.port p).failedLanes ||| BitVec.ofNat 4 (2 ^ lane)) <;> rfl

end

/-! ### The obligation -/

theorem exec_dataFrameReceive_taken {s : State} {p : Nat} {frame : Frame} {h : HerdHdr} (hherd : s.isHerdPort p = true)
    (hup : (s.port p).state = .up) (hfate : s.frameFate p frame = .take h) (hkind : h.kind = kDATA)
    (hack : s.takeAck p h = s.setPort p (s.port p)) : exec (.dataFrameReceive p frame) s = .next (
      let u := s.setPort p (s.port p)
      if h.seq ≠ (s.port p).rxSeq then u.setNak p
      else match (s.image h.fn).receiver p h.list h.xid with
        | none => (u.countErrFrame p).setNak p
        | some (l, x) =>
          if frame.body.length < 16 + (s.func h.fn).nextFrame x then (u.countErrFrame p).setNak p
          else
            let v := u.setPort p { s.port p with rxSeq := h.seq + 1 }
            if (s.func h.fn).state = .on then v.takeData h.fn l x ((frame.body.drop 16).take ((s.func h.fn).nextFrame x)) else v) := by
  show execDataFrameReceive p frame s = _
  rw [execDataFrameReceive, if_neg (by simp [hherd]), if_neg (not_not_intro hup), hfate]
  dsimp only
  rw [if_neg (not_not_intro hkind), hack, State.setPort_port_self]
  split
  · rfl
  · cases hr : (s.image h.fn).receiver p h.list h.xid with
    | none =>
      rw [show ((s.setPort p (s.port p)).image h.fn).receiver p h.list h.xid = none from hr]
    | some lx =>
      rw [show ((s.setPort p (s.port p)).image h.fn).receiver p h.list h.xid = some lx from hr]
      dsimp only
      rw [show (s.setPort p (s.port p)).func h.fn = s.func h.fn from rfl]
      split <;> rfl

/-- Settles O48: an idle link takes its ACK as it is, and the rest is what `takeData`, `resend` and `failLink` leave. -/
theorem herdLinkFrames : Obligations.HerdLinkFrames := by
  intro s p frame hherd x hup
  have frameExec : exec (.dataFrameReceive p frame) s = execDataFrameReceive p frame s := rfl
  rw [execDataFrameReceive, if_neg (by simp [hherd]), if_neg (not_not_intro hup)] at frameExec
  refine ⟨fun hfate => ?drop, fun hfate => ?error, fun h hfate hkind hnak hreplay hunsent hep hack => ⟨fun hseq => ?nak, ?taken⟩,
    fun hreplay => ?resent, fun hep hnbr => ?episode, fun lane g hg hlo hhi => ⟨fun hclean => ?shed, fun hnone hnbr => ?last⟩⟩
  case drop =>
    rw [hfate] at frameExec
    exact ⟨_, frameExec, s.setPort_onlyPort p _, s.setPort_port_self p _⟩
  case error =>
    rw [hfate] at frameExec
    refine ⟨_, frameExec, (s.setPort_onlyPort p _).trans (State.setPort_onlyPort _ p _), ?_⟩
    rw [State.setNak, State.setPort_port_self, State.countErrFrame, State.setPort_port_self]
  case nak =>
    refine ⟨_, exec_dataFrameReceive_taken hherd hup hfate hkind (State.takeAck_idle hnak hreplay hunsent hep hack), ?_⟩
    dsimp only
    rw [if_pos hseq, State.setNak, State.setPort_port_self]
    exact ⟨(s.setPort_onlyPort p _).trans (State.setPort_onlyPort _ p _), State.setPort_port_self _ _ _⟩
  case taken =>
    intro l xf rs hseq hrecv hon hcast hends hclean hun n pos hlen
    refine ⟨_, exec_dataFrameReceive_taken hherd hup hfate hkind (State.takeAck_idle hnak hreplay hunsent hep hack), ?_⟩
    dsimp only
    rw [if_neg (not_not_intro hseq), hrecv]
    dsimp only
    rw [if_neg (by omega), if_pos hon]
    have hpay : ((frame.body.drop 16).take n).length = n := by
      rw [List.length_take, List.length_drop]
      omega
    obtain ⟨hports, hmem, harr, hother, herrs⟩ := State.takeData_placed (s := s) (l := l)
      (ports := ((s.setPort p x).setPort p { x with rxSeq := h.seq + 1 }).ports) hcast hends hclean hon hun ((frame.body.drop 16).take n)
    rw [hpay] at hmem harr
    refine ⟨?_, fun j hj => ?_, hmem, harr, hother, herrs⟩
    · exact (State.port_of_ports (s := (s.setPort p x).setPort p { x with rxSeq := h.seq + 1 }) hports p).trans (State.setPort_port_self _ _ _)
    · exact (State.port_of_ports (s := (s.setPort p x).setPort p { x with rxSeq := h.seq + 1 }) hports j).trans
        ((State.setPort_port_ne _ _ _ _ hj).trans (State.setPort_port_ne _ _ _ _ hj))
  case resent =>
    have hexec : exec (.retransmitTimeout p) s = .next (s.resend p) := by
      show execRetransmitTimeout p s = _
      rw [execRetransmitTimeout, if_neg (by simp [hherd]), if_neg]
      rintro (h | h)
      · exact hreplay (List.isEmpty_iff.mp h)
      · exact h hup
    have hself := s.setPort_port_self p x.resending
    obtain ⟨hrest, hother, hport, l, hout, hlen, hframes⟩ := State.sendFrames_spec p x.replay (s.setPort p x.resending)
    rw [← State.resend_eq hreplay] at hrest hother hport hout
    rw [hself] at hport hframes
    refine ⟨_, hexec, ?_, fun j hj => (hother j hj).trans (s.setPort_port_ne p _ j hj), by rw [hport]; rfl, by rw [hport]; rfl,
      by rw [hport]; rfl, ?_, l, hout, hlen, hframes⟩
    · rw [hrest]
      rfl
    · rw [hport, List.isEmpty_eq_false_iff.mpr hreplay]
      exact Bool.and_false _
  case episode =>
    have hexec : exec (.retxEpisodeTimeout p) s = .next (s.failLink p) := by
      show execRetxEpisodeTimeout p s = _
      rw [execRetxEpisodeTimeout, if_neg (by simp [hherd]), if_neg]
      rintro (h | h)
      · rw [Option.isNone_iff_eq_none.mp h] at hep
        cases hep
      · exact h hup
    have hfail := State.failLink_failed hnbr
    refine ⟨_, hexec, by rw [hfail.port], by rw [hfail.nbr], hfail.recorded, hfail.host, fun fn hfn hon hrun => ?_⟩
    exact hfail.draining fn hfn (Func.hasJob hon (.inl hrun))
  case shed =>
    obtain ⟨k, hk⟩ := Option.isSome_iff_exists.mp hclean
    refine ⟨_, exec_laneShed hherd hup hg hlo hhi, ?_⟩
    dsimp only
    rw [hk]
    refine ⟨rfl, fun j hj => s.setPort_port_ne p _ j hj, s.setPort_port_self p _, State.report_recorded _ _⟩
  case last =>
    refine ⟨_, exec_laneShed hherd hup hg hlo hhi, ?_⟩
    dsimp only
    rw [hnone]
    have hfail := State.failLink_failed (s := s.setPort p { x with
      failedLanes := x.failedLanes ||| BitVec.ofNat 4 (2 ^ lane), width := 0 }) (p := p) hnbr
    refine ⟨by rw [hfail.port], ?_, hfail.recorded⟩
    rw [hfail.port, State.setPort_port_self]

end Sys2Proof.Machine
end

section
/-! Larwa links, host resets and bus ports (O54). -/
namespace Sys2Proof.Machine

/-- A step of a fold that turns what held so far into what it establishes, both kept by every other step. -/
theorem foldl_reaches_once {α β : Type} {f : α → β → α} {Q P : α → Prop} {b : β} (hself : ∀ a, Q a → P (f a b))
    (hQ : ∀ a c, c ≠ b → Q a → Q (f a c)) (hP : ∀ a c, P a → P (f a c)) {l : List β} (hb : b ∈ l) :
    ∀ {a : α}, Q a → P (l.foldl f a) := by
  induction l with
  | nil => cases hb
  | cons c l ih =>
    intro a ha
    rw [List.foldl_cons]
    by_cases hc : c = b
    · subst hc
      exact List.foldlRecOn (motive := P) l f (hself a ha) fun a ha d _ => hP a d ha
    · exact ih (List.mem_of_ne_of_mem (Ne.symm hc) hb) (hQ a c hc ha)

/-! ### Ledger groups (R321) -/

/-- Nothing but functions' records and memory has changed, and every function stands in the state it had. -/
def LedgerOnly (s t : State) : Prop :=
  t = { s with funcs := t.funcs, mem := t.mem, poison := t.poison } ∧ ∀ n, (t.func n).state = (s.func n).state

theorem LedgerOnly.refl (s : State) : LedgerOnly s s := ⟨rfl, fun _ => rfl⟩

theorem LedgerOnly.trans {s t u : State} (h : LedgerOnly s t) (k : LedgerOnly t u) : LedgerOnly s u :=
  ⟨by rw [k.1, h.1], fun n => (k.2 n).trans (h.2 n)⟩

theorem LedgerOnly.foldl {β : Type} {f : State → β → State} (h : ∀ s b, LedgerOnly s (f s b)) (l : List β) (s : State) :
    LedgerOnly s (l.foldl f s) :=
  List.foldlRecOn (motive := LedgerOnly s) l f (.refl s) fun t ht b _ => ht.trans (h t b)

theorem State.setFunc_ledgerOnly (s : State) (fn : Nat) (f : Func) (hf : f.state = (s.func fn).state) : LedgerOnly s (s.setFunc fn f) := by
  refine ⟨rfl, fun n => ?_⟩
  rw [State.setFunc_func]
  split
  next h => rw [hf, h]
  next => rfl

theorem State.writeVA_ledgerOnly (s : State) (fn va : Nat) (bs : List Byte) : LedgerOnly s (s.writeVA fn va bs) := by
  refine .foldl (fun s p => ?_) _ s
  dsimp only
  split
  · exact ⟨rfl, fun _ => rfl⟩
  · exact .refl s

theorem State.appendLedger_ledgerOnly (s : State) (fn : Nat) (recs : List (List Byte)) : LedgerOnly s (s.appendLedger fn recs) := by
  unfold State.appendLedger
  dsimp only
  split
  · exact s.setFunc_ledgerOnly fn _ rfl
  · split
    · exact s.setFunc_ledgerOnly fn _ rfl
    · exact (LedgerOnly.foldl (fun s (r, k) => s.writeVA_ledgerOnly fn _ r) _ s).trans (State.setFunc_ledgerOnly _ fn _ rfl)

theorem State.flushLedger_ledgerOnly (s : State) (fn : Nat) : LedgerOnly s (s.flushLedger fn) :=
  (s.setFunc_ledgerOnly fn { s.func fn with ledgerWait := [] } rfl).trans (.foldl (fun s g => s.appendLedger_ledgerOnly fn g) _ _)

/-- A function without a group that waits writes none. -/
theorem State.flushLedger_of_nil {s : State} {fn : Nat} (h : (s.func fn).ledgerWait = []) :
    s.flushLedger fn = s.onFunc fn fun f => { f with ledgerWait := [] } := by
  rw [State.flushLedger, h]
  rfl

/-! ### What a flush leaves -/

/-- What waited for a link has gone on: completions and ledger groups are written, and nothing else has changed. -/
structure Flushed (s t : State) : Prop where
  rest : t = { s with funcs := t.funcs, mem := t.mem, poison := t.poison, queues := t.queues, out := t.out }
  state : ∀ n, (t.func n).state = (s.func n).state
  parked : ParkedKept s t
  host : NoGroups s → NoGroups t ∧ HostOnly s t

theorem Flushed.refl (s : State) : Flushed s s := ⟨rfl, fun _ => rfl, .refl s, fun h => ⟨h, fun _ _ => rfl⟩⟩

theorem Flushed.trans {s t u : State} (h : Flushed s t) (k : Flushed t u) : Flushed s u where
  rest := by rw [k.rest, h.rest]
  state n := (k.state n).trans (h.state n)
  parked := h.parked.trans k.parked
  host hg :=
    have ⟨ht, hst⟩ := h.host hg
    have ⟨hu, htu⟩ := k.host ht
    ⟨hu, fun z hz => (htu z hz).trans (hst z hz)⟩

theorem Flushed.foldl {β : Type} {f : State → β → State} {l : List β} (h : ∀ s, ∀ b ∈ l, Flushed s (f s b)) (s : State) :
    Flushed s (l.foldl f s) :=
  List.foldlRecOn (motive := Flushed s) l f (.refl s) fun t ht b hb => ht.trans (h t b hb)

theorem Flushed.larwa {s t : State} (h : Flushed s t) : t.larwa = s.larwa := by rw [h.rest]
theorem Flushed.errs {s t : State} (h : Flushed s t) : t.errs = s.errs := by rw [h.rest]
theorem Flushed.lwl {s t : State} (h : Flushed s t) (j : Nat) : t.lwl j = s.lwl j := by rw [h.rest]; rfl

theorem Flushed.recorded {s t : State} (h : Flushed s t) {code cls : Nat} {fn : Option Nat} (hr : Recorded s code cls fn) :
    Recorded t code cls fn := by
  unfold Recorded at hr ⊢
  rwa [h.errs]

theorem State.flushLedger_flushed (s : State) {fn : Nat} (hfn : fn < 16) : Flushed s (s.flushLedger fn) := by
  have hledger := s.flushLedger_ledgerOnly fn
  refine ⟨by rw [hledger.1], hledger.2, .of_queues (by rw [hledger.1]), fun hg => ?_⟩
  rw [State.flushLedger_of_nil (hg fn hfn)]
  refine ⟨fun n hn => ?_, fun _ _ => rfl⟩
  rw [State.onFunc, State.setFunc_func]
  split
  · rfl
  · exact hg n hn

theorem State.flushLedgers_flushed (s : State) : Flushed s s.flushLedgers :=
  .foldl (fun s _ hn => s.flushLedger_flushed (List.mem_range.mp hn)) s

theorem CplOnly.flushed {s t : State} (h : CplOnly s t) (hp : ParkedKept s t) : Flushed s t := by
  refine ⟨?_, fun n => by rw [h.func], hp, fun hg => ⟨fun n hn => by rw [h.func, hg n hn], h.2⟩⟩
  rw [h.1]

theorem State.flushAll_flushed (s : State) : Flushed s s.flushAll := by
  refine .trans (.foldl (fun s q _ => ?_) s) (State.flushLedgers_flushed _)
  exact ((s.flushQueue_cpl q).trans (State.settleDestroy_cpl _ q)).flushed
    ((s.flushQueue_parkedKept q).trans (State.settleDestroy_parkedKept _ q))

/-! ### Host resets (R341, R342) -/

/-- What of a function a host reset leaves, before it drains any. -/
def Func.hostView (f : Func) : FState × Table Pte × List (List (List Byte)) := (f.state, f.table, f.ledgerWait)

/-- The module at a host reset, before any function drains: the next link epoch, every queue off IDLE halted, and nothing of the
old epoch waiting. -/
def State.hostHalted (s : State) : State :=
  let u : State := { s with larwa := { s.larwa with epoch := s.larwa.epoch + 1 }, errs := { s.errs with arm := false } }
  funcIds.foldl (fun (s : State) n => s.onFunc n fun f => { f with pending := none, pendingCmds := [] })
    ((u.dropCmds fun _ => true).onQueues fun _ q => q.hostReset)

/-- The functions that a host reset drains. -/
def State.hostLost (s : State) : List Nat :=
  funcIds.filter fun n => (s.func n).state == .enabling || ((s.func n).state == .on && (s.func n).deviceBias)

/-- The record of a host reset, which says which functions it drains. -/
def State.epochReport (s : State) (old : W32) (cause : Nat) : Report :=
  { code := eLinkEpoch, cls := if s.hostLost.any fun n => (s.func n).run || (s.func n).armed then clsFunction else clsNotice
    a := pair old.toNat (old + 1).toNat, b := cause, c := (s.hostLost.map fun n => 2 ^ n).sum }

theorem State.hostReset_eq (s : State) (cause : Nat) : s.hostReset cause =
    (s.hostHalted.hostLost.foldl (fun s n => s.drain n) s.hostHalted).flushLedgers.report
      (s.hostHalted.epochReport s.larwa.epoch cause) := by
  unfold State.hostReset State.epochReport State.hostLost State.hostHalted
  rfl

theorem State.epochReport_cls (s : State) (old : W32) (cause : Nat) :
    (s.epochReport old cause).cls = clsNotice ∨ (s.epochReport old cause).cls = clsFunction := by
  unfold State.epochReport
  split
  · exact .inr rfl
  · exact .inl rfl

theorem State.onQueues_keeps {γ : Type} (g : State → γ) (hg : ∀ (s : State) n q, g (s.setQueue n q) = g s) (s : State)
    (f : Nat → Queue → Queue) : g (s.onQueues f) = g s := foldl_keeps g (fun s n => hg s n _) _ s

/-- Dropping commands leaves all but what waits for them. -/
theorem State.dropCmds_host (s : State) (p : Nat → Bool) : (s.dropCmds p).larwa = s.larwa ∧ (s.dropCmds p).errs = s.errs ∧
    (s.dropCmds p).mem = s.mem ∧ (s.dropCmds p).hubs = s.hubs ∧ (∀ n, ((s.dropCmds p).func n).hostView = (s.func n).hostView) ∧
    ∀ n, ((s.dropCmds p).queue n).state = (s.queue n).state := by
  have hkeep {γ : Type} (g : State → γ) (himg : ∀ (s : State) w, g { s with imgWait := w } = g s)
      (hqueue : ∀ (s : State) n q, g (s.setQueue n q) = g s)
      (hfunc : ∀ (s : State) n f, f.hostView = (s.func n).hostView → g (s.setFunc n f) = g s) : g (s.dropCmds p) = g s := by
    unfold State.dropCmds
    rw [himg, State.onQueues_keeps g hqueue]
    exact foldl_keeps g (fun s n => by exact hfunc s n _ rfl) _ s
  refine ⟨hkeep State.larwa (by intros; rfl) (by intros; rfl) (by intros; rfl), hkeep State.errs (by intros; rfl) (by intros; rfl) (by intros; rfl),
    hkeep State.mem (by intros; rfl) (by intros; rfl) (by intros; rfl), hkeep State.hubs (by intros; rfl) (by intros; rfl) (by intros; rfl),
    fun n => hkeep (fun s => (s.func n).hostView) (by intros; rfl) (by intros; rfl) fun s k f hf => ?_, fun n => ?_⟩
  · rw [State.setFunc_func]
    split
    next h => rw [hf, h]
    next => rfl
  · refine (foldl_keeps (fun s : State => (s.queue n).state) (fun s k => ?_) _ _).trans
      (foldl_keeps (fun s : State => (s.queue n).state) (by intros; rfl) funcIds s)
    rw [State.onQueue, State.setQueue_queue]
    split
    next h => rw [h]
    next => rfl

theorem Queue.hostReset_parked {q : Queue} (h : q.state ≠ .idle) : q.hostReset.Parked ∧ q.hostReset.state = .haltedHost := by
  rw [Queue.hostReset, if_neg h]
  exact ⟨⟨.inr rfl, rfl, rfl⟩, rfl⟩

theorem State.onQueues_hostReset {s : State} {n : Nat} (h : (s.queue n).state ≠ .idle) :
    ((s.onQueues fun _ q => q.hostReset).queue n).Parked ∧ ((s.onQueues fun _ q => q.hostReset).queue n).state = .haltedHost := by
  have hmem : n ∈ tkeys s.queues := by
    refine mem_tkeys_of_tget_ne (d := {}) fun heq => h ?_
    rw [State.queue, heq]
  have hkeep {P : Queue → Prop} (hP : ∀ q, P q → P q.hostReset) (t : State) (k : Nat) (ht : P (t.queue n)) :
      P ((t.onQueue k Queue.hostReset).queue n) := by
    rw [State.onQueue, State.setQueue_queue]
    split
    next hk => exact hP _ (hk ▸ ht)
    next => exact ht
  refine foldl_reaches_once (Q := fun t : State => (t.queue n).state ≠ .idle)
    (P := fun t : State => (t.queue n).Parked ∧ (t.queue n).state = .haltedHost) (fun t ht => ?_) (fun t k _ ht => ?_) (fun t k ht => ?_)
    hmem h
  · rw [State.onQueue_self]
    exact Queue.hostReset_parked ht
  · exact hkeep (P := fun q => q.state ≠ .idle) (fun q hq => by rw [(Queue.hostReset_parked hq).2]; decide) t k ht
  · exact hkeep (P := fun q => q.Parked ∧ q.state = .haltedHost) (fun q hq => Queue.hostReset_parked (by rw [hq.2]; decide)) t k ht

/-- What the state before the drains has of the state before the host reset. -/
structure HostHalted (s t : State) : Prop where
  larwa : t.larwa = { s.larwa with epoch := s.larwa.epoch + 1 }
  errs : t.errs = { s.errs with arm := false }
  mem : t.mem = s.mem
  hubs : t.hubs = s.hubs
  func : ∀ n, (t.func n).hostView = (s.func n).hostView
  queue : ∀ n, (s.queue n).state ≠ .idle → (t.queue n).Parked ∧ (t.queue n).state = .haltedHost

theorem State.hostHalted_halted (s : State) : HostHalted s s.hostHalted := by
  obtain ⟨u, hu⟩ : ∃ u : State, u = { s with
    larwa := { s.larwa with epoch := s.larwa.epoch + 1 }, errs := { s.errs with arm := false } } := ⟨_, rfl⟩
  obtain ⟨v, hv⟩ : ∃ v, v = u.dropCmds fun _ => true := ⟨_, rfl⟩
  have heq : s.hostHalted = funcIds.foldl (fun (s : State) n => s.onFunc n fun f => { f with pending := none, pendingCmds := [] })
      (v.onQueues fun _ q => q.hostReset) := by rw [hv, hu]; rfl
  have hkeep {γ : Type} (g : State → γ) (hfunc : ∀ (s : State) n, g (s.onFunc n fun f => { f with pending := none, pendingCmds := [] }) = g s)
      (hqueue : ∀ (s : State) n q, g (s.setQueue n q) = g s) : g s.hostHalted = g v := by
    rw [heq, foldl_keeps g hfunc, State.onQueues_keeps g hqueue]
  obtain ⟨hlarwa, herrs, hmem, hhubs, hfuncs, hqueues⟩ := u.dropCmds_host fun _ => true
  rw [← hv] at hlarwa herrs hmem hhubs hfuncs hqueues
  refine ⟨?_, ?_, ?_, ?_, fun n => ?_, fun n hn => ?_⟩
  · rw [hkeep State.larwa (by intros; rfl) (by intros; rfl), hlarwa, hu]
  · rw [hkeep State.errs (by intros; rfl) (by intros; rfl), herrs, hu]
  · rw [hkeep State.mem (by intros; rfl) (by intros; rfl), hmem, hu]
  · rw [hkeep State.hubs (by intros; rfl) (by intros; rfl), hhubs, hu]
  · rw [hkeep (fun s => (s.func n).hostView) (fun s k => ?_) (by intros; rfl), hfuncs, hu]
    · rfl
    · rw [State.onFunc, State.setFunc_func]
      split
      next h => rw [h]; rfl
      next => rfl
  · have hv' : (v.queue n).state ≠ .idle := by
      rw [hqueues, hu]
      exact hn
    have hstays : s.hostHalted.queue n = (v.onQueues fun _ q => q.hostReset).queue n := by
      rw [heq]
      exact foldl_keeps (fun s : State => s.queue n) (by intros; rfl) _ _
    rw [hstays]
    exact State.onQueues_hostReset hv'

/-- A host reset, and what of it a later flush relies on: every halted queue stays parked, and the record is no older than one. -/
structure ResetDone (s t : State) : Prop where
  reset : HostReset s t
  parked : ∀ n, (s.queue n).state ≠ .idle → (t.queue n).Parked
  groups : NoGroups s → NoGroups t
  links : LinksKept s t
  reports : Reports 1 s t

theorem Reports.of_held {s t : State} (h : t.errs.held = s.errs.held) : Reports 0 s t := by
  rintro k code cls fn - hr
  unfold RecordedWithin at hr ⊢
  rwa [h]

theorem Errors.count_arm (e : Errors) (p : Report) : (e.count p).arm = e.arm := by
  unfold Errors.count
  split
  · rfl
  · split <;> rfl

theorem State.report_arm (s : State) (p : Report) : (s.report p).errs.arm = s.errs.arm := by
  unfold State.report Errors.hold
  dsimp only
  rw [Errors.count_arm]
  split <;> rfl

theorem Stops.noGroups {n : Nat} {s t : State} (h : Stops n s t) (hg : NoGroups s) : NoGroups t := by
  intro k hk
  rcases h.func k with heq | ⟨-, hwait⟩
  · rw [heq, hg k hk]
  · rw [hwait, hg k hk]

theorem HostHalted.state {s t : State} (h : HostHalted s t) (n : Nat) : (t.func n).state = (s.func n).state :=
  congrArg Prod.fst (h.func n)

theorem HostHalted.deviceBias {s t : State} (h : HostHalted s t) (n : Nat) : (t.func n).deviceBias = (s.func n).deviceBias :=
  congrArg (fun x : FState × Table Pte × List (List (List Byte)) =>
    x.2.1.any fun e => e.2.valid && e.2.companion && !e.2.bias) (h.func n)

theorem HostHalted.noGroups {s t : State} (h : HostHalted s t) (hg : NoGroups s) : NoGroups t :=
  fun n hn => (congrArg (fun x : FState × Table Pte × List (List (List Byte)) => x.2.2) (h.func n)).trans (hg n hn)

theorem State.mem_hostLost {s : State} {n : Nat} (hn : n < 16)
    (h : (s.func n).state = .enabling ∨ (s.func n).state = .on ∧ (s.func n).deviceBias = true) : n ∈ s.hostLost := by
  refine List.mem_filter.mpr ⟨mem_funcIds hn, ?_⟩
  rcases h with h | ⟨h, hb⟩
  · simp [h]
  · simp [h, hb]

theorem HostHalted.draining {s t : State} (ht : HostHalted s t) {n : Nat} (hn : n < 16)
    (h : (s.func n).state = .enabling ∨ (s.func n).state = .on ∧ (s.func n).deviceBias = true) :
    ((t.hostLost.foldl (fun s n => s.drain n) t).func n).state = .draining := by
  rw [← ht.state, ← ht.deviceBias] at h
  refine Stops.foldl_draining (fun s n => s.drain_stops n) (P := fun f => f.state = .on ∨ f.state = .enabling)
    (fun s hs => s.drain_state n hs) (State.mem_hostLost hn h) _ ?_
  exact h.symm.imp_left And.left

theorem State.drainEach_errs (s : State) (fs : List Nat) : (fs.foldl (fun s n => s.drain n) s).errs = s.errs :=
  foldl_keeps State.errs (fun s n => by rw [(s.drain_job n).1]) fs s

/-- A host reset from the state before its drains: they take place, waiting groups are dropped or written, and a record is made. -/
theorem HostHalted.done {s t u v w : State} (ht : HostHalted s t) (hu : u = t.hostLost.foldl (fun s n => s.drain n) t)
    (hv : Flushed u v) {p : Report} (hw : w = v.report p) (hcode : p.code = eLinkEpoch) (hfunc : p.func = none)
    (hcls : p.cls = clsNotice ∨ p.cls = clsFunction) : ResetDone s w := by
  have hstops : Stops 0 t u := hu ▸ t.drainEach_stops _
  have hrec := State.report_recorded v p
  rw [hcode, hfunc, ← hw] at hrec
  have hqueue (n : Nat) : w.queue n = v.queue n := by rw [hw]; rfl
  have hpark (n : Nat) (hn : (s.queue n).state ≠ .idle) : (w.queue n).Parked ∧ (w.queue n).state = .haltedHost := by
    obtain ⟨hparked, hstate⟩ := ht.queue n hn
    obtain ⟨hparked, hstate'⟩ := (hstops.parked.trans hv.parked) n hparked
    rw [hqueue]
    exact ⟨hparked, hstate'.trans hstate⟩
  have hgroups (hg : NoGroups s) := hv.host (hstops.noGroups (ht.noGroups hg))
  have hfuncs (n : Nat) : w.func n = v.func n := by rw [hw]; rfl
  refine ⟨⟨?epoch, ?arm, fun hg z hz => ?host, fun n hn => (hpark n hn).2, ?recorded, fun n hn h => ?draining⟩,
    fun n hn => (hpark n hn).1, fun hg n hn => ?groups, fun h => ?links, ?reports⟩
  case epoch =>
    have hlarwa : w.larwa = v.larwa := by rw [hw]; rfl
    rw [hlarwa, hv.larwa, hstops.larwa_eq, ht.larwa]
  case arm => rw [hw, State.report_arm, hv.errs, hu, State.drainEach_errs, ht.errs]
  case host =>
    have hmem : w.byte z = v.byte z := by rw [hw]; rfl
    rw [hmem, (hgroups hg).2 z hz, hstops.host z hz, State.byte, ht.mem, State.byte]
  case recorded =>
    rcases hcls with h | h
    · exact .inl (by rwa [h] at hrec)
    · exact .inr (by rwa [h] at hrec)
  case draining =>
    rw [hfuncs, hv.state, hu]
    exact ht.draining hn h
  case groups =>
    rw [hfuncs]
    exact (hgroups hg).1 n hn
  case links =>
    have h1 : w.hub h = u.hub h := by rw [hw, hv.rest]; rfl
    have h2 : t.hub h = s.hub h := by rw [State.hub, ht.hubs, State.hub]
    rw [h1, hstops.links, h2]
  case reports =>
    have h1 : Reports 0 s t := .of_held (by rw [ht.errs])
    exact ((h1.trans hstops.reports).trans (.of_errs hv.errs)).trans (hw ▸ State.report_reports v p)

theorem State.hostReset_done (s : State) (cause : Nat) : ResetDone s (s.hostReset cause) :=
  s.hostHalted_halted.done rfl (State.flushLedgers_flushed _) (s.hostReset_eq cause) rfl rfl (State.epochReport_cls _ _ _)

/-- What a flush after a host reset leaves of it. -/
theorem ResetDone.flushed {s t u : State} (h : ResetDone s t) (k : Flushed t u) : HostReset s u := by
  obtain ⟨hepoch, harm, hhost, hqueues, hrec, hdrain⟩ := h.reset
  refine ⟨by rw [k.larwa, hepoch], by rw [k.errs, harm], fun hg z hz => ?_, fun q hq => ?_, ?_, fun n hn hbusy => ?_⟩
  · rw [(k.host (h.groups hg)).2 z hz, hhost hg z hz]
  · rw [(k.parked q (h.parked q hq)).2, hqueues q hq]
  · exact hrec.imp k.recorded k.recorded
  · rw [k.state, hdrain n hn hbusy]

/-- What a host reset says of the state before it: its epoch, queues, functions and memory. -/
theorem HostReset.of_kept {s u t : State} (h : HostReset u t) (hlarwa : u.larwa.epoch = s.larwa.epoch) (hqueues : u.queues = s.queues)
    (hfuncs : u.funcs = s.funcs) (hmem : u.mem = s.mem) : HostReset s t := by
  obtain ⟨hepoch, harm, hhost, hhalted, hrec, hdrain⟩ := h
  have hq (n : Nat) : u.queue n = s.queue n := by rw [State.queue, hqueues, State.queue]
  have hf (n : Nat) : u.func n = s.func n := by rw [State.func, hfuncs, State.func]
  refine ⟨by rw [hepoch, hlarwa], harm, fun hg z hz => ?_, fun q hn => hhalted q (by rwa [hq]), hrec,
    fun n hn hbusy => hdrain n hn (by rwa [hf])⟩
  have hg' : NoGroups u := fun n hn => by rw [hf, hg n hn]
  rw [hhost hg' z hz, State.byte, hmem, State.byte]

/-! ### Links that train (R320, R321) -/

theorem State.seeEpoch_same {s : State} {epoch : Nat} (h : s.larwa.hostEpoch = none ∨ s.larwa.hostEpoch = some epoch) :
    s.seeEpoch epoch = { s with larwa := { s.larwa with hostEpoch := some epoch } } := by
  unfold State.seeEpoch
  rcases h with h | h <;> simp [h]

theorem State.seeEpoch_other {s : State} {epoch : Nat} (h : ¬(s.larwa.hostEpoch = none ∨ s.larwa.hostEpoch = some epoch)) :
    s.seeEpoch epoch = State.hostReset { s with larwa := { s.larwa with hostEpoch := some epoch } } 1 := by
  unfold State.seeEpoch
  dsimp only
  rw [if_pos]
  cases he : s.larwa.hostEpoch with
  | none => exact absurd (.inl he) h
  | some e =>
    have hne : e ≠ epoch := fun heq => h (.inr (heq ▸ he))
    simpa using hne

section
variable {s : State} {hub : Nat} {a b c : LaneTest} {epoch : Nat} (hfit : s.hubFitted hub = true) (hrun : s.boot.supply = .running)
  (hl : (s.lwl hub).state = .down ∨ (s.lwl hub).state = .training)
include hfit hrun hl

theorem exec_lwlTrain_none (hr : trainLanes a b c = none) : exec (.lwlTrain hub a b c epoch) s =
    .next (s.setLwl hub { s.lwl hub with state := .down, width := 0 }) := by
  show execLwlTrain hub a b c epoch s = _
  rw [execLwlTrain, if_neg (by simp [hfit])]
  dsimp only
  rw [if_neg (by rintro (h | ⟨hd, ht⟩); exacts [h hrun, hl.elim hd ht]), hr]

theorem exec_lwlTrain_some {r : Trained} (hr : trainLanes a b c = some r) : exec (.lwlTrain hub a b c epoch) s =
    .next ((s.setLwl hub ((s.lwl hub).train r)).seeEpoch epoch).flushAll := by
  show execLwlTrain hub a b c epoch s = _
  rw [execLwlTrain, if_neg (by simp [hfit])]
  dsimp only
  rw [if_neg (by rintro (h | ⟨hd, ht⟩); exacts [h hrun, hl.elim hd ht]), hr]

end

theorem State.setLwl_lwl (s : State) (hub : Nat) (l : LwlLink) : (s.setLwl hub l).lwl hub = l := by
  rw [State.lwl, State.setLwl, State.setHub_hub_self]

/-- Nothing but the record of errors has changed. -/
def ErrsOnly (s t : State) : Prop := t = { s with errs := t.errs }

theorem ErrsOnly.trans {s t u : State} (h : ErrsOnly s t) (k : ErrsOnly t u) : ErrsOnly s u := by
  unfold ErrsOnly at h k ⊢
  rw [k, h]

theorem State.report_errsOnly (s : State) (p : Report) : ErrsOnly s (s.report p) := rfl

theorem State.resumeLink_only (s : State) : s.resumeLink = { s with queues := s.resumeLink.queues } := by
  refine List.foldlRecOn (motive := fun t : State => t = { s with queues := t.queues }) _ _ rfl fun t ht n _ => ?_
  dsimp only
  split
  · rw [State.setQueue, ht]
  · exact ht

/-- A link that is back in the epoch it left: what waited for it goes on, and no more changes. -/
theorem State.linkBack_spec {s u : State} {hub epoch : Nat} {l : LwlLink} (hu : ErrsOnly (s.setLwl hub l) u)
    (he : s.larwa.hostEpoch = some epoch) :
    let t := ((u.seeEpoch epoch).resumeLink).flushAll
    t.lwl hub = l ∧ t.errs = u.errs ∧ (NoGroups s → HostOnly s t) := by
  have hsame : u.larwa.hostEpoch = some epoch := by rw [hu]; exact he
  obtain ⟨v, hv⟩ : ∃ v, v = (u.seeEpoch epoch).resumeLink := ⟨_, rfl⟩
  have hv' : v = { u with larwa := { u.larwa with hostEpoch := some epoch }, queues := v.queues } := by
    have honly := (u.seeEpoch epoch).resumeLink_only
    rw [← hv] at honly
    rw [honly, State.seeEpoch_same (.inr hsame)]
  have hflush := v.flushAll_flushed
  dsimp only
  rw [← hv]
  refine ⟨?_, by rw [hflush.errs, hv'], fun hg z hz => ?_⟩
  · rw [hflush.lwl, hv', hu]
    exact s.setLwl_lwl hub l
  · have hg' : NoGroups v := by
      intro n hn
      rw [hv', hu]
      exact hg n hn
    rw [(hflush.host hg').2 z hz, hv', hu]
    rfl

/-! ### Links that go out (R322) -/

theorem State.onLink_of_asm {s t : State} (h : t.asm = s.asm) (hub lo n : Nat) : t.onLink hub lo n = s.onLink hub lo n := by
  have hlink : t.linkOf = s.linkOf := by
    funext a
    rw [State.linkOf, State.code, h]
    rfl
  rw [State.onLink, hlink]
  rfl

theorem State.ringOn_of_asm {s t : State} (h : t.asm = s.asm) (hub : Nat) (q : Queue) : t.ringOn hub q = s.ringOn hub q := by
  simp only [State.ringOn, State.onLink_of_asm h]

/-- Every ACTIVE queue with a ring on the link halts. -/
def State.haltRings (s : State) (hub : Nat) : State :=
  (tkeys s.queues).foldl (fun (s : State) n =>
    let q := s.queue n
    if q.state = .active ∧ s.ringOn hub q then s.setQueue n { q with state := .haltedLink } else s) s

theorem State.haltRings_only (s : State) (hub : Nat) : s.haltRings hub = { s with queues := (s.haltRings hub).queues } := by
  refine List.foldlRecOn (motive := fun t : State => t = { s with queues := t.queues }) _ _ rfl fun t ht n _ => ?_
  dsimp only
  split
  · rw [State.setQueue, ht]
  · exact ht

theorem State.haltRings_parked {s : State} {hub n : Nat} (hactive : (s.queue n).state = .active)
    (hring : s.ringOn hub (s.queue n) = true) (hquiet : Quiet s n) :
    ((s.haltRings hub).queue n).Parked ∧ ((s.haltRings hub).queue n).state = .haltedLink := by
  obtain ⟨-, hdest, hdis⟩ := hquiet
  have hmem : n ∈ tkeys s.queues := by
    refine mem_tkeys_of_tget_ne (d := {}) fun heq => ?_
    rw [State.queue, heq] at hactive
    cases hactive
  refine foldl_reaches_once (Q := fun t : State => t.asm = s.asm ∧ t.queue n = s.queue n)
    (P := fun t : State => (t.queue n).Parked ∧ (t.queue n).state = .haltedLink) (fun t ⟨hasm, hq⟩ => ?_) (fun t k hk ⟨hasm, hq⟩ => ?_)
    (fun t k ht => ?_) hmem ⟨rfl, rfl⟩
  · dsimp only
    rw [if_pos ⟨by rw [hq, hactive], by rw [State.ringOn_of_asm hasm, hq, hring]⟩, State.setQueue_queue_self, hq]
    exact ⟨⟨.inl rfl, hdest, hdis⟩, rfl⟩
  · dsimp only
    split
    · exact ⟨hasm, (State.setQueue_queue_ne _ _ _ _ (Ne.symm hk)).trans hq⟩
    · exact ⟨hasm, hq⟩
  · dsimp only
    split
    next hc =>
      rw [State.setQueue_queue]
      split
      next hk => rw [← hk, ht.2] at hc; cases hc.1
      next => exact ht
    next => exact ht

/-- Every job that moves data over the link stops. -/
def State.stopJobsOn (s : State) (hub : Nat) : State :=
  funcIds.foldl (fun (s : State) n =>
    if ((s.func n).run || (s.func n).armed || (s.func n).halted) && s.jobOn hub n then s.drain n else s) s

theorem State.stopJobOn_stops (s : State) (hub n : Nat) : Stops 0 s
    (if ((s.func n).run || (s.func n).armed || (s.func n).halted) && s.jobOn hub n then s.drain n else s) := by
  split
  · exact s.drain_stops n
  · exact .refl s

theorem State.stopJobsOn_stops (s : State) (hub : Nat) : Stops 0 s (s.stopJobsOn hub) :=
  (Stops.foldl (fun s n => s.stopJobOn_stops hub n) funcIds s).mono (by omega)

theorem State.jobOn_congr {s t : State} {hub fn : Nat} (himages : t.images = s.images) (hert : t.ert = s.ert) (hasm : t.asm = s.asm)
    (hfunc : t.func fn = s.func fn) : t.jobOn hub fn = s.jobOn hub fn := by
  have himage : t.image fn = s.image fn := by rw [State.image, himages, State.image]
  simp only [State.jobOn, State.program, State.entriesOf, himage, hert, hfunc, State.onLink_of_asm hasm]

theorem State.stopJobsOn_draining {s : State} {hub n : Nat} (hn : n < 16) (hjob : (s.func n).HasJob) (hon : s.jobOn hub n = true) :
    ((s.stopJobsOn hub).func n).state = .draining := by
  refine foldl_reaches_once (Q := fun t : State => Stops 0 s t ∧ t.func n = s.func n) (P := fun t : State => (t.func n).state = .draining)
    (fun t ⟨hst, hf⟩ => ?_) (fun t k hk ⟨hst, hf⟩ => ⟨hst.trans (t.stopJobOn_stops hub k), ?_⟩) (fun t k ht => ?_) (mem_funcIds hn) ⟨.refl s, rfl⟩
  · have hsame : t.jobOn hub n = s.jobOn hub n := State.jobOn_congr (by rw [hst.rest]) (by rw [hst.rest]) (by rw [hst.rest]) hf
    rw [hsame, hf, hon, Bool.and_true, if_pos hjob.2]
    exact t.drain_state n (.inl (hf ▸ hjob.1))
  · split
    · exact ((t.drain_job k).2.2 n (Ne.symm hk)).trans hf
    · exact hf
  · exact (t.stopJobOn_stops hub k).draining ht

theorem State.linkOut_eq (s : State) (hub : Nat) : s.linkOut hub =
    (((s.setLwl hub { s.lwl hub with state := .out }).haltRings hub).stopJobsOn hub).flushLedgers := rfl

theorem State.linkOut_spec (s : State) (hub : Nat) :
    ((s.linkOut hub).lwl hub).state = .out ∧ (NoGroups s → HostOnly s (s.linkOut hub)) ∧
    (∀ q, (s.queue q).state = .active → s.ringOn hub (s.queue q) = true → Quiet s q → ((s.linkOut hub).queue q).state = .haltedLink) ∧
    ∀ fn, fn < 16 → (s.func fn).HasJob → s.jobOn hub fn = true → ((s.linkOut hub).func fn).state = .draining := by
  rw [State.linkOut_eq]
  obtain ⟨u, hu⟩ : ∃ u, u = (s.setLwl hub { s.lwl hub with state := .out }).haltRings hub := ⟨_, rfl⟩
  have honly : u = { s.setLwl hub { s.lwl hub with state := .out } with queues := u.queues } := by
    rw [hu]
    exact State.haltRings_only _ hub
  have hparked (q : Nat) (ha : (s.queue q).state = .active) (hr : s.ringOn hub (s.queue q) = true) (hq : Quiet s q) :
      (u.queue q).Parked ∧ (u.queue q).state = .haltedLink :=
    hu ▸ State.haltRings_parked (s := s.setLwl hub { s.lwl hub with state := .out }) ha hr hq
  rw [← hu]
  have hstops := u.stopJobsOn_stops hub
  have hflush := (u.stopJobsOn hub).flushLedgers_flushed
  have hfunc (n : Nat) : u.func n = s.func n := by rw [honly]; rfl
  refine ⟨?_, fun hg z hz => ?_, fun q ha hr hq => ?_, fun fn hfn hjob hon => ?_⟩
  · rw [hflush.lwl, hstops.links.lwl, honly]
    exact congrArg LwlLink.state (s.setLwl_lwl hub _)
  · have hg' : NoGroups (u.stopJobsOn hub) := hstops.noGroups fun n hn => by rw [hfunc, hg n hn]
    rw [(hflush.host hg').2 z hz, hstops.host z hz, honly]
    rfl
  · obtain ⟨hpark, hstate⟩ := hparked q ha hr hq
    rw [((hstops.parked.trans hflush.parked) q hpark).2, hstate]
  · rw [hflush.state]
    refine State.stopJobsOn_draining hfn (by rwa [hfunc]) ?_
    rw [State.jobOn_congr (s := s) (by rw [honly]; rfl) (by rw [honly]; rfl) (by rw [honly]; rfl) (hfunc fn), hon]

/-! ### The bus port (R373) -/

theorem State.failShip_snap (s : State) (fn : Nat) :
    ((s.failShip fn).func fn).snap = none ∧ ∀ j, j ≠ fn → (s.failShip fn).func j = s.func j := by
  unfold State.failShip
  split
  next h => exact ⟨h, fun _ _ => rfl⟩
  next h _ =>
    extract_lets s1 s2 s3
    have hfunc (j : Nat) : s3.func j = s1.func j := by
      unfold s3 s2
      split <;> split <;> rfl
    refine ⟨?_, fun j hj => ?_⟩
    · rw [(State.completeAll_cpl _ _ _ _).func, hfunc]
      exact congrArg Func.snap (State.setFunc_func_self _ _ _)
    · rw [(State.completeAll_cpl _ _ _ _).func, hfunc]
      exact State.setFunc_func_ne _ _ _ _ hj

/-- Every bus transfer through a hub die's port fails. -/
def State.failTransfers (s : State) (hub : Nat) : State :=
  funcIds.foldl (fun (s : State) n =>
    match (s.func n).snap with
    | some h => if !h.overEthernet ∧ h.port = hub then s.failShip n else s
    | none => s) s

theorem State.failTransfers_ended (s : State) (hub : Nat) : ShipsEnded s (s.failTransfers hub) := by
  refine .foldl (fun s n => ?_) _ s
  split
  · split
    · exact s.failShip_ended n
    · exact .refl s
  · exact .refl s

theorem State.failTransfers_snap {s : State} {hub n : Nat} {h : Shipment} (hn : n < 16) (hsnap : (s.func n).snap = some h)
    (hbus : h.overEthernet = false) (hport : h.port = hub) : ((s.failTransfers hub).func n).snap = none := by
  refine foldl_reaches_once (Q := fun t : State => (t.func n).snap = some h) (P := fun t : State => (t.func n).snap = none)
    (fun t ht => ?_) (fun t k hk ht => ?_) (fun t k ht => ?_) (mem_funcIds hn) hsnap
  · rw [ht]
    dsimp only
    rw [if_pos ⟨by rw [hbus]; rfl, hport⟩]
    exact (t.failShip_snap n).1
  · split
    · split
      · rwa [(t.failShip_snap k).2 n (Ne.symm hk)]
      · exact ht
    · exact ht
  · split
    · split
      · by_cases hk : n = k
        · rw [hk]
          exact (t.failShip_snap k).1
        · rwa [(t.failShip_snap k).2 n hk]
      · exact ht
    · exact ht

theorem exec_busPortReset {s : State} {hub : Nat} (hfit : s.hubFitted hub = true) : exec (.busPortReset hub) s = .next
    ((s.setHub hub { s.hub hub with bus := { (s.hub hub).bus with gen := 0, width := 0 } }).failTransfers hub) := by
  show execBusPortReset hub s = _
  rw [execBusPortReset, if_neg (by simp [hfit])]
  rfl

/-! ### The obligation -/

theorem LwlLink.train_retrains (l : LwlLink) (r : Trained) : (l.train r).retrains = l.retrains := rfl

/-- The report of a retrain that ends within its epoch (R321). -/
def retrainReport (hub : Nat) (l : LwlLink) : Report := { code := eLwlRetrain, cls := clsRecovered, unit := hub, a := l.rateWidth }

/-- The report of a link that comes back slower or narrower (R321). -/
def narrowedReport (hub : Nat) (l : LwlLink) : Report := { code := eNarrowed, cls := clsNotice, unit := hub, a := l.rateWidth }

section
variable {s : State} {hub : Nat} {a b c : LaneTest} {epoch us : Nat} {r : Trained} (hfit : s.hubFitted hub = true)
  (hr : trainLanes a b c = some r)
include hfit hr

theorem exec_lwlRetrainComplete_retrain (he : s.larwa.hostEpoch = some epoch) (hl : (s.lwl hub).state = .retrain) : exec (.lwlRetrainComplete hub a b c epoch us) s = .next (
    let l := { (s.lwl hub).train r with retrains := satAdd 16 (s.lwl hub).retrains 1 }
    let u := (s.setLwl hub l).report (retrainReport hub l)
    let v := if r.rate < (s.lwl hub).rate ∨ r.width < (s.lwl hub).width then u.report (narrowedReport hub l) else u
    ((v.seeEpoch epoch).resumeLink).flushAll) := by
  show execLwlRetrainComplete hub a b c epoch us s = _
  rw [execLwlRetrainComplete, if_neg (by simp [hfit])]
  dsimp only
  have habsorbed : ((s.lwl hub).state == .retrain && s.larwa.hostEpoch == some epoch) = true := by rw [hl, he]; simp
  have hnot : ¬(s.lwl hub).state = .out := by rw [hl]; decide
  rw [if_neg (by simp [hl]), if_neg (fun h => hnot h.1), hr]
  unfold retrainReport narrowedReport
  simp only [habsorbed, hnot, if_true, if_false, LwlLink.train_retrains]

theorem exec_lwlRetrainComplete_out (hl : (s.lwl hub).state = .out) (hlo : 400 ≤ us) (hhi : us ≤ 100000) :
    exec (.lwlRetrainComplete hub a b c epoch us) s = .next (
      let l := (s.lwl hub).train r
      let u := s.setLwl hub l
      let v := if r.rate < (s.lwl hub).rate ∨ r.width < (s.lwl hub).width then u.report (narrowedReport hub l) else u
      (((v.reportOut hub us).seeEpoch epoch).resumeLink).flushAll) := by
  show execLwlRetrainComplete hub a b c epoch us s = _
  rw [execLwlRetrainComplete, if_neg (by simp [hfit])]
  dsimp only
  have habsorbed : ((s.lwl hub).state == .retrain && s.larwa.hostEpoch == some epoch) = false := by rw [hl]; rfl
  rw [if_neg (by simp [hl]), if_neg (by omega), hr]
  unfold narrowedReport
  simp only [habsorbed, Bool.false_eq_true, if_false]
  rw [if_pos hl]

end

theorem ErrsOnly.ite {s t : State} {c : Prop} [Decidable c] (h : ErrsOnly s t) (p : Report) :
    ErrsOnly s (if c then t.report p else t) := by
  split
  · exact h.trans (t.report_errsOnly p)
  · exact h

theorem Recorded.of_errs {s t : State} (h : t.errs = s.errs) {code cls : Nat} {fn : Option Nat} (hr : Recorded s code cls fn) :
    Recorded t code cls fn := by
  unfold Recorded at hr ⊢
  rwa [h]

/-- A record made before at most one more report is held after it. -/
theorem State.report_ite_recorded (s : State) (p p' : Report) (c : Prop) [Decidable c] :
    Recorded (if c then (s.report p).report p' else s.report p) p.code p.cls p.func := by
  split
  · exact ((s.report p).report_reports p').recorded (s.report_within p)
  · exact s.report_recorded p

/-- A host reset of a state that differs from `s` in its links, its draws and its records. -/
theorem State.hostReset_of_kept {s u : State} (hlarwa : u.larwa.epoch = s.larwa.epoch) (hqueues : u.queues = s.queues)
    (hfuncs : u.funcs = s.funcs) (hmem : u.mem = s.mem) (cause : Nat) : HostReset s (u.hostReset cause) :=
  (u.hostReset_done cause).reset.of_kept hlarwa hqueues hfuncs hmem

/-- Settles O54: a host reset is `hostReset_done`, an outage `linkOut_spec`, a return `linkBack_spec`; what waited goes on by `flushAll`. -/
theorem larwaLinks : Obligations.LarwaLinks := by
  intro s hub a b c epoch us hfit l same
  have fitted : ¬(!s.hubFitted hub) = true := by simp [hfit]
  refine ⟨fun hrun hl => ⟨fun hr => ?down, fun r hr hsame => ?up, fun r hr hother => ?epoch⟩, fun hl => ?retrain,
    fun hl => ⟨fun hr => ?none, fun r hr he => ?complete, ?out⟩, fun hl hlo hhi r hr he => ?back, fun cause hc => ?reset, fun hl => ?outReset,
    fun hrun => ?rstN, ?busReset, fun gen width hlo hhi hw hrun hgen => ?busTrain, fun hgen => ?config⟩
  case down =>
    refine ⟨_, exec_lwlTrain_none hfit hrun hl hr, s.setHub_onlyHub hub _, s.setHub_hub_self hub _⟩
  case up =>
    refine ⟨_, exec_lwlTrain_some hfit hrun hl hr, ?_⟩
    obtain ⟨u, hu⟩ : ∃ u, u = (s.setLwl hub ((s.lwl hub).train r)).seeEpoch epoch := ⟨_, rfl⟩
    rw [← hu]
    rw [State.seeEpoch_same (s := s.setLwl hub ((s.lwl hub).train r)) (epoch := epoch) hsame] at hu
    have hflush := u.flushAll_flushed
    refine ⟨?_, ?_, fun hg z hz => ?_⟩
    · rw [hflush.lwl, hu]
      exact s.setLwl_lwl hub _
    · rw [hflush.larwa, hu]
      rfl
    · have hg' : NoGroups u := fun n hn => by rw [hu]; exact hg n hn
      rw [(hflush.host hg').2 z hz, hu]
      rfl
  case epoch =>
    refine ⟨_, exec_lwlTrain_some hfit hrun hl hr, ?_⟩
    rw [State.seeEpoch_other (s := s.setLwl hub ((s.lwl hub).train r)) (epoch := epoch) hother]
    obtain ⟨u, hu⟩ : ∃ u : State, u = { s.setLwl hub ((s.lwl hub).train r) with
      larwa := { (s.setLwl hub ((s.lwl hub).train r)).larwa with hostEpoch := some epoch } } := ⟨_, rfl⟩
    rw [← hu]
    have hdone := u.hostReset_done 1
    have hflush := (u.hostReset 1).flushAll_flushed
    refine ⟨?_, (hdone.flushed hflush).of_kept (by rw [hu]; rfl) (by rw [hu]; rfl) (by rw [hu]; rfl) (by rw [hu]; rfl)⟩
    rw [hflush.lwl, hdone.links.lwl, hu]
    exact congrArg LwlLink.state (s.setLwl_lwl hub _)
  case retrain =>
    exact ⟨_, (if_neg fitted).trans (if_pos hl), s.setHub_onlyHub hub _, s.setHub_hub_self hub _⟩
  case none =>
    show execLwlRetrainComplete hub a b c epoch us s = _
    rw [execLwlRetrainComplete, if_neg fitted]
    dsimp only
    rw [if_neg (fun h => h.1 hl), if_neg (fun h => by rw [hl] at h; cases h.1), hr]
  case complete =>
    obtain ⟨l1, hl1⟩ : ∃ l1, l1 = { l.train r with retrains := satAdd 16 l.retrains 1 } := ⟨_, rfl⟩
    obtain ⟨hlwl, herrs, hhost⟩ := State.linkBack_spec (((s.setLwl hub l1).report_errsOnly (retrainReport hub l1)).ite
      (c := r.rate < l.rate ∨ r.width < l.width) (narrowedReport hub l1)) he
    refine ⟨_, exec_lwlRetrainComplete_retrain hfit hr he hl, ?_⟩
    have hrec := (s.setLwl hub l1).report_ite_recorded (retrainReport hub l1) (narrowedReport hub l1) (r.rate < l.rate ∨ r.width < l.width)
    rw [hl1] at hlwl herrs hhost hrec
    refine ⟨congrArg LwlLink.state hlwl, congrArg LwlLink.rate hlwl, congrArg LwlLink.width hlwl, congrArg LwlLink.retrains hlwl, ?_, hhost,
      fun hnarrow => ?_⟩
    · exact Recorded.of_errs herrs hrec
    · refine Recorded.of_errs herrs ?_
      rw [if_pos hnarrow]
      exact State.report_recorded _ _
  case out =>
    obtain ⟨hstate, hhost, hqueues, hjobs⟩ := s.linkOut_spec hub
    exact ⟨_, (if_neg fitted).trans (if_pos hl), hstate, hhost, hqueues, fun fn hfn hon hjob => hjobs fn hfn (Func.hasJob hon hjob)⟩
  case back =>
    obtain ⟨l1, hl1⟩ : ∃ l1, l1 = l.train r := ⟨_, rfl⟩
    obtain ⟨v, hv⟩ : ∃ v, v = if r.rate < l.rate ∨ r.width < l.width then (s.setLwl hub l1).report (narrowedReport hub l1) else s.setLwl hub l1 :=
      ⟨_, rfl⟩
    have honly : ErrsOnly (s.setLwl hub l1) v := hv ▸ ErrsOnly.ite (by rfl) _
    obtain ⟨hlwl, herrs, hhost⟩ := State.linkBack_spec (honly.trans (v.report_errsOnly { code := eLwlOut, cls := clsFunction, unit := hub, a := us })) he
    refine ⟨(((v.reportOut hub us).seeEpoch epoch).resumeLink).flushAll, ?_, ?_, ?_, ?_, hhost⟩
    · rw [hv, hl1]
      exact exec_lwlRetrainComplete_out hfit hr hl hlo hhi
    · exact (congrArg LwlLink.state hlwl).trans (by rw [hl1]; rfl)
    · exact (congrArg LwlLink.retrains hlwl).trans (by rw [hl1]; rfl)
    · exact Recorded.of_errs herrs (v.report_recorded _)
  case reset => exact ⟨_, if_pos hc, (s.hostReset_done cause).reset⟩
  case outReset =>
    obtain ⟨u, hu⟩ : ∃ u, u = (s.setLwl hub { s.lwl hub with state := .training, width := 0 }).reportOut hub 100000 := ⟨_, rfl⟩
    have hdone := u.hostReset_done 2
    have hrec : RecordedWithin 0 u eLwlOut clsFunction none := hu ▸ State.report_within _ _
    refine ⟨u.hostReset 2, hu ▸ (if_neg fitted).trans (if_pos hl), ?_, hdone.reset.of_kept (by rw [hu]; rfl) (by rw [hu]; rfl)
      (by rw [hu]; rfl) (by rw [hu]; rfl), hdone.reports.recorded hrec⟩
    rw [hdone.links.lwl, hu]
    exact congrArg LwlLink.state (s.setLwl_lwl hub _)
  case rstN =>
    obtain ⟨v, hv⟩ : ∃ v, v = if l.state = .out then State.reportOut { s with draws := s.draws + 1 } hub (400 + Config.outTime s.draws % 99601)
      else s := ⟨_, rfl⟩
    have honly : v = { s with draws := v.draws, errs := v.errs } := by
      rw [hv]
      split <;> rfl
    have hdone := (v.setLwl hub { v.lwl hub with state := .training, width := 0 }).hostReset_done 0
    refine ⟨_, ?_, ?_, hdone.reset.of_kept (by rw [honly]; rfl) (by rw [honly]; rfl) (by rw [honly]; rfl) (by rw [honly]; rfl), fun hl => ?_⟩
    · show execLwlRstN hub s = _
      rw [execLwlRstN, if_neg fitted, if_neg (not_not_intro hrun), hv]
      rfl
    · rw [hdone.links.lwl]
      exact congrArg LwlLink.state (v.setLwl_lwl hub _)
    · have hrec : RecordedWithin 0 v eLwlOut clsFunction none := by
        rw [hv, if_pos hl]
        exact State.report_within _ _
      exact hdone.reports.recorded hrec
  case busReset =>
    obtain ⟨u, hu⟩ : ∃ u, u = s.setHub hub { s.hub hub with bus := { (s.hub hub).bus with gen := 0, width := 0 } } := ⟨_, rfl⟩
    have hbus : (u.hub hub).bus = { (s.hub hub).bus with gen := 0, width := 0 } := by rw [hu, State.setHub_hub_self]
    have hfunc (n : Nat) : u.func n = s.func n := by rw [hu]; rfl
    have hended := u.failTransfers_ended hub
    refine ⟨u.failTransfers hub, hu ▸ exec_busPortReset hfit, ?_, ?_, fun z hz => ?_, fun n h hn hsnap heth hport => ?_⟩
    · rw [hended.links.gen, hbus]
    · rw [hended.links.width, hbus]
    · rw [hended.host z hz, hu]
      rfl
    · exact State.failTransfers_snap hn (by rwa [hfunc]) heth hport
  case busTrain =>
    refine ⟨_, ?_, s.setHub_onlyHub hub _, s.setHub_hub_self hub _⟩
    show execBusPortTrain hub gen width s = _
    rw [execBusPortTrain, if_neg fitted]
    dsimp only
    rw [if_neg (by simp [hlo, hhi, hw]), if_neg (by simp [hrun, hgen])]
  case config =>
    exact ⟨_, (if_neg fitted).trans (if_neg hgen), rfl⟩

end Sys2Proof.Machine
end
